-- ==== Sys2Proof/Word.lean ====
section
/-! DEFINITION. The word types: bytes, 16, 32 and 64-bit words (R5, R9). -/

namespace Sys2Proof

/-- One byte. -/
abbrev Byte := BitVec 8
/-- A 16-bit word. -/
abbrev W16 := BitVec 16
/-- A 32-bit word: an instruction word, a vector element. -/
abbrev W32 := BitVec 32
/-- A 64-bit word: a scalar register, a device register. -/
abbrev W64 := BitVec 64
/-- A sticky 512-bit write signature (R116). -/
abbrev Sig := BitVec 512

end Sys2Proof
end

