-- ==== Sys2Proof/Config.lean ====
section
/-! DEFINITION. What an implementation or an outside agent fixes and the spec leaves open: constants without a body, so
that no proof can rest on their values. -/

namespace Sys2Proof.Config

/-- Data that an outside agent supplies (a host, the paired die, a peer), one byte for each number drawn (DESIGN CHOICE, log entry 8). -/
opaque freeByte : Nat → BitVec 8

/-- A 64-bit value that the spec does not state, one for each number drawn (DESIGN CHOICE, log entry 8). -/
opaque freeWord : Nat → BitVec 64

/-- The home quarter of a key (launch slot, episode or not, treelet or class, cell, direction class), which the Coherence Engines
choose (R48; DESIGN CHOICE, log entry 12). -/
opaque homeQuarter : Nat → Bool → Nat → Nat → Nat → Fin 4

/-- Which of the stalls among which its rules leave it the choice a Crier takes, at each cycle (R49; DESIGN CHOICE, log entry 12). -/
opaque crierPick : Nat → Nat

/-- Core clocks that a request queues at a stage: stage, number of the access, cycles of issue and completion (R285, R391; DESIGN CHOICE, log entry 15). -/
opaque queued : Nat → Nat → Nat → Nat → Nat

/-- How a peer answers a request that its unit waits for at once: 1 it refuses, 2 its data is poisoned, otherwise it serves it
(R220, R363; DESIGN CHOICE, log entry 8). -/
opaque peerAnswer : Nat → Nat

/-- What the paired die answers a scan that reaches its cores: whether a core has room for the block (R27, R359; DESIGN CHOICE, log
entry 88). -/
opaque pairRoom : Nat → Nat → Bool

/-- Cycles for which a block placed on the paired die is resident there (DESIGN CHOICE, log entry 88). -/
opaque pairLife : Nat → Nat

/-- Whether HIF_CTXMAP.PAIRED of a context is 1 on the paired device when pairing is tested (R359; DESIGN CHOICE, log entry 88). -/
opaque pairPaired : Nat → Nat → Bool

/-- Whether a write to a ring slot that HEAD has not passed reaches the launch that waits at the head (R14, R307; DESIGN CHOICE, log
entry 40). -/
opaque rewriteReaches : Nat → Bool

/-- SHA-384 of a byte sequence (R368, R369, R383; PRESUMED, log entry 6). -/
opaque sha384 : List (BitVec 8) → BitVec 384

/-- Whether an ECDSA P-384 signature of Dernak's keys verifies over a byte sequence (R368, R369; PRESUMED, log entry 6). -/
opaque verifies : List (BitVec 8) → Bool

/-- The device's signature over the bytes of a capsule view or an SPDM transcript (R370, R383; PRESUMED, log entry 6). -/
opaque sign : List (BitVec 8) → BitVec 768

/-- The vendor ciphertext of a capsule: ephemeral key, nonce, AES-256-GCM ciphertext and tag (R383; PRESUMED, log entry 6). -/
opaque vendorSeal : Nat → List (BitVec 8) → List (BitVec 8)

/-- The certificate chain from Dernak's root to the device identity key (R370; PRESUMED, log entry 6). -/
opaque certChain : List (BitVec 8)

end Sys2Proof.Config
end

