-- ==== Sys2Proof/Syntax.lean ====
section
/-! DEFINITION. The instructions and events of the IVH-7200, one constructor for each row of the opcode table.
An instruction row holds the fields of its words (06 R132, R134); an event row holds what the event is about. -/

namespace Sys2Proof

/-- Fields of a base word in format B3 (R132). -/
structure B3 where
  s2 : BitVec 7
  s1 : BitVec 7
  d : BitVec 7
  osel : BitVec 2
  deriving DecidableEq, Repr

/-- Fields of a base word in format C (R132). -/
structure CF where
  reg : BitVec 7
  imm : BitVec 16
  deriving DecidableEq, Repr

/-- Fields of a base word in format M (R132). -/
structure MF where
  szsp : BitVec 5
  b : BitVec 4
  idx : BitVec 7
  d : BitVec 7
  deriving DecidableEq, Repr

/-- The field of a base word in format J (R132). -/
structure JF where
  off : BitVec 23
  deriving DecidableEq, Repr

/-- Fields of an extended instruction but MAJ, LEN and SUB (R134); `lit` is the 64-bit literal of LEN 0b11.
A branch keeps OFF in DISP, SZSP and OSEL. -/
structure XF where
  disp : BitVec 16
  szsp : BitVec 5
  osel : BitVec 2
  sc : BitVec 8
  sb : BitVec 8
  sa : BitVec 8
  d : BitVec 8
  mask : BitVec 4
  mneg : BitVec 1
  type : BitVec 5
  shape : BitVec 5
  rnd : BitVec 3
  sat : BitVec 1
  scope : BitVec 4
  lit : Option (BitVec 64)
  deriving DecidableEq, Repr

/-- An extended instruction of a row that spans several SUB values (icmp, scmp, fcmp, atom). -/
structure XS where
  sub : BitVec 9
  x : XF
  deriving DecidableEq, Repr

/-- The longer forms of a row with a B3 base form: a base word with a literal (LEN 0b10), or the extended form. -/
inductive XA where
  | lit (b : B3) (l : BitVec 64)
  | ext (x : XF)
  deriving DecidableEq, Repr

/-- `XA` for a row whose SUB carries a condition. -/
inductive XSA where
  | lit (b : B3) (l : BitVec 64)
  | ext (s : XS)
  deriving DecidableEq, Repr

/-- What decoding gives: a value, or the detail of R140 that words meet. -/
inductive Decoded (α : Type) where
  | ok (a : α)
  | illegal (detail : BitVec 3)
  deriving DecidableEq, Repr

/-- The two instruction streams (R153). -/
inductive Stream where
  | simt
  | spindle
  deriving DecidableEq, Repr

/-- Every row of the opcode table. -/
inductive Instr where
  /-- IADD, R174. -/
  | iadd (f : B3)
  /-- IADD_X, R174. -/
  | iaddX (f : XA)
  /-- IADDC, R174. -/
  | iaddc (f : XF)
  /-- ISUB, R174. -/
  | isub (f : XF)
  /-- ISUBB, R174. -/
  | isubb (f : XF)
  /-- IMUL, R175. -/
  | imul (f : B3)
  /-- IMUL_X, R175. -/
  | imulX (f : XA)
  /-- IMULHI, R175. -/
  | imulhi (f : XF)
  /-- IMULW, R175. -/
  | imulw (f : XF)
  /-- IMAD, R175. -/
  | imad (f : B3)
  /-- IMAD_X, R175. -/
  | imadX (f : XA)
  /-- IMADHI, R175. -/
  | imadhi (f : XF)
  /-- IMADW, R175. -/
  | imadw (f : XF)
  /-- IMIN, R176. -/
  | imin (f : B3)
  /-- IMIN_X, R176. -/
  | iminX (f : XA)
  /-- IMAX, R176. -/
  | imax (f : XF)
  /-- IABS, R176. -/
  | iabs (f : B3)
  /-- IABS_X, R176. -/
  | iabsX (f : XA)
  /-- INEG, R176. -/
  | ineg (f : XF)
  /-- AND, R177. -/
  | and (f : B3)
  /-- AND_X, R177. -/
  | andX (f : XA)
  /-- ANDN, R177. -/
  | andn (f : XF)
  /-- OR, R177. -/
  | or (f : B3)
  /-- OR_X, R177. -/
  | orX (f : XA)
  /-- ORN, R177. -/
  | orn (f : XF)
  /-- XOR, R177. -/
  | xor (f : B3)
  /-- XOR_X, R177. -/
  | xorX (f : XA)
  /-- XNOR, R177. -/
  | xnor (f : XF)
  /-- NOT, R177. -/
  | not (f : XF)
  /-- SHL, R178. -/
  | shl (f : B3)
  /-- SHL_X, R178. -/
  | shlX (f : XA)
  /-- ROTL, R178. -/
  | rotl (f : XF)
  /-- SHR, R178. -/
  | shr (f : B3)
  /-- SHR_X, R178. -/
  | shrX (f : XA)
  /-- ROTR, R178. -/
  | rotr (f : XF)
  /-- FSHL, R178. -/
  | fshl (f : B3)
  /-- FSHL_X, R178. -/
  | fshlX (f : XA)
  /-- FSHR, R178. -/
  | fshr (f : XF)
  /-- BFX, R179. -/
  | bfx (f : B3)
  /-- BFX_X, R179. -/
  | bfxX (f : XA)
  /-- BFI, R179. -/
  | bfi (f : XF)
  /-- BFREV, R179. -/
  | bfrev (f : XF)
  /-- POPC, R180. -/
  | popc (f : B3)
  /-- POPC_X, R180. -/
  | popcX (f : XA)
  /-- CLZ, R180. -/
  | clz (f : XF)
  /-- CTZ, R180. -/
  | ctz (f : XF)
  /-- CLS, R180. -/
  | cls (f : XF)
  /-- ICMP, R181. -/
  | icmp (f : B3)
  /-- ICMP_X, R181. -/
  | icmpX (f : XSA)
  /-- SEL, R181. -/
  | sel (f : XF)
  /-- MOV, R177. -/
  | mov (f : B3)
  /-- MOV_X, R177. -/
  | movX (f : XA)
  /-- ICVT, R182. -/
  | icvt (f : B3)
  /-- ICVT_X, R182. -/
  | icvtX (f : XA)
  /-- PRMT, R183. -/
  | prmt (f : B3)
  /-- PRMT_X, R183. -/
  | prmtX (f : XA)
  /-- SADD, R181. -/
  | sadd (f : B3)
  /-- SADD_X, R181. -/
  | saddX (f : XA)
  /-- SSUB, R181. -/
  | ssub (f : XF)
  /-- SMUL, R181. -/
  | smul (f : B3)
  /-- SMUL_X, R181. -/
  | smulX (f : XA)
  /-- SMULHI, R181. -/
  | smulhi (f : XF)
  /-- SAND, R181. -/
  | sand (f : B3)
  /-- SAND_X, R181. -/
  | sandX (f : XA)
  /-- SANDN, R181. -/
  | sandn (f : XF)
  /-- SOR, R181. -/
  | sor (f : B3)
  /-- SOR_X, R181. -/
  | sorX (f : XA)
  /-- SXOR, R181. -/
  | sxor (f : B3)
  /-- SXOR_X, R181. -/
  | sxorX (f : XA)
  /-- SNOT, R181. -/
  | snot (f : XF)
  /-- SSHL, R181. -/
  | sshl (f : B3)
  /-- SSHL_X, R181. -/
  | sshlX (f : XA)
  /-- SROTL, R181. -/
  | srotl (f : XF)
  /-- SSHR, R181. -/
  | sshr (f : B3)
  /-- SSHR_X, R181. -/
  | sshrX (f : XA)
  /-- SROTR, R181. -/
  | srotr (f : XF)
  /-- SBFX, R181. -/
  | sbfx (f : B3)
  /-- SBFX_X, R181. -/
  | sbfxX (f : XA)
  /-- SBFI, R181. -/
  | sbfi (f : XF)
  /-- SPOPC, R181. -/
  | spopc (f : B3)
  /-- SPOPC_X, R181. -/
  | spopcX (f : XA)
  /-- SCLZ, R181. -/
  | sclz (f : XF)
  /-- SCTZ, R181. -/
  | sctz (f : XF)
  /-- SMIN, R181. -/
  | smin (f : B3)
  /-- SMIN_X, R181. -/
  | sminX (f : XA)
  /-- SMAX, R181. -/
  | smax (f : XF)
  /-- SMOV, R181. -/
  | smov (f : B3)
  /-- SMOV_X, R181. -/
  | smovX (f : XA)
  /-- SMOVI, R181. -/
  | smovi (f : CF)
  /-- SMOVI_X, R181. -/
  | smoviX (f : XF)
  /-- SCMP, R181. -/
  | scmp (f : XS)
  /-- FFMA, R186. -/
  | ffma (f : B3)
  /-- FFMA_X, R186. -/
  | ffmaX (f : XA)
  /-- FFMS, R186. -/
  | ffms (f : XF)
  /-- FNMA, R186. -/
  | fnma (f : XF)
  /-- FADD, R186. -/
  | fadd (f : B3)
  /-- FADD_X, R186. -/
  | faddX (f : XA)
  /-- FSUB, R186. -/
  | fsub (f : XF)
  /-- FMUL, R186. -/
  | fmul (f : B3)
  /-- FMUL_X, R186. -/
  | fmulX (f : XA)
  /-- FMIN, R187. -/
  | fmin (f : B3)
  /-- FMIN_X, R187. -/
  | fminX (f : XA)
  /-- FMAX, R187. -/
  | fmax (f : XF)
  /-- FMINNUM, R187. -/
  | fminnum (f : XF)
  /-- FMAXNUM, R187. -/
  | fmaxnum (f : XF)
  /-- FCMP, R188. -/
  | fcmp (f : B3)
  /-- FCMP_X, R188. -/
  | fcmpX (f : XSA)
  /-- FCLASS, R189. -/
  | fclass (f : B3)
  /-- FCLASS_X, R189. -/
  | fclassX (f : XA)
  /-- FRND, R190. -/
  | frnd (f : B3)
  /-- FRND_X, R190. -/
  | frndX (f : XA)
  /-- RCP, R191. -/
  | rcp (f : B3)
  /-- RCP_X, R191. -/
  | rcpX (f : XA)
  /-- RSQRT, R191. -/
  | rsqrt (f : XF)
  /-- SQRT, R191. -/
  | sqrt (f : XF)
  /-- EXP2, R191. -/
  | exp2 (f : XF)
  /-- LOG2, R191. -/
  | log2 (f : XF)
  /-- SINPI, R191. -/
  | sinpi (f : XF)
  /-- COSPI, R191. -/
  | cospi (f : XF)
  /-- FCVT, R192. -/
  | fcvt (f : B3)
  /-- FCVT_X, R192. -/
  | fcvtX (f : XA)
  /-- FDOT2, R193. -/
  | fdot2 (f : XF)
  /-- FDOT4, R193. -/
  | fdot4 (f : XF)
  /-- FABS, R194. -/
  | fabs (f : B3)
  /-- FABS_X, R194. -/
  | fabsX (f : XA)
  /-- FNEG, R194. -/
  | fneg (f : XF)
  /-- SHFL, R197. -/
  | shfl (f : B3)
  /-- SHFL_X, R197. -/
  | shflX (f : XA)
  /-- SHFLXOR, R197. -/
  | shflxor (f : XF)
  /-- SHFLUP, R197. -/
  | shflup (f : XF)
  /-- SHFLDN, R197. -/
  | shfldn (f : XF)
  /-- RDLANE, R198. -/
  | rdlane (f : B3)
  /-- RDLANE_X, R198. -/
  | rdlaneX (f : XA)
  /-- WRLANE, R198. -/
  | wrlane (f : XF)
  /-- REDADD, R199. -/
  | redadd (f : B3)
  /-- REDADD_X, R199. -/
  | redaddX (f : XA)
  /-- REDMIN, R199. -/
  | redmin (f : XF)
  /-- REDMAX, R199. -/
  | redmax (f : XF)
  /-- REDAND, R199. -/
  | redand (f : XF)
  /-- REDOR, R199. -/
  | redor (f : XF)
  /-- REDXOR, R199. -/
  | redxor (f : XF)
  /-- SCANADD, R199. -/
  | scanadd (f : B3)
  /-- SCANADD_X, R199. -/
  | scanaddX (f : XA)
  /-- SCANMIN, R199. -/
  | scanmin (f : XF)
  /-- SCANMAX, R199. -/
  | scanmax (f : XF)
  /-- SCANAND, R199. -/
  | scanand (f : XF)
  /-- SCANOR, R199. -/
  | scanor (f : XF)
  /-- SCANXOR, R199. -/
  | scanxor (f : XF)
  /-- XSCANADD, R199. -/
  | xscanadd (f : XF)
  /-- XSCANMIN, R199. -/
  | xscanmin (f : XF)
  /-- XSCANMAX, R199. -/
  | xscanmax (f : XF)
  /-- XSCANAND, R199. -/
  | xscanand (f : XF)
  /-- XSCANOR, R199. -/
  | xscanor (f : XF)
  /-- XSCANXOR, R199. -/
  | xscanxor (f : XF)
  /-- KAND, R202. -/
  | kand (f : B3)
  /-- KAND_X, R202. -/
  | kandX (f : XF)
  /-- KOR, R202. -/
  | kor (f : XF)
  /-- KXOR, R202. -/
  | kxor (f : XF)
  /-- KANDN, R202. -/
  | kandn (f : XF)
  /-- KNOT, R202. -/
  | knot (f : XF)
  /-- KMOV, R202. -/
  | kmov (f : XF)
  /-- KTOS, R202. -/
  | ktos (f : B3)
  /-- KTOS_X, R202. -/
  | ktosX (f : XF)
  /-- STOK, R202. -/
  | stok (f : XF)
  /-- KPOPC, R202. -/
  | kpopc (f : B3)
  /-- KPOPC_X, R202. -/
  | kpopcX (f : XF)
  /-- KFFS, R202. -/
  | kffs (f : XF)
  /-- KFLS, R202. -/
  | kfls (f : XF)
  /-- BALLOT, R200. -/
  | ballot (f : B3)
  /-- BALLOT_X, R200. -/
  | ballotX (f : XF)
  /-- MATCH, R200. -/
  | vmatch (f : B3)
  /-- MATCH_X, R200. -/
  | vmatchX (f : XF)
  /-- COMPACT, R201. -/
  | compact (f : XF)
  /-- EXPAND, R201. -/
  | expand (f : XF)
  /-- LD, R213. -/
  | ld (f : MF)
  /-- LD_X, R213. -/
  | ldX (f : XF)
  /-- ST, R214. -/
  | st (f : MF)
  /-- ST_X, R214. -/
  | stX (f : XF)
  /-- LDS, R213. -/
  | lds (f : MF)
  /-- LDS_X, R213. -/
  | ldsX (f : XF)
  /-- STS, R214. -/
  | sts (f : MF)
  /-- STS_X, R214. -/
  | stsX (f : XF)
  /-- ATOM, R217. -/
  | atom (f : XS)
  /-- ACQ, R221. -/
  | acq (f : XF)
  /-- REL, R221. -/
  | rel (f : XF)
  /-- REL_FRESH, R221. -/
  | relFresh (f : XF)
  /-- REL_ALL, R221. -/
  | relAll (f : XF)
  /-- FENCE, R222. -/
  | fence (f : XF)
  /-- FENCE_UN, R222. -/
  | fenceUn (f : XF)
  /-- PREF, R227. -/
  | pref (f : MF)
  /-- PREF_X, R227. -/
  | prefX (f : XF)
  /-- EVICT, R227. -/
  | evict (f : XF)
  /-- CWAIT, R228. -/
  | cwait (f : CF)
  /-- CWAIT_X, R228. -/
  | cwaitX (f : XF)
  /-- BTRANS, R226. -/
  | btrans (f : XF)
  /-- STMSK, R214. -/
  | stmsk (f : XF)
  /-- XLD, R229. -/
  | xld (f : XF)
  /-- XST, R229. -/
  | xst (f : XF)
  /-- SIGADD, R224. -/
  | sigadd (f : XF)
  /-- OSTORE, R225. -/
  | ostore (f : XF)
  /-- BR, R204. -/
  | br (f : JF)
  /-- BR_X, R204. -/
  | brX (f : XF)
  /-- CALL, R205. -/
  | call (f : JF)
  /-- CALL_X, R205. -/
  | callX (f : XF)
  /-- BANY, R204. -/
  | bany (f : JF)
  /-- BANY_X, R204. -/
  | banyX (f : XF)
  /-- BALL, R204. -/
  | ball (f : JF)
  /-- BALL_X, R204. -/
  | ballX (f : XF)
  /-- BNONE, R204. -/
  | bnone (f : JF)
  /-- BNONE_X, R204. -/
  | bnoneX (f : XF)
  /-- BEQ, R204. -/
  | beq (f : XF)
  /-- BNE, R204. -/
  | bne (f : XF)
  /-- BLT, R204. -/
  | blt (f : XF)
  /-- BLE, R204. -/
  | ble (f : XF)
  /-- BGT, R204. -/
  | bgt (f : XF)
  /-- BGE, R204. -/
  | bge (f : XF)
  /-- BLTU, R204. -/
  | bltu (f : XF)
  /-- BLEU, R204. -/
  | bleu (f : XF)
  /-- BGTU, R204. -/
  | bgtu (f : XF)
  /-- BGEU, R204. -/
  | bgeu (f : XF)
  /-- JMP, R205. -/
  | jmp (f : CF)
  /-- JMP_X, R205. -/
  | jmpX (f : XF)
  /-- CALLIND, R205. -/
  | callind (f : XF)
  /-- RET, R205. -/
  | ret (f : CF)
  /-- RET_X, R205. -/
  | retX (f : XF)
  /-- LOOPNZ, R204. -/
  | loopnz (f : XF)
  /-- YIELD, R206. -/
  | yield (f : XF)
  /-- SLEEP, R207. -/
  | sleep (f : CF)
  /-- SLEEP_X, R207. -/
  | sleepX (f : XF)
  /-- NOP, R208. -/
  | nop
  /-- NOP_X, R208. -/
  | nopX
  /-- TRAP, R272. -/
  | trap (f : CF)
  /-- TRAP_X, R272. -/
  | trapX (f : XF)
  /-- TRAPRET, R274. -/
  | trapret
  /-- TRAPRET_X, R274. -/
  | trapretX
  /-- EXIT, R208. -/
  | exit
  /-- EXIT_X, R208. -/
  | exitX
  /-- BAR, R233. -/
  | bar (f : CF)
  /-- BAR_X, R233. -/
  | barX (f : XF)
  /-- BARARR, R233. -/
  | bararr (f : XF)
  /-- BARWAIT, R233. -/
  | barwait (f : XF)
  /-- BBARR, R234. -/
  | bbarr (f : XF)
  /-- BBWAIT, R234. -/
  | bbwait (f : XF)
  /-- TLINC, R236. -/
  | tlinc (f : XF)
  /-- TLSET, R236. -/
  | tlset (f : XF)
  /-- TLWAIT, R236. -/
  | tlwait (f : XF)
  /-- CP, R237. -/
  | cp (f : XF)
  /-- CPRED, R239. -/
  | cpred (f : XF)
  /-- TWAIT, R241. -/
  | twait (f : CF)
  /-- TWAIT_X, R241. -/
  | twaitX (f : XF)
  /-- SPAWN, R242. -/
  | spawn (f : XF)
  /-- LAUNCH, R243. -/
  | launch (f : XF)
  /-- SPNRUN, R244. -/
  | spnrun (f : XF)
  /-- REGSURRENDER, R245. -/
  | regsurrender (f : CF)
  /-- REGSURRENDER_X, R245. -/
  | regsurrenderX (f : XF)
  /-- REGCLAIM, R245. -/
  | regclaim (f : CF)
  /-- REGCLAIM_X, R245. -/
  | regclaimX (f : XF)
  /-- REMIT, R249. -/
  | remit (f : XF)
  /-- RCONT, R250. -/
  | rcont (f : XF)
  /-- RRETIRE, R250. -/
  | rretire (f : XF)
  /-- RACC, R252. -/
  | racc (f : XF)
  /-- EPEND, R253. -/
  | epend
  /-- RCELL, R254. -/
  | rcell (f : XF)
  /-- RDIRCLS, R254. -/
  | rdircls (f : XF)
  /-- RHIT, R255. -/
  | rhit (f : XF)
  /-- RINST, R255. -/
  | rinst (f : XF)
  /-- RXFORM, R255. -/
  | rxform (f : XF)
  /-- OCLAIM, R262. -/
  | oclaim (f : XF)
  /-- OREL, R262. -/
  | orel (f : XF)
  /-- OWAIT, R262. -/
  | owait (f : XF)
  /-- MMA, R263. -/
  | mma (f : XF)
  /-- MMASP, R264. -/
  | mmasp (f : XF)
  /-- MMAG, R265. -/
  | mmag (f : XF)
  /-- MMAGSP, R265. -/
  | mmagsp (f : XF)
  /-- ACLR, R266. -/
  | aclr (f : XF)
  /-- ASCALE, R266. -/
  | ascale (f : XF)
  /-- ADRAIN, R267. -/
  | adrain (f : XF)
  /-- ADRAING, R267. -/
  | adraing (f : XF)
  /-- BATCOM, R269. -/
  | batcom
  /-- BATWAIT, R269. -/
  | batwait (f : XF)
  /-- RDSR, R275. -/
  | rdsr (f : CF)
  /-- RDSR_X, R275. -/
  | rdsrX (f : XF)
  /-- WRSR, R275. -/
  | wrsr (f : XF)
  /-- TMRSET, R277. -/
  | tmrset (f : XF)
  /-- TLBINV, R279. -/
  | tlbinv (f : XF)
  /-- HDLINV, R280. -/
  | hdlinv
  /-- STDRAIN, R283. -/
  | stdrain
  /-- SFPOP, R282. -/
  | sfpop (f : XF)
  /-- EVMARK, R284. -/
  | evmark (f : XF)
  /-- SAMPLE, R285. -/
  | sample (f : XF)
  /-- UTRET, R274. -/
  | utret
  /-- BLOCK_PLACEMENT, R27: the distributor places the next block or co-resident unit of an active launch. -/
  | blockPlacement (launch : BitVec 8)
  /-- WAVE_EXIT_COMPLETE, R25: an exiting wave finishes. -/
  | waveExitComplete (core : BitVec 7) (slot : BitVec 6)
  /-- TASK_DISPATCH, R32: a task pool places its first task. -/
  | taskDispatch (launch : BitVec 8)
  /-- TASK_PRIORITY_AGING, R32: tasks queued for 65,536 cycles rank as PRIO 15. -/
  | taskPriorityAging (launch : BitVec 8)
  /-- REGCLAIM_GRANT, R35: a block grants its oldest waiting regclaim. -/
  | regclaimGrant (launch : BitVec 8) (block : BitVec 32)
  /-- USER_TIMER_TRAP, R37: a matched timer comparator traps at a boundary. -/
  | userTimerTrap (core : BitVec 7) (slot : BitVec 6)
  /-- RAY_LAUNCH_ACTIVATION, R40: a ray launch waiting at its queue head becomes active. -/
  | rayLaunchActivation (ctx : BitVec 8) (queue : BitVec 6)
  /-- REMIT_RESUME, R46: a generation wave waiting in remit tests the occupancy again. -/
  | remitResume (core : BitVec 7) (slot : BitVec 6)
  /-- STALL_AGE_EXPIRY, R49: a stall passes its age limit. -/
  | stallAgeExpiry (quarter : BitVec 2) (stall : BitVec 13)
  /-- STALL_OVERDUE, R49: a stall passes twice its age limit. -/
  | stallOverdue (quarter : BitVec 2) (stall : BitVec 13)
  /-- CRIER_EMISSION, R49: the Crier of a quarter emits from an eligible stall. -/
  | crierEmission (quarter : BitVec 2)
  /-- TRAVERSAL_BATCH_START, R50: a waiting traversal batch enters a Traversal Unit. -/
  | traversalBatchStart (quarter : BitVec 2) (unit : BitVec 7)
  /-- TRACE_COMPLETION, R57: the trace of a ray ends. -/
  | traceCompletion (launchSlot : BitVec 3) (ray : BitVec 32)
  /-- EPISODE_PLACEMENT, R310: an episode emission is placed. -/
  | episodePlacement (quarter : BitVec 2)
  /-- COLD_POOL_RECLAIM, R347: the cold allocation of a suspended ray launch is reclaimed. -/
  | coldPoolReclaim (launch : BitVec 8)
  /-- SPINDLE_START, R310: a waiting spnrun request starts on an idle Spindle core. -/
  | spindleStart (cluster : BitVec 5)
  /-- MATRIX_OP_ISSUE, R263: a waiting matrix operation issues. -/
  | matrixOpIssue (cluster : BitVec 5)
  /-- SLOT_READ_FINISH, R70: an operation has finished reading a slot. -/
  | slotReadFinish (cluster : BitVec 5) (oslot : BitVec 6)
  /-- MATRIX_OP_COMPLETE, R79: the oldest issued matrix operation completes. -/
  | matrixOpComplete (cluster : BitVec 5)
  /-- SLOT_WRITE_RETRY, R71: a wave waiting on a slot write tries it again. -/
  | slotWriteRetry (core : BitVec 7) (slot : BitVec 6)
  /-- DRAIN_ISSUE, R267: a waiting drain issues. -/
  | drainIssue (cluster : BitVec 5)
  /-- DRAIN_COMPLETE, R268: a drain has written its elements. -/
  | drainComplete (cluster : BitVec 5)
  /-- DRAIN_FAULT, R268: a drain meets a fault and stops. -/
  | drainFault (cluster : BitVec 5)
  /-- ACCESS_COMPLETION, R96: an access in flight is performed and completes. -/
  | accessCompletion (core : BitVec 7) (slot : BitVec 6) (index : BitVec 16)
  /-- LINE_AGING_WRITEBACK, R110: a line dirty for 4,096 cycles is written back. -/
  | lineAgingWriteback (core : BitVec 7) (line : BitVec 16)
  /-- COPY_START, R237: an issued Porter copy starts. -/
  | copyStart (core : BitVec 7) (slot : BitVec 6) (token : BitVec 3)
  /-- COPY_END, R238: a Porter copy writes its last byte and ends. -/
  | copyEnd (core : BitVec 7) (slot : BitVec 6) (token : BitVec 3)
  /-- COPY_FAULT, R240: a Porter copy meets a fault and stops. -/
  | copyFault (core : BitVec 7) (slot : BitVec 6) (token : BitVec 3)
  /-- SLEEP_EXPIRY, R207: the sleep of a wave ends. -/
  | sleepExpiry (core : BitVec 7) (slot : BitVec 6)
  /-- SCH_WAKE, R306: a wake write marks queues pending. -/
  | schWake (fn : BitVec 5) (ctx : BitVec 8) (mask : BitVec 64)
  /-- QUEUE_SCAN, R306: a pending queue is scanned. -/
  | queueScan (ctx : BitVec 8) (queue : BitVec 6)
  /-- LAUNCH_TAKE, R307: the device takes the record that its order of service names. -/
  | launchTake
  /-- PLACEMENT_RESERVATION, R309: a request that has waited 65,536 cycles reserves its cores. -/
  | placementReservation (launch : BitVec 8)
  /-- WAVE_READY_AGED, R311: a ready wave has aged. -/
  | waveReadyAged (core : BitVec 7) (slot : BitVec 6)
  /-- WAITER_SLOT_GRANT, R313: a free waiter slot goes to the oldest request that may have it. -/
  | waiterSlotGrant
  /-- TLWAIT_RELEASE, R236: a waiter slot releases its wave. -/
  | tlwaitRelease (waiter : BitVec 10)
  /-- WAITER_SLOT_POLL, R313: a slot re-reads VALUE behind a host port without CXL.cache. -/
  | waiterSlotPoll (waiter : BitVec 10)
  /-- QUANTUM_EXPIRY, R315: the time slice of the serving function ends. -/
  | quantumExpiry (cluster : BitVec 5)
  /-- URGENT_PREEMPTION, R316: an urgent launch raises pre-emption requests. -/
  | urgentPreemption (launch : BitVec 8)
  /-- VM_CTX_ROOT_WRITE, R317: a write of VM_CTX_ROOT. -/
  | vmCtxRootWrite (fn : BitVec 5) (ctx : BitVec 8) (value : BitVec 64)
  /-- VM_CTX_REPLY, R333: a write of VM_CTX_REPLY. -/
  | vmCtxReply (fn : BitVec 5) (ctx : BitVec 8) (value : BitVec 64)
  /-- VM_CTX_FQHEAD_WRITE, R331: a write of VM_CTX_FQHEAD. -/
  | vmCtxFqheadWrite (fn : BitVec 5) (ctx : BitVec 8) (value : BitVec 64)
  /-- PAGE_WALK, R325: a walker takes a pending walk and runs it. -/
  | pageWalk (walker : BitVec 6)
  /-- FAULT_TAG_ALLOCATION, R326: a wave waiting for a fault tag tries again. -/
  | faultTagAllocation (core : BitVec 7) (slot : BitVec 6)
  /-- STORE_FAULT_TRAP, R281: the store-fault-pending trap is taken at a boundary. -/
  | storeFaultTrap (core : BitVec 7) (slot : BitVec 6)
  /-- SCH_CTX_PRE_REQ, R339: a host raises a host-held pre-emption request. -/
  | schCtxPreReq (fn : BitVec 5) (ctx : BitVec 8)
  /-- SCH_CTX_PRE_RESUME, R339: a host ends a host-held suspension. -/
  | schCtxPreResume (fn : BitVec 5) (ctx : BitVec 8)
  /-- SCH_CTX_PRE_KILL, R349: a host terminates a context. -/
  | schCtxPreKill (fn : BitVec 5) (ctx : BitVec 8)
  /-- BLOCK_SAVE, R339: a stopped block is saved. -/
  | blockSave (launch : BitVec 8) (block : BitVec 32)
  /-- SUSPENSION_COMPLETE, R339: every block and ray launch of a context is saved. -/
  | suspensionComplete (ctx : BitVec 8)
  /-- FORCED_SAVE, R340: the pre-emption deadline passes. -/
  | forcedSave (ctx : BitVec 8)
  /-- FORCED_SAVE_TIMEOUT, R341: a save handler has not ended 150 microseconds after the deadline. -/
  | forcedSaveTimeout (ctx : BitVec 8)
  /-- BLOCK_RESUME, R348: a saved block is placed again. -/
  | blockResume (launch : BitVec 8) (block : BitVec 32)
  /-- SCH_CTX_DBG_STOP, R392: the debugger stops a context or a block. -/
  | schCtxDbgStop (fn : BitVec 5) (ctx : BitVec 8) (value : BitVec 64)
  /-- SCH_CTX_DBG_STEP, R393: the debugger steps stopped blocks. -/
  | schCtxDbgStep (fn : BitVec 5) (ctx : BitVec 8)
  /-- POWER_ON, R365: power is applied. -/
  | powerOn
  /-- WATCHDOG_EXPIRY, R365: the watchdog of Brolek expires. -/
  | watchdogExpiry
  /-- FIRMWARE_ROLLBACK, R369: a new image has not reached PHASE 6 in 10 s. -/
  | firmwareRollback
  /-- PORT_RESET, R365: hot reset or link down on a host port. -/
  | portReset (port : BitVec 1)
  /-- HOST_LINK_UP, R353: a host port trains. -/
  | hostLinkUp (port : BitVec 1) (speed : BitVec 4) (width : BitVec 2) (flit : BitVec 1) (cxlCache : BitVec 1) (cxlMem : BitVec 1)
  /-- FUNCTION_LEVEL_RESET, R365: FLR of a function. -/
  | functionLevelReset (fn : BitVec 5)
  /-- FLR_COMPLETE, R366: an FLR completes. -/
  | flrComplete (fn : BitVec 5)
  /-- HIF_CTXMAP_WRITE, R355: a write of HIF_CTXMAP. -/
  | hifCtxmapWrite (fn : BitVec 5) (ctx : BitVec 8) (value : BitVec 64)
  /-- BAR2_READ, R356: a host reads through BAR2. -/
  | bar2Read (fn : BitVec 5) (offset : BitVec 36) (size : BitVec 4)
  /-- BAR2_WRITE, R356: a host writes through BAR2. -/
  | bar2Write (fn : BitVec 5) (offset : BitVec 36) (size : BitVec 4) (data : BitVec 64)
  /-- HDM_ACCESS, R354: a host access through CXL.mem. -/
  | hdmAccess (port : BitVec 1) (write : BitVec 1) (addr : BitVec 52) (data : BitVec 64)
  /-- PAIR_LINK_FAILURE, R360: the pair link fails. -/
  | pairLinkFailure
  /-- NGX_ID_WRITE, R361: a write of NGX_ID. -/
  | ngxIdWrite (fn : BitVec 5) (value : BitVec 64)
  /-- REMOTE_REQUEST, R363: a request arrives over Nguxel. -/
  | remoteRequest (op : BitVec 3) (dest : BitVec 6) (hops : BitVec 3) (key : BitVec 16) (offset : BitVec 42) (size : BitVec 5) (data : BitVec 128) (atom : BitVec 4) (type : BitVec 5)
  /-- NGX_PORT_DOWN, R364: a Nguxel port goes down. -/
  | ngxPortDown (port : BitVec 3)
  /-- MACHINE_CHECK, R336: a class-10 cause arises in a unit. -/
  | machineCheck (detail : BitVec 3) (kind : BitVec 3) (index : BitVec 7) (syndrome : BitVec 64)
  /-- THERMAL_TRIP, R371: a junction lies 10 degrees above its limit. -/
  | thermalTrip
  /-- GOVERNOR_STEP, R371: the governor moves the core clock by 25 MHz. -/
  | governorStep (up : BitVec 1)
  /-- MGT_PWRCAP_WRITE, R371: a write of MGT_PWRCAP. -/
  | mgtPwrcapWrite (fn : BitVec 5) (value : BitVec 64)
  /-- STAGE, R369: mailbox STAGE. -/
  | stage (fn : BitVec 5)
  /-- ACTIVATE, R369: mailbox ACTIVATE. -/
  | activate (fn : BitVec 5)
  /-- RESET, R372: mailbox RESET. -/
  | reset (fn : BitVec 5)
  /-- POOLCFG, R372: mailbox POOLCFG. -/
  | poolcfg (fn : BitVec 5)
  /-- MAILBOX_COMPLETION, R372: a mailbox command completes. -/
  | mailboxCompletion (fn : BitVec 5)
  /-- CAPLIST, R386: mailbox CAPLIST. -/
  | caplist (fn : BitVec 5)
  /-- CAPREAD, R386: mailbox CAPREAD. -/
  | capread (fn : BitVec 5)
  /-- CAPTURE, R386: mailbox CAPTURE. -/
  | capture (fn : BitVec 5)
  /-- CAPCLEAR, R386: mailbox CAPCLEAR. -/
  | capclear (fn : BitVec 5)
  /-- LOGREAD, R395: mailbox LOGREAD. -/
  | logread (fn : BitVec 5)
  /-- GET_VERSION, R370: Brolek answers the SPDM request GET_VERSION. -/
  | getVersion (port : BitVec 1)
  /-- GET_CAPABILITIES, R370: Brolek answers the SPDM request GET_CAPABILITIES. -/
  | getCapabilities (port : BitVec 1)
  /-- NEGOTIATE_ALGORITHMS, R370: Brolek answers the SPDM request NEGOTIATE_ALGORITHMS. -/
  | negotiateAlgorithms (port : BitVec 1)
  /-- GET_DIGESTS, R370: Brolek answers the SPDM request GET_DIGESTS. -/
  | getDigests (port : BitVec 1)
  /-- GET_CERTIFICATE, R370: Brolek answers the SPDM request GET_CERTIFICATE. -/
  | getCertificate (port : BitVec 1)
  /-- CHALLENGE, R370: Brolek answers the SPDM request CHALLENGE. -/
  | challenge (port : BitVec 1)
  /-- GET_MEASUREMENTS, R370: Brolek answers the SPDM request GET_MEASUREMENTS. -/
  | getMeasurements (port : BitVec 1)
  /-- TIME_SYNC, R376: a buffer writes its time-sync record. -/
  | timeSync (buffer : BitVec 8)
  /-- LOSS_RECORD, R373: a buffer writes its loss record. -/
  | lossRecord (buffer : BitVec 8)
  /-- FREEZE_ARRIVAL, R379: a FREEZE reaches a buffer. -/
  | freezeArrival (buffer : BitVec 8)
  /-- FREEZE_WINDOW_CLOSE, R379: the freeze window of a buffer closes. -/
  | freezeWindowClose (buffer : BitVec 8)
  /-- PAIR_FREEZE_MESSAGE, R380: a FREEZE of the paired die arrives. -/
  | pairFreezeMessage (cause : BitVec 9)
  /-- CAPSULE_STORED, R382: a capsule is written into the Capsule Store. -/
  | capsuleStored
  /-- CAPSULE_FLASH_COPY, R382: a capsule master is copied to flash. -/
  | capsuleFlashCopy
  /-- EVR_CTL_LOCK, R378: LOCK is set in EVR_CTL. -/
  | evrCtlLock (fn : BitVec 5)
  /-- PATROL_SCRUB_READ, R388: the scrubber reads a granule. -/
  | patrolScrubRead (granule : BitVec 47) (finding : BitVec 2)
  /-- REGISTER_WRITE, R10: a host writes a device register without a row of its own. -/
  | registerWrite (fn : BitVec 5) (offset : BitVec 24) (value : BitVec 64)
  /-- ILLEGAL_INSTRUCTION, R140: an encoding that is no instruction. -/
  | illegalInstruction (detail : BitVec 3)
  /-- NGX_PORT_UP, R361: a Nguxel port trains. -/
  | ngxPortUp (port : BitVec 3) (peer : BitVec 6)
  /-- PAIR_LINK_REQUEST, R115: a coherent request of the paired die arrives. -/
  | pairLinkRequest (kind : BitVec 2) (addr : BitVec 44) (data : BitVec 64)
  /-- CXL_CACHE_SNOOP, R115: the directory snoops or grants a line to a host port. -/
  | cxlCacheSnoop (port : BitVec 1) (line : BitVec 45) (kind : BitVec 2)
  deriving DecidableEq, Repr

end Sys2Proof
end

