-- ==== Sys2Proof/Machine/State.lean ====
section
/-! DEFINITION. The state of one IVH-7200 die as plain data, and the device held in reset (R365).
A map from numbers to values is a list of pairs in the canonical form of Machine/Sparse.lean: keys rising, and no pair
equal to what an unlisted key reads as. -/

namespace Sys2Proof.Machine

/-- Bytes by address; an unlisted byte reads 0 (R365, DEDUCED, log entry 2). -/
abbrev Memory := List Host.Cell

/-- 64-bit registers by number; an unlisted register reads 0 (R24, R68). -/
abbrev Regs := List (Nat × BitVec 64)

/-! ## Reasons to stop -/

/-- Why a step stops with a fault. -/
inductive Fault where
  /-- Raised by `exec` alone, when an instruction row is executed and `cur` names no resident wave or running Spindle
  program: no step of the device does this. Safe: nothing is claimed about the device. -/
  | noAgent
  deriving DecidableEq, Repr

/-- Why a step has no meaning. -/
inductive Refusal where
  /-- An arm of `exec` whose meaning is not written. Safe: nothing is claimed about the instruction. -/
  | notModelled (mnemonic : String)
  deriving DecidableEq, Repr

/-! ## Accesses in flight -/

/-- Page kind (R109). -/
inductive PageKind where
  | rc | so | un
  deriving DecidableEq, Repr

/-- What one element does at its word (R107, R213 to R220, R252). -/
inductive ElemOp where
  | load
  | store
  /-- A read-modify-write: OP of R151, TYPE, operand, compare value of cas. -/
  | rmw (op type : Nat) (a cmp : BitVec 64)
  /-- A remote signal increment (R224). -/
  | sig
  deriving DecidableEq, Repr

/-- One element of an access: the bytes of one aligned word, or one atomic (R107). -/
structure Elem where
  /-- Lane, or none for an access without lanes. -/
  lane : Option Nat
  /-- Virtual address of the first byte; none in the scratchpad space. -/
  va : Option Nat
  /-- Global physical address of the first byte. -/
  pa : Nat
  bytes : Nat
  /-- Byte mask of a store (R214). -/
  mask : Nat
  op : ElemOp
  /-- Store data, low bytes. -/
  data : BitVec 64
  kind : PageKind
  /-- Scope of an atomic, 1 to 6 (R218). -/
  scope : Nat
  /-- Byte offset of the element in the lane's value. -/
  at_ : Nat
  /-- The Nguxel port that a request to a peer left by (R361, R364), and whether the peer answers the read of an atomic with
  poison (R220, R363). -/
  port : Option Nat
  bad : Bool
  deriving DecidableEq, Repr

/-- Where the values of an access go. -/
inductive Dest where
  | none
  /-- Vector registers from `reg`; `bytes` of each lane, sign-extended to 32 bits when `signed`. -/
  | vec (reg bytes : Nat) (signed : Bool)
  /-- A scalar register. -/
  | scal (reg bytes : Nat) (signed : Bool)
  deriving DecidableEq, Repr

/-- A store-fault record: words 0 to 3 from the low end (R281). -/
abbrev SfRec := BitVec 256

/-- One access of a wave on one path of R96. -/
structure Access where
  id : Nat
  path : Nat
  elems : List Elem
  dest : Dest
  /-- Lanes whose values the access fills. -/
  lanes : BitVec 64
  /-- Records to push when the access completes (R97, R212). -/
  faults : List SfRec
  done : Bool
  /-- Address of the instruction, and the store issue count at it (R281). -/
  pc : BitVec 64
  seq : BitVec 32
  /-- The request that sample marked: its address and space (R285, R391). -/
  sampled : Option (Nat × Nat)
  /-- Lanes whose load half met poison and was not performed (R220, R252), and lanes that a peer refused, each with the
  address of the lowest. -/
  poisoned : Option (BitVec 64 × BitVec 64)
  refused : Option (BitVec 64 × BitVec 64)
  /-- Granules that the stores of the access cover whole and whose poison its completion clears (R128). -/
  whole : List Nat
  issued : Nat
  deriving DecidableEq, Repr

/-! ## Waves and blocks -/

/-- Kinds of wave, WKIND of R344. -/
inductive WKind where
  | compute | generation | episode | task
  deriving DecidableEq, Repr

/-- Modes of R271. -/
inductive Mode where
  | user | supervisor
  deriving DecidableEq, Repr

/-- Which supervisor entry a wave runs from (R338). -/
inductive Handler where
  | trap | save | restore
  deriving DecidableEq, Repr

/-- Why a wave does not issue (R312). -/
inductive Wait where
  | ready
  /-- The instruction at the program counter waits and is executed again; the stall reason of R312, and whether the wait
  counts as a yield (R223, R231). -/
  | retry (reason : Nat) (yields : Bool)
  /-- Until a cycle (R207). -/
  | sleep (until_ : Nat)
  /-- On fault tags (R328). -/
  | parked (tags : List (BitVec 32))
  /-- In bar, after its arrival: slot, phase and scope (R233). -/
  | barrier (slot : Nat) (phase : BitVec 32) (scope : Nat)
  /-- In tlwait, with a waiter slot or a request for one (R236, R313). -/
  | timeline (released : Bool) (scope : Nat)
  /-- In regclaim for n blocks (R35). -/
  | claim (n : Nat)
  /-- exit or epend has settled the wave, which ends when its accesses have completed (R25, R253). -/
  | exiting (epend : Bool)
  /-- Ended with a cause under R336 and R349; it leaves when its accesses have completed. -/
  | ended (cause : Nat)
  /-- Stopped for a save: the cause of the save entry (R338, R392), and the saved wait. -/
  | stopped (cause : Nat)
  /-- The restore handler has returned; the other waves of the block have not (R348). -/
  | restored
  deriving DecidableEq, Repr

/-- One base translation register (R93). -/
structure BReg where
  valid : Bool
  vb : Nat
  pb : Nat
  limit : Nat
  ord : PageKind
  rd : Bool
  wr : Bool
  usr : Bool
  deriving DecidableEq, Repr

/-- The register with its translation dropped: it keeps its virtual base, and its lanes translate through the TLB (R94) (DEDUCED, log entry 49). -/
def BReg.drop (b : BReg) : BReg := { b with valid := false, pb := 0, limit := 0, ord := .rc, rd := false, wr := false, usr := false }

/-- The invalid base translation register. -/
def BReg.none : BReg :=
  { valid := false, vb := 0, pb := 0, limit := 0, ord := .rc, rd := false, wr := false, usr := false }

/-- The reply that ends a wait on a missing page: page number, and the cause of STATUS 1 (R328). -/
structure Answer where
  page : Nat
  cause : Nat
  deriving DecidableEq, Repr

/-- A Porter copy with its latched operands (R237). -/
structure Copy where
  /-- It holds its range locks and moves bytes. -/
  started : Bool
  red : Bool
  shape : Nat
  type : Nat
  /-- The coordinate group s[SC] to s[SC+3]. -/
  group : BitVec 256
  src : BitVec 512
  dst : BitVec 512
  /-- Mode and address of the instruction. -/
  user : Bool
  pc : BitVec 64
  /-- When it registered its ranges. -/
  since : Nat
  /-- Fault tags it waits on, and replies of STATUS 1 to them (R327, R328). -/
  tags : List (BitVec 32)
  answers : List Answer
  /-- Source bytes read and not yet written into the slot. -/
  pend : List (BitVec 8)
  /-- Bytes written, as a mask for each physical line (R124). -/
  wrote : List (Nat × BitVec 128)
  deriving DecidableEq, Repr

/-- One copy token: STATE and CAUSE of its progress word, PROGRESS, and the copy (R98). -/
structure Token where
  state : Nat
  cause : Nat
  progress : Nat
  copy : Option Copy
  deriving DecidableEq, Repr

def Token.idle : Token := { state := 0, cause := 0, progress := 0, copy := none }

/-- The ray state of one lane (R256): pool slot, disposition (0 none, 1 continue, 2 retire), emitted mark, hit locator. -/
structure RayLane where
  slot : Option Nat
  disp : Nat
  emitted : Bool
  /-- j, treelet and slot of the hit; j = 3 for none. -/
  hitJ : Nat
  hitTreelet : Nat
  hitSlot : Nat
  deriving DecidableEq, Repr

def RayLane.empty : RayLane := { slot := none, disp := 0, emitted := false, hitJ := 3, hitTreelet := 0, hitSlot := 0 }

/-- A resident wave. -/
structure Wave where
  core : Nat
  slot : Nat
  partition : Nat
  /-- Tells apart successive waves of one slot (R110). -/
  inst : Nat
  ctx : Nat
  launch : Nat
  block : Nat
  wid : Nat
  kind : WKind
  prio : Nat
  placed : Nat
  readySince : Nat
  pc : BitVec 64
  /-- Address of the first instruction, from which the user trap vector counts (R23, R31, R37). -/
  entry : BitVec 64
  /-- k0 to k15. -/
  k : Regs
  /-- s0 to s127, and the numbers of those marked as poisoned (R128). -/
  s : Regs
  sMark : List Nat
  /-- Store blocks of the wave's register blocks, in order (R89). -/
  blocks : List Nat
  b : List (Nat × BReg)
  tok : List (Nat × Token)
  flight : List Access
  nextAcc : Nat
  ws : Sig
  wsat : Bool
  fflags : BitVec 64
  tmrcmp : BitVec 64
  tmrMask : Bool
  tmrPend : Bool
  uret : BitVec 64
  ucause : BitVec 64
  mode : Mode
  handler : Handler
  tepc : BitVec 64
  tcause : BitVec 64
  taddr : BitVec 64
  tlanes : BitVec 64
  /-- Oldest first (R281). -/
  sfq : List SfRec
  stseq : BitVec 32
  sampleMark : Bool
  sampleRec : Option (BitVec 256)
  wait : Wait
  /-- Replies to the pages of the parked instruction, for its one re-execution, and the tags that it holds while it waits for
  one more (R326, R328). -/
  answers : List Answer
  holds : Option (List (BitVec 32))
  /-- The copy whose records the instruction latched at issue, while it waits for its token or for range locks (R237). -/
  latched : Option Copy
  /-- Ray lanes by lane, and the class of an episode (R256). -/
  rays : List (Nat × RayLane)
  cls : Nat
  /-- The task of a task wave: FLAGS.WIDE and SUCC (R33). -/
  taskWide : Bool
  taskSucc : Nat
  /-- A wave saved with TLREL completes the tlwait at this address without reading VALUE (R314). -/
  tlrel : Option (BitVec 64)
  /-- A yield in supervisor mode has met a set request flag: the wave stops at its return to user mode (R206, R340). -/
  yielded : Bool
  /-- The debugger's single step: one instruction may issue (R393). -/
  step : Option Bool
  /-- An atomic has met poison in these lanes; the trap is due at the next boundary: address and lanes (R220). -/
  poisPend : Option (BitVec 64 × BitVec 64)
  deriving DecidableEq, Repr

/-- One block barrier slot (R232). -/
structure BarSlot where
  phase : BitVec 32
  arrived : BitVec 64
  deriving DecidableEq, Repr

def BarSlot.zero : BarSlot := { phase := 0, arrived := 0 }

/-- A frame in the save region (R342). -/
structure Frame where
  entry : Nat
  first : Nat
  count : Nat
  deriving DecidableEq, Repr

/-- How far a resident block's save or restore has come. -/
inductive BlockPhase where
  | running
  | saving (f : Frame)
  | restoring (f : Frame)
  deriving DecidableEq, Repr

/-- A resident block (R19). -/
structure Block where
  launch : Nat
  index : Nat
  ctx : Nat
  core : Nat
  /-- Waves per block, and the live ones by %wid. -/
  waves : Nat
  alive : BitVec 64
  scrBase : Nat
  scrSize : Nat
  bars : Nat
  slots : List (Nat × BarSlot)
  /-- Free register blocks, in order of entry (R35). -/
  pool : List Nat
  /-- Waves waiting in regclaim, by %wid, in order of issue. -/
  claims : List Nat
  phase : BlockPhase
  deriving DecidableEq, Repr

/-- A wave of a saved block whose parked count the device still lowers (R328). -/
structure SavedWave where
  wid : Nat
  /-- It has left its core. -/
  left : Bool
  tags : List (BitVec 32)
  answers : List Answer
  sfCount : Nat
  /-- Slot, instance number and core it was saved from (R110, R127). -/
  slot : Nat
  inst : Nat
  core : Nat
  /-- What the control record of R344 does not carry: the address that the user trap vector counts from, the issue
  priority, and the successor of a task. -/
  entry : BitVec 64
  prio : Nat
  taskWide : Bool
  taskSucc : Nat
  /-- Lanes whose disposition is retire (R256). -/
  retired : BitVec 64
  /-- The base translation registers, invalid, with their virtual bases: program-visible state that R348 restores. -/
  b : List (Nat × BReg)
  /-- A poison trap that was pending at the save, tested again after the resumption (R273); a tlwait released but not yet
  completed (R314). -/
  poisPend : Option (BitVec 64 × BitVec 64)
  tlrel : Option (BitVec 64)
  deriving DecidableEq, Repr

/-- A block saved, or being saved, in the save region (R343) (DEDUCED, log entry 51). -/
structure SavedBlock where
  index : Nat
  frame : Frame
  /-- What the Spindle image of R346 does not carry: %spdsa, %spstop, %spdfault and the marked registers (R128, R260, R350). -/
  spindle : Option (BitVec 64 × BitVec 64 × BitVec 64 × List Nat)
  core : Nat
  /-- When it was saved, and the time its wait for placement counts from: the end of its context's suspension (R309). -/
  since : Nat
  waves : List SavedWave
  /-- Saved because of the debugger: it resumes only after RESUME or STEP (R392). -/
  debug : Bool
  deriving DecidableEq, Repr

/-! ## Launches, tasks and rays -/

/-- A queued task: its 64-byte record, enqueue number and time, ring slot address, and the scope of its entry acquire. -/
structure Task where
  record : BitVec 512
  number : Nat
  time : Nat
  ring : Nat
  scope : Nat
  /-- It ranks as PRIO 15 (R32). -/
  aged : Bool
  deriving DecidableEq, Repr

/-- Ray phases (R45). -/
inductive RayPhase where
  | needsTraversal | inTraversal | needsEpisode | inEpisode
  deriving DecidableEq, Repr

/-- A stall key (R47): launch slot, phase, treelet, cell or class, direction class. -/
structure Key where
  launchSlot : Nat
  episode : Bool
  treelet : Nat
  cell : Nat
  dir : Nat
  deriving DecidableEq, Repr

/-- A ray in a pool (R45). -/
structure Ray where
  slot : Nat
  phase : RayPhase
  record : BitVec 1024
  /-- Hit record (R44) and locator (R255). -/
  hit : BitVec 256
  hitJ : Nat
  hitTreelet : Nat
  hitSlot : Nat
  key : Key
  quarter : Nat
  stall : Nat
  /-- The hot pool of its quarter holds its record (R45). -/
  hot : Bool
  arrival : Nat
  /-- Order of arrival. -/
  order : Nat
  /-- Fault tags its trace waits on, and the pages whose tags have been answered (R58, R327). -/
  tags : List (BitVec 32)
  replied : List Nat
  /-- The scene entry whose page its trace waits for (R377). -/
  entry : Nat
  deriving DecidableEq, Repr

/-- The ray part of an active ray launch (R40). -/
structure RayLaunch where
  slot : Nat
  /-- Pool capacity C in rays. -/
  cap : Nat
  header : BitVec 512
  /-- Episode table entries, class 0 first. -/
  eptab : List (BitVec 128)
  rays : List Ray
  /-- The save frame that holds the reclaimed cold allocation (R347). -/
  cold : Option Frame
  deriving DecidableEq, Repr

/-- An active launch (R307). -/
structure Launch where
  num : Nat
  ctx : Nat
  queue : Nat
  /-- Priority of R304 and the time the record was taken. -/
  prio : Nat
  taken : Nat
  /-- Order in which the die took it. -/
  serial : Nat
  /-- KIND: 0 compute, 1 ray, 2 task pool. -/
  kind : Nat
  record : BitVec 512
  /-- Next block to place, blocks ended, and the time the placement wait counts from (R309). -/
  next : Nat
  ended : Nat
  since : Nat
  /-- Domain instances of the units that have a placed block: level, unit, instance (R27). -/
  homes : List (Nat × Nat × Nat)
  saved : List SavedBlock
  /-- Task pool: queued tasks, enqueues so far, tasks that hold a ring slot, no further dispatch (R33, R242). -/
  tasks : List Task
  enqueued : Nat
  held : Nat
  stuck : Bool
  ray : Option RayLaunch
  /-- The launch is suspended with its context (R64). -/
  suspended : Bool
  reserves : Bool
  deriving DecidableEq, Repr

/-- A block of a paired launch that the paired die runs: its core as this die numbers it, and when it ends (R21, R359). -/
structure Away where
  launch : Nat
  ctx : Nat
  block : Nat
  core : Nat
  ends : Nat
  deriving DecidableEq, Repr

/-- A stall of a quarter's Coherence Engine that holds rays (R48); index 4,096 and 4,097 are the overflow stalls. -/
structure Stall where
  quarter : Nat
  index : Nat
  key : Option Key
  /-- Hint treelet (R59). -/
  hint : Nat
  /-- Order of arrival of the ray that was its oldest when it was found past AGE, or past twice AGE (R49). -/
  aged : Option Nat
  overdue : Option Nat
  /-- Tells apart successive stalls of one index. -/
  born : Nat
  deriving DecidableEq, Repr

/-- A traversal batch: the rays not yet traced, and the unit once it has room (R50). -/
structure Batch where
  quarter : Nat
  launch : Nat
  stall : Nat
  /-- The `born` of the stall it was emitted from. -/
  born : Nat
  unit : Option Nat
  rays : List Nat
  /-- Treelets of the hits so far (R59). -/
  hits : List Nat
  deriving DecidableEq, Repr

/-- An episode emission awaiting placement (R310). -/
structure Emission where
  quarter : Nat
  launch : Nat
  cls : Nat
  rays : List Nat
  time : Nat
  reserves : Bool
  deriving DecidableEq, Repr

/-! ## Spindle cores -/

/-- Slot states (R70). -/
inductive SlotState where
  | free | claimed | filling | ready | inUse
  deriving DecidableEq, Repr

/-- An operand slot: a byte that no accepted write has reached since the claim is a free value, taken at the claim (R70). -/
structure OSlot where
  state : SlotState
  size : Nat
  format : Nat
  count : Nat
  written : BitVec 16384
  fresh : Nat
  deriving DecidableEq, Repr

def OSlot.free : OSlot := { state := .free, size := 0, format := 0, count := 0, written := 0, fresh := 0 }

/-- Accumulator types (R75). -/
inductive AccTy where
  | f32 | f16 | i32 | f64
  deriving DecidableEq, Repr

/-- A drain in progress (R267, R268). -/
structure Drain where
  type : Nat
  ganged : Bool
  rows : Nat
  cols : Nat
  x0 : Nat
  y0 : Nat
  z0 : Nat
  record : BitVec 512
  bben : Bool
  bboff : Nat
  /-- Converted elements in row order. -/
  data : List (BitVec 64)
  progress : Nat
  user : Bool
  pc : BitVec 64
  since : Nat
  tags : List (BitVec 32)
  answers : List Answer
  wrote : List (Nat × BitVec 128)
  deriving DecidableEq, Repr

/-- An issued matrix operation (R69, R79). -/
structure MatOp where
  batch : Nat
  /-- Slots it has not finished reading. -/
  reads : List Nat
  drain : Option Drain
  deriving DecidableEq, Repr

/-- A running Spindle program (R67, R68). -/
structure Spindle where
  cluster : Nat
  ctx : Nat
  launch : Nat
  block : Nat
  prio : Nat
  pc : BitVec 64
  x : Regs
  xMark : List Nat
  mode : Mode
  tepc : BitVec 64
  tcause : BitVec 64
  taddr : BitVec 64
  /-- 16 KiB data scratch (R259). -/
  scratch : Memory
  bcom : BitVec 64
  bdone : BitVec 64
  flags : BitVec 64
  dsa : BitVec 64
  stop : BitVec 64
  fault : BitVec 64
  ws : Sig
  wsat : Bool
  /-- Slots 16q + n and accumulators 8q + n (R139). -/
  slots : List (Nat × OSlot)
  accs : List (Nat × AccTy)
  /-- Accumulator contents: byte 18,432 × (8q + n) + offset (R74). -/
  acc : Memory
  ops : List MatOp
  /-- Ready, waiting, asleep, parked, exiting or stopped, as a wave. -/
  wait : Wait
  answers : List Answer
  holds : Option (List (BitVec 32))
  /-- Live-tile mask of the yield that stopped it (R81), or of a yield in supervisor mode, at whose return it stops. -/
  live : BitVec 24
  yielded : Option (BitVec 24)
  step : Option Bool
  deriving DecidableEq, Repr

/-- A waiting spnrun request (R310). -/
structure SpnReq where
  cluster : Nat
  core : Nat
  slot : Nat
  prio : Nat
  order : Nat
  deriving DecidableEq, Repr

/-! ## Caches, translation and locks -/

/-- A line of a core's L1 (R110, R113). -/
structure L1Line where
  core : Nat
  ctx : Nat
  /-- Physical line number, and the virtual line of its last use (R110). -/
  pline : Nat
  vline : Nat
  kind : PageKind
  data : BitVec 1024
  dirty : BitVec 128
  filled : Nat
  dirtySince : Nat
  wslot : Nat
  winst : Nat
  deriving DecidableEq, Repr

/-- MOESI states (R115). -/
inductive Moesi where
  | i | s | e | o | m
  deriving DecidableEq, Repr

/-- The LLC directory's states of one line: this die's L2, the paired die's L2, host ports 0 and 1 (R115). Of a line whose
home is not this die only the first is known here. -/
structure DirLine where
  own : Moesi
  pair : Moesi
  host0 : Moesi
  host1 : Moesi
  deriving DecidableEq, Repr

/-- A cached translation (R323, R324). -/
structure TlbEntry where
  /-- The TLB that holds it: 0 to 127 the cores' L1 TLBs, 128 to 131 the quarters' L2 TLBs (R324). -/
  unit_ : Nat
  ctx : Nat
  va : Nat
  size : Nat
  frame : Nat
  ord : PageKind
  r : Bool
  w : Bool
  x : Bool
  u : Bool
  d : Bool
  g : Bool
  /-- CONTIG of the leaf (R321). -/
  contig : Nat
  deriving DecidableEq, Repr

/-- A table entry that the walkers cache: the table of a level that serves the addresses from `va` (R323). -/
structure TableEntry where
  ctx : Nat
  level : Nat
  va : Nat
  /-- The number of the 4 KiB frame at which the table begins. -/
  page : Nat
  g64 : Bool
  deriving DecidableEq, Repr

/-- A pending page walk (R325). -/
structure Walk where
  core : Nat
  ctx : Nat
  va : Nat
  write : Bool
  read : Bool
  fetch : Bool
  user : Bool
  deriving DecidableEq, Repr

/-- A range-lock entry (R105). -/
structure RangeLock where
  cluster : Nat
  ctx : Nat
  /-- Virtual bytes [lo, hi). -/
  lo : Nat
  hi : Nat
  dest : Bool
  /-- Core Store bytes [lo, hi) the range covers, as core × 2^20 + byte. -/
  store : List (Nat × Nat)
  /-- The copy (core, slot, token) or the drain (none). -/
  owner : Option (Nat × Nat × Nat)
  deriving DecidableEq, Repr

/-- An outstanding fault tag (R326). -/
structure Tag where
  index : Nat
  gen : Nat
  ctx : Nat
  page : Nat
  write : Bool
  deriving DecidableEq, Repr

/-- A fault record held for want of room (R331), with its KIND. -/
structure HeldRec where
  kind : Nat
  record : BitVec 512
  deriving DecidableEq, Repr

/-- A waiter slot, or a request for one (R313). -/
structure Waiter where
  index : Option Nat
  core : Nat
  slot : Nat
  ctx : Nat
  va : Nat
  pa : Nat
  threshold : BitVec 64
  order : Nat
  deriving DecidableEq, Repr

/-! ## Contexts -/

/-- What the scheduler keeps of one context beside its registers. -/
structure Ctx where
  paired : Bool
  /-- Who holds the pre-emption request: a host, the scheduler, the debugger (R339, R392). -/
  reqHost : Bool
  reqSched : Bool
  reqDebug : Bool
  reqAt : Nat
  forced : Bool
  /-- The scheduler's condition for resuming holds back the context (R315, R316). -/
  schedHold : Bool
  stepping : Bool
  /-- Queues: pending, records available, the descriptor as last scanned with its HEAD kept up (R305, R306), and the queue
  last taken from (R307). -/
  pending : BitVec 64
  avail : List (Nat × Nat)
  scanned : List (Nat × BitVec 512)
  lastQueue : Nat
  /-- The launch that each queue delivered last, by its `serial` (R307). -/
  prev : List (Nat × Nat)
  /-- The ray launch at a queue's head passed its first checks and waits (R40). -/
  rayHead : List (Nat × BitVec 512)
  seq : BitVec 32
  held : List HeldRec
  dropped : Nat
  terminated : Bool
  deriving DecidableEq, Repr

def Ctx.idle : Ctx :=
  { paired := false, reqHost := false, reqSched := false, reqDebug := false, reqAt := 0, forced := false,
    schedHold := false, stepping := false, pending := 0, avail := [], scanned := [], lastQueue := 63, prev := [], rayHead := [],
    seq := 0, held := [], dropped := 0, terminated := false }

/-! ## The Event Recorder and Brolek -/

/-- One recorder buffer (R373, R379). -/
structure Buf where
  /-- Newest first, each with the stamp its DELTA was formed from. -/
  recs : List (BitVec 128)
  stamps : List Nat
  last : Nat
  dropped : Nat
  frozen : Bool
  /-- The freeze window: when it opened, the least T, full mode. -/
  window : Option (Nat × Nat × Bool)
  deriving DecidableEq, Repr

def Buf.empty : Buf := { recs := [], stamps := [], last := 0, dropped := 0, frozen := false, window := none }

/-- A freeze under way or a capsule to assemble (R379, R381). -/
structure Freeze where
  full : Bool
  t : Nat
  cause : Nat
  /-- REASON, origin kind and index, terminated context (R383). -/
  reason : Nat
  okind : Nat
  oindex : Nat
  ctx : Nat
  source : Nat
  /-- Buffers that FREEZE has not reached; one of them has opened a window for it. -/
  toReach : List Nat
  opened : Bool
  requester : Option Nat
  deriving DecidableEq, Repr

/-- A capsule's master (R382, R383). -/
structure Capsule where
  id : Nat
  freeze : Freeze
  pair : Nat
  lost : Nat
  fw : Nat
  epochs : List (Nat × BitVec 32)
  /-- Records of each buffer, oldest first. -/
  bufs : List (Nat × List (BitVec 128))
  inStore : Bool
  inFlash : Bool
  deriving DecidableEq, Repr

/-- A firmware slot (R369). -/
structure FwSlot where
  image : Memory
  size : Nat
  svn : Nat
  signed : Bool
  deriving DecidableEq, Repr

/-- Board forms (R2). -/
inductive Board where
  | serverModule | pairCard
  deriving DecidableEq, Repr

/-- A device-log entry (R395). -/
structure LogEntry where
  seq : Nat
  boot : Nat
  event : Nat
  clk : BitVec 64
  arg : BitVec 64
  deriving DecidableEq, Repr

/-- What Brolek and the board hold beside the registers (R365 to R372, R395). -/
structure Mgmt where
  board : Board
  /-- Populated LPDDR-6 sockets (R2). -/
  sockets : Nat
  serial : BitVec 128
  /-- The repair record of board flash (R368), 160 bytes. -/
  repair : Memory
  repairSigned : Bool
  slotA : FwSlot
  slotB : FwSlot
  activeB : Bool
  earlierB : Option Bool
  fusedSvn : Nat
  /-- Cold pool in MiB, now and after the next warm reset (R372). -/
  pool : Nat
  poolNext : Nat
  boots : Nat
  log : List LogEntry
  logSeq : Nat
  capId : Nat
  /-- Kept across warm reset: LOSTCAPS, UE and CE (R378, R388). -/
  lostCaps : Nat
  /-- Start-up step to run next, 0 when none (R367), and the source of the reset. -/
  boot : Nat
  resetAt : Nat
  heldReset : Option Nat
  /-- Functions under FLR (R366). -/
  flr : List Nat
  govAt : Nat
  /-- Mailbox commands that run, with their STATUS and response length (R372). -/
  running : List (Nat × Nat × Nat)
  /-- SPDM: negotiated version on each port (R370). -/
  spdm : List (Nat × Nat)
  deriving DecidableEq, Repr

/-! ## Inputs and outputs -/

/-- A message that left the device. -/
inductive OutMsg where
  /-- MSI-X vector of a function (R357). -/
  | msix (fn vec : Nat)
  /-- Completion of a host read, and Completer Abort (R356). -/
  | hostData (fn : Nat) (data : BitVec 64)
  | hostAbort (fn : Nat)
  /-- A request towards a host port under the requester ID of a function (R353): a read, a write of the bytes that a mask
  names, an atomic performed at a host without CXL.cache (OP, TYPE, operand, compare value, R218). -/
  | hostRead (fn port addr bytes : Nat)
  | hostWrite (fn port addr bytes mask : Nat) (data : BitVec 1024)
  | hostAtomic (fn port addr bytes op type : Nat) (a cmp : BitVec 64)
  /-- A request to the home of a line of spaces 2 to 4: shared, or to own it (R115). -/
  | share (fn line : Nat)
  | own (fn line : Nat)
  /-- The directory takes a line away from a holder: 1 the paired die's L2, 2 and 3 the host ports, as a back-invalidate
  there (R115, R354). -/
  | takeAway (holder line : Nat)
  /-- A request to a peer over a Nguxel port (R361): operation (0 load, 1 store, 2 signal, 16 + OP atomic), device, the
  links it has crossed with this one, offset, key, bytes, byte mask, TYPE, data or operand, compare value. -/
  | peer (port op dev hops off key bytes mask type : Nat) (data : BitVec 512) (cmp : BitVec 64)
  /-- An answer to a peer's request: refused, or data. -/
  | peerRefused (dev : Nat)
  | peerData (dev : Nat) (poison : Bool) (data : BitVec 128)
  /-- The answer to a read of the paired die. -/
  | pairData (poison : Bool) (data : BitVec 64)
  /-- An SPDM response over a host port's DOE, or over the management bus as port 2, with its body (R370); a pair-link freeze, a
  snoop answer. -/
  | spdm (port code : Nat) (body : List (BitVec 8))
  | freeze (t cause : Nat)
  | snoop (port line : Nat) (dirty : Bool) (data : BitVec 1024)
  /-- A block that goes to the paired die, and an access to its Core Stores through space 6: OP as for a peer (R27, R90). -/
  | pairBlock (launch block core : Nat)
  | pairCore (op addr bytes mask : Nat) (data : BitVec 64)
  /-- The answer to the paired die's request for a line of its own memory that this L2 holds (R115). -/
  | pairSnoop (line : Nat) (dirty : Bool) (data : BitVec 1024)
  /-- A reply to a fault tag of the paired device, with its context (R333). -/
  | pairReply (ctx : Nat) (reply : BitVec 64)
  deriving DecidableEq, Repr

/-- One move of the device: the plain data that says which unit acts next (DESIGN CHOICE, log entry 7). -/
inductive Move where
  /-- A row of the opcode table. -/
  | event (i : Instr)
  /-- A wave, or a Spindle program, issues. -/
  | wave (core slot : Nat)
  | spindle (cluster : Nat)
  /-- Time passes. -/
  | tick (n : Nat)
  /-- An L1 line, a translation, cached instructions of a context or cached descriptors of a context are dropped. -/
  | evict (core index : Nat)
  | dropTlb (index : Nat)
  /-- A cached table entry is dropped (R323); a cached translation is widened to its CONTIG group (R321). -/
  | dropTable (index : Nat)
  | group (index : Nat)
  | dropCode (ctx : Nat)
  | dropDesc (ctx : Nat)
  /-- The Treelet Cache drops a treelet. -/
  | dropTreelet (index : Nat)
  /-- One element of an access in flight is performed. -/
  | perform (core slot index elem : Nat)
  /-- A peer refuses an access in flight, or answers it with poison (R220, R363). -/
  | peerAnswer (core slot index : Nat) (poison : Bool)
  /-- A copy or the oldest drain writes some of its bytes. -/
  | copyStep (core slot token bytes : Nat)
  | drainStep (cluster bytes : Nat)
  /-- A miss is queued for a walker (R325). -/
  | miss (w : Walk)
  /-- An ending episode wave takes a fresh emission (R253). -/
  | reload (core slot : Nat)
  /-- A granule is found uncorrectable or corrected when it is read (R387). -/
  | eccError (granule : Nat) (uncorrectable : Bool)
  /-- An uncorrectable error in a pool record (R251). -/
  | poolError (launchSlot ray : Nat)
  /-- What a register does after a function has written it: the register's offset, its bits before, the value, the bits
  written. -/
  | written (fn off : Nat) (old v sel : BitVec 64)
  /-- The junction temperature and board power that the sensors read (R371). -/
  | sensors (hot power : Nat)
  /-- A waiting slot write is performed as its slot comes back (R71). -/
  | slotWrite (core slot : Nat)
  /-- A host reads n bytes of a register, a table or an array through a function's BAR0 or BAR4 (R356). -/
  | hostRead (fn off n : Nat)
  /-- The step of start-up that is due fails (R367). -/
  | startFails
  /-- An SPDM request over the management bus: its place among the seven of R370. -/
  | mctp (request : Nat)
  deriving DecidableEq, Repr

/-- Who an instruction acts for. -/
inductive Agent where
  | none
  | wave (core slot : Nat)
  | spindle (cluster : Nat)
  deriving DecidableEq, Repr

/-! ## The die -/

structure State where
  /-- %clk (R278), and core cycles counted by the model (DESIGN CHOICE, log entry 9). -/
  clk : BitVec 64
  cyc : Nat
  /-- The model's own: free values taken, moves that come next, the agent of the next instruction, messages sent. -/
  free : Nat
  agenda : List Move
  cur : Agent
  /-- The wave whose turn it was in this cycle, by core and slot, and the code that the cycle counts for it (R312). -/
  turn : Option (Nat × Nat × Nat)
  out : List OutMsg
  /-- Memory at the point of coherence, by global physical address (R85); host lines held in the L2 stand in spaces 3, 4. -/
  mem : Memory
  /-- Core Stores, by core × 2^20 + byte (R88). -/
  cs : Memory
  /-- Vector register elements marked as poisoned, by core × 2^18 + word of the store (R128). -/
  csMark : List Nat
  /-- Poisoned granules: address ÷ 32 of `mem` (R128, R387). -/
  poison : List Nat
  /-- The directory's states by line (R115); an unlisted line is that of `dirDefault`. -/
  dir : List (Nat × DirLine)
  /-- The Nguxel port that the route to a device keeps; an unlisted device has none (R361). -/
  routes : List (Nat × Nat)
  /-- Operand Memory contents, by cluster × 2^20 + 16,384 × slot + byte (R70). -/
  om : Memory
  /-- Device registers of space 7, by offset (R303 and on); an unlisted register holds its reset value. -/
  ctl : Regs
  /-- Mailbox buffers, by function × 4,096 + byte (R372). -/
  mbox : Memory
  /-- MSI-X tables, by function × 1,024 + byte, and pending bits by function (R356). -/
  msix : Memory
  msixPending : Regs
  l1 : List L1Line
  tlb : List TlbEntry
  tables : List TableEntry
  walks : List Walk
  /-- The owners when the walkers were last assigned, and the owner of each walker (R325). -/
  owners : List Nat
  walkerOwner : List Nat
  /-- Cached instruction words and descriptors, by context and address (R131, R102). -/
  code : List (Nat × Nat × BitVec 32)
  descs : List (Nat × Nat × BitVec 512)
  waves : List Wave
  blocks : List Block
  spindles : List Spindle
  spnReqs : List SpnReq
  locks : List RangeLock
  launches : List Launch
  away : List Away
  stalls : List Stall
  batches : List Batch
  emissions : List Emission
  /-- Treelets that the Treelet Cache holds: quarter, context, physical address ÷ 4,096, bytes (R59). -/
  tlc : List (Nat × Nat × Nat × BitVec 32768)
  waiters : List Waiter
  tags : List Tag
  /-- Generation of each tag index (R326). -/
  tagGen : List (Nat × Nat)
  ctxs : List (Nat × Ctx)
  /-- `last` of R27, and the core of the last emission of quarters 0 to 3 (R310). -/
  last : Nat
  lastQuarter : List (Nat × Nat)
  /-- Context last served (R307). -/
  lastCtx : Nat
  /-- Next instance number of each core's wave slots (R110). -/
  insts : List (Nat × Nat)
  /-- Order numbers given to requests and arrivals. -/
  order : Nat
  /-- Function that a shared cluster serves, and since when (R315). -/
  serving : List (Nat × Nat × Nat)
  /-- Recorder buffers by unit number 0 to 252 (R373), freezes in order, capsules. -/
  bufs : List (Nat × Buf)
  freezes : List Freeze
  capsules : List Capsule
  epochs : List (Nat × BitVec 32)
  /-- Multiply-accumulates of each function not yet counted, below 1,024 (R389). -/
  macs : List (Nat × Nat)
  mgmt : Mgmt
  deriving DecidableEq, Repr

/-- The firmware slot of a board as the model names it (DESIGN CHOICE, log entry 5). -/
def FwSlot.shipped : FwSlot := { image := [], size := 0, svn := 0, signed := true }

/-- The repair record as the model names it (R368, DESIGN CHOICE, log entry 5): serial 0, and logical cluster j at physical cluster j. -/
def repairShipped : Memory :=
  [(0, 0x49), (1, 0x56), (2, 0x52), (3, 0x52), (4, 1)] ++ (List.range 31).map (fun i => (25 + i, BitVec.ofNat 8 (i + 1)))

/-- Brolek and the board as the model names them before power-on (DESIGN CHOICE, log entries 4 and 5). -/
def Mgmt.reset : Mgmt :=
  { board := .serverModule, sockets := 8, serial := 0, repair := repairShipped, repairSigned := true, slotA := .shipped,
    slotB := .shipped, activeB := false, earlierB := none, fusedSvn := 0, pool := 256, poolNext := 256, boots := 0,
    log := [], logSeq := 0, capId := 0, lostCaps := 0, boot := 1, resetAt := 0, heldReset := none, flr := [], govAt := 0,
    running := [], spdm := [] }

/-- The device in cold reset, before step 1 of start-up (R365, R367): MGT_STATUS.PHASE 0, every register at its reset
value, no work, memory of zeros. -/
def State.reset : State :=
  { clk := 0, cyc := 0, free := 0, agenda := [], cur := .none, turn := none, out := [], mem := [], cs := [], csMark := [], poison := [],
    dir := [], routes := [], om := [], ctl := [], mbox := [], msix := [], msixPending := [], l1 := [], tlb := [], tables := [], walks := [],
    owners := [], walkerOwner := [],
    code := [], descs := [], waves := [], blocks := [], spindles := [], spnReqs := [], locks := [], launches := [], away := [],
    stalls := [], batches := [], emissions := [], tlc := [], waiters := [], tags := [], tagGen := [], ctxs := [],
    last := 127, lastQuarter := [], lastCtx := 255, insts := [], order := 0, serving := [], bufs := [], freezes := [],
    capsules := [], epochs := [], macs := [], mgmt := Mgmt.reset }

end Sys2Proof.Machine
end

