-- ==== Sys2Proof/Machine/Sparse.lean ====
section
/-! DEFINITION. Sparse maps in one canonical form, and the bytes of a memory in little-endian order (R5). -/

namespace Sys2Proof.Machine

/-- The value at a key; an unlisted key has the default. -/
def sget {α : Type} (dflt : Nat → α) (m : List (Nat × α)) (k : Nat) : α := (m.lookup k).getD (dflt k)

/-- Inserts a pair at its place by key. -/
def sinsert {α : Type} (k : Nat) (v : α) : List (Nat × α) → List (Nat × α)
  | [] => [(k, v)]
  | (j, w) :: rest => if k < j then (k, v) :: (j, w) :: rest else (j, w) :: sinsert k v rest

/-- Sets the value at a key; the default leaves the key unlisted. -/
def sput {α : Type} [DecidableEq α] (dflt : Nat → α) (m : List (Nat × α)) (k : Nat) (v : α) : List (Nat × α) :=
  let m' := m.filter (fun p => p.1 != k)
  if v = dflt k then m' else sinsert k v m'

/-- Keys strictly rising. -/
def srising {α : Type} : List (Nat × α) → Bool
  | [] => true
  | [_] => true
  | p :: q :: rest => p.1 < q.1 && srising (q :: rest)

/-- The canonical form: keys strictly rising, no pair equal to what its key reads as unlisted. -/
def swf {α : Type} [DecidableEq α] (dflt : Nat → α) (m : List (Nat × α)) : Bool :=
  srising m && m.all (fun p => p.2 != dflt p.1)

/-- What an unlisted byte of a memory reads as (R365, DEDUCED, log entry 2). -/
def memDefault : Nat → BitVec 8 := fun _ => 0

/-- The canonical form of a memory. -/
def Memory.wf (m : Memory) : Bool := swf memDefault m

/-- The byte at an address. -/
def Memory.read (m : Memory) (a : Nat) : BitVec 8 := sget memDefault m a

/-- Writes one byte. -/
def Memory.write (m : Memory) (a : Nat) (v : BitVec 8) : Memory := sput memDefault m a v

/-- The little-endian number in n bytes from an address (R5). -/
def Memory.readNat (m : Memory) (a : Nat) : Nat → Nat
  | 0 => 0
  | n + 1 => (m.read a).toNat + 256 * Memory.readNat m (a + 1) n

/-- Writes a number into n bytes from an address, low byte first (R5). -/
def Memory.writeNat (m : Memory) (a : Nat) : Nat → Nat → Memory
  | 0, _ => m
  | n + 1, v => Memory.writeNat (m.write a (BitVec.ofNat 8 v)) (a + 1) n (v / 256)

/-- Writes those of n bytes whose bit of `mask` is 1. -/
def Memory.writeMasked (m : Memory) (a : Nat) : Nat → Nat → Nat → Memory
  | 0, _, _ => m
  | n + 1, v, mask =>
    Memory.writeMasked (if mask % 2 = 1 then m.write a (BitVec.ofNat 8 v) else m) (a + 1) n (v / 256) (mask / 2)

/-- Writes zero into n bytes. -/
def Memory.clear (m : Memory) (a n : Nat) : Memory := m.filter (fun p => p.1 < a || a + n ≤ p.1)

/-- Bytes from an address as pairs, zero bytes left out. -/
def cellsAt (a : Nat) : List (BitVec 8) → Memory
  | [] => []
  | b :: bs => if b = 0 then cellsAt (a + 1) bs else (a, b) :: cellsAt (a + 1) bs

/-- Replaces the bytes from an address by a list of bytes. -/
def Memory.splice (m : Memory) (a : Nat) (bs : List (BitVec 8)) : Memory :=
  m.filter (fun p => p.1 < a) ++ cellsAt a bs ++ m.filter (fun p => a + bs.length ≤ p.1)

/-- The bytes of a memory from an address. -/
def Memory.bytes (m : Memory) (a n : Nat) : List (BitVec 8) := (List.range n).map (fun i => m.read (a + i))

/-- Writes a list of bytes. -/
def Memory.writeBytes (m : Memory) (a : Nat) : List (BitVec 8) → Memory
  | [] => m
  | b :: bs => Memory.writeBytes (m.write a b) (a + 1) bs

/-- A 32-bit word of a memory. -/
def Memory.read32 (m : Memory) (a : Nat) : BitVec 32 := BitVec.ofNat 32 (m.readNat a 4)

/-- Writes a 32-bit word. -/
def Memory.write32 (m : Memory) (a : Nat) (v : BitVec 32) : Memory := m.writeNat a 4 v.toNat

def Memory.read64 (m : Memory) (a : Nat) : BitVec 64 := BitVec.ofNat 64 (m.readNat a 8)

def Memory.write64 (m : Memory) (a : Nat) (v : BitVec 64) : Memory := m.writeNat a 8 v.toNat

/-- The register of a number. -/
def Regs.rd (r : Regs) (n : Nat) : BitVec 64 := sget (fun _ => 0) r n

/-- Writes a register. -/
def Regs.wr (r : Regs) (n : Nat) (v : BitVec 64) : Regs := sput (fun _ => 0) r n v

/-- Adds a number to a set of numbers held in rising order. -/
def setAdd (k : Nat) (m : List Nat) : List Nat :=
  match m with
  | [] => [k]
  | j :: rest => if k < j then k :: j :: rest else if k = j then j :: rest else j :: setAdd k rest

/-- Removes a number from a set of numbers. -/
def setDel (k : Nat) (m : List Nat) : List Nat := m.filter (fun j => j != k)

/-- Replaces the first element that satisfies a test. -/
def replaceFirst {α : Type} (p : α → Bool) (v : α) : List α → List α
  | [] => []
  | x :: xs => if p x then v :: xs else x :: replaceFirst p v xs

/-- Bit field [lo + n - 1 : lo] of a number. -/
def field (v lo n : Nat) : Nat := v / 2 ^ lo % 2 ^ n

/-- Puts a value into bit field [lo + n - 1 : lo] of a number. -/
def setField (v lo n x : Nat) : Nat := v - field v lo n * 2 ^ lo + x % 2 ^ n * 2 ^ lo

end Sys2Proof.Machine
end

