-- ==== Sys2Proof/Decode.lean ====
section
/-! DEFINITION. Decoding and encoding (06 R130 to R140, 07 R146 to R153).
Words are read into a major and the fields of one layout, checked against the row of the opcode map in the order of
R140, and turned into an instruction; `encode` writes the words of an instruction from the same layouts. -/

namespace Sys2Proof

/-! ## Layouts -/

/-- An instruction's words as fields of one layout; format N keeps its reserved bits [31:9]. -/
inductive Form where
  | b3 (f : B3)
  | lit (f : B3) (l : BitVec 64)
  | c (f : CF)
  | m (f : MF)
  | j (f : JF)
  | n (rest : BitVec 23)
  | ext (sub : BitVec 9) (x : XF)
  deriving DecidableEq, Repr

/-- A major opcode and the fields beside it. -/
structure Enc where
  maj : BitVec 7
  form : Form
  deriving DecidableEq, Repr

/-- Format of a major (R132). -/
inductive Fmt where
  | b3 | c | m | j | n | x
  deriving DecidableEq, Repr

/-- Lengths a major allows (R146). -/
inductive Lens where
  | all | zeroOne | x | xl
  deriving DecidableEq, Repr

/-- Streams that may execute a row (R146). -/
inductive Str where
  | simt | spindle | both
  deriving DecidableEq, Repr

/-- Whether a row runs on a stream (R153). -/
def Str.runs : Str → Stream → Bool
  | .simt, .simt => true
  | .spindle, .spindle => true
  | .both, _ => true
  | _, _ => false

/-- How many vector registers an operand takes, and the source width of a literal in its place (R133, R139). -/
inductive Cnt where
  | one | two | three | four | record | ty | sh | size | atom | w24
  deriving DecidableEq, Repr

/-- What a register field of a row holds (R139, R146). -/
inductive Opnd where
  | zero
  | v (c : Cnt)
  /-- The last source, as OSEL selects it (R133). -/
  | last (c : Cnt)
  /-- The offset of a memory form (R133). -/
  | off
  | s
  /-- The first of four s registers, a multiple of 4 (R271). -/
  | s4
  /-- The first of four s registers, s0 to s124 (R231). -/
  | sc
  | k
  /-- A k register other than k0 (R174). -/
  | kn
  | b
  /-- The address of acq and rel: a b register on a SIMT wave, an x register on the Spindle stream (R221). -/
  | base
  | t
  | o
  | a
  deriving DecidableEq, Repr

inductive OselRule where
  | unused
  | oneOf (l : List Nat)
  /-- acq and rel: SIMT 0b01 or 0b10, Spindle 0b10 (R210). -/
  | acq
  deriving DecidableEq, Repr

inductive TypeRule where
  | unused
  | oneOf (l : List Nat)
  | all
  /-- Under R217. -/
  | atom
  /-- Under R239. -/
  | cpred
  deriving DecidableEq, Repr

inductive ShapeRule where
  | unused
  | any
  | upTo (n : Nat)
  | oneOf (l : List Nat)
  /-- Under R192. -/
  | fcvt
  /-- SHAPE[0] is 0 (R261). -/
  | even
  deriving DecidableEq, Repr

inductive RndRule where
  | unused
  | upTo4
  | zero
  /-- 0 to 4 for a floating type, else 0 (R196). -/
  | floatAdd
  deriving DecidableEq, Repr

inductive SatRule where
  | unused
  | used
  /-- 1 only for the formats with I32 accumulators (R263). -/
  | mma
  deriving DecidableEq, Repr

inductive ScopeRule where
  | unused
  | from1
  | from2
  deriving DecidableEq, Repr

inductive DispRule where
  | unused
  | free
  /-- The low n bits are used. -/
  | bits (n : Nat)
  /-- A path of cwait (R228). -/
  | path
  /-- The detail of evmark (R271). -/
  | mark
  /-- A special-register number (R276). -/
  | sr
  /-- OFF stands in DISP, SZSP and OSEL (R134). -/
  | off
  deriving DecidableEq, Repr

/-- One row of the opcode map with the fields it uses. -/
structure Row where
  /-- First SUB of the row. -/
  sub : Nat
  /-- Number of SUB values, from `sub`; 0 for atom, whose SUB follows R151. -/
  subs : Nat := 1
  str : Str := .simt
  d : Opnd := .zero
  sa : Opnd := .zero
  sb : Opnd := .zero
  sc : Opnd := .zero
  osel : OselRule := .unused
  type : TypeRule := .unused
  shape : ShapeRule := .unused
  rnd : RndRule := .unused
  sat : SatRule := .unused
  scope : ScopeRule := .unused
  /-- The SPACE and SIZE values of a memory form. -/
  mem : Option (List Nat × List Nat) := none
  disp : DispRule := .unused
  /-- MASK and MNEG are a predicate or a tested register. -/
  mask : Bool := false
  deriving DecidableEq, Repr

/-- A major of the opcode map. -/
structure Major where
  fmt : Fmt
  lens : Lens
  /-- Implied TYPE and SCOPE of the base form (R135, R146). -/
  type : BitVec 5 := 0
  scope : BitVec 4 := 0
  rows : List Row
  deriving DecidableEq, Repr

/-! ## The opcode map -/

/-- The integer majors (R147). -/
def majorsInteger (maj : Nat) : Option Major :=
  match maj with
  | 0x00 => some { fmt := .b3, lens := .all, rows := [
      { sub := 0, d := .v .ty, sa := .v .ty, sb := .last .ty, osel := .oneOf [0, 1, 2, 3], type := .oneOf [0, 1, 2, 3, 4, 5, 6, 7, 14, 15], sat := .used, mask := true },
      { sub := 1, d := .v .ty, sa := .v .ty, sb := .last .ty, sc := .kn, osel := .oneOf [0, 1, 2, 3], type := .oneOf [1, 3], mask := true },
      { sub := 2, d := .v .ty, sa := .v .ty, sb := .last .ty, osel := .oneOf [0, 1, 2, 3], type := .oneOf [0, 1, 2, 3, 4, 5, 6, 7, 14, 15], sat := .used, mask := true },
      { sub := 3, d := .v .ty, sa := .v .ty, sb := .last .ty, sc := .kn, osel := .oneOf [0, 1, 2, 3], type := .oneOf [1, 3], mask := true }] }
  | 0x01 => some { fmt := .b3, lens := .all, rows := [
      { sub := 0, d := .v .ty, sa := .v .ty, sb := .last .ty, osel := .oneOf [0, 1, 2, 3], type := .oneOf [0, 1, 2, 3, 4, 5, 6, 7, 14, 15], sat := .used, mask := true },
      { sub := 1, d := .v .ty, sa := .v .ty, sb := .last .ty, osel := .oneOf [0, 1, 2, 3], type := .oneOf [0, 1, 2, 3], mask := true },
      { sub := 2, d := .v .two, sa := .v .ty, sb := .last .ty, osel := .oneOf [0, 1, 2, 3], type := .oneOf [0, 1], mask := true }] }
  | 0x02 => some { fmt := .b3, lens := .all, rows := [
      { sub := 0, d := .v .ty, sa := .v .ty, sb := .v .ty, sc := .last .ty, osel := .oneOf [0, 1, 2, 3], type := .oneOf [0, 1, 2, 3, 4, 5, 6, 7], sat := .used, mask := true },
      { sub := 1, d := .v .ty, sa := .v .ty, sb := .v .ty, sc := .last .ty, osel := .oneOf [0, 1, 2, 3], type := .oneOf [0, 1, 2, 3], mask := true },
      { sub := 2, d := .v .two, sa := .v .ty, sb := .v .ty, sc := .last .two, osel := .oneOf [0, 1, 2, 3], type := .oneOf [0, 1], mask := true }] }
  | 0x03 => some { fmt := .b3, lens := .all, rows := [
      { sub := 0, d := .v .ty, sa := .v .ty, sb := .last .ty, osel := .oneOf [0, 1, 2, 3], type := .oneOf [0, 1, 2, 3, 4, 5, 6, 7, 14, 15], mask := true },
      { sub := 1, d := .v .ty, sa := .v .ty, sb := .last .ty, osel := .oneOf [0, 1, 2, 3], type := .oneOf [0, 1, 2, 3, 4, 5, 6, 7, 14, 15], mask := true }] }
  | 0x04 => some { fmt := .b3, lens := .all, rows := [
      { sub := 0, d := .v .ty, sb := .last .ty, osel := .oneOf [0, 1, 2, 3], type := .oneOf [0, 2, 4, 6, 14], sat := .used, mask := true },
      { sub := 1, d := .v .ty, sb := .last .ty, osel := .oneOf [0, 1, 2, 3], type := .oneOf [0, 2, 4, 6, 14], sat := .used, mask := true }] }
  | 0x05 => some { fmt := .b3, lens := .all, type := 1, rows := [
      { sub := 0, d := .v .ty, sa := .v .ty, sb := .last .ty, osel := .oneOf [0, 1, 2, 3], type := .oneOf [1, 3], mask := true },
      { sub := 1, d := .v .ty, sa := .v .ty, sb := .last .ty, osel := .oneOf [0, 1, 2, 3], type := .oneOf [1, 3], mask := true }] }
  | 0x06 => some { fmt := .b3, lens := .all, type := 1, rows := [
      { sub := 0, d := .v .ty, sa := .v .ty, sb := .last .ty, osel := .oneOf [0, 1, 2, 3], type := .oneOf [1, 3], mask := true },
      { sub := 1, d := .v .ty, sa := .v .ty, sb := .last .ty, osel := .oneOf [0, 1, 2, 3], type := .oneOf [1, 3], mask := true }] }
  | 0x07 => some { fmt := .b3, lens := .all, type := 1, rows := [
      { sub := 0, d := .v .ty, sa := .v .ty, sb := .last .ty, osel := .oneOf [0, 1, 2, 3], type := .oneOf [1, 3], mask := true },
      { sub := 1, d := .v .ty, sa := .v .ty, sb := .last .ty, osel := .oneOf [0, 1, 2, 3], type := .oneOf [1, 3], mask := true },
      { sub := 2, d := .v .ty, sb := .last .ty, osel := .oneOf [0, 1, 2, 3], type := .oneOf [1, 3], mask := true }] }
  | 0x08 => some { fmt := .b3, lens := .all, type := 1, rows := [
      { sub := 0, d := .v .ty, sa := .v .ty, sb := .last .one, osel := .oneOf [0, 1, 2, 3], type := .oneOf [1, 3], mask := true },
      { sub := 1, d := .v .ty, sa := .v .ty, sb := .last .one, osel := .oneOf [0, 1, 2, 3], type := .oneOf [1, 3], mask := true }] }
  | 0x09 => some { fmt := .b3, lens := .all, type := 1, rows := [
      { sub := 0, d := .v .ty, sa := .v .ty, sb := .last .one, osel := .oneOf [0, 1, 2, 3], type := .oneOf [0, 1, 2, 3], mask := true },
      { sub := 1, d := .v .ty, sa := .v .ty, sb := .last .one, osel := .oneOf [0, 1, 2, 3], type := .oneOf [1, 3], mask := true }] }
  | 0x0A => some { fmt := .b3, lens := .all, type := 1, rows := [
      { sub := 0, d := .v .ty, sa := .v .ty, sb := .v .one, sc := .last .ty, osel := .oneOf [0, 1, 2, 3], type := .oneOf [1, 3], mask := true },
      { sub := 1, d := .v .ty, sa := .v .ty, sb := .v .one, sc := .last .ty, osel := .oneOf [0, 1, 2, 3], type := .oneOf [1, 3], mask := true }] }
  | 0x0B => some { fmt := .b3, lens := .all, type := 1, rows := [
      { sub := 0, d := .v .ty, sa := .v .ty, sb := .v .one, osel := .oneOf [2], type := .oneOf [0, 1, 2, 3], mask := true },
      { sub := 1, d := .v .ty, sa := .v .ty, sb := .v .one, sc := .last .ty, osel := .oneOf [0, 1, 2, 3], type := .oneOf [1, 3], mask := true },
      { sub := 2, d := .v .ty, sb := .last .ty, osel := .oneOf [0, 1, 2, 3], type := .oneOf [1, 3], mask := true }] }
  | 0x0C => some { fmt := .b3, lens := .all, type := 1, rows := [
      { sub := 0, d := .v .one, sb := .last .ty, osel := .oneOf [0, 1, 2, 3], type := .oneOf [1, 3], mask := true },
      { sub := 1, d := .v .one, sb := .last .ty, osel := .oneOf [0, 1, 2, 3], type := .oneOf [1, 3], mask := true },
      { sub := 2, d := .v .one, sb := .last .ty, osel := .oneOf [0, 1, 2, 3], type := .oneOf [1, 3], mask := true },
      { sub := 3, d := .v .one, sb := .last .ty, osel := .oneOf [0, 1, 2, 3], type := .oneOf [0, 2], mask := true }] }
  | 0x0D => some { fmt := .b3, lens := .all, rows := [
      { sub := 0, subs := 6, d := .k, sa := .v .ty, sb := .last .ty, osel := .oneOf [0, 1, 2, 3], type := .oneOf [0, 1, 2, 3, 4, 5, 6, 7], mask := true }] }
  | 0x0E => some { fmt := .x, lens := .xl, rows := [
      { sub := 0, d := .v .one, sa := .k, sb := .v .one, sc := .last .one, osel := .oneOf [0, 1, 2, 3], type := .oneOf [0], mask := true }] }
  | 0x0F => some { fmt := .b3, lens := .all, type := 1, rows := [
      { sub := 0, d := .v .ty, sb := .last .ty, osel := .oneOf [0, 1, 2, 3], type := .oneOf [1, 3], mask := true }] }
  | 0x10 => some { fmt := .b3, lens := .all, rows := [
      { sub := 0, d := .v .ty, sb := .last .sh, osel := .oneOf [0, 1, 2, 3], type := .oneOf [0, 1, 2, 3, 4, 5, 6, 7], shape := .upTo 7, sat := .used, mask := true }] }
  | 0x11 => some { fmt := .b3, lens := .all, type := 1, rows := [
      { sub := 0, d := .v .ty, sa := .v .ty, sb := .v .ty, sc := .last .one, osel := .oneOf [0, 1, 2, 3], type := .oneOf [1], mask := true }] }
  | _ => none

/-- The scalar integer majors (R147). -/
def majorsScalar (maj : Nat) : Option Major :=
  match maj with
  | 0x18 => some { fmt := .b3, lens := .all, type := 2, rows := [
      { sub := 0, str := .both, d := .s, sa := .s, sb := .last .ty, osel := .oneOf [1, 2, 3], type := .oneOf [0, 1, 2, 3, 4, 5, 6, 7], sat := .used },
      { sub := 1, str := .both, d := .s, sa := .s, sb := .last .ty, osel := .oneOf [1, 2, 3], type := .oneOf [0, 1, 2, 3, 4, 5, 6, 7], sat := .used }] }
  | 0x19 => some { fmt := .b3, lens := .all, type := 2, rows := [
      { sub := 0, str := .both, d := .s, sa := .s, sb := .last .ty, osel := .oneOf [1, 2, 3], type := .oneOf [0, 1, 2, 3, 4, 5, 6, 7], sat := .used },
      { sub := 1, str := .both, d := .s, sa := .s, sb := .last .ty, osel := .oneOf [1, 2, 3], type := .oneOf [0, 1, 2, 3] }] }
  | 0x1A => some { fmt := .b3, lens := .all, type := 3, rows := [
      { sub := 0, str := .both, d := .s, sa := .s, sb := .last .ty, osel := .oneOf [1, 2, 3], type := .oneOf [1, 3] },
      { sub := 1, str := .both, d := .s, sa := .s, sb := .last .ty, osel := .oneOf [1, 2, 3], type := .oneOf [1, 3] }] }
  | 0x1B => some { fmt := .b3, lens := .all, type := 3, rows := [
      { sub := 0, str := .both, d := .s, sa := .s, sb := .last .ty, osel := .oneOf [1, 2, 3], type := .oneOf [1, 3] }] }
  | 0x1C => some { fmt := .b3, lens := .all, type := 3, rows := [
      { sub := 0, str := .both, d := .s, sa := .s, sb := .last .ty, osel := .oneOf [1, 2, 3], type := .oneOf [1, 3] },
      { sub := 1, str := .both, d := .s, sb := .last .ty, osel := .oneOf [1, 2, 3], type := .oneOf [1, 3] }] }
  | 0x1D => some { fmt := .b3, lens := .all, type := 3, rows := [
      { sub := 0, str := .both, d := .s, sa := .s, sb := .last .one, osel := .oneOf [1, 2, 3], type := .oneOf [1, 3] },
      { sub := 1, str := .both, d := .s, sa := .s, sb := .last .one, osel := .oneOf [1, 2, 3], type := .oneOf [1, 3] }] }
  | 0x1E => some { fmt := .b3, lens := .all, type := 3, rows := [
      { sub := 0, str := .both, d := .s, sa := .s, sb := .last .one, osel := .oneOf [1, 2, 3], type := .oneOf [0, 1, 2, 3] },
      { sub := 1, str := .both, d := .s, sa := .s, sb := .last .one, osel := .oneOf [1, 2, 3], type := .oneOf [1, 3] }] }
  | 0x1F => some { fmt := .b3, lens := .all, type := 3, rows := [
      { sub := 0, str := .both, d := .s, sa := .s, sb := .s, osel := .oneOf [2], type := .oneOf [0, 1, 2, 3] },
      { sub := 1, str := .both, d := .s, sa := .s, sb := .s, sc := .last .ty, osel := .oneOf [1, 2, 3], type := .oneOf [1, 3] }] }
  | 0x20 => some { fmt := .b3, lens := .all, type := 3, rows := [
      { sub := 0, str := .both, d := .s, sb := .last .ty, osel := .oneOf [1, 2, 3], type := .oneOf [1, 3] },
      { sub := 1, str := .both, d := .s, sb := .last .ty, osel := .oneOf [1, 2, 3], type := .oneOf [1, 3] },
      { sub := 2, str := .both, d := .s, sb := .last .ty, osel := .oneOf [1, 2, 3], type := .oneOf [1, 3] }] }
  | 0x21 => some { fmt := .b3, lens := .all, type := 2, rows := [
      { sub := 0, str := .both, d := .s, sa := .s, sb := .last .ty, osel := .oneOf [1, 2, 3], type := .oneOf [0, 1, 2, 3, 4, 5, 6, 7] },
      { sub := 1, str := .both, d := .s, sa := .s, sb := .last .ty, osel := .oneOf [1, 2, 3], type := .oneOf [0, 1, 2, 3, 4, 5, 6, 7] }] }
  | 0x22 => some { fmt := .b3, lens := .all, type := 3, rows := [
      { sub := 0, str := .both, d := .s, sb := .last .ty, osel := .oneOf [1, 2, 3], type := .oneOf [1, 3] }] }
  | 0x23 => some { fmt := .c, lens := .zeroOne, type := 2, rows := [
      { sub := 0, str := .both, d := .s, type := .oneOf [2, 3], disp := .free }] }
  | 0x24 => some { fmt := .x, lens := .xl, rows := [
      { sub := 0, subs := 10, str := .both, d := .s, sa := .s, sb := .last .two, osel := .oneOf [1, 2, 3], type := .oneOf [0] }] }
  | _ => none

/-- The floating-point majors (R148). -/
def majorsFloat (maj : Nat) : Option Major :=
  match maj with
  | 0x30 => some { fmt := .b3, lens := .all, type := 8, rows := [
      { sub := 0, d := .v .ty, sa := .v .ty, sb := .v .ty, sc := .last .ty, osel := .oneOf [0, 1, 2, 3], type := .oneOf [8, 9, 10, 11, 12, 13], rnd := .upTo4, sat := .used, mask := true },
      { sub := 1, d := .v .ty, sa := .v .ty, sb := .v .ty, sc := .last .ty, osel := .oneOf [0, 1, 2, 3], type := .oneOf [8, 9, 10, 11, 12, 13], rnd := .upTo4, sat := .used, mask := true },
      { sub := 2, d := .v .ty, sa := .v .ty, sb := .v .ty, sc := .last .ty, osel := .oneOf [0, 1, 2, 3], type := .oneOf [8, 9, 10, 11, 12, 13], rnd := .upTo4, sat := .used, mask := true }] }
  | 0x31 => some { fmt := .b3, lens := .all, type := 8, rows := [
      { sub := 0, d := .v .ty, sa := .v .ty, sb := .last .ty, osel := .oneOf [0, 1, 2, 3], type := .oneOf [8, 9, 10, 11, 12, 13], rnd := .upTo4, sat := .used, mask := true },
      { sub := 1, d := .v .ty, sa := .v .ty, sb := .last .ty, osel := .oneOf [0, 1, 2, 3], type := .oneOf [8, 9, 10, 11, 12, 13], rnd := .upTo4, sat := .used, mask := true }] }
  | 0x32 => some { fmt := .b3, lens := .all, type := 8, rows := [
      { sub := 0, d := .v .ty, sa := .v .ty, sb := .last .ty, osel := .oneOf [0, 1, 2, 3], type := .oneOf [8, 9, 10, 11, 12, 13], rnd := .upTo4, sat := .used, mask := true }] }
  | 0x33 => some { fmt := .b3, lens := .all, type := 8, rows := [
      { sub := 0, d := .v .ty, sa := .v .ty, sb := .last .ty, osel := .oneOf [0, 1, 2, 3], type := .oneOf [8, 9, 10, 11, 12, 13], mask := true },
      { sub := 1, d := .v .ty, sa := .v .ty, sb := .last .ty, osel := .oneOf [0, 1, 2, 3], type := .oneOf [8, 9, 10, 11, 12, 13], mask := true },
      { sub := 2, d := .v .ty, sa := .v .ty, sb := .last .ty, osel := .oneOf [0, 1, 2, 3], type := .oneOf [8, 9, 10, 11, 12, 13], mask := true },
      { sub := 3, d := .v .ty, sa := .v .ty, sb := .last .ty, osel := .oneOf [0, 1, 2, 3], type := .oneOf [8, 9, 10, 11, 12, 13], mask := true }] }
  | 0x34 => some { fmt := .b3, lens := .all, type := 8, rows := [
      { sub := 0, subs := 8, d := .k, sa := .v .ty, sb := .last .ty, osel := .oneOf [0, 1, 2, 3], type := .oneOf [8, 9, 10, 11], mask := true }] }
  | 0x35 => some { fmt := .b3, lens := .all, type := 8, rows := [
      { sub := 0, d := .k, sa := .v .ty, sb := .last .one, osel := .oneOf [0, 1, 2, 3], type := .oneOf [8, 9, 10, 11], mask := true }] }
  | 0x36 => some { fmt := .b3, lens := .all, type := 8, rows := [
      { sub := 0, d := .v .ty, sb := .last .ty, osel := .oneOf [0, 1, 2, 3], type := .oneOf [8, 9, 10, 11, 12, 13], rnd := .upTo4, mask := true }] }
  | 0x37 => some { fmt := .b3, lens := .all, type := 8, rows := [
      { sub := 0, d := .v .ty, sb := .last .ty, osel := .oneOf [0, 1, 2, 3], type := .oneOf [8, 10, 11, 12, 13], rnd := .upTo4, mask := true },
      { sub := 1, d := .v .ty, sb := .last .ty, osel := .oneOf [0, 1, 2, 3], type := .oneOf [8, 10, 11, 12, 13], rnd := .upTo4, mask := true },
      { sub := 2, d := .v .ty, sb := .last .ty, osel := .oneOf [0, 1, 2, 3], type := .oneOf [8, 10, 11, 12, 13], rnd := .upTo4, mask := true },
      { sub := 3, d := .v .ty, sb := .last .ty, osel := .oneOf [0, 1, 2, 3], type := .oneOf [8, 10, 11, 12, 13], rnd := .upTo4, mask := true },
      { sub := 4, d := .v .ty, sb := .last .ty, osel := .oneOf [0, 1, 2, 3], type := .oneOf [8, 10, 11, 12, 13], rnd := .upTo4, mask := true },
      { sub := 5, d := .v .ty, sb := .last .ty, osel := .oneOf [0, 1, 2, 3], type := .oneOf [8, 10, 11, 12, 13], rnd := .upTo4, mask := true },
      { sub := 6, d := .v .ty, sb := .last .ty, osel := .oneOf [0, 1, 2, 3], type := .oneOf [8, 10, 11, 12, 13], rnd := .upTo4, mask := true }] }
  | 0x38 => some { fmt := .b3, lens := .all, type := 8, rows := [
      { sub := 0, d := .v .ty, sb := .last .sh, osel := .oneOf [0, 1, 2, 3], type := .oneOf [0, 1, 2, 3, 4, 5, 6, 7, 8, 9, 10, 11, 16, 17, 18, 19, 20, 21, 22], shape := .fcvt, rnd := .upTo4, sat := .used, mask := true }] }
  | 0x39 => some { fmt := .b3, lens := .all, type := 8, rows := [
      { sub := 0, d := .v .ty, sa := .v .ty, sb := .v .ty, sc := .last .ty, osel := .oneOf [0, 1, 2, 3], type := .oneOf [8], shape := .oneOf [12, 13], rnd := .upTo4, sat := .used, mask := true },
      { sub := 1, d := .v .ty, sa := .v .ty, sb := .v .ty, sc := .last .ty, osel := .oneOf [0, 1, 2, 3], type := .oneOf [8], shape := .oneOf [16, 17], rnd := .upTo4, sat := .used, mask := true }] }
  | 0x3A => some { fmt := .b3, lens := .all, type := 8, rows := [
      { sub := 0, d := .v .ty, sb := .last .ty, osel := .oneOf [0, 1, 2, 3], type := .oneOf [8, 9, 10, 11, 12, 13], mask := true },
      { sub := 1, d := .v .ty, sb := .last .ty, osel := .oneOf [0, 1, 2, 3], type := .oneOf [8, 9, 10, 11, 12, 13], mask := true }] }
  | _ => none

/-- The cross-lane and mask majors (R148). -/
def majorsLane (maj : Nat) : Option Major :=
  match maj with
  | 0x40 => some { fmt := .b3, lens := .all, type := 1, rows := [
      { sub := 0, d := .v .ty, sa := .v .ty, sb := .last .one, osel := .oneOf [0, 1, 2, 3], type := .oneOf [1, 3], rnd := .zero, mask := true },
      { sub := 1, d := .v .ty, sa := .v .ty, sb := .last .one, osel := .oneOf [0, 1, 2, 3], type := .oneOf [1, 3], rnd := .zero, mask := true },
      { sub := 2, d := .v .ty, sa := .v .ty, sb := .last .one, osel := .oneOf [0, 1, 2, 3], type := .oneOf [1, 3], rnd := .zero, mask := true },
      { sub := 3, d := .v .ty, sa := .v .ty, sb := .last .one, osel := .oneOf [0, 1, 2, 3], type := .oneOf [1, 3], rnd := .zero, mask := true }] }
  | 0x41 => some { fmt := .b3, lens := .all, type := 1, rows := [
      { sub := 0, d := .s, sa := .v .ty, sb := .last .one, osel := .oneOf [1, 2, 3], type := .oneOf [1, 3], rnd := .zero },
      { sub := 1, d := .v .ty, sa := .s, sb := .last .one, osel := .oneOf [1, 2, 3], type := .oneOf [1, 3], rnd := .zero, mask := true }] }
  | 0x42 => some { fmt := .b3, lens := .all, rows := [
      { sub := 0, d := .s, sb := .last .ty, osel := .oneOf [0], type := .oneOf [0, 1, 2, 3, 8, 9, 10, 11], rnd := .floatAdd, mask := true },
      { sub := 1, d := .s, sb := .last .ty, osel := .oneOf [0], type := .oneOf [0, 1, 2, 3, 8, 9, 10, 11], rnd := .zero, mask := true },
      { sub := 2, d := .s, sb := .last .ty, osel := .oneOf [0], type := .oneOf [0, 1, 2, 3, 8, 9, 10, 11], rnd := .zero, mask := true },
      { sub := 3, d := .s, sb := .last .ty, osel := .oneOf [0], type := .oneOf [1, 3], rnd := .zero, mask := true },
      { sub := 4, d := .s, sb := .last .ty, osel := .oneOf [0], type := .oneOf [1, 3], rnd := .zero, mask := true },
      { sub := 5, d := .s, sb := .last .ty, osel := .oneOf [0], type := .oneOf [1, 3], rnd := .zero, mask := true }] }
  | 0x43 => some { fmt := .b3, lens := .all, rows := [
      { sub := 0, d := .v .ty, sb := .last .ty, osel := .oneOf [0], type := .oneOf [0, 1, 2, 3, 8, 9, 10, 11], rnd := .floatAdd, mask := true },
      { sub := 1, d := .v .ty, sb := .last .ty, osel := .oneOf [0], type := .oneOf [0, 1, 2, 3, 8, 9, 10, 11], rnd := .zero, mask := true },
      { sub := 2, d := .v .ty, sb := .last .ty, osel := .oneOf [0], type := .oneOf [0, 1, 2, 3, 8, 9, 10, 11], rnd := .zero, mask := true },
      { sub := 3, d := .v .ty, sb := .last .ty, osel := .oneOf [0], type := .oneOf [1, 3], rnd := .zero, mask := true },
      { sub := 4, d := .v .ty, sb := .last .ty, osel := .oneOf [0], type := .oneOf [1, 3], rnd := .zero, mask := true },
      { sub := 5, d := .v .ty, sb := .last .ty, osel := .oneOf [0], type := .oneOf [1, 3], rnd := .zero, mask := true },
      { sub := 16, d := .v .ty, sb := .last .ty, osel := .oneOf [0], type := .oneOf [0, 1, 2, 3, 8, 9, 10, 11], rnd := .floatAdd, mask := true },
      { sub := 17, d := .v .ty, sb := .last .ty, osel := .oneOf [0], type := .oneOf [0, 1, 2, 3, 8, 9, 10, 11], rnd := .zero, mask := true },
      { sub := 18, d := .v .ty, sb := .last .ty, osel := .oneOf [0], type := .oneOf [0, 1, 2, 3, 8, 9, 10, 11], rnd := .zero, mask := true },
      { sub := 19, d := .v .ty, sb := .last .ty, osel := .oneOf [0], type := .oneOf [1, 3], rnd := .zero, mask := true },
      { sub := 20, d := .v .ty, sb := .last .ty, osel := .oneOf [0], type := .oneOf [1, 3], rnd := .zero, mask := true },
      { sub := 21, d := .v .ty, sb := .last .ty, osel := .oneOf [0], type := .oneOf [1, 3], rnd := .zero, mask := true }] }
  | 0x44 => some { fmt := .b3, lens := .zeroOne, rows := [
      { sub := 0, d := .k, sa := .k, sb := .k, osel := .oneOf [0] },
      { sub := 1, d := .k, sa := .k, sb := .k, osel := .oneOf [0] },
      { sub := 2, d := .k, sa := .k, sb := .k, osel := .oneOf [0] },
      { sub := 3, d := .k, sa := .k, sb := .k, osel := .oneOf [0] },
      { sub := 4, d := .k, sa := .k, osel := .oneOf [0] },
      { sub := 5, d := .k, sa := .k, osel := .oneOf [0] }] }
  | 0x45 => some { fmt := .b3, lens := .zeroOne, rows := [
      { sub := 0, d := .s, sa := .k, osel := .oneOf [0] },
      { sub := 1, d := .k, sa := .s, osel := .oneOf [0] }] }
  | 0x46 => some { fmt := .b3, lens := .zeroOne, rows := [
      { sub := 0, d := .s, sa := .k, osel := .oneOf [0] },
      { sub := 1, d := .s, sa := .k, osel := .oneOf [0] },
      { sub := 2, d := .s, sa := .k, osel := .oneOf [0] }] }
  | 0x47 => some { fmt := .b3, lens := .zeroOne, type := 1, rows := [
      { sub := 0, d := .k, sb := .last .ty, osel := .oneOf [0], type := .oneOf [1, 3], rnd := .zero, mask := true }] }
  | 0x48 => some { fmt := .b3, lens := .zeroOne, type := 1, rows := [
      { sub := 0, d := .k, sb := .last .ty, osel := .oneOf [0], type := .oneOf [1, 3], rnd := .zero, mask := true }] }
  | 0x49 => some { fmt := .x, lens := .x, rows := [
      { sub := 0, d := .v .ty, sa := .k, sb := .last .ty, osel := .oneOf [0], type := .oneOf [1, 3], rnd := .zero, mask := true },
      { sub := 1, d := .v .ty, sa := .k, sb := .last .ty, osel := .oneOf [0], type := .oneOf [1, 3], rnd := .zero, mask := true }] }
  | _ => none

/-- The memory majors (R149). -/
def majorsMemory (maj : Nat) : Option Major :=
  match maj with
  | 0x50 => some { fmt := .m, lens := .zeroOne, rows := [
      { sub := 0, d := .v .size, sa := .b, sb := .off, osel := .oneOf [0, 1, 2], mem := some ([0, 1], [0, 1, 2, 3, 4, 5, 6, 7]), disp := .free, mask := true }] }
  | 0x51 => some { fmt := .m, lens := .zeroOne, rows := [
      { sub := 0, d := .v .size, sa := .b, sb := .off, osel := .oneOf [0, 1, 2], mem := some ([0, 1], [0, 2, 4, 5, 6, 7]), disp := .free, mask := true }] }
  | 0x52 => some { fmt := .m, lens := .zeroOne, rows := [
      { sub := 0, d := .s, sa := .b, sb := .off, osel := .oneOf [1, 2], mem := some ([0, 1], [0, 1, 2, 3, 4, 5]), disp := .free }] }
  | 0x53 => some { fmt := .m, lens := .zeroOne, rows := [
      { sub := 0, d := .s, sa := .b, sb := .off, osel := .oneOf [1, 2], mem := some ([0, 1], [0, 2, 4, 5]), disp := .free }] }
  | 0x54 => some { fmt := .x, lens := .x, rows := [
      { sub := 0, subs := 0, d := .v .ty, sa := .b, sb := .off, sc := .v .atom, osel := .oneOf [0, 1, 2], type := .atom, scope := .from1, mem := some ([0, 1], [4, 5]), disp := .free, mask := true }] }
  | 0x55 => some { fmt := .x, lens := .x, rows := [
      { sub := 0, str := .both, d := .s, sa := .base, sb := .off, osel := .acq, scope := .from1, disp := .free }] }
  | 0x56 => some { fmt := .x, lens := .x, rows := [
      { sub := 0, str := .both, d := .s, sa := .base, sb := .off, osel := .acq, scope := .from1, disp := .free },
      { sub := 1, str := .both, d := .s, sa := .base, sb := .off, osel := .acq, scope := .from1, disp := .free },
      { sub := 2, str := .both, d := .s, sa := .base, sb := .off, osel := .acq, scope := .from1, disp := .free }] }
  | 0x57 => some { fmt := .x, lens := .x, rows := [
      { sub := 0, str := .both, osel := .oneOf [0], scope := .from1 },
      { sub := 1, str := .both, osel := .oneOf [0], scope := .from1 }] }
  | 0x58 => some { fmt := .m, lens := .zeroOne, rows := [
      { sub := 0, sa := .b, sb := .off, osel := .oneOf [0, 1, 2], mem := some ([0], [0, 1, 2, 3, 4, 5, 6, 7]), disp := .free, mask := true },
      { sub := 1, sa := .b, sb := .off, osel := .oneOf [0, 1, 2], mem := some ([0], [0, 1, 2, 3, 4, 5, 6, 7]), disp := .free, mask := true }] }
  | 0x59 => some { fmt := .c, lens := .zeroOne, rows := [
      { sub := 0, d := .s, disp := .path }] }
  | 0x5A => some { fmt := .x, lens := .x, rows := [
      { sub := 0, d := .b, sa := .s, osel := .oneOf [1] }] }
  | 0x5B => some { fmt := .x, lens := .x, rows := [
      { sub := 0, d := .v .size, sa := .b, sb := .off, sc := .v .one, osel := .oneOf [0, 1, 2], mem := some ([0, 1], [0, 2, 4, 5, 6, 7]), disp := .free, mask := true }] }
  | 0x5C => some { fmt := .x, lens := .x, rows := [
      { sub := 0, str := .spindle, d := .s, sa := .s, sb := .off, osel := .oneOf [2], mem := some ([0], [0, 1, 2, 3, 4, 5]), disp := .free }] }
  | 0x5D => some { fmt := .x, lens := .x, rows := [
      { sub := 0, str := .spindle, d := .s, sa := .s, sb := .off, osel := .oneOf [2], mem := some ([0], [0, 2, 4, 5]), disp := .free }] }
  | 0x5E => some { fmt := .x, lens := .x, rows := [
      { sub := 0, d := .s, sa := .b, sb := .off, osel := .oneOf [1, 2], disp := .free }] }
  | 0x5F => some { fmt := .x, lens := .x, rows := [
      { sub := 0, d := .v .size, sa := .o, sb := .off, osel := .oneOf [0, 1, 2], mem := some ([0], [4, 5, 6, 7]), disp := .free, mask := true }] }
  | _ => none

/-- The control majors (R149). -/
def majorsControl (maj : Nat) : Option Major :=
  match maj with
  | 0x60 => some { fmt := .j, lens := .zeroOne, rows := [
      { sub := 0, str := .both, disp := .off }] }
  | 0x61 => some { fmt := .j, lens := .zeroOne, rows := [
      { sub := 0, str := .both, disp := .off }] }
  | 0x62 => some { fmt := .j, lens := .zeroOne, rows := [
      { sub := 0, disp := .off, mask := true }] }
  | 0x63 => some { fmt := .j, lens := .zeroOne, rows := [
      { sub := 0, disp := .off, mask := true }] }
  | 0x64 => some { fmt := .j, lens := .zeroOne, rows := [
      { sub := 0, disp := .off, mask := true }] }
  | 0x65 => some { fmt := .x, lens := .x, rows := [
      { sub := 0, str := .both, sa := .s, sb := .s, disp := .off },
      { sub := 1, str := .both, sa := .s, sb := .s, disp := .off },
      { sub := 2, str := .both, sa := .s, sb := .s, disp := .off },
      { sub := 3, str := .both, sa := .s, sb := .s, disp := .off },
      { sub := 4, str := .both, sa := .s, sb := .s, disp := .off },
      { sub := 5, str := .both, sa := .s, sb := .s, disp := .off },
      { sub := 6, str := .both, sa := .s, sb := .s, disp := .off },
      { sub := 7, str := .both, sa := .s, sb := .s, disp := .off },
      { sub := 8, str := .both, sa := .s, sb := .s, disp := .off },
      { sub := 9, str := .both, sa := .s, sb := .s, disp := .off }] }
  | 0x66 => some { fmt := .c, lens := .zeroOne, rows := [
      { sub := 0, str := .both, d := .s },
      { sub := 1, str := .both, d := .s }] }
  | 0x67 => some { fmt := .c, lens := .zeroOne, rows := [
      { sub := 0, str := .both, d := .s }] }
  | 0x68 => some { fmt := .x, lens := .x, rows := [
      { sub := 0, str := .both, sa := .s, disp := .off }] }
  | 0x69 => some { fmt := .x, lens := .xl, rows := [
      { sub := 0, str := .both, sa := .last .w24, osel := .oneOf [1, 3] }] }
  | 0x6A => some { fmt := .c, lens := .zeroOne, rows := [
      { sub := 0, str := .both, disp := .free }] }
  | 0x6B => some { fmt := .n, lens := .zeroOne, rows := [
      { sub := 0, str := .both }] }
  | 0x6C => some { fmt := .c, lens := .zeroOne, rows := [
      { sub := 0, str := .both, disp := .free }] }
  | 0x6D => some { fmt := .n, lens := .zeroOne, rows := [
      { sub := 0, str := .both }] }
  | 0x6E => some { fmt := .n, lens := .zeroOne, rows := [
      { sub := 0, str := .both }] }
  | _ => none

/-- The synchronisation and ray majors (R150). -/
def majorsSync (maj : Nat) : Option Major :=
  match maj with
  | 0x70 => some { fmt := .c, lens := .zeroOne, scope := 2, rows := [
      { sub := 0, scope := .from2, disp := .bits 5 },
      { sub := 1, d := .s, osel := .oneOf [0], scope := .from2, disp := .bits 5 },
      { sub := 2, sa := .s, osel := .oneOf [0], scope := .from2, disp := .bits 5 }] }
  | 0x71 => some { fmt := .x, lens := .xl, rows := [
      { sub := 0, sa := .s, sb := .s, sc := .last .two, osel := .oneOf [1, 2, 3], scope := .from2 },
      { sub := 1, sa := .s, sc := .last .one, osel := .oneOf [1, 2, 3], scope := .from2 }] }
  | 0x72 => some { fmt := .x, lens := .x, rows := [
      { sub := 0, d := .s, sa := .b, sb := .off, osel := .oneOf [1, 2], scope := .from2, mem := some ([0], [5]), disp := .free },
      { sub := 1, d := .s, sa := .b, sb := .off, osel := .oneOf [1, 2], scope := .from2, mem := some ([0], [5]), disp := .free },
      { sub := 2, d := .s, sa := .b, sb := .off, osel := .oneOf [1, 2], scope := .from2, mem := some ([0], [5]), disp := .free }] }
  | 0x73 => some { fmt := .x, lens := .x, rows := [
      { sub := 0, d := .t, sa := .s, sb := .s, sc := .sc, osel := .oneOf [1] },
      { sub := 1, d := .t, sa := .s, sb := .s, sc := .sc, osel := .oneOf [1], type := .cpred, shape := .upTo 5 }] }
  | 0x74 => some { fmt := .c, lens := .zeroOne, rows := [
      { sub := 0, disp := .bits 8 }] }
  | 0x75 => some { fmt := .x, lens := .x, rows := [
      { sub := 0, d := .b, sa := .s, osel := .oneOf [1], disp := .free },
      { sub := 1, sa := .s, sb := .s, osel := .oneOf [1] },
      { sub := 2, sa := .s, sb := .s, osel := .oneOf [1] }] }
  | 0x76 => some { fmt := .c, lens := .zeroOne, rows := [
      { sub := 0, disp := .free }] }
  | 0x77 => some { fmt := .c, lens := .zeroOne, rows := [
      { sub := 0, disp := .free }] }
  | 0x78 => some { fmt := .x, lens := .x, rows := [
      { sub := 0, sa := .v .record, osel := .oneOf [0], mask := true },
      { sub := 1, sa := .v .record, osel := .oneOf [0], mask := true },
      { sub := 2, osel := .oneOf [0], mask := true },
      { sub := 3, d := .v .four, sa := .b, sb := .last .one, osel := .oneOf [0, 1], disp := .free, mask := true },
      { sub := 4, osel := .oneOf [0] },
      { sub := 5, d := .v .one, sa := .v .three, osel := .oneOf [0], mask := true },
      { sub := 6, d := .v .one, sa := .v .three, osel := .oneOf [0], mask := true },
      { sub := 7, d := .v .three, sb := .last .one, osel := .oneOf [1, 2], mask := true },
      { sub := 8, d := .v .four, sb := .last .one, osel := .oneOf [0, 1, 2], mask := true },
      { sub := 9, d := .v .four, sb := .last .one, osel := .oneOf [0, 1, 2], shape := .upTo 2, mask := true }] }
  | _ => none

/-- The Spindle and system majors (R150). -/
def majorsSystem (maj : Nat) : Option Major :=
  match maj with
  | 0x79 => some { fmt := .x, lens := .x, rows := [
      { sub := 0, str := .spindle, sa := .o, sb := .s, osel := .oneOf [1], type := .all },
      { sub := 1, str := .spindle, sa := .o, osel := .oneOf [0] },
      { sub := 2, str := .spindle, sa := .o, osel := .oneOf [0] }] }
  | 0x7A => some { fmt := .x, lens := .x, rows := [
      { sub := 0, str := .spindle, d := .a, sa := .o, sb := .o, sc := .last .two, osel := .oneOf [1, 2], type := .all, shape := .any, rnd := .zero, sat := .mma },
      { sub := 1, str := .spindle, d := .a, sa := .o, sb := .o, sc := .last .two, osel := .oneOf [1, 2], type := .all, shape := .any, rnd := .zero, sat := .mma },
      { sub := 2, str := .spindle, d := .a, sa := .o, sb := .o, sc := .last .two, osel := .oneOf [1, 2], type := .all, shape := .any, rnd := .zero, sat := .mma },
      { sub := 3, str := .spindle, d := .a, sa := .o, sb := .o, sc := .last .two, osel := .oneOf [1, 2], type := .all, shape := .any, rnd := .zero, sat := .mma }] }
  | 0x7B => some { fmt := .x, lens := .x, rows := [
      { sub := 0, str := .spindle, d := .a, osel := .oneOf [0], type := .oneOf [0, 8, 9, 10], shape := .even },
      { sub := 1, str := .spindle, d := .a, sa := .s, sb := .last .two, osel := .oneOf [1, 2], type := .oneOf [8, 9, 10], shape := .even, rnd := .upTo4 },
      { sub := 2, str := .spindle, d := .a, sa := .s, sb := .s, osel := .oneOf [1], type := .oneOf [0, 1, 3, 6, 7, 8, 9, 10, 11, 16, 17], shape := .even, rnd := .upTo4, sat := .used, disp := .free },
      { sub := 3, str := .spindle, d := .a, sa := .s, sb := .s, osel := .oneOf [1], type := .oneOf [0, 1, 3, 6, 7, 8, 9, 10, 11, 16, 17], shape := .even, rnd := .upTo4, sat := .used, disp := .free }] }
  | 0x7C => some { fmt := .x, lens := .x, rows := [
      { sub := 0, str := .spindle, osel := .oneOf [0] },
      { sub := 1, str := .spindle, sa := .last .two, osel := .oneOf [1, 2] }] }
  | 0x7D => some { fmt := .c, lens := .zeroOne, rows := [
      { sub := 0, str := .both, d := .s, disp := .sr },
      { sub := 1, str := .both, d := .s, disp := .sr }] }
  | 0x7E => some { fmt := .x, lens := .xl, rows := [
      { sub := 0, sa := .last .two, osel := .oneOf [1, 3] },
      { sub := 1, sa := .s, sb := .s, osel := .oneOf [1] },
      { sub := 2, osel := .oneOf [0] },
      { sub := 3, str := .both, osel := .oneOf [0] },
      { sub := 4, d := .s4, osel := .oneOf [0] },
      { sub := 5, str := .both, sa := .s, osel := .oneOf [1], disp := .mark },
      { sub := 6, d := .s4, osel := .oneOf [0] },
      { sub := 7, osel := .oneOf [0] }] }
  | _ => none

/-- The major of a MAJ value, where it is assigned (R147 to R150, R152). -/
def majorOf (maj : Nat) : Option Major :=
  if maj < 0x18 then majorsInteger maj
  else if maj < 0x30 then majorsScalar maj
  else if maj < 0x40 then majorsFloat maj
  else if maj < 0x50 then majorsLane maj
  else if maj < 0x60 then majorsMemory maj
  else if maj < 0x70 then majorsControl maj
  else if maj < 0x79 then majorsSync maj
  else majorsSystem maj

/-- Whether a SUB value of major 0x54 is assigned (R151). -/
def atomSubOk (sub : Nat) : Bool :=
  let op := sub % 16
  let ord := sub / 16 % 4
  let mode := sub / 64 % 4
  op ≤ 10 && sub < 256 && (mode == 0 || (ord ≥ 2 && mode ≤ 2))

/-- Whether a row serves a SUB value. -/
def Row.serves (r : Row) (sub : Nat) : Bool :=
  if r.subs == 0 then atomSubOk sub else r.sub ≤ sub && sub < r.sub + r.subs

/-- The row of a major that serves a SUB value. -/
def Major.row (m : Major) (sub : Nat) : Option Row := m.rows.find? (·.serves sub)

/-- The stream of a special register, where its number is assigned (R276). -/
def srStream (n : Nat) : Option Str :=
  if n == 0 || n == 5 || (0x60 ≤ n && n ≤ 0x63) then some .both
  else if (1 ≤ n && n ≤ 8) || (0x10 ≤ n && n ≤ 0x41) || (0x48 ≤ n && n ≤ 0x51) || n == 0x58 || n == 0x64 then some .simt
  else if 0x80 ≤ n && n ≤ 0x86 then some .spindle
  else none

/-! ## The equal extended form -/

/-- An instruction as the extended form it is equal to (R135). -/
structure Norm where
  maj : Nat
  sub : Nat
  x : XF
  /-- Length in words. -/
  words : Nat
  /-- A base form of class V3 or S3: OSEL governs SB, and SC is the register D (R146). -/
  accum : Bool
  /-- Reserved bits of format N. -/
  rest : BitVec 23 := 0
  deriving DecidableEq, Repr

/-- The majors whose base form is accumulating (R146). -/
def accumMajor (maj : Nat) : Bool := [0x02, 0x0A, 0x0B, 0x11, 0x1F, 0x30, 0x39].contains maj

/-- The majors of class K2 (R146). -/
def k2Major (maj : Nat) : Bool := [0x0D, 0x34, 0x35].contains maj

/-- All fields zero. -/
def XF.zero : XF :=
  { disp := 0, szsp := 0, osel := 0, sc := 0, sb := 0, sa := 0, d := 0, mask := 0, mneg := 0, type := 0, shape := 0,
    rnd := 0, sat := 0, scope := 0, lit := none }

/-- The extended form of a B3 base word (R135, R146). -/
def normB3 (maj : Nat) (m : Major) (f : B3) (l : Option (BitVec 64)) : Norm :=
  let sb := if f.osel = 2 then f.s2.signExtend 8 else f.s2.setWidth 8
  let x := { XF.zero with osel := f.osel, sb := sb, sa := f.s1.setWidth 8, type := m.type, scope := m.scope, lit := l }
  let words := if l.isSome then 3 else 1
  if k2Major maj then
    { maj := maj, sub := f.d.toNat / 16, x := { x with d := BitVec.ofNat 8 (f.d.toNat % 16) }, words := words, accum := false }
  else if accumMajor maj then
    { maj := maj, sub := 0, x := { x with d := f.d.setWidth 8, sc := if maj = 0x0B ∨ maj = 0x1F then 0 else f.d.setWidth 8 },
      words := words, accum := true }
  else { maj := maj, sub := 0, x := { x with d := f.d.setWidth 8 }, words := words, accum := false }

/-- The extended form an instruction is equal to (R135). -/
def Enc.norm (e : Enc) (m : Major) : Norm :=
  let maj := e.maj.toNat
  let z := { XF.zero with type := m.type, scope := m.scope }
  match e.form with
  | .b3 f => normB3 maj m f none
  | .lit f l => normB3 maj m f (some l)
  | .c f => { maj := maj, sub := 0, x := { z with d := f.reg.setWidth 8, disp := f.imm }, words := 1, accum := false }
  | .m f =>
    { maj := maj, sub := 0, words := 1, accum := false,
      x := { z with szsp := f.szsp, sa := f.b.setWidth 8, sb := f.idx.setWidth 8, d := f.d.setWidth 8,
                    osel := if maj = 0x52 ∨ maj = 0x53 then 1 else 0 } }
  | .j f =>
    { maj := maj, sub := 0, words := 1, accum := false,
      x := { z with disp := BitVec.ofNat 16 (f.off.toNat / 128), szsp := BitVec.ofNat 5 (f.off.toNat / 4),
                    osel := BitVec.ofNat 2 f.off.toNat } }
  | .n rest => { maj := maj, sub := 0, x := z, words := 1, accum := false, rest := rest }
  | .ext sub x => { maj := maj, sub := sub.toNat, x := x, words := if x.lit.isSome then 5 else 3, accum := false }

/-! ## The checks of R140 -/

/-- Whether a major allows the length of a form (R135, R146). -/
def Major.allows (m : Major) : Form → Bool
  | .b3 _ => m.fmt == .b3
  | .lit _ _ => m.fmt == .b3 && m.lens == .all
  | .c _ => m.fmt == .c
  | .m _ => m.fmt == .m
  | .j _ => m.fmt == .j
  | .n _ => m.fmt == .n
  | .ext _ x => x.lit.isNone || m.lens == .all || m.lens == .xl

/-- Width in bits of a TYPE code as a vector or scalar operand (R136). -/
def typeWidth (t : Nat) : Nat :=
  if t == 2 || t == 3 || t == 9 then 64
  else if t == 4 || t == 5 || t == 10 || t == 11 then 16
  else if t == 6 || t == 7 || t == 16 || t == 17 then 8
  else if t == 18 || t == 19 then 6
  else if t == 20 then 4
  else 32

/-- Registers of a value of a TYPE code. -/
def typeRegs (t : Nat) : Nat := if typeWidth t == 64 then 2 else 1

/-- Bytes of a SIZE code (R137, R210). -/
def sizeBytes (z : Nat) : Nat :=
  match z % 8 with
  | 0 => 1 | 1 => 1 | 2 => 2 | 3 => 2 | 4 => 4 | 5 => 8 | 6 => 12 | _ => 16

/-- Number of registers an operand takes. -/
def Cnt.regs (c : Cnt) (n : Norm) : Nat :=
  match c with
  | .one => 1
  | .two => 2
  | .three => 3
  | .four => 4
  | .record => 32
  | .ty => typeRegs n.x.type.toNat
  | .sh => typeRegs n.x.shape.toNat
  | .size => (sizeBytes n.x.szsp.toNat + 3) / 4
  | .atom => typeRegs n.x.type.toNat * (if n.sub % 16 == 7 then 2 else 1)
  | .w24 => 1

/-- Source width w of a literal in an operand's place (R133). -/
def Cnt.width (c : Cnt) (n : Norm) : Nat :=
  match c with
  | .two => 64
  | .ty => typeWidth n.x.type.toNat
  | .sh => typeWidth n.x.shape.toNat
  | .w24 => 24
  | _ => 32

/-- Alignment of a group of registers (R139, R247). -/
def regAlign (count : Nat) : Nat :=
  if count ≤ 1 then 1 else if count == 2 then 2 else if count ≤ 4 then 4 else 8

/-- A used operand field that must hold zero does not (detail 5). -/
def Opnd.stray (p : Opnd) (osel : Nat) (space1 : Bool) (v : BitVec 8) : Bool :=
  match p with
  | .zero => v != 0
  | .last _ => osel == 3 && v != 0
  | .off => osel == 2 && v != 0
  | .b => space1 && v != 0
  | _ => false

/-- A register field is out of range or misaligned (detail 7, R139). -/
def Opnd.badReg (p : Opnd) (st : Stream) (n : Norm) (osel : Nat) (v : BitVec 8) : Bool :=
  let r := v.toNat
  let sLimit := if st = .spindle then 32 else 128
  let vec (c : Cnt) : Bool := r % regAlign (c.regs n) != 0 || r + c.regs n > 256
  match p with
  | .zero => false
  | .v c => vec c
  | .last c => if osel == 0 then vec c else if osel == 1 then r ≥ sLimit else false
  | .off => if osel == 0 then false else if osel == 1 then r ≥ sLimit else false
  | .s => r ≥ sLimit
  | .s4 => r % 4 != 0 || r > 124
  | .sc => r > 124
  | .k => r ≥ 16
  | .kn => r ≥ 16
  | .b => r ≥ 16
  | .base => if st = .spindle then r ≥ 32 else r ≥ 16
  | .t => r ≥ 8
  | .o => r ≥ 64
  | .a => r ≥ 32

/-- The operand classes as the form reads them: in an accumulating base form OSEL governs SB and SC is D (R146). -/
def Row.opnds (r : Row) (accum : Bool) : Opnd × Opnd × Opnd × Opnd :=
  if accum then
    let toReg : Opnd → Opnd := fun p => match p with
      | .last c => if r.str == .both then .s else .v c
      | p => p
    let toLast : Opnd → Opnd := fun p => match p with
      | .v c => .last c
      | .s => .last .ty
      | p => p
    -- the amount of a funnel shift and the control of a bit field are 32 bits wide (R172)
    let sb := if r.str == .both then .last .one else toLast r.sb
    (r.d, r.sa, sb, toReg r.sc)
  else (r.d, r.sa, r.sb, r.sc)

/-- OSEL values a row accepts in a form: the accumulating base form takes those of R133 (R146). -/
def Row.oselOk (r : Row) (st : Stream) (accum : Bool) (osel : Nat) : Bool :=
  match r.osel with
  | .unused => true
  | .oneOf l => if accum then (if r.str == .both then osel != 0 else true) else l.contains osel
  | .acq => if st = .spindle then osel == 2 else osel == 1 || osel == 2

/-- TYPE, SIZE and ORD of an atomic (R217). -/
def atomTypeOk (n : Norm) : Bool :=
  let op := n.sub % 16
  let ord := n.sub / 16 % 4
  let t := n.x.type.toNat
  let ok :=
    if op ≤ 2 then t ≤ 3
    else if op ≤ 7 then t == 1 || t == 3
    else if op == 8 then t == 8 || t == 9 || t == 12 || t == 13
    else t == 8 || t == 9
  let size := if typeWidth t == 64 then 5 else 4
  ok && n.x.szsp.toNat % 8 == size && (ord == 0 || t == 2 || t == 3)

/-- TYPE of a copy with reduction (R239). -/
def cpredTypeOk (shape t : Nat) : Bool :=
  if shape == 0 then t ≤ 3 || (8 ≤ t && t ≤ 11)
  else if shape ≤ 2 then t ≤ 3 || t == 8 || t == 9
  else t == 1 || t == 3

def typeOk (r : TypeRule) (n : Norm) : Bool :=
  match r with
  | .unused => true
  | .oneOf l => l.contains n.x.type.toNat
  | .all => true
  | .atom => atomTypeOk n
  | .cpred => cpredTypeOk n.x.shape.toNat n.x.type.toNat

def shapeOk (r : ShapeRule) (n : Norm) : Bool :=
  let v := n.x.shape.toNat
  match r with
  | .unused => true
  | .any => true
  | .upTo k => v ≤ k
  | .oneOf l => l.contains v
  | .fcvt => (v ≤ 11 || (16 ≤ v && v ≤ 22)) && !(v ≤ 7 && n.x.type.toNat ≤ 7)
  | .even => v % 2 == 0

def rndOk (r : RndRule) (n : Norm) : Bool :=
  let v := n.x.rnd.toNat
  match r with
  | .unused => true
  | .upTo4 => v ≤ 4
  | .zero => v == 0
  | .floatAdd => v == 0 || (v ≤ 4 && n.x.type.toNat ≥ 8)

def satOk (r : SatRule) (n : Norm) : Bool :=
  match r with
  | .mma => n.x.sat == 0 || [9, 10, 11, 12, 13, 28].contains n.x.type.toNat
  | _ => true

def scopeOk (r : ScopeRule) (st : Stream) (v : Nat) : Bool :=
  match r with
  | .unused => true
  | .from1 => v ≥ 1 && v != 7 && (v < 8 || st = .simt)
  | .from2 => v ≥ 2 && v != 7 && (v < 8 || st = .simt)

def dispOk (r : DispRule) (st : Stream) (v : Nat) : Bool :=
  match r with
  | .path => v % 8 ≤ 5
  | .mark => v ≤ 0x0FFF
  | .sr => match srStream v with
    | some q => q.runs st
    | none => false
  | _ => true

/-- Reserved bits of DISP are set (detail 5). -/
def dispStray (r : DispRule) (v : Nat) : Bool :=
  match r with
  | .unused => v != 0
  | .bits k => v ≥ 2 ^ k
  | .path => v ≥ 8
  | _ => false

/-- A literal's bits at and above the source width are zero (R133). -/
def litOk (p : Opnd) (n : Norm) : Bool :=
  match p, n.x.lit with
  | .last c, some l => l.toNat < 2 ^ c.width n
  | _, _ => true

/-- Detail 5: a field that the instruction does not use is nonzero, or a reserved bit is set (R140, R152). -/
def strayField (r : Row) (n : Norm) : Bool :=
  let x := n.x
  let off := r.disp == .off
  let osel := if off then 0 else x.osel.toNat
  let space1 := r.mem.isSome && x.szsp.toNat ≥ 16
  let (pd, pa, pb, pc) := r.opnds n.accum
  n.rest != 0
  || pd.stray osel space1 x.d || pa.stray osel space1 x.sa || pb.stray osel space1 x.sb || pc.stray osel space1 x.sc
  || (r.osel == .unused && osel != 0)
  || (r.type == .unused && x.type != 0)
  || (r.shape == .unused && x.shape != 0)
  || (r.rnd == .unused && x.rnd != 0)
  || (r.sat == .unused && x.sat != 0)
  || (r.scope == .unused && x.scope != 0)
  || (!off && r.mem.isNone && x.szsp != 0)
  || (!off && dispStray r.disp x.disp.toNat)
  || (!r.mask && (x.mask != 0 || x.mneg != 0))
  || (x.lit.isSome && osel != 3)
  || (r.mem.isSome && osel == 2 && x.szsp.toNat / 8 % 2 == 1)

/-- Detail 6: a used field holds a reserved value (R140). -/
def reservedValue (st : Stream) (r : Row) (n : Norm) : Bool :=
  let x := n.x
  let off := r.disp == .off
  let osel := x.osel.toNat
  let (_, pa, pb, pc) := r.opnds n.accum
  (!off && !r.oselOk st n.accum osel)
  || (!off && r.osel != .unused && osel == 3 && x.lit.isNone)
  || !typeOk r.type n || !shapeOk r.shape n || !rndOk r.rnd n || !satOk r.sat n
  || !scopeOk r.scope st x.scope.toNat
  || (r.mask && x.mask == 0 && x.mneg == 1)
  || (!off && !dispOk r.disp st x.disp.toNat)
  || (match r.mem with
      | some (spaces, sizes) =>
        !spaces.contains (x.szsp.toNat / 16) || !sizes.contains (x.szsp.toNat % 8)
        || osel == 3
      | none => false)
  || !litOk pa n || !litOk pb n || !litOk pc n
  || (r.sc == .kn && x.sc == 0)

/-- Detail 7: a register field is out of range, or a multi-register operand is misaligned (R139). -/
def badEncoding (st : Stream) (r : Row) (n : Norm) : Bool :=
  let osel := n.x.osel.toNat
  let (pd, pa, pb, pc) := r.opnds n.accum
  pd.badReg st n osel n.x.d || pa.badReg st n osel n.x.sa || pb.badReg st n osel n.x.sb || pc.badReg st n osel n.x.sc

/-- The checks of R140 in their order: the detail of the first that fails (DEDUCED, log entry 18). -/
def Enc.check (st : Stream) (e : Enc) : Option (BitVec 3) :=
  match majorOf e.maj.toNat with
  | none => some 1
  | some m =>
    if !m.allows e.form then some 2
    else
      let n := e.norm m
      match m.row n.sub with
      | none => some 3
      | some r =>
        if !r.str.runs st then some 4
        else if strayField r n then some 5
        else if reservedValue st r n then some 6
        else if badEncoding st r n then some 7
        else none

/-! ## Words -/

/-- Bits [lo + n - 1 : lo] of a word. -/
def bits (w : W32) (lo n : Nat) : BitVec n := BitVec.ofNat n (w.toNat / 2 ^ lo)

/-- The length in words that LEN states (R130). -/
def lenWords (w : W32) : Nat :=
  match w.toNat % 4 with
  | 0 => 1
  | 3 => 5
  | _ => 3

def readB3 (w : W32) : B3 := { s2 := bits w 25 7, s1 := bits w 18 7, d := bits w 11 7, osel := bits w 9 2 }
def readCF (w : W32) : CF := { reg := bits w 25 7, imm := bits w 9 16 }
def readMF (w : W32) : MF := { szsp := bits w 27 5, b := bits w 23 4, idx := bits w 16 7, d := bits w 9 7 }
def readJF (w : W32) : JF := { off := bits w 9 23 }

/-- The 64-bit literal of two words, low word first (R130). -/
def readLit (lo hi : W32) : BitVec 64 := BitVec.ofNat 64 (lo.toNat + 2 ^ 32 * hi.toNat)

/-- The fields of the extended format (R134). -/
def readXF (w w1 w2 : W32) (l : Option (BitVec 64)) : XF :=
  { disp := bits w 16 16, szsp := bits w 11 5, osel := bits w 9 2,
    sc := bits w1 24 8, sb := bits w1 16 8, sa := bits w1 8 8, d := bits w1 0 8,
    mask := bits w2 28 4, mneg := bits w2 27 1, type := bits w2 22 5, shape := bits w2 17 5,
    rnd := bits w2 14 3, sat := bits w2 13 1, scope := bits w2 9 4, lit := l }

/-- The fields of a base word of a major (R132); `none` where the major has no base form. -/
def readBase (fmt : Fmt) (w : W32) : Option Form :=
  match fmt with
  | .b3 => some (.b3 (readB3 w))
  | .c => some (.c (readCF w))
  | .m => some (.m (readMF w))
  | .j => some (.j (readJF w))
  | .n => some (.n (bits w 9 23))
  | .x => none

/-- Reads the words of one instruction; otherwise the detail of R140 that the first word already meets. -/
def readEnc (ws : List W32) : Decoded Enc :=
  match ws with
  | [] => .illegal 2
  | w :: rest =>
    let maj : BitVec 7 := bits w 2 7
    match majorOf maj.toNat with
    | none => .illegal 1
    | some m =>
      match w.toNat % 4, rest with
      | 0, _ =>
        match readBase m.fmt w with
        | some f => .ok { maj := maj, form := f }
        | none => .illegal 2
      | 1, w1 :: w2 :: _ => .ok { maj := maj, form := .ext (bits w2 0 9) (readXF w w1 w2 none) }
      | 2, lo :: hi :: _ =>
        if m.fmt == .b3 && m.lens == .all then .ok { maj := maj, form := .lit (readB3 w) (readLit lo hi) } else .illegal 2
      | 3, w1 :: w2 :: lo :: hi :: _ =>
        .ok { maj := maj, form := .ext (bits w2 0 9) (readXF w w1 w2 (some (readLit lo hi))) }
      | _, _ => .illegal 2

/-! ## Instructions and their fields

A definition that builds an `Instr` is noncomputable: compiled code holds at most 244 constructors with fields.
The kernel evaluates it. -/

/-- The major and fields of an instruction; `none` for an event row, which has no words. -/
def Instr.toEnc : Instr → Option Enc
  | .iadd f => some ⟨0x00, .b3 f⟩
  | .iaddX (.lit f l) => some ⟨0x00, .lit f l⟩
  | .iaddX (.ext x) => some ⟨0x00, .ext 0 x⟩
  | .iaddc x => some ⟨0x00, .ext 1 x⟩
  | .isub x => some ⟨0x00, .ext 2 x⟩
  | .isubb x => some ⟨0x00, .ext 3 x⟩
  | .imul f => some ⟨0x01, .b3 f⟩
  | .imulX (.lit f l) => some ⟨0x01, .lit f l⟩
  | .imulX (.ext x) => some ⟨0x01, .ext 0 x⟩
  | .imulhi x => some ⟨0x01, .ext 1 x⟩
  | .imulw x => some ⟨0x01, .ext 2 x⟩
  | .imad f => some ⟨0x02, .b3 f⟩
  | .imadX (.lit f l) => some ⟨0x02, .lit f l⟩
  | .imadX (.ext x) => some ⟨0x02, .ext 0 x⟩
  | .imadhi x => some ⟨0x02, .ext 1 x⟩
  | .imadw x => some ⟨0x02, .ext 2 x⟩
  | .imin f => some ⟨0x03, .b3 f⟩
  | .iminX (.lit f l) => some ⟨0x03, .lit f l⟩
  | .iminX (.ext x) => some ⟨0x03, .ext 0 x⟩
  | .imax x => some ⟨0x03, .ext 1 x⟩
  | .iabs f => some ⟨0x04, .b3 f⟩
  | .iabsX (.lit f l) => some ⟨0x04, .lit f l⟩
  | .iabsX (.ext x) => some ⟨0x04, .ext 0 x⟩
  | .ineg x => some ⟨0x04, .ext 1 x⟩
  | .and f => some ⟨0x05, .b3 f⟩
  | .andX (.lit f l) => some ⟨0x05, .lit f l⟩
  | .andX (.ext x) => some ⟨0x05, .ext 0 x⟩
  | .andn x => some ⟨0x05, .ext 1 x⟩
  | .or f => some ⟨0x06, .b3 f⟩
  | .orX (.lit f l) => some ⟨0x06, .lit f l⟩
  | .orX (.ext x) => some ⟨0x06, .ext 0 x⟩
  | .orn x => some ⟨0x06, .ext 1 x⟩
  | .xor f => some ⟨0x07, .b3 f⟩
  | .xorX (.lit f l) => some ⟨0x07, .lit f l⟩
  | .xorX (.ext x) => some ⟨0x07, .ext 0 x⟩
  | .xnor x => some ⟨0x07, .ext 1 x⟩
  | .not x => some ⟨0x07, .ext 2 x⟩
  | .shl f => some ⟨0x08, .b3 f⟩
  | .shlX (.lit f l) => some ⟨0x08, .lit f l⟩
  | .shlX (.ext x) => some ⟨0x08, .ext 0 x⟩
  | .rotl x => some ⟨0x08, .ext 1 x⟩
  | .shr f => some ⟨0x09, .b3 f⟩
  | .shrX (.lit f l) => some ⟨0x09, .lit f l⟩
  | .shrX (.ext x) => some ⟨0x09, .ext 0 x⟩
  | .rotr x => some ⟨0x09, .ext 1 x⟩
  | .fshl f => some ⟨0x0A, .b3 f⟩
  | .fshlX (.lit f l) => some ⟨0x0A, .lit f l⟩
  | .fshlX (.ext x) => some ⟨0x0A, .ext 0 x⟩
  | .fshr x => some ⟨0x0A, .ext 1 x⟩
  | .bfx f => some ⟨0x0B, .b3 f⟩
  | .bfxX (.lit f l) => some ⟨0x0B, .lit f l⟩
  | .bfxX (.ext x) => some ⟨0x0B, .ext 0 x⟩
  | .bfi x => some ⟨0x0B, .ext 1 x⟩
  | .bfrev x => some ⟨0x0B, .ext 2 x⟩
  | .popc f => some ⟨0x0C, .b3 f⟩
  | .popcX (.lit f l) => some ⟨0x0C, .lit f l⟩
  | .popcX (.ext x) => some ⟨0x0C, .ext 0 x⟩
  | .clz x => some ⟨0x0C, .ext 1 x⟩
  | .ctz x => some ⟨0x0C, .ext 2 x⟩
  | .cls x => some ⟨0x0C, .ext 3 x⟩
  | .icmp f => some ⟨0x0D, .b3 f⟩
  | .icmpX (.lit f l) => some ⟨0x0D, .lit f l⟩
  | .icmpX (.ext s) => some ⟨0x0D, .ext s.sub s.x⟩
  | .sel x => some ⟨0x0E, .ext 0 x⟩
  | .mov f => some ⟨0x0F, .b3 f⟩
  | .movX (.lit f l) => some ⟨0x0F, .lit f l⟩
  | .movX (.ext x) => some ⟨0x0F, .ext 0 x⟩
  | .icvt f => some ⟨0x10, .b3 f⟩
  | .icvtX (.lit f l) => some ⟨0x10, .lit f l⟩
  | .icvtX (.ext x) => some ⟨0x10, .ext 0 x⟩
  | .prmt f => some ⟨0x11, .b3 f⟩
  | .prmtX (.lit f l) => some ⟨0x11, .lit f l⟩
  | .prmtX (.ext x) => some ⟨0x11, .ext 0 x⟩
  | .sadd f => some ⟨0x18, .b3 f⟩
  | .saddX (.lit f l) => some ⟨0x18, .lit f l⟩
  | .saddX (.ext x) => some ⟨0x18, .ext 0 x⟩
  | .ssub x => some ⟨0x18, .ext 1 x⟩
  | .smul f => some ⟨0x19, .b3 f⟩
  | .smulX (.lit f l) => some ⟨0x19, .lit f l⟩
  | .smulX (.ext x) => some ⟨0x19, .ext 0 x⟩
  | .smulhi x => some ⟨0x19, .ext 1 x⟩
  | .sand f => some ⟨0x1A, .b3 f⟩
  | .sandX (.lit f l) => some ⟨0x1A, .lit f l⟩
  | .sandX (.ext x) => some ⟨0x1A, .ext 0 x⟩
  | .sandn x => some ⟨0x1A, .ext 1 x⟩
  | .sor f => some ⟨0x1B, .b3 f⟩
  | .sorX (.lit f l) => some ⟨0x1B, .lit f l⟩
  | .sorX (.ext x) => some ⟨0x1B, .ext 0 x⟩
  | .sxor f => some ⟨0x1C, .b3 f⟩
  | .sxorX (.lit f l) => some ⟨0x1C, .lit f l⟩
  | .sxorX (.ext x) => some ⟨0x1C, .ext 0 x⟩
  | .snot x => some ⟨0x1C, .ext 1 x⟩
  | .sshl f => some ⟨0x1D, .b3 f⟩
  | .sshlX (.lit f l) => some ⟨0x1D, .lit f l⟩
  | .sshlX (.ext x) => some ⟨0x1D, .ext 0 x⟩
  | .srotl x => some ⟨0x1D, .ext 1 x⟩
  | .sshr f => some ⟨0x1E, .b3 f⟩
  | .sshrX (.lit f l) => some ⟨0x1E, .lit f l⟩
  | .sshrX (.ext x) => some ⟨0x1E, .ext 0 x⟩
  | .srotr x => some ⟨0x1E, .ext 1 x⟩
  | .sbfx f => some ⟨0x1F, .b3 f⟩
  | .sbfxX (.lit f l) => some ⟨0x1F, .lit f l⟩
  | .sbfxX (.ext x) => some ⟨0x1F, .ext 0 x⟩
  | .sbfi x => some ⟨0x1F, .ext 1 x⟩
  | .spopc f => some ⟨0x20, .b3 f⟩
  | .spopcX (.lit f l) => some ⟨0x20, .lit f l⟩
  | .spopcX (.ext x) => some ⟨0x20, .ext 0 x⟩
  | .sclz x => some ⟨0x20, .ext 1 x⟩
  | .sctz x => some ⟨0x20, .ext 2 x⟩
  | .smin f => some ⟨0x21, .b3 f⟩
  | .sminX (.lit f l) => some ⟨0x21, .lit f l⟩
  | .sminX (.ext x) => some ⟨0x21, .ext 0 x⟩
  | .smax x => some ⟨0x21, .ext 1 x⟩
  | .smov f => some ⟨0x22, .b3 f⟩
  | .smovX (.lit f l) => some ⟨0x22, .lit f l⟩
  | .smovX (.ext x) => some ⟨0x22, .ext 0 x⟩
  | .smovi f => some ⟨0x23, .c f⟩
  | .smoviX x => some ⟨0x23, .ext 0 x⟩
  | .scmp s => some ⟨0x24, .ext s.sub s.x⟩
  | .ffma f => some ⟨0x30, .b3 f⟩
  | .ffmaX (.lit f l) => some ⟨0x30, .lit f l⟩
  | .ffmaX (.ext x) => some ⟨0x30, .ext 0 x⟩
  | .ffms x => some ⟨0x30, .ext 1 x⟩
  | .fnma x => some ⟨0x30, .ext 2 x⟩
  | .fadd f => some ⟨0x31, .b3 f⟩
  | .faddX (.lit f l) => some ⟨0x31, .lit f l⟩
  | .faddX (.ext x) => some ⟨0x31, .ext 0 x⟩
  | .fsub x => some ⟨0x31, .ext 1 x⟩
  | .fmul f => some ⟨0x32, .b3 f⟩
  | .fmulX (.lit f l) => some ⟨0x32, .lit f l⟩
  | .fmulX (.ext x) => some ⟨0x32, .ext 0 x⟩
  | .fmin f => some ⟨0x33, .b3 f⟩
  | .fminX (.lit f l) => some ⟨0x33, .lit f l⟩
  | .fminX (.ext x) => some ⟨0x33, .ext 0 x⟩
  | .fmax x => some ⟨0x33, .ext 1 x⟩
  | .fminnum x => some ⟨0x33, .ext 2 x⟩
  | .fmaxnum x => some ⟨0x33, .ext 3 x⟩
  | .fcmp f => some ⟨0x34, .b3 f⟩
  | .fcmpX (.lit f l) => some ⟨0x34, .lit f l⟩
  | .fcmpX (.ext s) => some ⟨0x34, .ext s.sub s.x⟩
  | .fclass f => some ⟨0x35, .b3 f⟩
  | .fclassX (.lit f l) => some ⟨0x35, .lit f l⟩
  | .fclassX (.ext x) => some ⟨0x35, .ext 0 x⟩
  | .frnd f => some ⟨0x36, .b3 f⟩
  | .frndX (.lit f l) => some ⟨0x36, .lit f l⟩
  | .frndX (.ext x) => some ⟨0x36, .ext 0 x⟩
  | .rcp f => some ⟨0x37, .b3 f⟩
  | .rcpX (.lit f l) => some ⟨0x37, .lit f l⟩
  | .rcpX (.ext x) => some ⟨0x37, .ext 0 x⟩
  | .rsqrt x => some ⟨0x37, .ext 1 x⟩
  | .sqrt x => some ⟨0x37, .ext 2 x⟩
  | .exp2 x => some ⟨0x37, .ext 3 x⟩
  | .log2 x => some ⟨0x37, .ext 4 x⟩
  | .sinpi x => some ⟨0x37, .ext 5 x⟩
  | .cospi x => some ⟨0x37, .ext 6 x⟩
  | .fcvt f => some ⟨0x38, .b3 f⟩
  | .fcvtX (.lit f l) => some ⟨0x38, .lit f l⟩
  | .fcvtX (.ext x) => some ⟨0x38, .ext 0 x⟩
  | .fdot2 x => some ⟨0x39, .ext 0 x⟩
  | .fdot4 x => some ⟨0x39, .ext 1 x⟩
  | .fabs f => some ⟨0x3A, .b3 f⟩
  | .fabsX (.lit f l) => some ⟨0x3A, .lit f l⟩
  | .fabsX (.ext x) => some ⟨0x3A, .ext 0 x⟩
  | .fneg x => some ⟨0x3A, .ext 1 x⟩
  | .shfl f => some ⟨0x40, .b3 f⟩
  | .shflX (.lit f l) => some ⟨0x40, .lit f l⟩
  | .shflX (.ext x) => some ⟨0x40, .ext 0 x⟩
  | .shflxor x => some ⟨0x40, .ext 1 x⟩
  | .shflup x => some ⟨0x40, .ext 2 x⟩
  | .shfldn x => some ⟨0x40, .ext 3 x⟩
  | .rdlane f => some ⟨0x41, .b3 f⟩
  | .rdlaneX (.lit f l) => some ⟨0x41, .lit f l⟩
  | .rdlaneX (.ext x) => some ⟨0x41, .ext 0 x⟩
  | .wrlane x => some ⟨0x41, .ext 1 x⟩
  | .redadd f => some ⟨0x42, .b3 f⟩
  | .redaddX (.lit f l) => some ⟨0x42, .lit f l⟩
  | .redaddX (.ext x) => some ⟨0x42, .ext 0 x⟩
  | .redmin x => some ⟨0x42, .ext 1 x⟩
  | .redmax x => some ⟨0x42, .ext 2 x⟩
  | .redand x => some ⟨0x42, .ext 3 x⟩
  | .redor x => some ⟨0x42, .ext 4 x⟩
  | .redxor x => some ⟨0x42, .ext 5 x⟩
  | .scanadd f => some ⟨0x43, .b3 f⟩
  | .scanaddX (.lit f l) => some ⟨0x43, .lit f l⟩
  | .scanaddX (.ext x) => some ⟨0x43, .ext 0 x⟩
  | .scanmin x => some ⟨0x43, .ext 1 x⟩
  | .scanmax x => some ⟨0x43, .ext 2 x⟩
  | .scanand x => some ⟨0x43, .ext 3 x⟩
  | .scanor x => some ⟨0x43, .ext 4 x⟩
  | .scanxor x => some ⟨0x43, .ext 5 x⟩
  | .xscanadd x => some ⟨0x43, .ext 16 x⟩
  | .xscanmin x => some ⟨0x43, .ext 17 x⟩
  | .xscanmax x => some ⟨0x43, .ext 18 x⟩
  | .xscanand x => some ⟨0x43, .ext 19 x⟩
  | .xscanor x => some ⟨0x43, .ext 20 x⟩
  | .xscanxor x => some ⟨0x43, .ext 21 x⟩
  | .kand f => some ⟨0x44, .b3 f⟩
  | .kandX x => some ⟨0x44, .ext 0 x⟩
  | .kor x => some ⟨0x44, .ext 1 x⟩
  | .kxor x => some ⟨0x44, .ext 2 x⟩
  | .kandn x => some ⟨0x44, .ext 3 x⟩
  | .knot x => some ⟨0x44, .ext 4 x⟩
  | .kmov x => some ⟨0x44, .ext 5 x⟩
  | .ktos f => some ⟨0x45, .b3 f⟩
  | .ktosX x => some ⟨0x45, .ext 0 x⟩
  | .stok x => some ⟨0x45, .ext 1 x⟩
  | .kpopc f => some ⟨0x46, .b3 f⟩
  | .kpopcX x => some ⟨0x46, .ext 0 x⟩
  | .kffs x => some ⟨0x46, .ext 1 x⟩
  | .kfls x => some ⟨0x46, .ext 2 x⟩
  | .ballot f => some ⟨0x47, .b3 f⟩
  | .ballotX x => some ⟨0x47, .ext 0 x⟩
  | .vmatch f => some ⟨0x48, .b3 f⟩
  | .vmatchX x => some ⟨0x48, .ext 0 x⟩
  | .compact x => some ⟨0x49, .ext 0 x⟩
  | .expand x => some ⟨0x49, .ext 1 x⟩
  | .ld f => some ⟨0x50, .m f⟩
  | .ldX x => some ⟨0x50, .ext 0 x⟩
  | .st f => some ⟨0x51, .m f⟩
  | .stX x => some ⟨0x51, .ext 0 x⟩
  | .lds f => some ⟨0x52, .m f⟩
  | .ldsX x => some ⟨0x52, .ext 0 x⟩
  | .sts f => some ⟨0x53, .m f⟩
  | .stsX x => some ⟨0x53, .ext 0 x⟩
  | .atom s => some ⟨0x54, .ext s.sub s.x⟩
  | .acq x => some ⟨0x55, .ext 0 x⟩
  | .rel x => some ⟨0x56, .ext 0 x⟩
  | .relFresh x => some ⟨0x56, .ext 1 x⟩
  | .relAll x => some ⟨0x56, .ext 2 x⟩
  | .fence x => some ⟨0x57, .ext 0 x⟩
  | .fenceUn x => some ⟨0x57, .ext 1 x⟩
  | .pref f => some ⟨0x58, .m f⟩
  | .prefX x => some ⟨0x58, .ext 0 x⟩
  | .evict x => some ⟨0x58, .ext 1 x⟩
  | .cwait f => some ⟨0x59, .c f⟩
  | .cwaitX x => some ⟨0x59, .ext 0 x⟩
  | .btrans x => some ⟨0x5A, .ext 0 x⟩
  | .stmsk x => some ⟨0x5B, .ext 0 x⟩
  | .xld x => some ⟨0x5C, .ext 0 x⟩
  | .xst x => some ⟨0x5D, .ext 0 x⟩
  | .sigadd x => some ⟨0x5E, .ext 0 x⟩
  | .ostore x => some ⟨0x5F, .ext 0 x⟩
  | .br f => some ⟨0x60, .j f⟩
  | .brX x => some ⟨0x60, .ext 0 x⟩
  | .call f => some ⟨0x61, .j f⟩
  | .callX x => some ⟨0x61, .ext 0 x⟩
  | .bany f => some ⟨0x62, .j f⟩
  | .banyX x => some ⟨0x62, .ext 0 x⟩
  | .ball f => some ⟨0x63, .j f⟩
  | .ballX x => some ⟨0x63, .ext 0 x⟩
  | .bnone f => some ⟨0x64, .j f⟩
  | .bnoneX x => some ⟨0x64, .ext 0 x⟩
  | .beq x => some ⟨0x65, .ext 0 x⟩
  | .bne x => some ⟨0x65, .ext 1 x⟩
  | .blt x => some ⟨0x65, .ext 2 x⟩
  | .ble x => some ⟨0x65, .ext 3 x⟩
  | .bgt x => some ⟨0x65, .ext 4 x⟩
  | .bge x => some ⟨0x65, .ext 5 x⟩
  | .bltu x => some ⟨0x65, .ext 6 x⟩
  | .bleu x => some ⟨0x65, .ext 7 x⟩
  | .bgtu x => some ⟨0x65, .ext 8 x⟩
  | .bgeu x => some ⟨0x65, .ext 9 x⟩
  | .jmp f => some ⟨0x66, .c f⟩
  | .jmpX x => some ⟨0x66, .ext 0 x⟩
  | .callind x => some ⟨0x66, .ext 1 x⟩
  | .ret f => some ⟨0x67, .c f⟩
  | .retX x => some ⟨0x67, .ext 0 x⟩
  | .loopnz x => some ⟨0x68, .ext 0 x⟩
  | .yield x => some ⟨0x69, .ext 0 x⟩
  | .sleep f => some ⟨0x6A, .c f⟩
  | .sleepX x => some ⟨0x6A, .ext 0 x⟩
  | .nop => some ⟨0x6B, .n 0⟩
  | .nopX => some ⟨0x6B, .ext 0 XF.zero⟩
  | .trap f => some ⟨0x6C, .c f⟩
  | .trapX x => some ⟨0x6C, .ext 0 x⟩
  | .trapret => some ⟨0x6D, .n 0⟩
  | .trapretX => some ⟨0x6D, .ext 0 XF.zero⟩
  | .exit => some ⟨0x6E, .n 0⟩
  | .exitX => some ⟨0x6E, .ext 0 XF.zero⟩
  | .bar f => some ⟨0x70, .c f⟩
  | .barX x => some ⟨0x70, .ext 0 x⟩
  | .bararr x => some ⟨0x70, .ext 1 x⟩
  | .barwait x => some ⟨0x70, .ext 2 x⟩
  | .bbarr x => some ⟨0x71, .ext 0 x⟩
  | .bbwait x => some ⟨0x71, .ext 1 x⟩
  | .tlinc x => some ⟨0x72, .ext 0 x⟩
  | .tlset x => some ⟨0x72, .ext 1 x⟩
  | .tlwait x => some ⟨0x72, .ext 2 x⟩
  | .cp x => some ⟨0x73, .ext 0 x⟩
  | .cpred x => some ⟨0x73, .ext 1 x⟩
  | .twait f => some ⟨0x74, .c f⟩
  | .twaitX x => some ⟨0x74, .ext 0 x⟩
  | .spawn x => some ⟨0x75, .ext 0 x⟩
  | .launch x => some ⟨0x75, .ext 1 x⟩
  | .spnrun x => some ⟨0x75, .ext 2 x⟩
  | .regsurrender f => some ⟨0x76, .c f⟩
  | .regsurrenderX x => some ⟨0x76, .ext 0 x⟩
  | .regclaim f => some ⟨0x77, .c f⟩
  | .regclaimX x => some ⟨0x77, .ext 0 x⟩
  | .remit x => some ⟨0x78, .ext 0 x⟩
  | .rcont x => some ⟨0x78, .ext 1 x⟩
  | .rretire x => some ⟨0x78, .ext 2 x⟩
  | .racc x => some ⟨0x78, .ext 3 x⟩
  | .epend => some ⟨0x78, .ext 4 XF.zero⟩
  | .rcell x => some ⟨0x78, .ext 5 x⟩
  | .rdircls x => some ⟨0x78, .ext 6 x⟩
  | .rhit x => some ⟨0x78, .ext 7 x⟩
  | .rinst x => some ⟨0x78, .ext 8 x⟩
  | .rxform x => some ⟨0x78, .ext 9 x⟩
  | .oclaim x => some ⟨0x79, .ext 0 x⟩
  | .orel x => some ⟨0x79, .ext 1 x⟩
  | .owait x => some ⟨0x79, .ext 2 x⟩
  | .mma x => some ⟨0x7A, .ext 0 x⟩
  | .mmasp x => some ⟨0x7A, .ext 1 x⟩
  | .mmag x => some ⟨0x7A, .ext 2 x⟩
  | .mmagsp x => some ⟨0x7A, .ext 3 x⟩
  | .aclr x => some ⟨0x7B, .ext 0 x⟩
  | .ascale x => some ⟨0x7B, .ext 1 x⟩
  | .adrain x => some ⟨0x7B, .ext 2 x⟩
  | .adraing x => some ⟨0x7B, .ext 3 x⟩
  | .batcom => some ⟨0x7C, .ext 0 XF.zero⟩
  | .batwait x => some ⟨0x7C, .ext 1 x⟩
  | .rdsr f => some ⟨0x7D, .c f⟩
  | .rdsrX x => some ⟨0x7D, .ext 0 x⟩
  | .wrsr x => some ⟨0x7D, .ext 1 x⟩
  | .tmrset x => some ⟨0x7E, .ext 0 x⟩
  | .tlbinv x => some ⟨0x7E, .ext 1 x⟩
  | .hdlinv => some ⟨0x7E, .ext 2 XF.zero⟩
  | .stdrain => some ⟨0x7E, .ext 3 XF.zero⟩
  | .sfpop x => some ⟨0x7E, .ext 4 x⟩
  | .evmark x => some ⟨0x7E, .ext 5 x⟩
  | .sample x => some ⟨0x7E, .ext 6 x⟩
  | .utret => some ⟨0x7E, .ext 7 XF.zero⟩
  | .blockPlacement _ => none
  | .waveExitComplete _ _ => none
  | .taskDispatch _ => none
  | .taskPriorityAging _ => none
  | .regclaimGrant _ _ => none
  | .userTimerTrap _ _ => none
  | .rayLaunchActivation _ _ => none
  | .remitResume _ _ => none
  | .stallAgeExpiry _ _ => none
  | .stallOverdue _ _ => none
  | .crierEmission _ => none
  | .traversalBatchStart _ _ => none
  | .traceCompletion _ _ => none
  | .episodePlacement _ => none
  | .coldPoolReclaim _ => none
  | .spindleStart _ => none
  | .matrixOpIssue _ => none
  | .slotReadFinish _ _ => none
  | .matrixOpComplete _ => none
  | .slotWriteRetry _ _ => none
  | .drainIssue _ => none
  | .drainComplete _ => none
  | .drainFault _ => none
  | .accessCompletion _ _ _ => none
  | .lineAgingWriteback _ _ => none
  | .copyStart _ _ _ => none
  | .copyEnd _ _ _ => none
  | .copyFault _ _ _ => none
  | .sleepExpiry _ _ => none
  | .schWake _ _ _ => none
  | .queueScan _ _ => none
  | .launchTake => none
  | .placementReservation _ => none
  | .waveReadyAged _ _ => none
  | .waiterSlotGrant => none
  | .tlwaitRelease _ => none
  | .waiterSlotPoll _ => none
  | .quantumExpiry _ => none
  | .urgentPreemption _ => none
  | .vmCtxRootWrite _ _ _ => none
  | .vmCtxReply _ _ _ => none
  | .vmCtxFqheadWrite _ _ _ => none
  | .pageWalk _ => none
  | .faultTagAllocation _ _ => none
  | .storeFaultTrap _ _ => none
  | .schCtxPreReq _ _ => none
  | .schCtxPreResume _ _ => none
  | .schCtxPreKill _ _ => none
  | .blockSave _ _ => none
  | .suspensionComplete _ => none
  | .forcedSave _ => none
  | .forcedSaveTimeout _ => none
  | .blockResume _ _ => none
  | .schCtxDbgStop _ _ _ => none
  | .schCtxDbgStep _ _ => none
  | .powerOn => none
  | .watchdogExpiry => none
  | .firmwareRollback => none
  | .portReset _ => none
  | .hostLinkUp _ _ _ _ _ _ => none
  | .functionLevelReset _ => none
  | .flrComplete _ => none
  | .hifCtxmapWrite _ _ _ => none
  | .bar2Read _ _ _ => none
  | .bar2Write _ _ _ _ => none
  | .hdmAccess _ _ _ _ => none
  | .pairLinkFailure => none
  | .ngxIdWrite _ _ => none
  | .remoteRequest _ _ _ _ _ _ _ _ _ => none
  | .ngxPortDown _ => none
  | .machineCheck _ _ _ _ => none
  | .thermalTrip => none
  | .governorStep _ => none
  | .mgtPwrcapWrite _ _ => none
  | .stage _ => none
  | .activate _ => none
  | .reset _ => none
  | .poolcfg _ => none
  | .mailboxCompletion _ => none
  | .caplist _ => none
  | .capread _ => none
  | .capture _ => none
  | .capclear _ => none
  | .logread _ => none
  | .getVersion _ => none
  | .getCapabilities _ => none
  | .negotiateAlgorithms _ => none
  | .getDigests _ => none
  | .getCertificate _ => none
  | .challenge _ => none
  | .getMeasurements _ => none
  | .timeSync _ => none
  | .lossRecord _ => none
  | .freezeArrival _ => none
  | .freezeWindowClose _ => none
  | .pairFreezeMessage _ => none
  | .capsuleStored => none
  | .capsuleFlashCopy => none
  | .evrCtlLock _ => none
  | .patrolScrubRead _ _ => none
  | .registerWrite _ _ _ => none
  | .illegalInstruction _ => none
  | .ngxPortUp _ _ => none
  | .pairLinkRequest _ _ _ => none
  | .cxlCacheSnoop _ _ _ => none

/-- The instruction of fields of the integer majors (R147). -/
def ofFormInteger (maj : Nat) (form : Form) : Option Instr :=
  match maj, form with
  | 0x00, .b3 f => some (.iadd f)
  | 0x00, .lit f l => some (.iaddX (.lit f l))
  | 0x00, .ext sub x =>
    match sub.toNat with
    | 0 => some (.iaddX (.ext x))
    | 1 => some (.iaddc x)
    | 2 => some (.isub x)
    | 3 => some (.isubb x)
    | _ => none
  | 0x01, .b3 f => some (.imul f)
  | 0x01, .lit f l => some (.imulX (.lit f l))
  | 0x01, .ext sub x =>
    match sub.toNat with
    | 0 => some (.imulX (.ext x))
    | 1 => some (.imulhi x)
    | 2 => some (.imulw x)
    | _ => none
  | 0x02, .b3 f => some (.imad f)
  | 0x02, .lit f l => some (.imadX (.lit f l))
  | 0x02, .ext sub x =>
    match sub.toNat with
    | 0 => some (.imadX (.ext x))
    | 1 => some (.imadhi x)
    | 2 => some (.imadw x)
    | _ => none
  | 0x03, .b3 f => some (.imin f)
  | 0x03, .lit f l => some (.iminX (.lit f l))
  | 0x03, .ext sub x =>
    match sub.toNat with
    | 0 => some (.iminX (.ext x))
    | 1 => some (.imax x)
    | _ => none
  | 0x04, .b3 f => some (.iabs f)
  | 0x04, .lit f l => some (.iabsX (.lit f l))
  | 0x04, .ext sub x =>
    match sub.toNat with
    | 0 => some (.iabsX (.ext x))
    | 1 => some (.ineg x)
    | _ => none
  | 0x05, .b3 f => some (.and f)
  | 0x05, .lit f l => some (.andX (.lit f l))
  | 0x05, .ext sub x =>
    match sub.toNat with
    | 0 => some (.andX (.ext x))
    | 1 => some (.andn x)
    | _ => none
  | 0x06, .b3 f => some (.or f)
  | 0x06, .lit f l => some (.orX (.lit f l))
  | 0x06, .ext sub x =>
    match sub.toNat with
    | 0 => some (.orX (.ext x))
    | 1 => some (.orn x)
    | _ => none
  | 0x07, .b3 f => some (.xor f)
  | 0x07, .lit f l => some (.xorX (.lit f l))
  | 0x07, .ext sub x =>
    match sub.toNat with
    | 0 => some (.xorX (.ext x))
    | 1 => some (.xnor x)
    | 2 => some (.not x)
    | _ => none
  | 0x08, .b3 f => some (.shl f)
  | 0x08, .lit f l => some (.shlX (.lit f l))
  | 0x08, .ext sub x =>
    match sub.toNat with
    | 0 => some (.shlX (.ext x))
    | 1 => some (.rotl x)
    | _ => none
  | 0x09, .b3 f => some (.shr f)
  | 0x09, .lit f l => some (.shrX (.lit f l))
  | 0x09, .ext sub x =>
    match sub.toNat with
    | 0 => some (.shrX (.ext x))
    | 1 => some (.rotr x)
    | _ => none
  | 0x0A, .b3 f => some (.fshl f)
  | 0x0A, .lit f l => some (.fshlX (.lit f l))
  | 0x0A, .ext sub x =>
    match sub.toNat with
    | 0 => some (.fshlX (.ext x))
    | 1 => some (.fshr x)
    | _ => none
  | 0x0B, .b3 f => some (.bfx f)
  | 0x0B, .lit f l => some (.bfxX (.lit f l))
  | 0x0B, .ext sub x =>
    match sub.toNat with
    | 0 => some (.bfxX (.ext x))
    | 1 => some (.bfi x)
    | 2 => some (.bfrev x)
    | _ => none
  | 0x0C, .b3 f => some (.popc f)
  | 0x0C, .lit f l => some (.popcX (.lit f l))
  | 0x0C, .ext sub x =>
    match sub.toNat with
    | 0 => some (.popcX (.ext x))
    | 1 => some (.clz x)
    | 2 => some (.ctz x)
    | 3 => some (.cls x)
    | _ => none
  | 0x0D, .b3 f => some (.icmp f)
  | 0x0D, .lit f l => some (.icmpX (.lit f l))
  | 0x0D, .ext sub x => some (.icmpX (.ext ⟨sub, x⟩))
  | 0x0E, .ext sub x =>
    match sub.toNat with
    | 0 => some (.sel x)
    | _ => none
  | 0x0F, .b3 f => some (.mov f)
  | 0x0F, .lit f l => some (.movX (.lit f l))
  | 0x0F, .ext sub x =>
    match sub.toNat with
    | 0 => some (.movX (.ext x))
    | _ => none
  | 0x10, .b3 f => some (.icvt f)
  | 0x10, .lit f l => some (.icvtX (.lit f l))
  | 0x10, .ext sub x =>
    match sub.toNat with
    | 0 => some (.icvtX (.ext x))
    | _ => none
  | 0x11, .b3 f => some (.prmt f)
  | 0x11, .lit f l => some (.prmtX (.lit f l))
  | 0x11, .ext sub x =>
    match sub.toNat with
    | 0 => some (.prmtX (.ext x))
    | _ => none
  | _, _ => none

/-- The instruction of fields of the scalar integer majors (R147). -/
def ofFormScalar (maj : Nat) (form : Form) : Option Instr :=
  match maj, form with
  | 0x18, .b3 f => some (.sadd f)
  | 0x18, .lit f l => some (.saddX (.lit f l))
  | 0x18, .ext sub x =>
    match sub.toNat with
    | 0 => some (.saddX (.ext x))
    | 1 => some (.ssub x)
    | _ => none
  | 0x19, .b3 f => some (.smul f)
  | 0x19, .lit f l => some (.smulX (.lit f l))
  | 0x19, .ext sub x =>
    match sub.toNat with
    | 0 => some (.smulX (.ext x))
    | 1 => some (.smulhi x)
    | _ => none
  | 0x1A, .b3 f => some (.sand f)
  | 0x1A, .lit f l => some (.sandX (.lit f l))
  | 0x1A, .ext sub x =>
    match sub.toNat with
    | 0 => some (.sandX (.ext x))
    | 1 => some (.sandn x)
    | _ => none
  | 0x1B, .b3 f => some (.sor f)
  | 0x1B, .lit f l => some (.sorX (.lit f l))
  | 0x1B, .ext sub x =>
    match sub.toNat with
    | 0 => some (.sorX (.ext x))
    | _ => none
  | 0x1C, .b3 f => some (.sxor f)
  | 0x1C, .lit f l => some (.sxorX (.lit f l))
  | 0x1C, .ext sub x =>
    match sub.toNat with
    | 0 => some (.sxorX (.ext x))
    | 1 => some (.snot x)
    | _ => none
  | 0x1D, .b3 f => some (.sshl f)
  | 0x1D, .lit f l => some (.sshlX (.lit f l))
  | 0x1D, .ext sub x =>
    match sub.toNat with
    | 0 => some (.sshlX (.ext x))
    | 1 => some (.srotl x)
    | _ => none
  | 0x1E, .b3 f => some (.sshr f)
  | 0x1E, .lit f l => some (.sshrX (.lit f l))
  | 0x1E, .ext sub x =>
    match sub.toNat with
    | 0 => some (.sshrX (.ext x))
    | 1 => some (.srotr x)
    | _ => none
  | 0x1F, .b3 f => some (.sbfx f)
  | 0x1F, .lit f l => some (.sbfxX (.lit f l))
  | 0x1F, .ext sub x =>
    match sub.toNat with
    | 0 => some (.sbfxX (.ext x))
    | 1 => some (.sbfi x)
    | _ => none
  | 0x20, .b3 f => some (.spopc f)
  | 0x20, .lit f l => some (.spopcX (.lit f l))
  | 0x20, .ext sub x =>
    match sub.toNat with
    | 0 => some (.spopcX (.ext x))
    | 1 => some (.sclz x)
    | 2 => some (.sctz x)
    | _ => none
  | 0x21, .b3 f => some (.smin f)
  | 0x21, .lit f l => some (.sminX (.lit f l))
  | 0x21, .ext sub x =>
    match sub.toNat with
    | 0 => some (.sminX (.ext x))
    | 1 => some (.smax x)
    | _ => none
  | 0x22, .b3 f => some (.smov f)
  | 0x22, .lit f l => some (.smovX (.lit f l))
  | 0x22, .ext sub x =>
    match sub.toNat with
    | 0 => some (.smovX (.ext x))
    | _ => none
  | 0x23, .c f => some (.smovi f)
  | 0x23, .ext sub x =>
    match sub.toNat with
    | 0 => some (.smoviX x)
    | _ => none
  | 0x24, .ext sub x => some (.scmp ⟨sub, x⟩)
  | _, _ => none

/-- The instruction of fields of the floating-point majors (R148). -/
def ofFormFloat (maj : Nat) (form : Form) : Option Instr :=
  match maj, form with
  | 0x30, .b3 f => some (.ffma f)
  | 0x30, .lit f l => some (.ffmaX (.lit f l))
  | 0x30, .ext sub x =>
    match sub.toNat with
    | 0 => some (.ffmaX (.ext x))
    | 1 => some (.ffms x)
    | 2 => some (.fnma x)
    | _ => none
  | 0x31, .b3 f => some (.fadd f)
  | 0x31, .lit f l => some (.faddX (.lit f l))
  | 0x31, .ext sub x =>
    match sub.toNat with
    | 0 => some (.faddX (.ext x))
    | 1 => some (.fsub x)
    | _ => none
  | 0x32, .b3 f => some (.fmul f)
  | 0x32, .lit f l => some (.fmulX (.lit f l))
  | 0x32, .ext sub x =>
    match sub.toNat with
    | 0 => some (.fmulX (.ext x))
    | _ => none
  | 0x33, .b3 f => some (.fmin f)
  | 0x33, .lit f l => some (.fminX (.lit f l))
  | 0x33, .ext sub x =>
    match sub.toNat with
    | 0 => some (.fminX (.ext x))
    | 1 => some (.fmax x)
    | 2 => some (.fminnum x)
    | 3 => some (.fmaxnum x)
    | _ => none
  | 0x34, .b3 f => some (.fcmp f)
  | 0x34, .lit f l => some (.fcmpX (.lit f l))
  | 0x34, .ext sub x => some (.fcmpX (.ext ⟨sub, x⟩))
  | 0x35, .b3 f => some (.fclass f)
  | 0x35, .lit f l => some (.fclassX (.lit f l))
  | 0x35, .ext sub x =>
    match sub.toNat with
    | 0 => some (.fclassX (.ext x))
    | _ => none
  | 0x36, .b3 f => some (.frnd f)
  | 0x36, .lit f l => some (.frndX (.lit f l))
  | 0x36, .ext sub x =>
    match sub.toNat with
    | 0 => some (.frndX (.ext x))
    | _ => none
  | 0x37, .b3 f => some (.rcp f)
  | 0x37, .lit f l => some (.rcpX (.lit f l))
  | 0x37, .ext sub x =>
    match sub.toNat with
    | 0 => some (.rcpX (.ext x))
    | 1 => some (.rsqrt x)
    | 2 => some (.sqrt x)
    | 3 => some (.exp2 x)
    | 4 => some (.log2 x)
    | 5 => some (.sinpi x)
    | 6 => some (.cospi x)
    | _ => none
  | 0x38, .b3 f => some (.fcvt f)
  | 0x38, .lit f l => some (.fcvtX (.lit f l))
  | 0x38, .ext sub x =>
    match sub.toNat with
    | 0 => some (.fcvtX (.ext x))
    | _ => none
  | 0x39, .ext sub x =>
    match sub.toNat with
    | 0 => some (.fdot2 x)
    | 1 => some (.fdot4 x)
    | _ => none
  | 0x3A, .b3 f => some (.fabs f)
  | 0x3A, .lit f l => some (.fabsX (.lit f l))
  | 0x3A, .ext sub x =>
    match sub.toNat with
    | 0 => some (.fabsX (.ext x))
    | 1 => some (.fneg x)
    | _ => none
  | _, _ => none

/-- The instruction of fields of the cross-lane and mask majors (R148). -/
def ofFormLane (maj : Nat) (form : Form) : Option Instr :=
  match maj, form with
  | 0x40, .b3 f => some (.shfl f)
  | 0x40, .lit f l => some (.shflX (.lit f l))
  | 0x40, .ext sub x =>
    match sub.toNat with
    | 0 => some (.shflX (.ext x))
    | 1 => some (.shflxor x)
    | 2 => some (.shflup x)
    | 3 => some (.shfldn x)
    | _ => none
  | 0x41, .b3 f => some (.rdlane f)
  | 0x41, .lit f l => some (.rdlaneX (.lit f l))
  | 0x41, .ext sub x =>
    match sub.toNat with
    | 0 => some (.rdlaneX (.ext x))
    | 1 => some (.wrlane x)
    | _ => none
  | 0x42, .b3 f => some (.redadd f)
  | 0x42, .lit f l => some (.redaddX (.lit f l))
  | 0x42, .ext sub x =>
    match sub.toNat with
    | 0 => some (.redaddX (.ext x))
    | 1 => some (.redmin x)
    | 2 => some (.redmax x)
    | 3 => some (.redand x)
    | 4 => some (.redor x)
    | 5 => some (.redxor x)
    | _ => none
  | 0x43, .b3 f => some (.scanadd f)
  | 0x43, .lit f l => some (.scanaddX (.lit f l))
  | 0x43, .ext sub x =>
    match sub.toNat with
    | 0 => some (.scanaddX (.ext x))
    | 1 => some (.scanmin x)
    | 2 => some (.scanmax x)
    | 3 => some (.scanand x)
    | 4 => some (.scanor x)
    | 5 => some (.scanxor x)
    | 16 => some (.xscanadd x)
    | 17 => some (.xscanmin x)
    | 18 => some (.xscanmax x)
    | 19 => some (.xscanand x)
    | 20 => some (.xscanor x)
    | 21 => some (.xscanxor x)
    | _ => none
  | 0x44, .b3 f => some (.kand f)
  | 0x44, .ext sub x =>
    match sub.toNat with
    | 0 => some (.kandX x)
    | 1 => some (.kor x)
    | 2 => some (.kxor x)
    | 3 => some (.kandn x)
    | 4 => some (.knot x)
    | 5 => some (.kmov x)
    | _ => none
  | 0x45, .b3 f => some (.ktos f)
  | 0x45, .ext sub x =>
    match sub.toNat with
    | 0 => some (.ktosX x)
    | 1 => some (.stok x)
    | _ => none
  | 0x46, .b3 f => some (.kpopc f)
  | 0x46, .ext sub x =>
    match sub.toNat with
    | 0 => some (.kpopcX x)
    | 1 => some (.kffs x)
    | 2 => some (.kfls x)
    | _ => none
  | 0x47, .b3 f => some (.ballot f)
  | 0x47, .ext sub x =>
    match sub.toNat with
    | 0 => some (.ballotX x)
    | _ => none
  | 0x48, .b3 f => some (.vmatch f)
  | 0x48, .ext sub x =>
    match sub.toNat with
    | 0 => some (.vmatchX x)
    | _ => none
  | 0x49, .ext sub x =>
    match sub.toNat with
    | 0 => some (.compact x)
    | 1 => some (.expand x)
    | _ => none
  | _, _ => none

/-- The instruction of fields of the memory majors (R149). -/
def ofFormMemory (maj : Nat) (form : Form) : Option Instr :=
  match maj, form with
  | 0x50, .m f => some (.ld f)
  | 0x50, .ext sub x =>
    match sub.toNat with
    | 0 => some (.ldX x)
    | _ => none
  | 0x51, .m f => some (.st f)
  | 0x51, .ext sub x =>
    match sub.toNat with
    | 0 => some (.stX x)
    | _ => none
  | 0x52, .m f => some (.lds f)
  | 0x52, .ext sub x =>
    match sub.toNat with
    | 0 => some (.ldsX x)
    | _ => none
  | 0x53, .m f => some (.sts f)
  | 0x53, .ext sub x =>
    match sub.toNat with
    | 0 => some (.stsX x)
    | _ => none
  | 0x54, .ext sub x => some (.atom ⟨sub, x⟩)
  | 0x55, .ext sub x =>
    match sub.toNat with
    | 0 => some (.acq x)
    | _ => none
  | 0x56, .ext sub x =>
    match sub.toNat with
    | 0 => some (.rel x)
    | 1 => some (.relFresh x)
    | 2 => some (.relAll x)
    | _ => none
  | 0x57, .ext sub x =>
    match sub.toNat with
    | 0 => some (.fence x)
    | 1 => some (.fenceUn x)
    | _ => none
  | 0x58, .m f => some (.pref f)
  | 0x58, .ext sub x =>
    match sub.toNat with
    | 0 => some (.prefX x)
    | 1 => some (.evict x)
    | _ => none
  | 0x59, .c f => some (.cwait f)
  | 0x59, .ext sub x =>
    match sub.toNat with
    | 0 => some (.cwaitX x)
    | _ => none
  | 0x5A, .ext sub x =>
    match sub.toNat with
    | 0 => some (.btrans x)
    | _ => none
  | 0x5B, .ext sub x =>
    match sub.toNat with
    | 0 => some (.stmsk x)
    | _ => none
  | 0x5C, .ext sub x =>
    match sub.toNat with
    | 0 => some (.xld x)
    | _ => none
  | 0x5D, .ext sub x =>
    match sub.toNat with
    | 0 => some (.xst x)
    | _ => none
  | 0x5E, .ext sub x =>
    match sub.toNat with
    | 0 => some (.sigadd x)
    | _ => none
  | 0x5F, .ext sub x =>
    match sub.toNat with
    | 0 => some (.ostore x)
    | _ => none
  | _, _ => none

/-- The instruction of fields of the control majors (R149). -/
def ofFormControl (maj : Nat) (form : Form) : Option Instr :=
  match maj, form with
  | 0x60, .j f => some (.br f)
  | 0x60, .ext sub x =>
    match sub.toNat with
    | 0 => some (.brX x)
    | _ => none
  | 0x61, .j f => some (.call f)
  | 0x61, .ext sub x =>
    match sub.toNat with
    | 0 => some (.callX x)
    | _ => none
  | 0x62, .j f => some (.bany f)
  | 0x62, .ext sub x =>
    match sub.toNat with
    | 0 => some (.banyX x)
    | _ => none
  | 0x63, .j f => some (.ball f)
  | 0x63, .ext sub x =>
    match sub.toNat with
    | 0 => some (.ballX x)
    | _ => none
  | 0x64, .j f => some (.bnone f)
  | 0x64, .ext sub x =>
    match sub.toNat with
    | 0 => some (.bnoneX x)
    | _ => none
  | 0x65, .ext sub x =>
    match sub.toNat with
    | 0 => some (.beq x)
    | 1 => some (.bne x)
    | 2 => some (.blt x)
    | 3 => some (.ble x)
    | 4 => some (.bgt x)
    | 5 => some (.bge x)
    | 6 => some (.bltu x)
    | 7 => some (.bleu x)
    | 8 => some (.bgtu x)
    | 9 => some (.bgeu x)
    | _ => none
  | 0x66, .c f => some (.jmp f)
  | 0x66, .ext sub x =>
    match sub.toNat with
    | 0 => some (.jmpX x)
    | 1 => some (.callind x)
    | _ => none
  | 0x67, .c f => some (.ret f)
  | 0x67, .ext sub x =>
    match sub.toNat with
    | 0 => some (.retX x)
    | _ => none
  | 0x68, .ext sub x =>
    match sub.toNat with
    | 0 => some (.loopnz x)
    | _ => none
  | 0x69, .ext sub x =>
    match sub.toNat with
    | 0 => some (.yield x)
    | _ => none
  | 0x6A, .c f => some (.sleep f)
  | 0x6A, .ext sub x =>
    match sub.toNat with
    | 0 => some (.sleepX x)
    | _ => none
  | 0x6B, .n _ => some .nop
  | 0x6B, .ext sub x =>
    match sub.toNat with
    | 0 => some (.nopX )
    | _ => none
  | 0x6C, .c f => some (.trap f)
  | 0x6C, .ext sub x =>
    match sub.toNat with
    | 0 => some (.trapX x)
    | _ => none
  | 0x6D, .n _ => some .trapret
  | 0x6D, .ext sub x =>
    match sub.toNat with
    | 0 => some (.trapretX )
    | _ => none
  | 0x6E, .n _ => some .exit
  | 0x6E, .ext sub x =>
    match sub.toNat with
    | 0 => some (.exitX )
    | _ => none
  | _, _ => none

/-- The instruction of fields of the synchronisation and ray majors (R150). -/
noncomputable def ofFormSync (maj : Nat) (form : Form) : Option Instr :=
  match maj, form with
  | 0x70, .c f => some (.bar f)
  | 0x70, .ext sub x =>
    match sub.toNat with
    | 0 => some (.barX x)
    | 1 => some (.bararr x)
    | 2 => some (.barwait x)
    | _ => none
  | 0x71, .ext sub x =>
    match sub.toNat with
    | 0 => some (.bbarr x)
    | 1 => some (.bbwait x)
    | _ => none
  | 0x72, .ext sub x =>
    match sub.toNat with
    | 0 => some (.tlinc x)
    | 1 => some (.tlset x)
    | 2 => some (.tlwait x)
    | _ => none
  | 0x73, .ext sub x =>
    match sub.toNat with
    | 0 => some (.cp x)
    | 1 => some (.cpred x)
    | _ => none
  | 0x74, .c f => some (.twait f)
  | 0x74, .ext sub x =>
    match sub.toNat with
    | 0 => some (.twaitX x)
    | _ => none
  | 0x75, .ext sub x =>
    match sub.toNat with
    | 0 => some (.spawn x)
    | 1 => some (.launch x)
    | 2 => some (.spnrun x)
    | _ => none
  | 0x76, .c f => some (.regsurrender f)
  | 0x76, .ext sub x =>
    match sub.toNat with
    | 0 => some (.regsurrenderX x)
    | _ => none
  | 0x77, .c f => some (.regclaim f)
  | 0x77, .ext sub x =>
    match sub.toNat with
    | 0 => some (.regclaimX x)
    | _ => none
  | 0x78, .ext sub x =>
    match sub.toNat with
    | 0 => some (.remit x)
    | 1 => some (.rcont x)
    | 2 => some (.rretire x)
    | 3 => some (.racc x)
    | 4 => some (.epend )
    | 5 => some (.rcell x)
    | 6 => some (.rdircls x)
    | 7 => some (.rhit x)
    | 8 => some (.rinst x)
    | 9 => some (.rxform x)
    | _ => none
  | _, _ => none

/-- The instruction of fields of the Spindle and system majors (R150). -/
noncomputable def ofFormSystem (maj : Nat) (form : Form) : Option Instr :=
  match maj, form with
  | 0x79, .ext sub x =>
    match sub.toNat with
    | 0 => some (.oclaim x)
    | 1 => some (.orel x)
    | 2 => some (.owait x)
    | _ => none
  | 0x7A, .ext sub x =>
    match sub.toNat with
    | 0 => some (.mma x)
    | 1 => some (.mmasp x)
    | 2 => some (.mmag x)
    | 3 => some (.mmagsp x)
    | _ => none
  | 0x7B, .ext sub x =>
    match sub.toNat with
    | 0 => some (.aclr x)
    | 1 => some (.ascale x)
    | 2 => some (.adrain x)
    | 3 => some (.adraing x)
    | _ => none
  | 0x7C, .ext sub x =>
    match sub.toNat with
    | 0 => some (.batcom )
    | 1 => some (.batwait x)
    | _ => none
  | 0x7D, .c f => some (.rdsr f)
  | 0x7D, .ext sub x =>
    match sub.toNat with
    | 0 => some (.rdsrX x)
    | 1 => some (.wrsr x)
    | _ => none
  | 0x7E, .ext sub x =>
    match sub.toNat with
    | 0 => some (.tmrset x)
    | 1 => some (.tlbinv x)
    | 2 => some (.hdlinv )
    | 3 => some (.stdrain )
    | 4 => some (.sfpop x)
    | 5 => some (.evmark x)
    | 6 => some (.sample x)
    | 7 => some (.utret )
    | _ => none
  | _, _ => none

/-- The instruction of a major and its fields. -/
noncomputable def Enc.toInstr (e : Enc) : Option Instr :=
  let maj := e.maj.toNat
  if maj < 0x18 then ofFormInteger maj e.form
  else if maj < 0x30 then ofFormScalar maj e.form
  else if maj < 0x40 then ofFormFloat maj e.form
  else if maj < 0x50 then ofFormLane maj e.form
  else if maj < 0x60 then ofFormMemory maj e.form
  else if maj < 0x70 then ofFormControl maj e.form
  else if maj < 0x79 then ofFormSync maj e.form
  else ofFormSystem maj e.form

/-- The instruction that words encode on a stream, or the detail of R140. -/
noncomputable def decode (st : Stream) (ws : List W32) : Decoded Instr :=
  match readEnc ws with
  | .illegal d => .illegal d
  | .ok e =>
    match e.check st with
    | some d => .illegal d
    | none =>
      match e.toInstr with
      | some i => .ok i
      | none => .illegal 3

/-! ## The encoder -/

def B3.word (f : B3) (maj : BitVec 7) (len : Nat) : W32 :=
  BitVec.ofNat 32 (len + 4 * maj.toNat + 2 ^ 9 * f.osel.toNat + 2 ^ 11 * f.d.toNat + 2 ^ 18 * f.s1.toNat + 2 ^ 25 * f.s2.toNat)

def CF.word (f : CF) (maj : BitVec 7) : W32 :=
  BitVec.ofNat 32 (4 * maj.toNat + 2 ^ 9 * f.imm.toNat + 2 ^ 25 * f.reg.toNat)

def MF.word (f : MF) (maj : BitVec 7) : W32 :=
  BitVec.ofNat 32 (4 * maj.toNat + 2 ^ 9 * f.d.toNat + 2 ^ 16 * f.idx.toNat + 2 ^ 23 * f.b.toNat + 2 ^ 27 * f.szsp.toNat)

def JF.word (f : JF) (maj : BitVec 7) : W32 := BitVec.ofNat 32 (4 * maj.toNat + 2 ^ 9 * f.off.toNat)

def XF.word0 (x : XF) (maj : BitVec 7) (len : Nat) : W32 :=
  BitVec.ofNat 32 (len + 4 * maj.toNat + 2 ^ 9 * x.osel.toNat + 2 ^ 11 * x.szsp.toNat + 2 ^ 16 * x.disp.toNat)

def XF.word1 (x : XF) : W32 :=
  BitVec.ofNat 32 (x.d.toNat + 2 ^ 8 * x.sa.toNat + 2 ^ 16 * x.sb.toNat + 2 ^ 24 * x.sc.toNat)

def XF.word2 (x : XF) (sub : BitVec 9) : W32 :=
  BitVec.ofNat 32 (sub.toNat + 2 ^ 9 * x.scope.toNat + 2 ^ 13 * x.sat.toNat + 2 ^ 14 * x.rnd.toNat
    + 2 ^ 17 * x.shape.toNat + 2 ^ 22 * x.type.toNat + 2 ^ 27 * x.mneg.toNat + 2 ^ 28 * x.mask.toNat)

/-- The two words of a literal, low word first (R130). -/
def litWords (l : BitVec 64) : List W32 := [BitVec.ofNat 32 l.toNat, BitVec.ofNat 32 (l.toNat / 2 ^ 32)]

/-- The words of a major and its fields (R130 to R134). -/
def Enc.words (e : Enc) : List W32 :=
  match e.form with
  | .b3 f => [f.word e.maj 0]
  | .lit f l => f.word e.maj 2 :: litWords l
  | .c f => [f.word e.maj]
  | .m f => [f.word e.maj]
  | .j f => [f.word e.maj]
  | .n rest => [JF.word ⟨rest⟩ e.maj]
  | .ext sub x =>
    match x.lit with
    | none => [x.word0 e.maj 1, x.word1, x.word2 sub]
    | some l => x.word0 e.maj 3 :: x.word1 :: x.word2 sub :: litWords l

/-- The words of an instruction; an event row has none. -/
def encode (i : Instr) : List W32 :=
  match i.toEnc with
  | some e => e.words
  | none => []

/-! ## The opcode table's numbering -/

/-- Words of an instruction whose bits are w, bit 0 the least significant bit of the first word; the bits above are 0. -/
def tableWords (w : Nat) : List W32 :=
  [BitVec.ofNat 32 w, BitVec.ofNat 32 (w / 2 ^ 32), BitVec.ofNat 32 (w / 2 ^ 64), BitVec.ofNat 32 (w / 2 ^ 96),
   BitVec.ofNat 32 (w / 2 ^ 128)]

/-- The stream on which a word runs: a major of the Spindle stream alone runs there, every other on a SIMT wave. -/
noncomputable def tableStream (w : Nat) : Stream :=
  match decode .simt (tableWords w) with
  | .illegal 4 => .spindle
  | _ => .simt

/-- The instruction the decoder reads from the bits w of an opcode-table row. -/
noncomputable def decodeTableWord (nbits w : Nat) : Option Instr :=
  match decode (tableStream (w % 2 ^ nbits)) (tableWords (w % 2 ^ nbits)) with
  | .ok i => some i
  | .illegal _ => none

end Sys2Proof
end

