-- ==== Sys2Proof/WellFormed.lean ====
section
/-! DEFINITION. Well-formed instructions: those whose fields pass every check of R140 on a stream. An event row names no
words and is well formed. -/

namespace Sys2Proof

/-- The fields of an instruction pass the checks of R140 on a stream. -/
def Instr.wellFormed (st : Stream) (i : Instr) : Bool :=
  match i.toEnc with
  | none => true
  | some e => (e.check st).isNone

/-- An instruction that stands in an instruction stream: it has words, and they are well formed there. -/
def Instr.encodable (st : Stream) (i : Instr) : Bool := i.toEnc.isSome && i.wellFormed st

end Sys2Proof
end

