-- ==== Sys2Proof/Machine/Regs.lean ====
section
/-! DEFINITION. The parts of the state by name: waves, blocks, launches, Spindle programs, contexts, and the registers of
waves and Spindle programs (R15, R24, R67, R88, R89, R139). -/

namespace Sys2Proof.Machine

/-- Bit i of a number. -/
def bit (v i : Nat) : Bool := v / 2 ^ i % 2 == 1

/-- A 64-bit mask from the lanes that satisfy a test. -/
def laneMask (p : Nat → Bool) : BitVec 64 :=
  BitVec.ofNat 64 ((List.range 64).foldl (fun a i => if p i then a + 2 ^ i else a) 0)

/-- The lanes of a mask, ascending. -/
def lanesOf (m : BitVec 64) : List Nat := (List.range 64).filter (fun i => m.getLsbD i)

/-- The mask of a list of lanes. -/
def maskOf (l : List Nat) : BitVec 64 := l.foldl (fun a i => a ||| (1#64 <<< i)) 0#64

/-! ## Waves, blocks, launches, programs, contexts -/

def Wave.at (core slot : Nat) (w : Wave) : Bool := w.core == core && w.slot == slot

def State.wave? (s : State) (core slot : Nat) : Option Wave := s.waves.find? (fun w => w.at core slot)

def State.setWave (s : State) (w : Wave) : State := { s with waves := replaceFirst (fun v => v.at w.core w.slot) w s.waves }

def State.modWave (s : State) (core slot : Nat) (f : Wave → Wave) : State :=
  match s.wave? core slot with
  | some w => s.setWave (f w)
  | none => s

def State.dropWave (s : State) (core slot : Nat) : State := { s with waves := s.waves.filter (fun v => !v.at core slot) }

def Block.at (launch index : Nat) (b : Block) : Bool := b.launch == launch && b.index == index

def State.block? (s : State) (launch index : Nat) : Option Block := s.blocks.find? (fun b => b.at launch index)

def State.setBlock (s : State) (b : Block) : State := { s with blocks := replaceFirst (fun c => c.at b.launch b.index) b s.blocks }

def State.modBlock (s : State) (launch index : Nat) (f : Block → Block) : State :=
  match s.block? launch index with
  | some b => s.setBlock (f b)
  | none => s

def State.launch? (s : State) (num : Nat) : Option Launch := s.launches.find? (fun l => l.num == num)

def State.setLaunch (s : State) (l : Launch) : State := { s with launches := replaceFirst (fun m => m.num == l.num) l s.launches }

def State.modLaunch (s : State) (num : Nat) (f : Launch → Launch) : State :=
  match s.launch? num with
  | some l => s.setLaunch (f l)
  | none => s

def State.spindle? (s : State) (cl : Nat) : Option Spindle := s.spindles.find? (fun p => p.cluster == cl)

def State.setSpindle (s : State) (p : Spindle) : State := { s with spindles := replaceFirst (fun q => q.cluster == p.cluster) p s.spindles }

def State.modSpindle (s : State) (cl : Nat) (f : Spindle → Spindle) : State :=
  match s.spindle? cl with
  | some p => s.setSpindle (f p)
  | none => s

def State.dropSpindle (s : State) (cl : Nat) : State := { s with spindles := s.spindles.filter (fun p => p.cluster != cl) }

/-- What the scheduler keeps of a context. -/
def State.ctx (s : State) (c : Nat) : Ctx := sget (fun _ => Ctx.idle) s.ctxs c

def State.setCtx (s : State) (c : Nat) (x : Ctx) : State := { s with ctxs := sput (fun _ => Ctx.idle) s.ctxs c x }

def State.modCtx (s : State) (c : Nat) (f : Ctx → Ctx) : State := s.setCtx c (f (s.ctx c))

/-- Waves of a block. -/
def State.wavesOf (s : State) (launch block : Nat) : List Wave :=
  s.waves.filter (fun w => w.launch == launch && w.block == block)

/-- The launch record of a wave's launch; zero when the launch is gone. -/
def State.recordOf (s : State) (launch : Nat) : BitVec 512 :=
  match s.launch? launch with
  | some l => l.record
  | none => 0

/-! ## Fields of records and cells of bytes -/

/-- n bits of a 512-bit record from a bit. -/
def rec512 (r : BitVec 512) (lo n : Nat) : Nat := r.toNat / 2 ^ lo % 2 ^ n

/-- Byte range of a record as a number: n bytes from byte b. -/
def recBytes (r : BitVec 512) (b n : Nat) : Nat := rec512 r (8 * b) (8 * n)

/-- An address sign-extended from 57 bits. -/
def sext57 (a : Nat) : BitVec 64 := (BitVec.ofNat 57 a).signExtend 64

/-- Bits [63:57] equal bit [56] (R84). -/
def canonical (a : BitVec 64) : Bool := (a.extractLsb' 0 57).signExtend 64 == a

/-! ## Launch fields (R17, R23) -/

def ctlWord (r : BitVec 512) : Nat := recBytes r 0 8
def ctlVblk (r : BitVec 512) : Nat := field (ctlWord r) 16 6
def ctlScratch (r : BitVec 512) : Nat := field (ctlWord r) 24 8
def ctlBars (r : BitVec 512) : Nat := field (ctlWord r) 32 6
def ctlTop (r : BitVec 512) : Nat := field (ctlWord r) 4 3
def ctlColevel (r : BitVec 512) : Nat := field (ctlWord r) 7 3
def ctlFtz (r : BitVec 512) : Bool := bit (ctlWord r) 10
def ctlUtvoff (r : BitVec 512) : Nat := field (ctlWord r) 46 18
def ctlRinglog (r : BitVec 512) : Nat := field (ctlWord r) 38 6
def ctlKind (r : BitVec 512) : Nat := field (ctlWord r) 0 4
def recEntry (r : BitVec 512) : BitVec 64 := BitVec.ofNat 64 (recBytes r 8 8)
def recArgs (r : BitVec 512) : BitVec 64 := BitVec.ofNat 64 (recBytes r 16 8)
def recDoneTl (r : BitVec 512) : BitVec 64 := BitVec.ofNat 64 (recBytes r 24 8)

/-- Level descriptor i (R17): a ray launch keeps LEVEL0 to LEVEL2 at bytes 48 to 59 (R39), a task pool LEVEL0 (R30). -/
def levelDesc (r : BitVec 512) (i : Nat) : Nat :=
  if ctlKind r == 1 then (if 3 ≤ i then 0 else recBytes r (48 + 4 * i) 4)
  else if ctlKind r == 2 && 1 ≤ i then 0
  else recBytes r (32 + 4 * i) 4
def levelExtent (r : BitVec 512) (i : Nat) : Nat := field (levelDesc r i) 8 24
def levelScope (r : BitVec 512) (i : Nat) : Nat := field (levelDesc r i) 3 3
def levelDomain (r : BitVec 512) (i : Nat) : Nat := field (levelDesc r i) 0 3

/-- The block level: the highest level at or below TOP whose domain is core, else 0 (R19). -/
def blockLevel (r : BitVec 512) : Nat :=
  ((List.range (ctlTop r + 1)).filter (fun i => levelDomain r i == 1)).foldl max 0

/-- Product of EXTENT over levels lo to hi. -/
def extentProduct (r : BitVec 512) (lo hi : Nat) : Nat :=
  ((List.range (hi + 1)).filter (fun i => lo ≤ i)).foldl (fun a i => a * levelExtent r i) 1

/-- Waves per block and total blocks (R19). -/
def wavesPerBlock (r : BitVec 512) : Nat := extentProduct r 1 (blockLevel r)
def totalBlocks (r : BitVec 512) : Nat := extentProduct r (blockLevel r + 1) (ctlTop r)

/-- Coordinate j of a wave (R20): from the wave index up to the block level, from the block index above it. -/
def coordinate (r : BitVec 512) (wid blk j : Nat) : Nat :=
  let bl := blockLevel r
  if j == 0 || ctlTop r < j then 0
  else if j ≤ bl then wid / extentProduct r 1 (j - 1) % (levelExtent r j)
  else blk / extentProduct r (bl + 1) (j - 1) % (levelExtent r j)

/-- The block index that %blk shows (R20): a task or an episode wave is a block of a launch without levels above the wave. -/
def Wave.blk (w : Wave) : Nat := if w.kind = .task || w.kind = .episode then 0 else w.block

/-! ## Vector registers (R88, R89) -/

/-- Core Store address, core × 2^20 + byte, of lane L of vector register n. -/
def Wave.vaddr (w : Wave) (n L : Nat) : Nat :=
  w.core * 2 ^ 20 + 2048 * w.blocks.getD (n / 8) 0 + 256 * (n % 8) + 4 * L

/-- In a save or restore handler no instruction raises poison-consumed, and marks are neither cleared nor set (R338). -/
def Wave.exemptPoison (w : Wave) : Bool := w.mode == .supervisor && w.handler != .trap

/-- A list of marks after a wave's write of one marked place. -/
def Wave.cleared (w : Wave) (k : Nat) (l : List Nat) : List Nat := if w.exemptPoison then l else setDel k l

def State.vrd (s : State) (w : Wave) (n L : Nat) : BitVec 32 := s.cs.read32 (w.vaddr n L)

/-- Writes an element and clears its mark (R128, R338). -/
def State.vwr (s : State) (w : Wave) (n L : Nat) (v : BitVec 32) : State :=
  { s with cs := s.cs.write32 (w.vaddr n L) v, csMark := w.cleared (w.vaddr n L / 4) s.csMark }

/-- An element of an even pair, low word in the even register. -/
def State.vrd64 (s : State) (w : Wave) (n L : Nat) : BitVec 64 := s.vrd w (n + 1) L ++ s.vrd w n L

def State.vwr64 (s : State) (w : Wave) (n L : Nat) (v : BitVec 64) : State :=
  (s.vwr w n L (v.extractLsb' 0 32)).vwr w (n + 1) L (v.extractLsb' 32 32)

/-- An element of `regs` registers, 1 or 2. -/
def State.vget (s : State) (w : Wave) (n L regs : Nat) : BitVec 64 :=
  if regs == 2 then s.vrd64 w n L else (s.vrd w n L).setWidth 64

def State.vput (s : State) (w : Wave) (n L regs : Nat) (v : BitVec 64) : State :=
  if regs == 2 then s.vwr64 w n L v else s.vwr w n L (v.setWidth 32)

/-- The element, or one of the elements of a group of registers, carries a poison mark. -/
def State.vmarked (s : State) (w : Wave) (n L regs : Nat) : Bool :=
  (List.range regs).any (fun i => s.csMark.contains (w.vaddr (n + i) L / 4))

/-! ## The agent of an instruction -/

def State.curWave (s : State) : Option Wave :=
  match s.cur with
  | .wave c k => s.wave? c k
  | _ => none

def State.curSpindle (s : State) : Option Spindle :=
  match s.cur with
  | .spindle cl => s.spindle? cl
  | _ => none

/-- The stream the agent executes. -/
def State.stream (s : State) : Stream :=
  match s.cur with
  | .spindle _ => .spindle
  | _ => .simt

def State.curCtx (s : State) : Nat :=
  match s.curWave, s.curSpindle with
  | some w, _ => w.ctx
  | _, some p => p.ctx
  | _, _ => 0

/-- The core of the agent; the first core of a Spindle program's cluster. -/
def State.curCore (s : State) : Nat :=
  match s.curWave, s.curSpindle with
  | some w, _ => w.core
  | _, some p => 4 * p.cluster
  | _, _ => 0

def State.curPc (s : State) : BitVec 64 :=
  match s.curWave, s.curSpindle with
  | some w, _ => w.pc
  | _, some p => p.pc
  | _, _ => 0

def State.curMode (s : State) : Mode :=
  match s.curWave, s.curSpindle with
  | some w, _ => w.mode
  | _, some p => p.mode
  | _, _ => .user

def State.modCurWave (s : State) (f : Wave → Wave) : State :=
  match s.cur with
  | .wave c k => s.modWave c k f
  | _ => s

def State.modCurSpindle (s : State) (f : Spindle → Spindle) : State :=
  match s.cur with
  | .spindle cl => s.modSpindle cl f
  | _ => s

/-- Register s[n] of the wave, or x[n] of the Spindle program (R258). -/
def State.srd (s : State) (n : Nat) : BitVec 64 :=
  match s.curWave, s.curSpindle with
  | some w, _ => w.s.rd n
  | _, some p => p.x.rd n
  | _, _ => 0

/-- Writes s[n] or x[n], which loses its poison mark (R128, R338). -/
def State.swr (s : State) (n : Nat) (v : BitVec 64) : State :=
  match s.cur with
  | .wave c k => s.modWave c k (fun w => { w with s := w.s.wr n v, sMark := w.cleared n w.sMark })
  | .spindle cl => s.modSpindle cl (fun p => { p with x := p.x.wr n v, xMark := setDel n p.xMark })
  | .none => s

def State.smarked (s : State) (n : Nat) : Bool :=
  match s.curWave, s.curSpindle with
  | some w, _ => w.sMark.contains n
  | _, some p => p.xMark.contains n
  | _, _ => false

/-- Writes k[n] of the wave. -/
def State.kwr (s : State) (n : Nat) (v : BitVec 64) : State := s.modCurWave (fun w => { w with k := w.k.wr n v })

/-- k[n] of the wave; 0 when the agent is no wave. -/
def State.krd (s : State) (n : Nat) : BitVec 64 :=
  match s.curWave with
  | some w => w.k.rd n
  | none => 0

/-- The lane set of R138. -/
def laneSet (w : Wave) (x : XF) : BitVec 64 :=
  w.k.rd 0 &&& (if x.mneg == 1 then ~~~(w.k.rd x.mask.toNat) else w.k.rd x.mask.toNat)

/-! ## Free values (DESIGN CHOICE, log entry 8) -/

/-- Takes n free bytes as a number. -/
def State.takeBytes (s : State) : Nat → Nat × State
  | 0 => (0, s)
  | n + 1 =>
    let (v, t) := State.takeBytes { s with free := s.free + 1 } n
    ((Config.freeByte s.free).toNat + 256 * v, t)

/-- Takes a free 64-bit value. -/
def State.takeWord (s : State) : BitVec 64 × State := (Config.freeWord s.free, { s with free := s.free + 1 })

end Sys2Proof.Machine
end

