-- ==== Sys2Proof/Machine/Ctl.lean ====
section
/-! DEFINITION. The device registers of space 7: offsets, fields, access codes, reset values and reach
(00 R10, 20 R303, 21 R317, 22 R337, 23 R352 to R372, 24 R378, 25 R388, R389, R392). -/

namespace Sys2Proof.Machine

/-- Access codes of R10; bits of no field are RSV. -/
inductive Acc where
  | ro | rw | wo | w1s
  deriving DecidableEq, Repr

/-- A device register by name. -/
inductive CtlReg where
  | clmap (i : Nat)
  | fnCtl (f : Nat)
  | fnCnt (f i : Nat)
  | ctxCtl (c : Nat)
  | qtab (c : Nat)
  | wake (c : Nat)
  | tvec (c : Nat)
  | save (c : Nat)
  | pre (c : Nat)
  | dbg (c : Nat)
  | root (c : Nat)
  | vmCtl (c : Nat)
  | dtab (c : Nat)
  | fq (c : Nat)
  | fqHead (c : Nat)
  | fqTail (c : Nat)
  | reply (c : Nat)
  | portSts (p : Nat)
  | ctxMap (c : Nat)
  | ctxIrq (c : Nat)
  | fnWin (f : Nat)
  | plkSts
  | ngxId
  | ngxPort (p : Nat)
  | ngxRoute (d : Nat)
  | ngxExp (e w : Nat)
  | ngxCtxKey (c : Nat)
  | mgtStatus
  | mgtPwrcap
  | mgtSense
  | mgtMbox (f : Nat)
  | evrCtl
  | evrStatus
  | rasScrub
  | rasErrcnt
  deriving DecidableEq, Repr

/-- Offset in space 7. -/
def CtlReg.off : CtlReg → Nat
  | .clmap i => 0xE0000 + 8 * i
  | .fnCtl f => 0xF0000 + 0x100 * f
  | .fnCnt f i => 0xF0020 + 0x100 * f + 8 * i
  | .ctxCtl c => 0x100000 + 0x1000 * c
  | .qtab c => 0x100008 + 0x1000 * c
  | .wake c => 0x100010 + 0x1000 * c
  | .tvec c => 0x100018 + 0x1000 * c
  | .save c => 0x100020 + 0x1000 * c
  | .pre c => 0x100028 + 0x1000 * c
  | .dbg c => 0x100030 + 0x1000 * c
  | .root c => 0x200000 + 0x1000 * c
  | .vmCtl c => 0x200008 + 0x1000 * c
  | .dtab c => 0x200010 + 0x1000 * c
  | .fq c => 0x200018 + 0x1000 * c
  | .fqHead c => 0x200020 + 0x1000 * c
  | .fqTail c => 0x200028 + 0x1000 * c
  | .reply c => 0x200030 + 0x1000 * c
  | .portSts p => 0x300000 + 0x100 * p
  | .ctxMap c => 0x301000 + 8 * c
  | .ctxIrq c => 0x302000 + 8 * c
  | .fnWin f => 0x303000 + 8 * f
  | .plkSts => 0x310000
  | .ngxId => 0x320000
  | .ngxPort p => 0x320100 + 8 * p
  | .ngxRoute d => 0x321000 + 8 * d
  | .ngxExp e w => 0x322000 + 0x20 * e + 8 * w
  | .ngxCtxKey c => 0x323000 + 8 * c
  | .mgtStatus => 0x330000
  | .mgtPwrcap => 0x330008
  | .mgtSense => 0x330010
  | .mgtMbox f => 0x340000 + 0x2000 * f
  | .evrCtl => 0x380000
  | .evrStatus => 0x380008
  | .rasScrub => 0x390000
  | .rasErrcnt => 0x390008

/-- The register group of one context at its offset within the group. -/
def ctxReg (c r : Nat) : Option CtlReg :=
  match r with
  | 0x00 => some (.ctxCtl c) | 0x08 => some (.qtab c) | 0x10 => some (.wake c) | 0x18 => some (.tvec c)
  | 0x20 => some (.save c) | 0x28 => some (.pre c) | 0x30 => some (.dbg c)
  | _ => none

def vmReg (c r : Nat) : Option CtlReg :=
  match r with
  | 0x00 => some (.root c) | 0x08 => some (.vmCtl c) | 0x10 => some (.dtab c) | 0x18 => some (.fq c)
  | 0x20 => some (.fqHead c) | 0x28 => some (.fqTail c) | 0x30 => some (.reply c)
  | _ => none

/-- The register at an offset in an array of registers 8 bytes apart. -/
def arrayReg (base count o : Nat) (f : Nat → CtlReg) : Option CtlReg :=
  if base ≤ o && o < base + 8 * count && (o - base) % 8 == 0 then some (f ((o - base) / 8)) else none

/-- The register at an offset of space 7. -/
def ctlReg (o : Nat) : Option CtlReg :=
  if o < 0xF0000 then arrayReg 0xE0000 4 o .clmap
  else if o < 0x100000 then
    let f := o / 0x100 % 0x100
    let r := o % 0x100
    if f < 32 then
      if r == 0 then some (.fnCtl f)
      else arrayReg 0x20 28 r (.fnCnt f)
    else none
  else if o < 0x200000 then ctxReg (o / 0x1000 % 0x100) (o % 0x1000)
  else if o < 0x300000 then vmReg (o / 0x1000 % 0x100) (o % 0x1000)
  else if o < 0x301000 then
    if o == 0x300000 then some (.portSts 0) else if o == 0x300100 then some (.portSts 1) else none
  else if o < 0x302000 then arrayReg 0x301000 256 o .ctxMap
  else if o < 0x303000 then arrayReg 0x302000 256 o .ctxIrq
  else if o < 0x310000 then arrayReg 0x303000 32 o .fnWin
  else if o == 0x310000 then some .plkSts
  else if o == 0x320000 then some .ngxId
  else if o < 0x321000 then arrayReg 0x320100 8 o .ngxPort
  else if o < 0x322000 then arrayReg 0x321000 64 o .ngxRoute
  else if o < 0x323000 then arrayReg 0x322000 64 o (fun i => .ngxExp (i / 4) (i % 4))
  else if o < 0x330000 then arrayReg 0x323000 256 o .ngxCtxKey
  else if o == 0x330000 then some .mgtStatus
  else if o == 0x330008 then some .mgtPwrcap
  else if o == 0x330010 then some .mgtSense
  else if 0x340000 ≤ o && o < 0x380000 && o % 0x2000 == 0 then some (.mgtMbox ((o - 0x340000) / 0x2000))
  else if o == 0x380000 then some .evrCtl
  else if o == 0x380008 then some .evrStatus
  else if o == 0x390000 then some .rasScrub
  else if o == 0x390008 then some .rasErrcnt
  else none

/-- Fields of a register: lowest bit, width, access. R2 has an empty socket reported through the management registers; no table
gives a field for it, and the model has none (DESIGN CHOICE, log entry 4). -/
def CtlReg.fields : CtlReg → List (Nat × Nat × Acc)
  | .clmap _ => (List.range 8).map (fun j => (8 * j, 6, Acc.ro))
  | .fnCtl _ => [(32, 32, .rw), (16, 16, .rw), (12, 4, .rw), (8, 4, .rw), (0, 1, .rw)]
  | .fnCnt _ _ => [(0, 64, .ro)]
  | .ctxCtl _ => [(40, 5, .ro), (22, 10, .rw), (4, 4, .rw), (1, 1, .ro), (0, 1, .rw)]
  | .qtab _ => [(12, 45, .rw), (0, 6, .rw)]
  | .wake _ => [(0, 64, .wo)]
  | .tvec _ => [(10, 47, .rw), (0, 1, .rw)]
  | .save _ => [(16, 41, .rw), (0, 5, .rw)]
  | .pre _ => [(32, 16, .rw), (16, 16, .ro), (4, 1, .w1s), (2, 2, .ro), (1, 1, .w1s), (0, 1, .w1s)]
  | .dbg _ => [(32, 32, .rw), (23, 9, .rw), (3, 1, .ro), (2, 1, .rw), (1, 1, .w1s), (0, 1, .w1s)]
  | .root _ => [(12, 40, .rw), (0, 1, .rw)]
  | .vmCtl _ => [(40, 8, .rw), (36, 4, .rw), (0, 1, .rw)]
  | .dtab _ => [(12, 45, .rw), (0, 5, .rw)]
  | .fq _ => [(12, 40, .rw), (0, 5, .rw)]
  | .fqHead _ => [(0, 64, .rw)]
  | .fqTail _ => [(0, 64, .ro)]
  | .reply _ => [(62, 2, .wo), (32, 9, .wo), (0, 32, .wo)]
  | .portSts _ => [(12, 4, .ro), (8, 2, .ro), (0, 5, .ro)]
  | .ctxMap _ => [(0, 7, .rw)]
  | .ctxIrq _ => [(24, 6, .rw), (16, 6, .rw), (8, 6, .rw), (0, 3, .rw)]
  | .fnWin _ => [(16, 41, .rw), (8, 8, .rw), (0, 1, .rw)]
  | .plkSts => [(0, 3, .ro)]
  | .ngxId => [(0, 6, .rw)]
  | .ngxPort _ => [(15, 1, .ro), (8, 6, .ro), (2, 1, .rw), (0, 2, .ro)]
  | .ngxRoute _ => [(0, 8, .rw)]
  | .ngxExp _ 0 => [(12, 30, .rw), (0, 1, .rw)]
  | .ngxExp _ 1 => [(0, 42, .rw)]
  | .ngxExp _ 2 => [(0, 57, .rw)]
  | .ngxExp _ _ => [(48, 8, .rw), (32, 16, .rw), (0, 3, .rw)]
  | .ngxCtxKey _ => [(0, 16, .rw)]
  | .mgtStatus => [(32, 16, .ro), (16, 8, .ro), (8, 1, .ro), (0, 4, .ro)]
  | .mgtPwrcap => [(16, 16, .ro), (0, 16, .rw)]
  | .mgtSense => [(0, 48, .ro)]
  | .mgtMbox _ => [(63, 1, .wo), (62, 1, .ro), (32, 16, .rw), (16, 16, .ro), (0, 16, .rw)]
  | .evrCtl => [(7, 1, .w1s), (0, 4, .rw)]
  | .evrStatus => [(32, 16, .ro), (24, 3, .ro), (16, 2, .ro), (0, 2, .ro)]
  | .rasScrub => [(0, 9, .rw)]
  | .rasErrcnt => [(0, 64, .ro)]

/-- The bits of a register whose access satisfies a test. -/
def CtlReg.maskOf (r : CtlReg) (p : Acc → Bool) : BitVec 64 :=
  r.fields.foldl (fun a f => if p f.2.2 then a ||| BitVec.ofNat 64 ((2 ^ f.2.1 - 1) * 2 ^ f.1) else a) 0#64

/-- Reset value. -/
def CtlReg.reset : CtlReg → BitVec 64
  | .fnCtl f => if f == 0 || f == 16 then 0xFFFFFFFF0000FF01#64 else 0xFF00#64
  | .pre _ => BitVec.ofNat 64 (200 * 2 ^ 32)
  | .mgtPwrcap => 1000#64
  | .rasScrub => BitVec.ofNat 64 (256 + 24)
  | _ => 0#64

/-- What an unlisted offset of space 7 holds. -/
def ctlDefault (o : Nat) : BitVec 64 :=
  match ctlReg o with
  | some r => r.reset
  | none => 0#64

/-- The stored bits of a register. -/
def State.ctlRd (s : State) (r : CtlReg) : BitVec 64 := sget ctlDefault s.ctl r.off

def State.ctlWr (s : State) (r : CtlReg) (v : BitVec 64) : State := { s with ctl := sput ctlDefault s.ctl r.off v }

/-- A field of a register. -/
def State.ctlField (s : State) (r : CtlReg) (lo n : Nat) : Nat := field (s.ctlRd r).toNat lo n

/-- The device's own write of a field, whatever its access code. -/
def State.ctlSet (s : State) (r : CtlReg) (lo n x : Nat) : State :=
  s.ctlWr r (BitVec.ofNat 64 (setField (s.ctlRd r).toNat lo n x))

/-- Function that owns a context (R303, R355). -/
def State.fnOf (s : State) (c : Nat) : Nat := s.ctlField (.ctxMap c) 0 5

/-- A context is assigned to a function (R355). -/
def State.ctxValid (s : State) (c : Nat) : Bool := s.ctlField (.ctxMap c) 5 1 == 1

/-- SCH_CTX_PRE.STATE and REQ (R337). -/
def State.preState (s : State) (c : Nat) : Nat := s.ctlField (.pre c) 2 2
def State.preReq (s : State) (c : Nat) : Bool := s.ctlField (.pre c) 0 1 == 1

/-- A debugger's stop covers a block: the whole context, or the one block of a launch that MODE 1 names (R392). -/
def State.dbgCovers (s : State) (c launch blk : Nat) : Bool :=
  (s.ctx c).reqDebug && (s.ctlField (.dbg c) 2 1 == 0 || (s.ctlField (.dbg c) 23 9 == launch && s.ctlField (.dbg c) 32 32 == blk))

/-- Microseconds of the reference timebase in %clk ticks: 1.7 GHz (R278). -/
def ticksPerMicro : Nat := 1700

/-- Ticks from a stored time to now. -/
def State.since (s : State) (t : Nat) : Nat := s.clk.toNat - t

/-- Whole microseconds left before the forced save (R276, R341). -/
def State.leftOf (s : State) (c : Nat) (req : Bool) : Nat :=
  if req then
    let d := s.ctlField (.pre c) 32 16
    (if d == 0 then 1 else d) - (s.since (s.ctx c).reqAt + ticksPerMicro - 1) / ticksPerMicro
  else 0

def State.preLeft (s : State) (c : Nat) : Nat := s.leftOf c (s.preReq c)

/-- The value a read returns: RO, RW and W1S fields, with the fields the device derives from other state (R10). -/
def State.ctlView (s : State) (r : CtlReg) : BitVec 64 :=
  let v := s.ctlRd r
  let v : BitVec 64 :=
    match r with
    | .ctxCtl c =>
      BitVec.ofNat 64 (setField (setField v.toNat 40 5 (s.fnOf c)) 1 1 (if s.launches.any (fun l => l.ctx == c) then 1 else 0))
    | .evrStatus =>
      BitVec.ofNat 64 (s.mgmt.lostCaps % 2 ^ 16 * 2 ^ 32 + (s.capsules.filter (·.inFlash)).length * 2 ^ 24
        + (s.capsules.filter (·.inStore)).length * 2 ^ 16 + (if s.freezes.isEmpty then 0 else 2)
        + (if s.bufs.any (fun b => b.2.frozen) then 1 else 0))
    | _ => v
  v &&& r.maskOf (fun a => a != .wo)

/-- A write under the access codes, on the bits of `sel`: RW takes the value, W1S sets, the rest keeps (R10, R216). -/
def State.ctlStore (s : State) (r : CtlReg) (v sel : BitVec 64) : State :=
  let old := s.ctlRd r
  let rw := r.maskOf (· == .rw) &&& sel
  let w1s := r.maskOf (· == .w1s) &&& sel
  s.ctlWr r ((old &&& ~~~rw) ||| (v &&& rw) ||| (v &&& w1s))

/-! ## Reach (R303, R352) -/

/-- Port of a function and of a context (R303, R355). -/
def portOfFn (f : Nat) : Nat := f / 16
def portOfCtx (c : Nat) : Nat := c / 128

/-- Function f is a physical function. -/
def isPhysical (f : Nat) : Bool := f == 0 || f == 16

/-- A function reaches the registers of its own contexts (R303). -/
def State.ownsCtx (s : State) (f c : Nat) : Bool := s.ctxValid c && s.fnOf c == f

/-- Whether a function reaches a register; `host` distinguishes a host access from a device program's (R303, R352).
SCH_CTX_CTL of a terminated or unassigned context answers its port's physical function too: it alone ends STATE 3 (R349), and
R355 says what a write finds while VALID is 0 (DEDUCED, log entry 32). -/
def State.reaches (s : State) (f : Nat) (host write : Bool) (r : CtlReg) : Bool :=
  match r with
  | .clmap _ => host && isPhysical f
  | .fnCtl _ => isPhysical f
  | .fnCnt _ _ => isPhysical f
  | .ctxCtl c => s.ownsCtx f c || (isPhysical f && portOfFn f == portOfCtx c && (s.preState c == 3 || !s.ctxValid c))
  | .qtab c => s.ownsCtx f c
  | .wake c => s.ownsCtx f c
  | .tvec c => s.ownsCtx f c
  | .save c => s.ownsCtx f c
  | .pre c => s.ownsCtx f c
  | .dbg c => s.ownsCtx f c
  | .root c => s.ownsCtx f c
  | .vmCtl c => s.ownsCtx f c
  | .dtab c => s.ownsCtx f c
  | .fq c => s.ownsCtx f c
  | .fqHead c => s.ownsCtx f c
  | .fqTail c => s.ownsCtx f c
  | .reply c => s.ownsCtx f c
  | .ctxIrq c => s.ownsCtx f c
  | .portSts p => portOfFn f == p
  | .ctxMap c => isPhysical f && portOfFn f == portOfCtx c
  | .fnWin g => g == f || (isPhysical f && portOfFn g == portOfFn f)
  | .plkSts => isPhysical f
  | .ngxId => isPhysical f
  | .ngxPort _ => isPhysical f
  | .ngxRoute _ => isPhysical f
  | .ngxExp _ _ => isPhysical f
  | .ngxCtxKey c => isPhysical f && portOfFn f == portOfCtx c
  | .mgtStatus => true
  | .mgtPwrcap => !write || isPhysical f
  | .mgtSense => true
  | .mgtMbox g => g == f
  | .evrCtl => isPhysical f
  | .evrStatus => isPhysical f
  | .rasScrub => isPhysical f
  | .rasErrcnt => isPhysical f

/-- An offset of the mailbox buffer of a function (R372). -/
def mboxAt (f o : Nat) : Bool := 0x341000 + 0x2000 * f ≤ o && o < 0x342000 + 0x2000 * f

/-- Adds to a counter of a function (R389). -/
def State.bump (s : State) (f i n : Nat) : State :=
  s.ctlWr (.fnCnt f i) (s.ctlRd (.fnCnt f i) + BitVec.ofNat 64 n)

def State.bumpCtx (s : State) (c i n : Nat) : State := s.bump (s.fnOf c) i n

end Sys2Proof.Machine
end

