-- ==== Sys2Proof/Machine/Record.lean ====
section
/-! DEFINITION. What the device writes down: Event Recorder records (24 R373 to R379), MSI-X messages (23 R357),
store-fault records (16 R281) and the device log (25 R395). -/

namespace Sys2Proof.Machine

/-! ## The Event Recorder -/

/-- Buffer numbers by unit kind (R373). -/
def bufCore (c : Nat) : Nat := c
def bufSpindle (cl : Nat) : Nat := 128 + cl
def bufCe (q : Nat) : Nat := 160 + q
def bufLlc (i : Nat) : Nat := 164 + i
def bufMem (i : Nat) : Nat := 228 + i
def bufSched : Nat := 252
def bufCount : Nat := 253

/-- Records a buffer holds (R373). -/
def bufSize (b : Nat) : Nat :=
  if b < 128 then 2048 else if b < 160 then 512 else if b < 164 then 1024 else if b < 252 then 512 else 2048

/-- Unit kind and index of a buffer (R373). -/
def bufUnit (b : Nat) : Nat × Nat :=
  if b < 128 then (0, b) else if b < 160 then (1, b - 128) else if b < 164 then (2, b - 160)
  else if b < 228 then (3, b - 164) else if b < 252 then (4, b - 228) else (5, 0)

def State.buf (s : State) (b : Nat) : Buf := sget (fun _ => Buf.empty) s.bufs b

def State.setBuf (s : State) (b : Nat) (x : Buf) : State := { s with bufs := sput (fun _ => Buf.empty) s.bufs b x }

/-- The bits of a record (R375). -/
def evRecord (type delta fn ctx slot detail : Nat) (payload : BitVec 64) : BitVec 128 :=
  BitVec.ofNat 128 (type % 2 ^ 8 * 2 ^ 120 + delta % 2 ^ 24 * 2 ^ 96 + fn % 2 ^ 5 * 2 ^ 91 + ctx % 2 ^ 8 * 2 ^ 83
    + slot % 2 ^ 7 * 2 ^ 76 + detail % 2 ^ 12 * 2 ^ 64 + payload.toNat)

/-- Puts a record into a buffer, which drops its oldest when full and counts the event while frozen (R373, R379). -/
def Buf.push (x : Buf) (size clk type fn ctx slot detail : Nat) (payload : BitVec 64) : Buf :=
  if x.frozen then { x with dropped := x.dropped + 1 }
  else
    let delta := if type == 0 then 0 else clk - x.last
    { x with recs := (evRecord type delta fn ctx slot detail payload :: x.recs).take size,
             stamps := (clk :: x.stamps).take size, last := clk }

/-- Writes a record of an event to a buffer. -/
def State.logRec (s : State) (b type fn ctx slot detail : Nat) (payload : BitVec 64) : State :=
  s.setBuf b ((s.buf b).push (bufSize b) s.clk.toNat type fn ctx slot detail payload)

/-- A record of a context (R377). -/
def State.logCtx (s : State) (b type ctx slot detail : Nat) (payload : BitVec 64) : State :=
  s.logRec b type (s.fnOf ctx) ctx slot detail payload

/-- A device record, SLOT 0x7E (R377). -/
def State.logDev (s : State) (b type detail : Nat) (payload : BitVec 64) : State :=
  s.logRec b type 0 0 0x7E detail payload

def State.logWave (s : State) (w : Wave) (type detail : Nat) (payload : BitVec 64) : State :=
  s.logCtx (bufCore w.core) type w.ctx w.slot detail payload

def State.logSpindle (s : State) (p : Spindle) (type detail : Nat) (payload : BitVec 64) : State :=
  s.logCtx (bufSpindle p.cluster) type p.ctx 0x40 detail payload

/-- EVR_CTL enables (R378): bits ENWAVE 0, ENLAUNCH 1, ENEMIT 2, ENFAULT 3. -/
def State.evrOn (s : State) (i : Nat) : Bool := s.ctlField .evrCtl i 1 == 1

/-- An access to a register a function may not reach (R352), and its other denials (R377 KIND 24) (DEDUCED, log entry 31). -/
def State.logDenied (s : State) (fn ctx slot detail : Nat) (a : Nat) : State :=
  s.logRec bufSched 0x61 fn ctx slot detail (BitVec.ofNat 64 a)

/-! ## MSI-X (R356, R357) -/

/-- The mask bit of a vector's table entry: bit 0 of its last dword, held inverted, so that an unlisted table is masked
(PRESUMED, log entry 3). -/
def State.msixMasked (s : State) (fn vec : Nat) : Bool := (s.msix.read (1024 * fn + 16 * vec + 12)).toNat % 2 == 0

/-- Sends a vector's message, or sets its pending bit while it is masked (R357). -/
def State.sendMsix (s : State) (fn vec : Nat) : State :=
  if s.msixMasked fn vec then
    { s with msixPending := s.msixPending.wr fn (s.msixPending.rd fn ||| (1#64 <<< vec)) }
  else { s with out := s.out ++ [.msix fn vec] }

/-- The event of bit i of HIF_CTX_IRQ: 0 EFAULT, 1 EQUEUE, 2 ESTATE (R357). -/
def State.ctxIrqEvent (s : State) (c i : Nat) : State :=
  if s.ctlField (.ctxIrq c) i 1 == 1 then s.sendMsix (s.fnOf c) (s.ctlField (.ctxIrq c) (8 + 8 * i) 6) else s

/-- SCH_CTX_PRE.STATE takes a value; 2, 3 and a return to 0 are ESTATE events (R357). -/
def State.setPreState (s : State) (c v : Nat) : State :=
  let t := s.ctlSet (.pre c) 2 2 v
  if s.preState c != v && v != 1 then t.ctxIrqEvent c 2 else t

/-! ## Store-fault records (R281) -/

/-- Four 64-bit words as a payload or a store-fault record, word 0 lowest. -/
def words4 (a b c d : BitVec 64) : BitVec 256 := d ++ c ++ b ++ a

/-- A store-fault record: the words of R281. -/
def sfRecord (addr lanes : BitVec 64) (cause kind slot ctx : Nat) (seq : BitVec 32) (pc : BitVec 64) : SfRec :=
  words4 addr lanes (BitVec.ofNat 64 (cause % 512 * 2 ^ 55 + kind % 4 * 2 ^ 53 + slot % 64 * 2 ^ 47 + ctx % 256 * 2 ^ 39 + seq.toNat)) pc

def sfAddr (r : SfRec) : BitVec 64 := r.extractLsb' 0 64
def sfCause (r : SfRec) : Nat := (r.extractLsb' 183 9).toNat
def sfSetLost (r : SfRec) : SfRec := r ||| BitVec.ofNat 256 (2 ^ 166)

/-- Appends a record to a queue of at most 64; a full queue marks its youngest record LOST (R281). -/
def sfPush (q : List SfRec) (r : SfRec) : List SfRec :=
  if q.length < 64 then q ++ [r]
  else match q.getLast? with
    | some l => q.dropLast ++ [sfSetLost l]
    | none => q ++ [r]

/-- Pushes a store-fault record to a resident wave's queue and logs it (R281, R377). -/
def State.pushSf (s : State) (w : Wave) (r : SfRec) : State :=
  let s := s.logWave w (if w.sfq.length < 64 then 0x15 else 0x19) (sfCause r) (sfAddr r)
  s.modWave w.core w.slot (fun v => { v with sfq := sfPush v.sfq r })

/-! ## The device log (R395) -/

/-- Adds an entry to the device log; CLK reads 0 before PHASE 4. -/
def State.devLog (s : State) (event : Nat) (arg : BitVec 64) : State :=
  let clk := if s.ctlField .mgtStatus 0 4 < 4 then 0#64 else s.clk
  let e : LogEntry := { seq := s.mgmt.logSeq, boot := s.mgmt.boots, event := event, clk := clk, arg := arg }
  let l := s.mgmt.log ++ [e]
  { s with mgmt := { s.mgmt with log := if l.length > 16384 then l.tail else l, logSeq := s.mgmt.logSeq + 1 } }

/-- Adds to RAS_ERRCNT, low half CE or high half UE, saturating (R387, R388). -/
def State.errCount (s : State) (ue : Bool) : State :=
  let lo := if ue then 32 else 0
  let n := s.ctlField .rasErrcnt lo 32
  if n == 2 ^ 32 - 1 then s else s.ctlSet .rasErrcnt lo 32 (n + 1)

end Sys2Proof.Machine
end

