-- ==== Sys2Proof/Machine/L2.lean ====
section
/-! DEFINITION. The global physical space and its targets, the LLC directory, and the L2 as the die's point of coherence
(04 R85, R86, R92; 05 R107, R111, R115, R128; 23 R353, R354). -/

namespace Sys2Proof.Machine

/-! ## Targets (R85, R86) -/

/-- Space of a global physical address, and its offset. -/
def paSpace (pa : Nat) : Nat := pa / 2 ^ 48 % 16
def paOff (pa : Nat) : Nat := pa % 2 ^ 48

/-- Bytes of GDDR-7, and of one LPDDR-6 socket (R1, R85). -/
def gddrBytes : Nat := 128 * 10 ^ 9
def socketBytes : Nat := 192 * 10 ^ 9

/-- An offset of space 0 or 1 lies in the populated capacity (R86). -/
def State.dramExists (s : State) (space off : Nat) : Bool :=
  if space == 0 then off < gddrBytes else off < socketBytes * s.mgmt.sockets

/-- PLK_STS.UP, HIF_PORT_STS.UP and CXLCACHE of a port (R354, R358) (DESIGN CHOICE, log entry 16). -/
def State.pairUp (s : State) : Bool := s.ctlField .plkSts 0 1 == 1
def State.portUp (s : State) (p : Nat) : Bool := s.ctlField (.portSts p) 0 1 == 1
def State.portCxl (s : State) (p : Nat) : Bool := s.portUp p && s.ctlField (.portSts p) 3 1 == 1

/-- NGX_ID.ID, and whether a port is up (R361). -/
def State.ngxIdNum (s : State) : Nat := s.ctlField .ngxId 0 6
def State.ngxPortUp (s : State) (p : Nat) : Bool := s.ctlField (.ngxPort p) 0 1 == 1

/-- The port by which requests to a device leave: the one that its route keeps while it is up, else the lowest-numbered port of
NGX_ROUTE that is up (R361). -/
def State.routePort (s : State) (d : Nat) : Option Nat :=
  let kept := sget (fun _ => 8) s.routes d
  if kept < 8 && s.ngxPortUp kept then some kept
  else (List.range 8).find? (fun p => bit (s.ctlField (.ngxRoute d) 0 8) p && s.ngxPortUp p)

/-- The route to a device keeps a port (R361). -/
def State.keepRoute (s : State) (d p : Nat) : State := { s with routes := sput (fun _ => 8) s.routes d p }

/-- A route to a device exists: the loop-back or a port (R361). -/
def State.routeExists (s : State) (d : Nat) : Bool := d == s.ngxIdNum || (s.routePort d).isSome

/-- Logical cores of a context: 256 when paired (R21, R86). -/
def State.coresOf (s : State) (c : Nat) : Nat := if (s.ctx c).paired then 256 else 128

/-- The target of a global physical address exists for a context (R86). -/
def State.targetExists (s : State) (c pa : Nat) : Bool :=
  let o := paOff pa
  match paSpace pa with
  | 0 => s.dramExists 0 o
  | 1 => s.dramExists 1 o
  | 2 => s.pairUp && o / 2 ^ 44 < 2 && s.dramExists (o / 2 ^ 44) (o % 2 ^ 44)
  | 3 => s.portUp 0
  | 4 => s.portUp 1
  | 5 => s.routeExists (o / 2 ^ 42)
  | 6 => o / 2 ^ 28 == 0 && o / 2 ^ 20 % 256 < s.coresOf c
  | 7 => true
  | _ => false

/-- Cause codes (R335). -/
def causePageMissing : Nat := 0x41
def causeCopyOnWrite : Nat := 0x42
def causePermission : Nat := 0x43
def causePageTableFormat : Nat := 0x44
def causeFirstTouch : Nat := 0x45
def causeNoncanonical : Nat := 0x46
def causeSpaceReserved : Nat := 0x47
def causeAbsent : Nat := 0x48
def causeCoreWindow : Nat := 0x49
def causeDeviceControl : Nat := 0x4A
def causeWriteBack : Nat := 0x4B
def causeScratchRange : Nat := 0x4C
def causeAtomicAlign : Nat := 0x61
def causeSyncCell : Nat := 0x62
def causeRangeLock : Nat := 0x63
def causePoison : Nat := 0x64
def causePoisonConsumed : Nat := 0x65
def causeRemoteRefused : Nat := 0x66
def causeTimelineCell : Nat := 0x67
def causeTimelineWrap : Nat := 0x68
def causeSoftwareTrap : Nat := 1
def causeUserTimer : Nat := 2
def causeStoreFault : Nat := 3
def causeDoubleTrap : Nat := 4
def causeIllegalOperand : Nat := 5
def causeRegisterRange : Nat := 6
def causePrivilege : Nat := 7
def causeMisalignedPc : Nat := 8
def causeClaimDeadlock : Nat := 9
def causeIllegal (d : Nat) : Nat := 32 + d

/-! ## The L2 (R85, R92, R115) -/

/-- The unit, context and slot that an access is logged for. -/
structure Who where
  buf : Nat
  ctx : Nat
  slot : Nat
  deriving DecidableEq, Repr

def Wave.who (w : Wave) : Who := { buf := bufCore w.core, ctx := w.ctx, slot := w.slot }
def Spindle.who (p : Spindle) : Who := { buf := bufSpindle p.cluster, ctx := p.ctx, slot := 0x40 }

/-- A line of space 2, 3 or 4: its home is not this die (R85). -/
def foreignLine (line : Nat) : Bool := let sp := paSpace (128 * line); 2 ≤ sp && sp ≤ 4

/-! ### The directory (R115)

Of a line whose home is this die the directory keeps the states of four holders; of a foreign line it keeps what this die's L2
holds. A line that this die's LLC alone holds counts as held in M by its L2. An outside holder that writes keeps the line in O,
so that each of its stores arrives as a request of its own (DESIGN CHOICE, log entry 83). -/

/-- The states of an unlisted line. -/
def dirDefault (line : Nat) : DirLine := { own := if foreignLine line then .i else .m, pair := .i, host0 := .i, host1 := .i }

def State.dirAt (s : State) (line : Nat) : DirLine := sget dirDefault s.dir line

def State.setDir (s : State) (line : Nat) (d : DirLine) : State := { s with dir := sput dirDefault s.dir line d }

/-- The holders other than this die's L2 that have a line: 1 the paired die's L2, 2 and 3 the host ports. -/
def DirLine.others (d : DirLine) : List Nat :=
  (if d.pair == .i then [] else [1]) ++ (if d.host0 == .i then [] else [2]) ++ (if d.host1 == .i then [] else [3])

/-- A line comes into the L2 for a read: in S when another holder has it, with data that its home answers when it is foreign
(data of an outside agent: DESIGN CHOICE, log entry 8). -/
def State.l2Fetch (s : State) (ctx line : Nat) : State :=
  let d := s.dirAt line
  if d.own != .i then s
  else if foreignLine line then
    let (v, t) := s.takeBytes 128
    ({ t with mem := t.mem.writeNat (128 * line) 128 v, out := t.out ++ [OutMsg.share (s.fnOf ctx) line] }).setDir line { d with own := .s }
  else s.setDir line { d with own := .s }

/-- The directory grants the L2 state M of a line, before a store: every other holder loses it (R111, R115). -/
def State.l2Own (s : State) (ctx line : Nat) : State :=
  let d := s.dirAt line
  if d.own == .m then s
  else
    let s := s.l2Fetch ctx line
    let asked : List OutMsg := if foreignLine line then [.own (s.fnOf ctx) line] else d.others.map (fun h => .takeAway h line)
    ({ s with out := s.out ++ asked }).setDir line { own := .m, pair := .i, host0 := .i, host1 := .i }

/-- The lines that n bytes touch. -/
def linesOf (pa n : Nat) : List Nat :=
  if n == 0 then [] else (List.range ((pa + n - 1) / 128 - pa / 128 + 1)).map (fun i => pa / 128 + i)

/-- The L2 holds the lines of n bytes, to read them, or to write them. -/
def State.l2FetchRange (s : State) (ctx pa n : Nat) : State := (linesOf pa n).foldl (fun s l => s.l2Fetch ctx l) s
def State.l2OwnRange (s : State) (ctx pa n : Nat) : State := (linesOf pa n).foldl (fun s l => s.l2Own ctx l) s

/-- Counters of traffic by space: read and write index (R389). Every access at the L2 counts as one at the memory
controller or the link (DESIGN CHOICE, log entry 14). -/
def State.traffic (s : State) (ctx pa n : Nat) (write : Bool) : State :=
  match paSpace pa with
  | 0 => s.bumpCtx ctx (if write then 16 else 15) n
  | 1 => s.bumpCtx ctx (if write then 18 else 17) n
  | 2 => s.bumpCtx ctx 21 n
  | 3 => s.bumpCtx ctx 19 n
  | 4 => s.bumpCtx ctx 20 n
  | _ => s

/-- A port of spaces 3 and 4 without CXL.cache: every access goes to the host (R85, R111, R218). -/
def State.hostDirect (s : State) (pa : Nat) : Bool :=
  (paSpace pa == 3 && !s.portCxl 0) || (paSpace pa == 4 && !s.portCxl 1)

/-- Reads n bytes at the point of coherence. -/
def State.l2Read (s : State) (ctx pa n : Nat) : Nat × State :=
  let s := s.traffic ctx pa n false
  if s.hostDirect pa then ({ s with out := s.out ++ [.hostRead (s.fnOf ctx) (paSpace pa - 3) (paOff pa) n] } : State).takeBytes n
  else
    let s := s.l2FetchRange ctx pa n
    (s.mem.readNat pa n, s)

/-- Releases the wave of a waiter slot, which gives up the slot (R236, R313). -/
def State.releaseWaiter (s : State) (t : Waiter) : State :=
  ({ s with waiters := s.waiters.filter (fun u => u.order != t.order) }).modWave t.core t.slot
    (fun w => match w.wait with
      | .timeline _ sc => { w with wait := .timeline true sc }
      | _ => w)

/-- A waiter slot whose cell was written is released when VALUE has reached its threshold (R236, R313). -/
def State.wakeWaiters (s : State) (pa n : Nat) : State :=
  (s.waiters.filter (fun t => t.index.isSome && pa < t.pa + 8 && t.pa < pa + n)).foldl
    (fun s t => if t.threshold.toNat ≤ s.mem.readNat t.pa 8 then s.releaseWaiter t else s) s

/-- Granules of n bytes from an address, and those a byte mask covers whole. -/
def granules (pa n : Nat) : List Nat := (List.range ((pa + n + 31) / 32 - pa / 32)).map (fun i => pa / 32 + i)

def granuleWhole (pa n mask g : Nat) : Bool :=
  (List.range 32).all (fun i => let a := 32 * g + i; pa ≤ a && a < pa + n && bit mask (a - pa))

def granuleTouched (pa n mask g : Nat) : Bool :=
  (List.range 32).any (fun i => let a := 32 * g + i; pa ≤ a && a < pa + n && bit mask (a - pa))

/-- A store clears the poison of the granules it covers whole; a partial store of a poisoned granule is logged (R128) (DEDUCED, log entry 75). -/
def State.storePoison (s : State) (who : Who) (pa n mask : Nat) : State :=
  if s.poison.isEmpty then s
  else (granules pa n).foldl (fun s g =>
    if !s.poison.contains g then s
    else if granuleWhole pa n mask g then { s with poison := setDel g s.poison }
    else if granuleTouched pa n mask g then s.logCtx who.buf 0x51 who.ctx who.slot causePoison (BitVec.ofNat 64 pa)
    else s) s

/-- Writes those of n bytes that a mask names at the point of coherence. -/
def State.l2Write (s : State) (who : Who) (pa n v mask : Nat) : State :=
  let s := s.traffic who.ctx pa n true
  if s.hostDirect pa then
    { s with out := s.out ++ [.hostWrite (s.fnOf who.ctx) (paSpace pa - 3) (paOff pa) n mask (BitVec.ofNat 1024 v)] }
  else
    let s := s.l2OwnRange who.ctx pa n
    let s := s.storePoison who pa n mask
    ({ s with mem := s.mem.writeMasked pa n v mask }).wakeWaiters pa n

/-- Writes n bytes at the point of coherence. -/
def State.l2Put (s : State) (who : Who) (pa n v : Nat) : State := s.l2Write who pa n v (2 ^ n - 1)

/-- Any granule of n bytes is poisoned. -/
def State.anyPoison (s : State) (pa n : Nat) : Bool := (granules pa n).any (fun g => s.poison.contains g)

/-- An outside holder (1 the paired die's L2, 2 and 3 the host ports) reads at the LLC: it then holds the lines in S, and an
owner keeps them in O (R115). -/
def State.outsideRead (s : State) (holder pa n : Nat) : State :=
  (linesOf pa n).foldl (fun s l =>
    let d := s.dirAt l
    let owned (x : Moesi) : Moesi := if x == .m || x == .e then .o else x
    let reads (h : Nat) (x : Moesi) : Moesi := if h == holder && x == .i then .s else owned x
    s.setDir l { own := owned d.own, pair := reads 1 d.pair, host0 := reads 2 d.host0, host1 := reads 3 d.host1 }) s

/-- A write of an outside holder at the LLC: every other holder loses the lines first (R115). -/
def State.outsideWrite (s : State) (holder pa n v : Nat) : State :=
  let s := (linesOf pa n).foldl (fun s l =>
    let d := s.dirAt l
    let keeps (h : Nat) : Moesi := if h == holder then .o else .i
    ({ s with out := s.out ++ ((d.others.filter (· != holder)).map (fun h => OutMsg.takeAway h l)) }).setDir l
      { own := .i, pair := keeps 1, host0 := keeps 2, host1 := keeps 3 }) s
  let s := s.storePoison { buf := bufSched, ctx := 0, slot := 0x46 } pa n (2 ^ n - 1)
  ({ s with mem := s.mem.writeNat pa n v }).wakeWaiters pa n

end Sys2Proof.Machine
end

