-- ==== Sys2Proof/Machine/Faults.lean ====
section
/-! DEFINITION. Fault records and the fault queue of a context (21 R331, R332). -/

namespace Sys2Proof.Machine

/-! ## Fault records (R331, R332) -/

/-- The parts of a fault record that its maker gives. -/
structure FaultInfo where
  kind : Nat
  cause : Nat
  vaddr : BitVec 64
  tag : BitVec 32
  access : Nat
  unit_ : Nat
  slot : Nat
  core : Nat
  payload : BitVec 256

/-- The bytes of a fault record (R332) (DEDUCED, log entry 61). -/
def faultRecord (f : FaultInfo) (seq : BitVec 32) (time : BitVec 64) : BitVec 512 :=
  BitVec.ofNat 512 (f.vaddr.toNat + 2 ^ 64 * f.tag.toNat + 2 ^ 96 * (f.cause % 512) + 2 ^ 112 * f.kind + 2 ^ 120 * f.access
    + 2 ^ 128 * f.unit_ + 2 ^ 136 * (f.slot % 256) + 2 ^ 144 * (f.core % 65536) + 2 ^ 160 * seq.toNat
    + 2 ^ 192 * time.toNat + 2 ^ 256 * f.payload.toNat)

/-- The fault queue of a context has room for one more record (R331). -/
def State.fqRoom (s : State) (c : Nat) : Bool :=
  let sz := s.ctlField (.fq c) 0 5
  6 ≤ sz && sz ≤ 16 && (s.ctlRd (.fqTail c) - s.ctlRd (.fqHead c)).toNat < 2 ^ sz

/-- Writes a record into the ring at the L2 and advances TAIL; a queue that turns nonempty is an EFAULT event (R331, R357). -/
def State.fqWrite (s : State) (c : Nat) (r : BitVec 512) : State :=
  let sz := s.ctlField (.fq c) 0 5
  let tail := s.ctlRd (.fqTail c)
  let a := s.ctlField (.fq c) 12 40 * 4096 + 64 * (tail.toNat % 2 ^ sz)
  let t := s.l2Put { buf := bufSched, ctx := c, slot := 0x45 } a 64 r.toNat
  let t := t.ctlWr (.fqTail c) (tail + 1)
  if tail == s.ctlRd (.fqHead c) then t.ctxIrqEvent c 0 else t

/-- The KIND 5 record of the records dropped (R331). -/
def lossInfo (n : Nat) : FaultInfo :=
  { kind := 5, cause := 0, vaddr := 0, tag := 0, access := 0, unit_ := 7, slot := 0xFF, core := 0xFFFF, payload := BitVec.ofNat 256 n }

/-- Writes held records while there is room, first the record of dropped ones (R331). -/
def State.fqFlush (s : State) (c : Nat) : Nat → State
  | 0 => s
  | n + 1 =>
    let x := s.ctx c
    if !s.fqRoom c then s
    else if x.dropped != 0 then
      let t := s.fqWrite c (faultRecord (lossInfo x.dropped) x.seq s.clk)
      State.fqFlush (t.setCtx c { x with dropped := 0, seq := x.seq + 1 }) c n
    else match x.held with
      | [] => s
      | h :: rest => State.fqFlush ((s.fqWrite c h.record).setCtx c { x with held := rest }) c n

/-- Makes a fault record for a context: written in order, or held, or dropped (R331, R332). -/
def State.makeFault (s : State) (c : Nat) (f : FaultInfo) (b slot : Nat) : State :=
  let x := s.ctx c
  let r := faultRecord f x.seq s.clk
  let s := s.bumpCtx c 27 1
  let s := if s.evrOn 3 then s.logCtx b 0x59 c slot f.cause f.vaddr else s
  let s := s.setCtx c { x with seq := x.seq + 1 }
  let x := s.ctx c
  if x.held.isEmpty && x.dropped == 0 && s.fqRoom c then s.fqWrite c r
  else if f.kind ≤ 1 || (x.held.filter (fun h => 2 ≤ h.kind)).length < 64 then
    (s.setCtx c { x with held := x.held ++ [{ kind := f.kind, record := r }] }).fqFlush c (x.held.length + 2)
  else (s.setCtx c { x with dropped := x.dropped + 1 }).fqFlush c (x.held.length + 2)

/-- The KIND 3 fault record that carries a store-fault record (R25, R332). -/
def State.sfToQueue (s : State) (c core slot : Nat) (r : SfRec) (unit_ : Nat) : State :=
  s.makeFault c { kind := 3, cause := sfCause r, vaddr := sfAddr r, tag := 0, access := 2, unit_ := unit_, slot := slot,
                  core := core, payload := r } (bufCore core) slot

end Sys2Proof.Machine
end

