-- ==== Sys2Proof/Machine/Vm.lean ====
section
/-! DEFINITION. The global physical space and address translation (04 R84 to R86, R94, R109; 21 R317 to R334): which targets
exist, the walk, cached translations, fault tags. -/

namespace Sys2Proof.Machine

/-- The frame's causes for an access, in the order of check 6 of R212 but for core-window and device-control-access,
which depend on the bytes (DEDUCED, log entry 24). -/
def State.frameCause (s : State) (c pa : Nat) (user : Bool) : Option Nat :=
  if 8 ≤ paSpace pa then some causeSpaceReserved
  else if !s.targetExists c pa then some causeAbsent
  else if paSpace pa == 7 && user then some causePrivilege
  else none

/-! ## The walk (R318 to R322) -/

/-- What an access needs (R322). -/
structure Need where
  read : Bool
  write : Bool
  fetch : Bool
  user : Bool
  deriving DecidableEq, Repr

def Need.load (user : Bool) : Need := { read := true, write := false, fetch := false, user := user }
def Need.store (user : Bool) : Need := { read := false, write := true, fetch := false, user := user }
def Need.atomic (user : Bool) : Need := { read := true, write := true, fetch := false, user := user }
def Need.ifetch (user : Bool) : Need := { read := false, write := false, fetch := true, user := user }

/-- What translating an address gives. -/
inductive Xlate where
  | ok (e : TlbEntry)
  | missing (first : Bool)
  | cow
  | cause (c : Nat)
  deriving DecidableEq, Repr

/-- A table frame, or the root, lies in spaces 0 to 2 and names an existing target (R320). -/
def State.tableFrameOk (s : State) (c frame : Nat) : Bool := paSpace frame ≤ 2 && s.targetExists c frame

/-- Size of a leaf at a level (R320). -/
def leafSize (lvl : Nat) (g64 : Bool) : Nat :=
  match lvl with
  | 0 => if g64 then 2 ^ 16 else 2 ^ 12
  | 1 => 2 ^ 21
  | _ => 2 ^ 30

/-- format_bad of R320 for an entry with V = 1. -/
def State.formatBad (s : State) (c e lvl : Nat) (g64 : Bool) : Bool :=
  let leaf := bit e 1
  let frame := field e 12 40 * 4096
  if field e 56 8 != 0 then true
  else if leaf then
    3 ≤ lvl || field e 2 2 == 3 || frame % leafSize lvl g64 != 0 || (g64 && lvl == 0 && 5 < field e 53 3)
  else
    lvl == 0 || field e 3 9 != 0 || field e 52 12 != 0 || (bit e 2 && lvl != 1) || !s.tableFrameOk c frame

/-- The entry at an address is read from a poisoned granule (R320). -/
def State.poisoned (s : State) (pa : Nat) : Bool := s.poison.contains (pa / 32)

/-- Page kind of an ORD value (R318). -/
def pageKindOf (ord : Nat) : PageKind := if ord == 1 then .so else if ord == 2 then .un else .rc

/-- Index of a virtual address at a level (R320). -/
def tableIndex (va lvl : Nat) (g64 : Bool) : Nat :=
  if lvl == 0 && g64 then va / 2 ^ 16 % 32 else va / 2 ^ (12 + 9 * lvl) % 512

/-- A cached table entry serves an address (R323). -/
def TableEntry.covers (t : TableEntry) (c va : Nat) : Bool := t.ctx == c && va / 2 ^ (21 + 9 * t.level) == t.va / 2 ^ (21 + 9 * t.level)

/-- The walkers cache a table entry, in place of one for the same addresses. -/
def State.keepTable (s : State) (t : TableEntry) : State :=
  { s with tables := t :: s.tables.filter (fun u => !(u.level == t.level && u.covers t.ctx t.va)) }

/-- The walk from the table of a level, with the levels left (R320): entries are read at the L2; the step sets A, and D for a
write, in the leaf it reads. Only the entry of a walk that goes on is cached. -/
def State.walkFrom (s : State) (c va : Nat) (n : Need) (table : Nat) (g64 : Bool) : Nat → Xlate × State
  | 0 => (.cause causePageTableFormat, s)
  | lvl + 1 =>
    let a := table + 8 * tableIndex va lvl g64
    let s := s.l2Fetch c (a / 128)
    let e := s.mem.readNat a 8
    if s.poisoned a then (.cause causePoison, s)
    else if !bit e 0 then (.missing (lvl == 0 && bit e 11), s)
    else if s.formatBad c e lvl g64 then (.cause causePageTableFormat, s)
    else if !bit e 1 then
      (s.keepTable { ctx := c, level := lvl - 1, va := va, page := field e 12 40, g64 := bit e 2 }).walkFrom c va n
        (field e 12 40 * 4096) (bit e 2) lvl
    else
      let size := leafSize lvl g64
      if (n.user && !bit e 7) || (n.fetch && !bit e 6) || (n.read && !bit e 4) then (.cause causePermission, s)
      else if n.write && !bit e 5 then (if bit e 52 then .cow else .cause causePermission, s)
      else
        let e' := setField (if n.write then setField e 10 1 1 else e) 9 1 1
        let s := if e' == e then s else
          let s := s.l2Own c (a / 128)
          { s with mem := s.mem.writeNat a 8 e' }
        (.ok { unit_ := 0, ctx := c, va := va / size * size, size := size, frame := field e 12 40 * 4096,
               ord := pageKindOf (field e 2 2), r := bit e 4, w := bit e 5, x := bit e 6, u := bit e 7,
               d := bit e' 10, g := bit e 8, contig := field e 53 3 }, s)

/-- The cached table entry of the lowest level that serves an address. -/
def State.tableFor (s : State) (c va : Nat) : Option TableEntry :=
  (s.tables.filter (fun t => t.covers c va)).foldl (fun o t => match o with
    | none => some t
    | some u => some (if t.level < u.level then t else u)) none

/-- The walk of R320, from the root or from a cached table entry (R323). -/
def State.walk (s : State) (c va : Nat) (n : Need) : Xlate × State :=
  let root := (s.ctlRd (.root c)).toNat
  let frame := field root 12 40 * 4096
  if !bit root 0 then (.missing false, s)
  else if !s.tableFrameOk c frame then (.cause causePageTableFormat, s)
  else match s.tableFor c (va % 2 ^ 57) with
    | some t => s.walkFrom c (va % 2 ^ 57) n (t.page * 4096) t.g64 (t.level + 1)
    | none => s.walkFrom c (va % 2 ^ 57) n frame false 5

/-! ## Cached translations (R323, R324)

A unit without a core of its own looks up the TLBs of the core that its caller names: the first core of its cluster or quarter,
or core 0 (DESIGN CHOICE, log entry 84). A walk fills both TLBs that it passed; a full TLB gives up its oldest translation. -/

def TlbEntry.covers (e : TlbEntry) (c va : Nat) : Bool := e.ctx == c && e.va ≤ va && va < e.va + e.size

/-- A cached translation serves an access; a write needs D (R320). -/
def TlbEntry.permits (e : TlbEntry) (n : Need) : Bool :=
  (!n.user || e.u) && (!n.fetch || e.x) && (!n.read || e.r) && (!n.write || (e.w && e.d))

/-- The L1 TLB of a core and the L2 TLB of its quarter (R324). -/
def l2TlbOf (core : Nat) : Nat := 128 + core / 32
def tlbSize (u : Nat) : Nat := if u < 128 then 128 else 4096

/-- The translations of a list without those of a TLB past its first n. -/
def tlbTrim (u : Nat) : Nat → List TlbEntry → List TlbEntry
  | _, [] => []
  | n, e :: rest =>
    if e.unit_ != u then e :: tlbTrim u n rest
    else match n with
      | 0 => tlbTrim u 0 rest
      | k + 1 => e :: tlbTrim u k rest

/-- A TLB takes a translation, in place of one of the same page. -/
def State.tlbPut (s : State) (u : Nat) (e : TlbEntry) : State :=
  let old := s.tlb.filter (fun f => !(f.unit_ == u && f.ctx == e.ctx && f.va == e.va && f.size == e.size))
  { s with tlb := tlbTrim u (tlbSize u) ({ e with unit_ := u } :: old) }

/-- A translation that a TLB holds for an access. -/
def State.tlbFind (s : State) (u c va : Nat) (n : Need) : Option TlbEntry :=
  s.tlb.find? (fun e => e.unit_ == u && e.covers c va && e.permits n)

/-- Translates a canonical address for a unit of a core: its L1 TLB, the quarter's L2 TLB, then the walk (R94, R320, R324). The
walk is made within the access that meets the miss, so that no walk waits for a walker (DESIGN CHOICE, log entry 36). -/
def State.translate (s : State) (core c va : Nat) (n : Need) : Xlate × State :=
  match s.tlbFind core c (va % 2 ^ 57) n with
  | some e => (.ok e, s)
  | none =>
    match s.tlbFind (l2TlbOf core) c (va % 2 ^ 57) n with
    | some e => (.ok e, s)
    | none =>
      match s.walk c va n with
      | (.ok e, t) => (.ok e, (t.tlbPut (l2TlbOf core) e).tlbPut core e)
      | r => r

/-- The group that a leaf with CONTIG n states: 2^n pages, its frames in a row (R321). -/
def TlbEntry.group (e : TlbEntry) : TlbEntry :=
  let size := e.size * 2 ^ e.contig
  { e with va := e.va / size * size, frame := e.frame - e.va % size, size := size, contig := 0 }

/-- A cached translation is widened to its group (R321; a choice under R14, log entry 84). -/
def State.tlbGroup (s : State) (index : Nat) : State :=
  match s.tlb[index]? with
  | none => s
  | some e => if e.contig == 0 || e.frame < e.va % (e.size * 2 ^ e.contig) then s else { s with tlb := s.tlb.set index e.group }

/-- Global physical address of a virtual address under a translation. -/
def TlbEntry.pa (e : TlbEntry) (va : Nat) : Nat := e.frame + (va % 2 ^ 57 - e.va)

/-- Kind of an access (R85, R109). -/
def kindAt (pa : Nat) (ord : PageKind) : PageKind := if 5 ≤ paSpace pa then .so else ord

/-- The stronger kind: SO, then RC, then UN (R109). -/
def PageKind.stronger (a b : PageKind) : PageKind :=
  match a, b with
  | .so, _ => .so
  | _, .so => .so
  | .rc, _ => .rc
  | _, .rc => .rc
  | .un, .un => .un

/-- Invalidates every base translation register of a wave, which keeps their virtual bases (R94, R95, R279). -/
def Wave.dropBases (w : Wave) : Wave := { w with b := w.b.map (fun e => (e.1, e.2.drop)) }

/-- A tlbinv of a range, or of every page (with or without the global ones), covers a cached translation (R279, R324). -/
def TlbEntry.dropped (c : Nat) (range : Option (Nat × Nat)) (global : Bool) (e : TlbEntry) : Bool :=
  e.ctx == c && (match range with
    | some (lo, hi) => e.va < hi && lo < e.va + e.size
    | none => global || !e.g)

/-- A tlbinv covers a cached table entry. -/
def TableEntry.dropped (c : Nat) (range : Option (Nat × Nat)) (t : TableEntry) : Bool :=
  let size := 2 ^ (21 + 9 * t.level)
  t.ctx == c && (match range with
    | some (lo, hi) => t.va / size * size < hi && lo < t.va / size * size + size
    | none => true)

/-- Drops the translations and table entries of a context that a tlbinv covers (R279, R324). -/
def State.tlbDrop (s : State) (c : Nat) (range : Option (Nat × Nat)) (global : Bool) : State :=
  { s with tlb := s.tlb.filter (fun e => !e.dropped c range global),
           tables := s.tables.filter (fun t => !t.dropped c range),
           waves := s.waves.map (fun w => if w.ctx == c then w.dropBases else w) }

/-! ## Fault tags (R326) -/

/-- The 32-bit tag of an index and a generation, on this die. -/
def tagWord (index gen : Nat) : BitVec 32 := BitVec.ofNat 32 (index % 4096 + gen % 65536 * 4096)

def Tag.word (t : Tag) : BitVec 32 := tagWord t.index t.gen

/-- Fault tags a context may hold (R317). -/
def State.tagMax (s : State) (c : Nat) : Nat :=
  let m := s.ctlField (.vmCtl c) 40 8
  if m == 0 then 2048 else 16 * m

/-- The outstanding tag of a page and class. -/
def State.tagOf (s : State) (c page : Nat) (write : Bool) : Option Tag :=
  s.tags.find? (fun t => t.ctx == c && t.page == page && t.write == write)

/-- The lowest free index (DESIGN CHOICE, log entry 17). -/
def State.freeTag (s : State) : Option Nat :=
  if 4096 ≤ s.tags.length then none
  else (List.range (s.tags.length + 1)).find? (fun i => !s.tags.any (fun t => t.index == i))

/-- Allocates a tag of a page and class; the caller makes its record. `none` when no index is free or the context holds
its TAGMAX (R326). -/
def State.allocTag (s : State) (c page : Nat) (write : Bool) : Option (Tag × State) :=
  if s.tagMax c ≤ (s.tags.filter (fun t => t.ctx == c)).length then none
  else match s.freeTag with
    | none => none
    | some i =>
      let t : Tag := { index := i, gen := sget (fun _ => 0) s.tagGen i, ctx := c, page := page, write := write }
      some (t, { s with tags := s.tags ++ [t] })

/-- Frees a tag; its index advances to the next generation (R326, R333). -/
def State.freeTagOf (s : State) (t : Tag) : State :=
  { s with tags := s.tags.filter (fun u => u.index != t.index),
           tagGen := sput (fun _ => 0) s.tagGen t.index ((t.gen + 1) % 65536) }

/-- The tag of a missing page: the one outstanding, or a new one with its record (R326, R329, R332). -/
def State.needTag (s : State) (c page : Nat) (write cow : Bool) (info : FaultInfo) (b slot : Nat) : Option (BitVec 32 × State) :=
  match s.tagOf c page write with
  | some t => some (t.word, s)
  | none =>
    match s.allocTag c page write with
    | none => none
    | some (t, s) =>
      let kind := if cow then 1 else 0
      let cause := if cow then causeCopyOnWrite else causePageMissing
      some (t.word, s.makeFault c
        { info with kind := kind, tag := t.word, cause := cause, vaddr := BitVec.ofNat 64 (page * 4096) } b slot)

end Sys2Proof.Machine
end

