-- ==== Sys2Proof/Machine/Coherence.lean ====
section
/-! DEFINITION. The L2 as the point of coherence, the L1 of each core, write-backs, signatures, and the steps of releases,
acquires and fences (04 R85, R96; 05 R107 to R128; 21 R334). -/

namespace Sys2Proof.Machine

/-! ## Signatures (R116) -/

/-- The multipliers of R116. -/
def sigMult : List Nat := [0x8F3B52D16A0CE4B7, 0xD26E1A97C3F50849, 0xA5C97E03B14D62F1, 0xE714B8C62F59D3AD]

/-- The four bits of a line address. -/
def sigBits (line : Nat) : List Nat := sigMult.map (fun m => line * m % 2 ^ 64 / 2 ^ 55)

def sigAdd (line : Nat) (ws : Sig) : Sig := (sigBits line).foldl (fun a i => a ||| (1#512 <<< i)) ws

def sigHit (line : Nat) (ws : Sig) : Bool := (sigBits line).all (fun i => ws.getLsbD i)

def popcount {n : Nat} (v : BitVec n) : Nat := (List.range n).foldl (fun a i => if v.getLsbD i then a + 1 else a) 0

def sigHeavy (ws : Sig) : Bool := 320 ≤ popcount ws

/-! ## The L1 (R110, R113) -/

def L1Line.at (core ctx pline : Nat) (l : L1Line) : Bool := l.core == core && l.ctx == ctx && l.pline == pline

def State.l1Find (s : State) (core ctx pline : Nat) : Option L1Line := s.l1.find? (fun l => l.at core ctx pline)

def State.l1Set (s : State) (l : L1Line) : State := { s with l1 := replaceFirst (fun m => m.at l.core l.ctx l.pline) l s.l1 }

def State.l1Drop (s : State) (l : L1Line) : State := { s with l1 := s.l1.filter (fun m => !m.at l.core l.ctx l.pline) }

/-- Byte mask of dirty bits as a bit mask over the data. -/
def byteMask (m : Nat) : Nat → Nat
  | 0 => 0
  | n + 1 => (if m % 2 == 1 then 255 else 0) + 256 * byteMask (m / 2) n

/-- Dirty bytes over fetched bytes. -/
def mergeDirty (l : L1Line) (fresh : BitVec 1024) : BitVec 1024 :=
  let m := BitVec.ofNat 1024 (byteMask l.dirty.toNat 128)
  (l.data &&& m) ||| (fresh &&& ~~~m)

/-- Writes the dirty bytes of a line to the frame it was filled from, after translating the line again: the record of
R127 when the page is no longer writable or maps another frame (R334): its dirty bytes are discarded and the line is dropped.
Otherwise the line is clean afterwards. -/
def State.writeBack (s : State) (l : L1Line) : Option SfRec × State :=
  if l.dirty == 0 then (none, s)
  else
    let va := 128 * l.vline
    let clean := { l with dirty := 0 }
    let (x, s) := s.translate l.core l.ctx va (Need.store false)
    let good := match x with
      | .ok e => e.pa va == 128 * l.pline
      | _ => false
    if good then
      let s := s.l1Set clean
      (none, s.l2Write { buf := bufCore l.core, ctx := l.ctx, slot := l.wslot } (128 * l.pline) 128 l.data.toNat l.dirty.toNat)
    else
      let r := sfRecord (sext57 va) (l.dirty.extractLsb' 0 64) causeWriteBack 1 l.wslot l.ctx 0 (l.dirty.extractLsb' 64 64)
      (some r, s.l1Drop l)

/-- Reports a write-back fault to the last writer's queue, or to the context's fault queue (R127). -/
def State.routeSf (s : State) (l : L1Line) (r : SfRec) : State :=
  match s.wave? l.core l.wslot with
  | some w => if w.inst == l.winst then s.pushSf w r else s.sfToQueue l.ctx l.core l.wslot r 6
  | none => s.sfToQueue l.ctx l.core l.wslot r 6

/-- Writes a line back and reports a fault to its last writer. -/
def State.writeBackRouted (s : State) (l : L1Line) : State :=
  match s.writeBack l with
  | (some r, t) => t.routeSf l r
  | (none, t) => t

/-- Evicts a line (R110). -/
def State.evictLine (s : State) (l : L1Line) : State := (s.writeBackRouted l).l1Drop l

/-- Bytes of a Core Store that blocks hold as register blocks and scratchpad (R88). -/
def State.storeUsed (s : State) (core : Nat) : Nat :=
  (s.waves.filter (fun w => w.core == core)).foldl (fun a w => a + 2048 * w.blocks.length) 0
    + (s.blocks.filter (fun b => b.core == core)).foldl (fun a b => a + 2048 * b.pool.length + b.scrSize) 0

/-- Lines of a core's L1 (R88): the remainder of the Core Store. -/
def State.l1Cap (s : State) (core : Nat) : Nat := (2 ^ 20 - s.storeUsed core) / 128

/-- Makes room for one line: the line filled longest ago is evicted from a full L1 (DESIGN CHOICE, log entry 13). -/
def State.l1Room (s : State) (core : Nat) : State :=
  let mine := s.l1.filter (fun l => l.core == core)
  if mine.length < s.l1Cap core then s
  else match mine with
    | [] => s
    | l :: rest => s.evictLine (rest.foldl (fun a b => if b.filled < a.filled then b else a) l)

/-- Fills a line from the L2 for a context, as a page kind. -/
def State.l1Fill (s : State) (core ctx pline vline : Nat) (kind : PageKind) : L1Line × State :=
  let s := s.l1Room core
  let (v, s) := s.l2Read ctx (128 * pline) 128
  let l : L1Line := { core := core, ctx := ctx, pline := pline, vline := vline, kind := kind, data := BitVec.ofNat 1024 v,
                      dirty := 0, filled := s.cyc, dirtySince := 0, wslot := 0, winst := 0 }
  (l, { s with l1 := s.l1 ++ [l] })

/-- The line of an access (R110, R113): filled when the L1 does not hold it, refetched when its lease has lapsed under an RC
access. A line that the L1 holds as another kind is evicted and filled anew, and the dirty bytes that the core holds of the
frame for another context reach the L2 first, so that they serve this access (DEDUCED, log entry 85). -/
def State.l1Get (s : State) (core ctx pline vline : Nat) (kind : PageKind) : L1Line × State :=
  let alien (l : L1Line) : Bool := l.core == core && l.pline == pline && l.ctx != ctx && l.dirty != 0
  let shared := s.l1.any alien
  let s := (s.l1.filter alien).foldl (fun s l => s.evictLine l) s
  match s.l1Find core ctx pline with
  | some l =>
    if l.kind != kind then (s.evictLine l).l1Fill core ctx pline vline kind
    else if shared || (kind == .rc && l.filled + 2048 ≤ s.cyc) then
      let (v, s) := s.l2Read ctx (128 * pline) 128
      let l' := { l with data := mergeDirty l (BitVec.ofNat 1024 v), filled := s.cyc }
      (l', s.l1Set l')
    else (l, s)
  | none => s.l1Fill core ctx pline vline kind

/-- Reads n bytes of one line through the L1; the mark of a poisoned granule unless the L1 holds it all dirty. -/
def State.l1Read (s : State) (core ctx va pa n : Nat) (kind : PageKind) : Nat × Bool × State :=
  let (l, s) := s.l1Get core ctx (pa / 128) (va % 2 ^ 57 / 128) kind
  let o := pa % 128
  let whole := field l.dirty.toNat (o / 32 * 32) 32 == 2 ^ 32 - 1
  (field l.data.toNat (8 * o) (8 * n), s.poisoned pa && !whole, s)

/-- Writes those of n bytes of one line that a mask names in the L1, as the store of a wave (R110). -/
def State.l1Write (s : State) (w : Wave) (va pa n v mask : Nat) (kind : PageKind) : State :=
  let vline := va % 2 ^ 57 / 128
  let (l, s) := s.l1Get w.core w.ctx (pa / 128) vline kind
  let o := pa % 128
  let m := byteMask mask n
  let m8 := BitVec.ofNat 1024 (m * 2 ^ (8 * o))
  let data := (l.data &&& ~~~m8) ||| (BitVec.ofNat 1024 (v % 2 ^ (8 * n) * 2 ^ (8 * o)) &&& m8)
  s.l1Set { l with data := data, dirty := l.dirty ||| BitVec.ofNat 128 (mask % 2 ^ n * 2 ^ o), vline := vline, kind := kind,
                   dirtySince := if l.dirty == 0 then s.cyc else l.dirtySince, wslot := w.slot, winst := w.inst }

/-- An operation at the L2 first writes back and drops the line of a core's L1 (R117, R218). -/
def State.l1Flush (s : State) (core ctx pline : Nat) : State :=
  match s.l1Find core ctx pline with
  | some l => s.evictLine l
  | none => s

/-! ## Releases, acquires and fences (R113, R118 to R122) -/

/-- Writes back the lines that satisfy a test; the records of the lines that could not be written (R127). -/
def State.writeBackAll (s : State) (p : L1Line → Bool) : List SfRec × State :=
  (s.l1.filter (fun l => l.dirty != 0 && p l)).foldl
    (fun (acc : List SfRec × State) l =>
      match acc.2.writeBack l with
      | (some r, t) => (acc.1 ++ [r], t)
      | (none, t) => (acc.1, t)) ([], s)

/-- The write-back of R118 at cluster scope or wider. -/
def State.releaseLines (s : State) (core ctx : Nat) (ws : Sig) : List SfRec × State :=
  s.writeBackAll (fun l => l.core == core && l.ctx == ctx && l.kind == .rc && sigHit l.vline ws)

/-- Writes back, reporting faults to the last writers, and drops the lines that satisfy a test. -/
def State.dropLines (s : State) (p : L1Line → Bool) : State := (s.l1.filter p).foldl (fun s l => s.evictLine l) s

/-- The drop of R119. -/
def State.acquireLines (s : State) (core ctx : Nat) (sig : Sig) (sat : Bool) : State :=
  let all := sat || sigHeavy sig
  s.dropLines (fun l => l.core == core && l.ctx == ctx && l.kind == .rc && (all || sigHit l.vline sig))

/-- The drop of R120 and R122: every RC line of the context. -/
def State.acquireAll (s : State) (core ctx : Nat) : State :=
  s.dropLines (fun l => l.core == core && l.ctx == ctx && l.kind == .rc)

/-- Step 1 of R113: writes back every dirty UN line; its drop follows. -/
def State.releaseUn (s : State) (core ctx : Nat) : List SfRec × State :=
  s.writeBackAll (fun l => l.core == core && l.ctx == ctx && l.kind == .un)

def State.dropUn (s : State) (core ctx : Nat) : State :=
  { s with l1 := s.l1.filter (fun l => !(l.core == core && l.ctx == ctx && l.kind == .un)) }

/-- Level SCOPE values to scopes 1 to 6 (R22, R136): the SCOPE field of the level's descriptor, which counts from 0. `none`
for a level above TOP. -/
def scopeOf (rec : BitVec 512) (v : Nat) : Option Nat :=
  if v < 8 then some v
  else if ctlTop rec < v - 8 then none
  else some (levelScope rec (v - 8) + 1)

/-- Scopes as R136 numbers them. -/
def scopeCore : Nat := 2
def scopeCluster : Nat := 3
def scopeDie : Nat := 4
def scopePair : Nat := 5
def scopeSystem : Nat := 6

/-- The fields of a sync cell (R117). -/
structure Cell where
  value : BitVec 64
  ctl : BitVec 64
  reserved : Bool
  sig : Sig
  deriving DecidableEq, Repr

def cellOf (v : Nat) : Cell :=
  { value := BitVec.ofNat 64 v, ctl := BitVec.ofNat 64 (v / 2 ^ 64),
    reserved := v / 2 ^ 97 % 2 ^ 31 != 0 || v / 2 ^ 128 % 2 ^ 384 != 0, sig := BitVec.ofNat 512 (v / 2 ^ 512) }

def Cell.sat (c : Cell) : Bool := c.ctl.getLsbD 32
def Cell.epoch (c : Cell) : BitVec 32 := c.ctl.extractLsb' 0 32

/-- The bytes of a cell: VALUE, CTL and SIG (R117). -/
def cellBits (value : BitVec 64) (sat : Bool) (epoch : BitVec 32) (sig : Sig) : Nat :=
  value.toNat + 2 ^ 64 * epoch.toNat + (if sat then 2 ^ 96 else 0) + 2 ^ 512 * sig.toNat

/-- The cell after a release half (R118): mode 0 merge, 1 fresh, 2 all. -/
def Cell.release (c : Cell) (mode : Nat) (value : BitVec 64) (ws : Sig) (wsat : Bool) : Nat :=
  let sig := if mode == 1 then ws else c.sig ||| ws
  let sat := if mode == 2 then true else if mode == 1 then wsat || sigHeavy sig else c.sat || wsat || sigHeavy sig
  cellBits value sat (c.epoch + 1) sig

end Sys2Proof.Machine
end

