-- ==== Sys2Proof/Machine/Ops.lean ====
section
/-! DEFINITION. What every instruction shares: how it ends, its checks before any effect, taking a supervisor trap or a user
timer trap, and returning from them (01 R24, R37; 05 R108, R128; 06 R131, R140; 16 R271 to R274; 22 R336 to R338). -/

namespace Sys2Proof.Machine

/-- How an instruction's own work ends. -/
inductive Res where
  /-- It completes, and the next instruction follows. -/
  | done (s : State)
  /-- It completes, and execution goes on at an address. -/
  | jump (s : State) (pc : BitVec 64)
  /-- A precise cause, with %taddr and %tlanes (R272). -/
  | trap (s : State) (cause : Nat) (addr lanes : BitVec 64)
  /-- It completes, and the trap's %tepc names the next instruction (R220, R272). -/
  | trapNext (s : State) (cause : Nat) (addr lanes : BitVec 64)
  /-- It waits; the program counter stays at it. -/
  | wait (s : State) (w : Wait)

/-! ## Ending a wave or a program (R336, R349) -/

/-- The agent ends with a cause once its issued accesses have completed (DEDUCED, log entry 79). -/
def State.endCur (s : State) (cause : Nat) : State :=
  match s.cur with
  | .wave c k => s.modWave c k (fun w => { w with wait := .ended cause })
  | .spindle cl => s.modSpindle cl (fun p => { p with wait := .ended cause })
  | .none => s

/-! ## Taking a supervisor trap (R272, R336 to R338) -/

/-- The handler address of a context: VEC with bits [9:0] zero, sign-extended from 57 bits (R337). -/
def State.trapVector (s : State) (c : Nat) : BitVec 64 := sext57 (s.ctlField (.tvec c) 10 47 * 1024)

/-- A supervisor trap of a wave in user mode (R272): supervisor mode, %tepc, %tcause, %taddr and %tlanes written, execution
at the vector; nothing else of the wave changes. -/
def Wave.enterTrap (w : Wave) (vec : BitVec 64) (cause : Nat) (tepc addr lanes : BitVec 64) : Wave :=
  { w with mode := .supervisor, handler := .trap, tepc := tepc, tcause := BitVec.ofNat 64 cause, taddr := addr,
           tlanes := lanes, pc := vec, wait := .ready }

def Spindle.enterTrap (p : Spindle) (vec : BitVec 64) (cause : Nat) (tepc addr : BitVec 64) : Spindle :=
  { p with mode := .supervisor, tepc := tepc, tcause := BitVec.ofNat 64 cause, taddr := addr, pc := vec, wait := .ready }

/-- An address lies in the save region of a context (R342). -/
def State.inSaveRegion (s : State) (c va : Nat) : Bool :=
  let base := s.ctlField (.save c) 16 41 * 65536
  base ≤ va % 2 ^ 57 && va % 2 ^ 57 < base + 65536 * 2 ^ s.ctlField (.save c) 0 5

/-- The class-9 causes (R335). -/
def causeSuspendYield : Nat := 0x121
def causeSuspendForced : Nat := 0x122
def causeRestore : Nat := 0x123
def causeForcedTimeout : Nat := 0x124
def causeSaveFull : Nat := 0x125
def causeSaveFault : Nat := 0x126
def causeKilled : Nat := 0x127

/-- The agent is a wave in its save or restore handler. -/
def State.inHandler (s : State) : Bool :=
  match s.curWave with
  | some w => w.exemptPoison
  | none => false

/-- Delivers a precise cause to the agent (R336): a supervisor trap; in supervisor mode a double-trap, and without vectors
the cause itself, end the wave or program. A translation cause met in the save region by a save or restore handler ends the
wave with save-area-fault, which terminates its context (R342, R349). -/
def State.takeTrap (s : State) (cause : Nat) (tepc addr lanes : BitVec 64) : State :=
  let c := s.curCtx
  if s.inHandler && cause / 32 == 2 && s.inSaveRegion c addr.toNat then s.endCur causeSaveFault
  else if s.curMode == .supervisor then s.endCur causeDoubleTrap
  else if s.ctlField (.tvec c) 0 1 == 0 then s.endCur cause
  else
    let v := s.trapVector c
    match s.cur with
    | .wave co k =>
      match s.wave? co k with
      | some w => (s.logWave w 0x11 cause tepc).setWave (w.enterTrap v cause tepc addr lanes)
      | none => s
    | .spindle cl =>
      match s.spindle? cl with
      | some p => (s.logSpindle p 0x11 cause tepc).setSpindle (p.enterTrap v cause tepc addr)
      | none => s
    | .none => s

/-- The return from a supervisor trap (R274): user mode, execution at %tepc. -/
def State.trapReturn (s : State) : State :=
  match s.cur with
  | .wave c k => s.modWave c k (fun w => { w with mode := .user, pc := w.tepc })
  | .spindle cl => s.modSpindle cl (fun p => { p with mode := .user, pc := p.tepc })
  | .none => s

/-! ## The user timer trap (R37) -/

/-- The user trap vector of a wave: ENTRY + 4 × UTVOFF; `none` when UTVOFF is 0. -/
def State.userVector (s : State) (w : Wave) : Option (BitVec 64) :=
  let o := ctlUtvoff (s.recordOf w.launch)
  if o == 0 then none else some (w.entry + BitVec.ofNat 64 (4 * o))

/-- The comparator has been reached or passed (R37, R277). -/
def State.timerMatched (s : State) (w : Wave) : Bool := w.tmrcmp != 0 && w.tmrcmp.toNat ≤ s.clk.toNat

/-- Delivers the user timer trap of a wave at a boundary: to the vector, or dropped when UTVOFF is 0 (R37). -/
def State.takeTimer (s : State) (w : Wave) : State :=
  match s.userVector w with
  | none => s.setWave { w with tmrcmp := 0, tmrPend := false }
  | some v =>
    (s.logWave w 0x11 causeUserTimer w.pc).setWave
      { w with uret := w.pc, ucause := BitVec.ofNat 64 causeUserTimer, tmrcmp := 0, tmrPend := false, tmrMask := true, pc := v }

/-! ## Completing an instruction -/

/-- The wait of an instruction that has completed is over. -/
def Wait.past : Wait → Wait
  | .retry _ _ => .ready
  | .barrier _ _ _ => .ready
  | .timeline _ _ => .ready
  | .claim _ => .ready
  | w => w

/-- What completing an instruction ends beside its own effect: its wait, the replies held for it (R328) and a debugger's
step (R393). -/
def State.settle (s : State) : State :=
  let f : Option Bool → Option Bool := fun o => o.map (fun _ => false)
  match s.cur with
  | .wave c k => s.modWave c k (fun w => { w with answers := [], holds := none, latched := none, step := f w.step, wait := w.wait.past })
  | .spindle cl => s.modSpindle cl (fun p => { p with answers := [], holds := none, step := f p.step, wait := p.wait.past })
  | .none => s

def State.setPc (s : State) (pc : BitVec 64) : State :=
  match s.cur with
  | .wave c k => s.modWave c k (fun w => { w with pc := pc })
  | .spindle cl => s.modSpindle cl (fun p => { p with pc := pc })
  | .none => s

def State.setWait (s : State) (x : Wait) : State :=
  match s.cur with
  | .wave c k => s.modWave c k (fun w => { w with wait := x })
  | .spindle cl => s.modSpindle cl (fun p => { p with wait := x })
  | .none => s

/-- The address after an instruction of so many words. -/
def State.nextPc (s : State) (words : Nat) : BitVec 64 := s.curPc + BitVec.ofNat 64 (4 * words)

/-- The state after an instruction of so many words whose work ended so. A fall-through out of the canonical range raises
address-noncanonical at the instruction, with nothing performed (R131). -/
def State.finish (s : State) (words : Nat) (r : Res) : State :=
  let next := s.nextPc words
  match r with
  | .done t => if canonical next then (t.setPc next).settle else (s.takeTrap causeNoncanonical s.curPc next 0).settle
  | .jump t pc => (t.setPc pc).settle
  | .trap t cause addr lanes => (t.takeTrap cause t.curPc addr lanes).settle
  | .trapNext t cause addr lanes => (t.takeTrap cause next addr lanes).settle
  | .wait t w => t.setWait w

/-! ## Registers an instruction names -/

/-- Registers a field names. -/
inductive Ref where
  | v (n count : Nat)
  | s (n count : Nat)
  deriving DecidableEq, Repr

/-- The registers of an operand (R133, R139, R146). -/
def opndRefs (p : Opnd) (st : Stream) (n : Norm) (v : BitVec 8) : List Ref :=
  let osel := n.x.osel.toNat
  match p with
  | .v c => [.v v.toNat (c.regs n)]
  | .last c => if osel == 0 then [.v v.toNat (c.regs n)] else if osel == 1 then [.s v.toNat 1] else []
  | .off => if osel == 0 then [.v v.toNat 1] else if osel == 1 then [.s v.toNat 1] else []
  | .s => [.s v.toNat 1]
  | .s4 => [.s v.toNat 4]
  | .sc => [.s v.toNat 4]
  | .base => if st = .spindle then [.s v.toNat 1] else []
  | .zero => []
  | .k => []
  | .kn => []
  | .b => []
  | .t => []
  | .o => []
  | .a => []

/-- Majors, with their SUB, whose D field is a source (R205, R214, R221, R224, R225, R228, R229, R236, R252, R275). -/
def dIsSource (maj sub : Nat) : Bool :=
  [0x51, 0x53, 0x56, 0x59, 0x5B, 0x5D, 0x5E, 0x5F, 0x66, 0x67, 0x72].contains maj
  || (maj == 0x78 && sub == 3) || (maj == 0x7D && sub == 1)

/-- Registers read as sources, and all registers named. -/
def rowSources (r : Row) (st : Stream) (n : Norm) : List Ref :=
  let (pd, pa, pb, pc) := r.opnds n.accum
  opndRefs pa st n n.x.sa ++ opndRefs pb st n n.x.sb ++ opndRefs pc st n n.x.sc
    ++ (if dIsSource n.maj n.sub then opndRefs pd st n n.x.d else [])

/-- The link register that call and callind write: s127, x31 on the Spindle stream (R205). -/
def linkRefs (n : Norm) (st : Stream) : List Ref :=
  if n.maj == 0x61 || (n.maj == 0x66 && n.sub == 1) then [.s (if st = .spindle then 31 else 127) 1] else []

def rowRefs (r : Row) (st : Stream) (n : Norm) : List Ref :=
  let (pd, pa, pb, pc) := r.opnds n.accum
  opndRefs pa st n n.x.sa ++ opndRefs pb st n n.x.sb ++ opndRefs pc st n n.x.sc ++ opndRefs pd st n n.x.d ++ linkRefs n st

/-- A vector register lies outside the wave's register blocks (R24). -/
def outOfRange (w : Wave) (refs : List Ref) : Bool :=
  refs.any (fun r => match r with
    | .v n c => 8 * w.blocks.length < n + c
    | .s _ _ => false)

/-- Core Store byte ranges of named vector registers. -/
def refBytes (w : Wave) (refs : List Ref) : List Nat :=
  refs.flatMap (fun r => match r with
    | .v n c => (List.range c).map (fun i => w.vaddr (n + i) 0)
    | .s _ _ => [])

/-- A named register is a destination of an access in flight, or lies under one through space 6 (R90, R108). -/
def Access.blocks (a : Access) (w : Wave) (refs : List Ref) : Bool :=
  !a.done &&
  ((match a.dest with
    | .none => false
    | .vec n b _ => refs.any (fun r => match r with
        | .v m c => m < n + (b + 3) / 4 && n < m + c
        | .s _ _ => false)
    | .scal n _ _ => refs.any (fun r => match r with
        | .s m c => m ≤ n && n < m + c
        | .v _ _ => false))
  || a.elems.any (fun e => e.va.isSome && paSpace e.pa == 6 && paOff e.pa / 2 ^ 20 == w.core &&
      (refBytes w refs).any (fun lo => lo < paOff e.pa + e.bytes && paOff e.pa < lo + 256)))

/-- The scoreboard: the stall reason of a wait for a result (R108, R312). -/
def hazard (w : Wave) (refs : List Ref) : Option Nat :=
  (w.flight.find? (fun a => a.blocks w refs)).map (fun a => if a.path == 0 then 11 else 10)

/-- Lanes of a set whose sources carry a mark; a marked scalar source is used by every lane (R128, R171) (DEDUCED, log entry 20). -/
def poisonLanes (s : State) (w : Wave) (lanes : BitVec 64) (refs : List Ref) : BitVec 64 :=
  if s.csMark.isEmpty && w.sMark.isEmpty then 0
  else maskOf ((lanesOf lanes).filter (fun L => refs.any (fun r => match r with
    | .v n c => s.vmarked w n L c
    | .s n c => (List.range c).any (fun i => w.sMark.contains (n + i)))))

/-- A scalar source carries a mark. -/
def State.sourceMarked (s : State) (refs : List Ref) : Bool :=
  refs.any (fun r => match r with
    | .s n c => (List.range c).any (fun i => s.smarked (n + i))
    | .v _ _ => false)

/-- The poison-consumed cause of an instruction's sources: `none`, or the lanes of the lane set that meet it; a scalar
instruction names no lane (R128, R272). -/
def State.poisonCheck (s : State) (vector : Bool) (refs : List Ref) (x : XF) : Option (BitVec 64) :=
  match s.curWave with
  | some w =>
    if w.exemptPoison then none
    else if vector then (let p := poisonLanes s w (laneSet w x) refs; if p == 0 then none else some p)
    else if s.sourceMarked refs then some 0 else none
  | none => if s.sourceMarked refs then some 0 else none

/-! ## Issue -/

/-- How an instruction issues beyond its row. -/
structure IssueMode where
  /-- It requires supervisor mode (R271). -/
  priv : Bool := false
  /-- Its body checks the poison of its sources by a rule of its own. -/
  ownPoison : Bool := false

/-- The checks of R140, then privilege, register-range, the scoreboard and poison-consumed, then the instruction's work. -/
def issueRow (r : Row) (n : Norm) (m : IssueMode) (body : Row → Norm → State → Res) (s : State) : Res :=
  if m.priv && s.curMode == .user then .trap s causePrivilege 0 0
  else
    let all := rowRefs r s.stream n
    let range := match s.curWave with
      | some w => outOfRange w all
      | none => false
    if range then .trap s causeRegisterRange 0 0
    else
      let wait := match s.curWave with
        | some w => hazard w all
        | none => none
      match wait with
      | some reason => .wait s (.retry reason false)
      | none =>
        match if m.ownPoison then none else s.poisonCheck r.mask (rowSources r s.stream n) n.x with
        | some lanes => .trap s causePoisonConsumed 0 lanes
        | none => body r n s

/-- Takes an illegal-instruction cause of a detail of R140 at the agent's instruction. -/
def State.illegal (s : State) (d : BitVec 3) : State := s.finish 1 (.trap s (causeIllegal d.toNat) 0 0)

/-- The agent exists: a resident wave, or a running Spindle program. -/
def State.hasAgent (s : State) : Bool := s.curWave.isSome || s.curSpindle.isSome

/-- The meaning of an instruction row over its fields. -/
def runEnc (e : Enc) (m : IssueMode) (body : Row → Norm → State → Res) (s : State) : Host.Outcome State Fault Refusal :=
  if !s.hasAgent then .fault .noAgent
  else match e.check s.stream with
    | some d => .next (s.illegal d)
    | none =>
      match majorOf e.maj.toNat with
      | none => .next (s.illegal 1)
      | some mj =>
        let n := e.norm mj
        match mj.row n.sub with
        | none => .next (s.illegal 3)
        | some r => .next (s.finish n.words (issueRow r n m body s))

/-- The fields of an instruction with a base word and a literal, or in the extended format. -/
def xaEnc (maj : BitVec 7) (sub : BitVec 9) : XA → Enc
  | .lit f l => ⟨maj, .lit f l⟩
  | .ext x => ⟨maj, .ext sub x⟩

def xsaEnc (maj : BitVec 7) : XSA → Enc
  | .lit f l => ⟨maj, .lit f l⟩
  | .ext x => ⟨maj, .ext x.sub x.x⟩

end Sys2Proof.Machine
end

