-- ==== Sys2Proof/Machine/Entry.lean ====
section
/-! DEFINITION. The state of a wave, a block and a Spindle program at entry (01 R24, R31; 03 R67, R68). -/

namespace Sys2Proof.Machine

/-- k0 at entry: the bits of the level-0 EXTENT (R24). -/
def entryMask (extent : Nat) : BitVec 64 := BitVec.ofNat 64 (2 ^ min extent 64 - 1)

/-- A wave at entry (R24), but for its registers in the Core Store, which its placement clears (DESIGN CHOICE, log entry 1). -/
def Wave.enter (core slot partition inst ctx launch block wid : Nat) (kind : WKind) (prio placed : Nat) (entry : BitVec 64)
    (k0 : BitVec 64) (sregs : Regs) (blocks : List Nat) : Wave :=
  { core := core, slot := slot, partition := partition, inst := inst, ctx := ctx, launch := launch, block := block, wid := wid,
    kind := kind, prio := prio, placed := placed, readySince := placed, pc := entry, entry := entry,
    k := Regs.wr [] 0 k0, s := sregs, sMark := [], blocks := blocks, b := [], tok := [], flight := [], nextAcc := 0, ws := 0,
    wsat := false, fflags := 0, tmrcmp := 0, tmrMask := false, tmrPend := false, uret := 0, ucause := 0, mode := .user,
    handler := .trap, tepc := 0, tcause := 0, taddr := 0, tlanes := 0, sfq := [], stseq := 0, sampleMark := false,
    sampleRec := none, wait := .ready, answers := [], holds := none, latched := none, rays := [], cls := 0, taskWide := false, taskSucc := 0, tlrel := none, yielded := false,
    step := none, poisPend := none }

/-- s0, s1 and s2 of a compute wave (R24). -/
def entryRegs (args : BitVec 64) (block wid : Nat) : Regs :=
  ((Regs.wr [] 0 args).wr 1 (BitVec.ofNat 64 block)).wr 2 (BitVec.ofNat 64 wid)

/-- A block just placed (R24, R232). -/
def Block.enter (launch index ctx core waves scrBase scrSize bars : Nat) : Block :=
  { launch := launch, index := index, ctx := ctx, core := core, waves := waves, alive := BitVec.ofNat 64 (2 ^ waves - 1),
    scrBase := scrBase, scrSize := scrSize, bars := bars, slots := [], pool := [], claims := [], phase := .running }

/-- A Spindle program at entry (R68): x0 the argument, x1 the block index, x2 the cluster. -/
def Spindle.enter (cluster ctx launch block blk prio : Nat) (entry arg : BitVec 64) : Spindle :=
  { cluster := cluster, ctx := ctx, launch := launch, block := block, prio := prio, pc := entry,
    x := ((Regs.wr [] 0 arg).wr 1 (BitVec.ofNat 64 blk)).wr 2 (BitVec.ofNat 64 cluster), xMark := [], mode := .user,
    tepc := 0, tcause := 0, taddr := 0, scratch := [], bcom := 0, bdone := 0, flags := 0, dsa := 0, stop := 0, fault := 0,
    ws := 0, wsat := false, slots := [], accs := [], acc := [], ops := [], wait := .ready, answers := [], holds := none, live := 0, yielded := none,
    step := none }

/-- A launch just taken (R307, R309). -/
def Launch.enter (num ctx queue prio taken serial kind : Nat) (record : BitVec 512) (since : Nat) : Launch :=
  { num := num, ctx := ctx, queue := queue, prio := prio, taken := taken, serial := serial, kind := kind, record := record, next := 0,
    ended := 0, since := since, homes := [], saved := [], tasks := [], enqueued := 0, held := 0, stuck := false, ray := none,
    suspended := false, reserves := false }

end Sys2Proof.Machine
end

