-- ==== Sys2Proof/Machine/Flags.lean ====
section
/-! DEFINITION. Number formats, exact values, the one rounding function and the flags it sets (08 R155 to R163, R168, R169;
10 R185 to R194). An exact value is ± m × 2^e; a value that no such pair names exactly is given to 400 bits with a last bit
of 1, which every rounding treats as the value itself. -/

namespace Sys2Proof.Machine

/-! ## Flag bits (R161) -/

def flagNX : Nat := 1
def flagUF : Nat := 2
def flagOF : Nat := 4
def flagDZ : Nat := 8
def flagNV : Nat := 16
def flagT2 : Nat := 32

/-! ## Formats (R155) -/

/-- What the all-ones exponent field means: infinity and NaN, NaN at the one all-ones code, or finite values. -/
inductive Ends where
  | ieee | nanOnly | finite
  deriving DecidableEq, Repr

/-- A floating-point format: exponent bits, fraction bits, and the place of its low bit in its container. -/
structure Fmt2 where
  eb : Nat
  fb : Nat
  ends : Ends
  shift : Nat := 0
  deriving DecidableEq, Repr

def fmtF64 : Fmt2 := { eb := 11, fb := 52, ends := .ieee }
def fmtF32 : Fmt2 := { eb := 8, fb := 23, ends := .ieee }
def fmtF16 : Fmt2 := { eb := 5, fb := 10, ends := .ieee }
def fmtBF16 : Fmt2 := { eb := 8, fb := 7, ends := .ieee }
def fmtF19 : Fmt2 := { eb := 8, fb := 10, ends := .ieee, shift := 13 }
def fmtE4M3 : Fmt2 := { eb := 4, fb := 3, ends := .nanOnly }
def fmtE5M2 : Fmt2 := { eb := 5, fb := 2, ends := .ieee }
def fmtE3M4 : Fmt2 := { eb := 3, fb := 4, ends := .nanOnly }
def fmtE3M2 : Fmt2 := { eb := 3, fb := 2, ends := .finite }
def fmtE2M3 : Fmt2 := { eb := 2, fb := 3, ends := .finite }
def fmtE2M1 : Fmt2 := { eb := 2, fb := 1, ends := .finite }

/-- Format of a floating TYPE code, one half of a packed type (R136). -/
def fmtOf (t : Nat) : Fmt2 :=
  match t with
  | 9 => fmtF64
  | 10 => fmtF16
  | 11 => fmtBF16
  | 12 => fmtF16
  | 13 => fmtBF16
  | 16 => fmtE4M3
  | 17 => fmtE5M2
  | 18 => fmtE3M2
  | 19 => fmtE2M3
  | 20 => fmtE2M1
  | 21 => fmtF19
  | _ => fmtF32

/-- The exponent bias: 2^(eb - 1) - 1. -/
def Fmt2.bias (f : Fmt2) : Nat := 2 ^ (f.eb - 1) - 1

/-- Exponent of the least normal value. -/
def Fmt2.emin (f : Fmt2) : Int := 1 - (f.bias : Int)

def Fmt2.signBit (f : Fmt2) : Nat := 2 ^ (f.eb + f.fb)

/-- Code of the largest finite value. -/
def Fmt2.largest (f : Fmt2) : Nat :=
  match f.ends with
  | .ieee => (2 ^ f.eb - 1) * 2 ^ f.fb - 1
  | .nanOnly => 2 ^ (f.eb + f.fb) - 2
  | .finite => 2 ^ (f.eb + f.fb) - 1

/-- The canonical NaN; +0 in a format without NaN (R155, R158). -/
def Fmt2.nan (f : Fmt2) : Nat :=
  match f.ends with
  | .ieee => (2 ^ f.eb - 1) * 2 ^ f.fb + 2 ^ (f.fb - 1)
  | .nanOnly => 2 ^ (f.eb + f.fb) - 1
  | .finite => 0

/-! ## Exact values -/

/-- A value: NaN, marked when it is signalling; an infinity; or ± m × 2^e (DEDUCED, log entry 78). -/
inductive FVal where
  | nan (signalling : Bool)
  | inf (neg : Bool)
  | num (neg : Bool) (m : Nat) (e : Int)
  deriving DecidableEq, Repr

/-- The value of an integer. -/
def FVal.ofInt (v : Int) : FVal := .num (v < 0) v.natAbs 0

/-- The value that a pattern of a format encodes (R155); the small formats have no signalling NaN (R185). -/
def Fmt2.value (f : Fmt2) (p : Nat) : FVal :=
  let q := p / 2 ^ f.shift % 2 ^ (1 + f.eb + f.fb)
  let neg := bit q (f.eb + f.fb)
  let ex := field q f.fb f.eb
  let fr := field q 0 f.fb
  let top := ex == 2 ^ f.eb - 1
  if f.ends == .ieee && top then
    if fr == 0 then .inf neg else .nan (7 ≤ f.fb && !bit fr (f.fb - 1))
  else if f.ends == .nanOnly && top && fr == 2 ^ f.fb - 1 then .nan false
  else if ex == 0 then .num neg fr (f.emin - f.fb)
  else .num neg (2 ^ f.fb + fr) (f.emin - f.fb + (ex - 1 : Nat))

/-- A pattern of a subnormal value. -/
def Fmt2.isSub (f : Fmt2) (p : Nat) : Bool :=
  let q := p / 2 ^ f.shift
  field q f.fb f.eb == 0 && field q 0 f.fb != 0

/-- m × 2^e as an integer times 2^lo, for lo at most e. -/
def scaleTo (m : Nat) (e lo : Int) : Nat := m * 2 ^ (e - lo).toNat

def signed (neg : Bool) (m : Nat) : Int := if neg then -(m : Int) else m

/-! ## Rounding (R158) -/

/-- floor(m / 2^n) rounded under a mode: nearest-even, toward zero, up, down, nearest-away (R136). -/
def roundShift (mode : Nat) (neg : Bool) (m n : Nat) : Nat :=
  let k := m / 2 ^ n
  let r := m % 2 ^ n
  let up :=
    match mode with
    | 0 => 2 ^ n < 2 * r || (2 * r == 2 ^ n && k % 2 == 1)
    | 1 => false
    | 2 => !neg
    | 3 => neg
    | _ => 2 ^ n ≤ 2 * r
  if r != 0 && up then k + 1 else k

/-- An infinite result (R158). -/
def Fmt2.infinite (f : Fmt2) (neg : Bool) (sat : Bool) (flags : Nat) : Nat × Nat :=
  let s := if neg then f.signBit else 0
  if sat || f.ends == .finite then ((s + f.largest) * 2 ^ f.shift, flags)
  else if f.ends == .nanOnly then (f.nan, flags ||| flagNV)
  else ((s + (2 ^ f.eb - 1) * 2 ^ f.fb) * 2 ^ f.shift, flags)

/-- rnd of R158: the pattern and the flags. -/
def rnd (v : FVal) (f : Fmt2) (mode : Nat) (sat : Bool) : Nat × Nat :=
  match v with
  | .nan _ => (f.nan * 2 ^ f.shift, if f.ends == .finite then flagNV else 0)
  | .inf neg => f.infinite neg sat 0
  | .num neg m e =>
    let s := if neg then f.signBit else 0
    if m == 0 then (s * 2 ^ f.shift, 0)
    else
      let lead := (Nat.log2 m : Int) + e
      let q := max lead f.emin - f.fb
      let k := if q ≤ e then scaleTo m e q else roundShift mode neg m (q - e).toNat
      let exact := if q ≤ e then true else m % 2 ^ (q - e).toNat == 0
      let nx := if exact then 0 else flagNX
      let uf := if !exact && lead < f.emin then flagUF else 0
      let code := (q + f.fb - f.emin).toNat * 2 ^ f.fb + k
      if code ≤ f.largest then ((s + code) * 2 ^ f.shift, nx ||| uf)
      else if mode == 1 || (mode == 2 && neg) || (mode == 3 && !neg) then
        ((s + f.largest) * 2 ^ f.shift, nx ||| uf ||| flagOF ||| flagNX)
      else f.infinite neg sat (nx ||| uf ||| flagOF ||| flagNX)

/-- The pattern of a value that a format holds exactly. -/
def Fmt2.encode (f : Fmt2) (v : FVal) : Nat := (rnd v f 0 false).1

/-! ## Exact arithmetic -/

def FVal.isNan : FVal → Bool
  | .nan _ => true
  | _ => false

def FVal.isSnan : FVal → Bool
  | .nan g => g
  | _ => false

def FVal.isZero : FVal → Bool
  | .num _ m _ => m == 0
  | _ => false

def FVal.neg : FVal → FVal
  | .nan g => .nan g
  | .inf n => .inf (!n)
  | .num n m e => .num (!n) m e

/-- A product, and whether it is 0 × ∞ (R186). -/
def FVal.mul (a b : FVal) : FVal × Bool :=
  match a, b with
  | .nan _, _ => (.nan false, false)
  | _, .nan _ => (.nan false, false)
  | .inf s, .inf t => (.inf (s != t), false)
  | .inf s, .num t m _ => if m == 0 then (.nan false, true) else (.inf (s != t), false)
  | .num t m _, .inf s => if m == 0 then (.nan false, true) else (.inf (s != t), false)
  | .num s m e, .num t n g => (.num (s != t) (m * n) (e + g), false)

def FVal.isInf (neg : Bool) : FVal → Bool
  | .inf n => n == neg
  | _ => false

/-- Numerators of numbers over the least exponent among them. -/
def minExp (l : List FVal) : Int :=
  l.foldl (fun a v => match v with
    | .num _ m e => if m == 0 then a else min a e
    | _ => a) 4096

def FVal.over (lo : Int) : FVal → Int
  | .num n m e => if m == 0 then 0 else signed n (scaleTo m e lo)
  | _ => 0

def FVal.minus : FVal → Bool
  | .num n _ _ => n
  | .inf n => n
  | .nan _ => false

/-- The exact sum of terms, and whether it is an invalid one; the sign of a zero sum by R158 and R185, with the mode of the
rounding that follows. -/
def fsum (mode : Nat) (l : List FVal) : FVal × Bool :=
  let both := l.any (FVal.isInf false) && l.any (FVal.isInf true)
  if both then (.nan false, true)
  else if l.any FVal.isNan then (.nan false, false)
  else if l.any (FVal.isInf false) then (.inf false, false)
  else if l.any (FVal.isInf true) then (.inf true, false)
  else
    let lo := minExp l
    let v := l.foldl (fun a x => a + x.over lo) 0
    if v != 0 then (.num (v < 0) v.natAbs lo, false)
    else if l.all FVal.isZero && l.all FVal.minus then (.num true 0 0, false)
    else if l.all FVal.isZero && l.all (fun x => !x.minus) then (.num false 0 0, false)
    else (.num (mode == 3) 0 0, false)

/-- Comparison of two values that are not NaN: less and equal. -/
def FVal.lt (a b : FVal) : Bool :=
  match a, b with
  | .nan _, _ => false
  | _, .nan _ => false
  | .inf s, .inf t => s && !t
  | .inf s, .num _ _ _ => s
  | .num _ _ _, .inf t => !t
  | .num _ _ _, .num _ _ _ => let lo := minExp [a, b]; a.over lo < b.over lo

def FVal.eq (a b : FVal) : Bool := !a.isNan && !b.isNan && !a.lt b && !b.lt a

/-- A value rounded to an integer, and whether that is exact (R169, R190). -/
def toInteger (mode : Nat) (neg : Bool) (m : Nat) (e : Int) : Int × Bool :=
  if 0 ≤ e then (signed neg (m * 2 ^ e.toNat), true)
  else
    let n := (-e).toNat
    (signed neg (roundShift mode neg m n), m % 2 ^ n == 0)

/-- A value to an integer of w bits, clamped (R169): the pattern and the flags. -/
def toIntPat (v : FVal) (w : Nat) (sg : Bool) (mode : Nat) : Nat × Nat :=
  let lo : Int := if sg then -(2 ^ (w - 1) : Int) else 0
  let hi : Int := if sg then 2 ^ (w - 1) - 1 else 2 ^ w - 1
  let pat (x : Int) : Nat := (x % 2 ^ w).toNat
  match v with
  | .nan _ => (0, flagNV)
  | .inf neg => (pat (if neg then lo else hi), flagNV)
  | .num neg m e =>
    let (x, exact) := toInteger mode neg m e
    let nx := if exact then 0 else flagNX
    if hi < x then (pat hi, nx ||| flagNV)
    else if x < lo then (pat lo, nx ||| flagNV)
    else (pat x, nx)

/-! ## Transcendentals (R163) -/

/-- Fraction bits of the fixed-point work. -/
def fixBits : Nat := 400

/-- π and ln 2 in fixed point, rounded down. -/
def fixPi : Nat := 0x3243f6a8885a308d313198a2e03707344a4093822299f31d0082efa98ec4e6c89452821e638d01377be5466cf34e90c6cc0ac
def fixLn2 : Nat := 0xb17217f7d1cf79abc9e3b39803f2f6af40f343267298b62d8a0d175b8baafa2be7b876206debac98559552fb4afa1b10ed2e

/-- A positive value known to lie strictly between v and v + 1 units of 2^e. -/
def inexact (neg : Bool) (v : Nat) (e : Int) : FVal := .num neg (2 * v + 1) (e - 1)

/-- The largest r below 2^n with r² ≤ m, from the bits of r downward. -/
def isqrtFrom (m r : Nat) : Nat → Nat
  | 0 => r
  | n + 1 => let t := r + 2 ^ n; isqrtFrom m (if t * t ≤ m then t else r) n

/-- floor(√m). -/
def isqrt (m : Nat) : Nat := isqrtFrom m 0 (Nat.log2 m / 2 + 1)

/-- 1/(m × 2^e), m > 0. -/
def recipVal (neg : Bool) (m : Nat) (e : Int) : FVal :=
  let n := Nat.log2 m + 80
  let q := 2 ^ n / m
  if 2 ^ n % m == 0 then .num neg q (-e - n) else inexact neg q (-e - n)

/-- √(m × 2^e), m > 0. -/
def sqrtVal (m : Nat) (e : Int) : FVal :=
  let g := if e % 2 == 0 then e else e - 1
  let m := (if e % 2 == 0 then m else 2 * m) * 2 ^ 160
  let r := isqrt m
  if r * r == m then .num false r (g / 2 - 80) else inexact false r (g / 2 - 80)

/-- 1/√(m × 2^e), m > 0. -/
def rsqrtVal (m : Nat) (e : Int) : FVal :=
  let g := if e % 2 == 0 then e else e - 1
  let m := if e % 2 == 0 then m else 2 * m
  let n := Nat.log2 m + 160
  let n := n + n % 2
  let r := isqrt (2 ^ n / m)
  if r * r * m == 2 ^ n then .num false r (-(g / 2) - n / 2) else inexact false r (-(g / 2) - n / 2)

/-- Terms of exp of a fixed-point value y: term, sum, index. -/
def expTerms (y t acc i : Nat) : Nat → Nat
  | 0 => acc
  | n + 1 => let t := t * y / 2 ^ fixBits / i; expTerms y t (acc + t) (i + 1) n

/-- 2^x for x = ± m × 2^e that is no integer. -/
def exp2Val (neg : Bool) (m : Nat) (e : Int) : FVal :=
  let big := 12 ≤ (Nat.log2 m : Int) + e
  if big then (if neg then inexact false 1 (-8192) else inexact false 1 8192)
  else
    let n := (-e).toNat
    let v := signed neg m
    let i := v / 2 ^ n
    let fr := (v % 2 ^ n).toNat
    let y := fr * 2 ^ fixBits / 2 ^ n * fixLn2 / 2 ^ fixBits
    inexact false (expTerms y (2 ^ fixBits) (2 ^ fixBits) 1 100) (i - fixBits)

/-- Terms of atanh: power of z, z², sum, odd index. -/
def atanhTerms (p z2 acc i : Nat) : Nat → Nat
  | 0 => acc
  | n + 1 => atanhTerms (p * z2 / 2 ^ fixBits) z2 (acc + p / i) (i + 2) n

/-- log2 of m × 2^e, m > 0. -/
def log2Val (m : Nat) (e : Int) : FVal :=
  let l := Nat.log2 m
  let n : Int := l + e
  if m == 2 ^ l then FVal.ofInt n
  else
    let z := (m - 2 ^ l) * 2 ^ fixBits / (m + 2 ^ l)
    let ln := 2 * atanhTerms z (z * z / 2 ^ fixBits) 0 1 140
    let fr : Int := ln * 2 ^ fixBits / fixLn2
    let v := n * 2 ^ fixBits + fr
    if 0 ≤ v then inexact false v.toNat (-(fixBits : Int)) else inexact true (-v - 1).toNat (-(fixBits : Int))

/-- Terms of the sine of a fixed-point value y in [0, π/2]. -/
def sinTerms (y2 : Nat) (t acc : Int) (i : Nat) : Nat → Int
  | 0 => acc
  | n + 1 => let t := -(t * y2 / 2 ^ fixBits / (2 * i * (2 * i + 1))); sinTerms y2 t (acc + t) (i + 1) n

/-- sin(πx) for 0 < x < 1/2, x = k / 2^n. -/
def sinPiFix (k n : Nat) : Nat :=
  let y := fixPi * k / 2 ^ n
  (sinTerms (y * y / 2 ^ fixBits) y y 1 60).toNat

/-- sin(πx) for x = ± m × 2^e ≠ 0 (R163). -/
def sinpiVal (neg : Bool) (m : Nat) (e : Int) : FVal :=
  if 0 ≤ e then .num neg 0 0
  else
    let n := (-e).toNat
    let r := m % 2 ^ (n + 1)
    let one := 2 ^ n
    let minus := neg != (one < r)
    let h := r % one
    if h == 0 then .num neg 0 0
    else if 2 * h == one then .num minus 1 0
    else inexact minus (sinPiFix (if 2 * h < one then h else one - h) n) (-(fixBits : Int))

/-- cos(πx) for x = ± m × 2^e ≠ 0. -/
def cospiVal (m : Nat) (e : Int) : FVal :=
  if 0 ≤ e then .num (m % 2 == 1 && e == 0) 1 0
  else
    let n := (-e).toNat
    let r := m % 2 ^ (n + 1)
    let one := 2 ^ n
    let h := if one < r then 2 * one - r else r
    let minus := one < 2 * h
    let d := if one < 2 * h then 2 * h - one else one - 2 * h
    if 2 * h == one then .num false 0 0
    else if h == 0 || h == one then .num minus 1 0
    else inexact minus (sinPiFix d (n + 1)) (-(fixBits : Int))

/-- The function of major 0x37 at SUB (R163): its exact value, and the flags of its special inputs. -/
def transVal (sub : Nat) (x : FVal) : FVal × Nat :=
  let nv : FVal × Nat := (.nan false, flagNV)
  match x with
  | .nan _ => (.nan false, 0)
  | .inf neg =>
    match sub with
    | 0 => (.num neg 0 0, 0)
    | 1 => if neg then nv else (.num false 0 0, 0)
    | 2 => if neg then nv else (.inf false, 0)
    | 3 => if neg then (.num false 0 0, 0) else (.inf false, 0)
    | 4 => if neg then nv else (.inf false, 0)
    | _ => nv
  | .num neg m e =>
    if m == 0 then
      match sub with
      | 0 => (.inf neg, flagDZ)
      | 1 => (.inf neg, flagDZ)
      | 2 => (.num neg 0 0, 0)
      | 3 => (.num false 1 0, 0)
      | 4 => (.inf true, flagDZ)
      | 5 => (.num neg 0 0, 0)
      | _ => (.num false 1 0, 0)
    else
      match sub with
      | 0 => (recipVal neg m e, 0)
      | 1 => if neg then nv else (rsqrtVal m e, 0)
      | 2 => if neg then nv else (sqrtVal m e, 0)
      | 3 =>
        let (i, exact) := if 12 ≤ (Nat.log2 m : Int) + e then ((0 : Int), false) else toInteger 1 neg m e
        (if exact then .num false 1 i else exp2Val neg m e, 0)
      | 4 => if neg then nv else (log2Val m e, 0)
      | 5 => (sinpiVal neg m e, 0)
      | _ => (cospiVal m e, 0)

end Sys2Proof.Machine
end

