-- ==== Sys2Proof/Machine/Operands.lean ====
section
/-! DEFINITION. Operand forms: what each source gives a lane or a scalar instruction, and writing results (06 R133, R136,
R138, R139; 09 R171, R172). -/

namespace Sys2Proof.Machine

/-- Signed types: I32, I64, I16, I8, I16×2 (R136). -/
def typeSigned (t : Nat) : Bool := [0, 2, 4, 6, 14].contains t

/-- Packed integer types (R136, R172). -/
def typePacked (t : Nat) : Bool := t == 14 || t == 15

/-- An integer immediate: sign-extended, or in both halves of a packed type (R133). -/
def intImm (t : Nat) (f : BitVec 8) : BitVec 64 :=
  if typePacked t then (f.signExtend 16 ++ f.signExtend 16).setWidth 64 else f.signExtend 64

/-- A floating immediate: the integer it encodes, converted exactly, in both halves of a packed type (R133). -/
def floatImm (t : Nat) (f : BitVec 8) : BitVec 64 :=
  let p := (fmtOf t).encode (.ofInt f.toInt)
  if t == 12 || t == 13 then BitVec.ofNat 64 (p + 2 ^ 16 * p) else BitVec.ofNat 64 p

/-- An immediate fitted to a TYPE (R133). -/
def typeImm (t : Nat) (f : BitVec 8) : BitVec 64 := if 8 ≤ t && t ≤ 13 then floatImm t f else intImm t f

/-- What an operand gives lane L of a vector instruction; the operation takes the low bits of its width. -/
def State.laneOpnd (s : State) (w : Wave) (n : Norm) (p : Opnd) (f : BitVec 8) (L : Nat) : BitVec 64 :=
  match p with
  | .v c => s.vget w f.toNat L (c.regs n)
  | .last c =>
    match n.x.osel.toNat with
    | 0 => s.vget w f.toNat L (c.regs n)
    | 1 => w.s.rd f.toNat
    | 2 => match c with
      | .ty => typeImm n.x.type.toNat f
      | _ => f.signExtend 64
    | _ => n.x.lit.getD 0
  | .s => w.s.rd f.toNat
  | .k => w.k.rd f.toNat
  | .kn => w.k.rd f.toNat
  | _ => 0

/-- What an operand gives a scalar instruction (R133, R258). -/
def State.scalOpnd (s : State) (n : Norm) (p : Opnd) (f : BitVec 8) : BitVec 64 :=
  match p with
  | .s => s.srd f.toNat
  | .last _ =>
    match n.x.osel.toNat with
    | 1 => s.srd f.toNat
    | 2 => f.signExtend 64
    | _ => n.x.lit.getD 0
  | _ => 0

/-- Registers of a destination. -/
def destRegs (p : Opnd) (n : Norm) : Nat :=
  match p with
  | .v c => c.regs n
  | _ => 1

/-- Sets sticky flags: %fflags of the wave, %spflags of the Spindle program (R161, R162). -/
def State.orFlags (s : State) (f : Nat) : State :=
  if f == 0 then s
  else match s.cur with
    | .wave c k => s.modWave c k (fun w => { w with fflags := w.fflags ||| BitVec.ofNat 64 f })
    | .spindle cl => s.modSpindle cl (fun p => { p with flags := p.flags ||| BitVec.ofNat 64 f })
    | .none => s

/-- Writes one value to each of some lanes of a vector register or pair. -/
def State.vputAll (s : State) (w : Wave) (d regs : Nat) (vals : List (Nat × BitVec 64)) : State :=
  vals.foldl (fun s p => s.vput w d p.1 regs p.2) s

/-- The values an operation gives the lanes of the lane set, every source read before any destination is written. -/
def State.laneVals (s : State) (w : Wave) (r : Row) (n : Norm) (f : Nat → BitVec 64 → BitVec 64 → BitVec 64 → BitVec 64 × Nat) :
    List (Nat × BitVec 64 × Nat) :=
  let (_, pa, pb, pc) := r.opnds n.accum
  (lanesOf (laneSet w n.x)).map (fun L =>
    (L, f L (s.laneOpnd w n pa n.x.sa L) (s.laneOpnd w n pb n.x.sb L) (s.laneOpnd w n pc n.x.sc L)))

/-- A vector operation that gives each lane a value and flags. -/
def vecMap (f : Norm → BitVec 64 → BitVec 64 → BitVec 64 → BitVec 64 × Nat) (r : Row) (n : Norm) (s : State) : Res :=
  match s.curWave with
  | none => .done s
  | some w =>
    let vals := s.laneVals w r n (fun _ => f n)
    let s := s.vputAll w n.x.d.toNat (destRegs (r.opnds n.accum).1 n) (vals.map (fun p => (p.1, p.2.1)))
    .done (s.orFlags (vals.foldl (fun a p => a ||| p.2.2) 0))

/-- A scalar operation. -/
def scalMap (f : Norm → BitVec 64 → BitVec 64 → BitVec 64 → BitVec 64) (r : Row) (n : Norm) (s : State) : Res :=
  let (_, pa, pb, pc) := r.opnds n.accum
  .done (s.swr n.x.d.toNat (f n (s.scalOpnd n pa n.x.sa) (s.scalOpnd n pb n.x.sb) (s.scalOpnd n pc n.x.sc)))

/-- A compare of each lane that writes a mask register, 0 outside the lane set (R181). -/
def vecTest (f : Norm → BitVec 64 → BitVec 64 → Bool × Nat) (r : Row) (n : Norm) (s : State) : Res :=
  match s.curWave with
  | none => .done s
  | some w =>
    let vals := s.laneVals w r n (fun _ a b _ => let v := f n a b; ((if v.1 then 1 else 0), v.2))
    let m := maskOf ((vals.filter (fun p => p.2.1 == 1)).map (·.1))
    .done ((s.kwr n.x.d.toNat m).orFlags (vals.foldl (fun a p => a ||| p.2.2) 0))

end Sys2Proof.Machine
end

