-- ==== Sys2Proof/Machine/IntOps.lean ====
section
/-! DEFINITION. Integer arithmetic on exact integers, narrowed at the end (09 R172 to R183). -/

namespace Sys2Proof.Machine

/-- The low w bits as a number. -/
def lowBits (v : BitVec 64) (w : Nat) : Nat := v.toNat % 2 ^ w

/-- Width of one value of a type: each half of a packed type is 16 bits (R172). -/
def ivalWidth (t : Nat) : Nat := if typePacked t then 16 else typeWidth t

/-- The value of an operand under a type (R172). -/
def ival (t : Nat) (v : BitVec 64) : Int :=
  let w := ivalWidth t
  let p := lowBits v w
  if typeSigned t && bit p (w - 1) then (p : Int) - 2 ^ w else p

/-- Least and greatest values of a type. -/
def leastOf (t : Nat) : Int := if typeSigned t then -(2 ^ (ivalWidth t - 1) : Int) else 0
def greatestOf (t : Nat) : Int := if typeSigned t then 2 ^ (ivalWidth t - 1) - 1 else 2 ^ ivalWidth t - 1

/-- An exact integer as a pattern of the type's width (R172). -/
def fit (t : Nat) (sat : Bool) (v : Int) : Nat :=
  let v := if sat then max (leastOf t) (min v (greatestOf t)) else v
  (v % 2 ^ ivalWidth t).toNat

/-- A pattern of the type's width extended to 64 bits by its signedness (R172). -/
def extendPat (t : Nat) (p : Nat) : BitVec 64 :=
  let w := typeWidth t
  if typeSigned t && bit p (w - 1) then BitVec.ofInt 64 ((p : Int) - 2 ^ w) else BitVec.ofNat 64 p

/-- put of R172 for a result of patterns, each half of a packed type alone. -/
def putPat (t : Nat) (f : Nat → BitVec 64 → BitVec 64 → BitVec 64 → Nat) (a b c : BitVec 64) : BitVec 64 :=
  if typePacked t then BitVec.ofNat 64 (f t a b c + 2 ^ 16 * f t (a >>> 16) (b >>> 16) (c >>> 16))
  else extendPat t (f t a b c)

/-- An operation on exact values, fitted to the type. -/
def arith (f : Int → Int → Int → Int) (n : Norm) (a b c : BitVec 64) : BitVec 64 :=
  putPat n.x.type.toNat (fun t a b c => fit t (n.x.sat == 1) (f (ival t a) (ival t b) (ival t c))) a b c

/-- An operation on w-bit patterns. -/
def bitwise (f : BitVec 64 → BitVec 64 → BitVec 64) (n : Norm) (a b _c : BitVec 64) : BitVec 64 :=
  putPat n.x.type.toNat (fun t a b _ => lowBits (f a b) (ivalWidth t)) a b 0

/-- The widening product or multiply-add: 64 bits of the exact value (R175). -/
def widening (n : Norm) (a b c : BitVec 64) (addC : Bool) : BitVec 64 :=
  let t := n.x.type.toNat
  let cv : Int := if !addC then 0 else if typeSigned t then c.toInt else c.toNat
  BitVec.ofInt 64 (ival t a * ival t b + cv)

/-- The high half of a product or multiply-add (R175). -/
def highPart (n : Norm) (a b c : BitVec 64) (addC : Bool) : BitVec 64 :=
  let t := n.x.type.toNat
  let v := ival t a * ival t b + (if addC then ival t c else 0)
  extendPat t ((v / 2 ^ typeWidth t) % 2 ^ typeWidth t).toNat

/-- A shift amount, rotate amount or control: 32 bits. -/
def amount (b : BitVec 64) : Nat := b.toNat % 2 ^ 32

def shlOp (n : Norm) (a b _c : BitVec 64) : BitVec 64 :=
  let t := n.x.type.toNat; let w := typeWidth t
  extendPat t (if w ≤ amount b then 0 else lowBits a w * 2 ^ amount b % 2 ^ w)

def shrOp (n : Norm) (a b _c : BitVec 64) : BitVec 64 :=
  let t := n.x.type.toNat; let w := typeWidth t
  let v := ival t a
  extendPat t (if w ≤ amount b then (if v < 0 then 2 ^ w - 1 else 0) else ((v / 2 ^ amount b) % 2 ^ w).toNat)

def rotlOp (n : Norm) (a b _c : BitVec 64) : BitVec 64 :=
  let t := n.x.type.toNat; let w := typeWidth t; let k := amount b % w; let p := lowBits a w
  extendPat t ((p * 2 ^ k + p / 2 ^ (w - k)) % 2 ^ w)

def rotrOp (n : Norm) (a b _c : BitVec 64) : BitVec 64 :=
  let t := n.x.type.toNat; let w := typeWidth t; let k := amount b % w; let p := lowBits a w
  extendPat t ((p / 2 ^ k + p * 2 ^ (w - k)) % 2 ^ w)

/-- The funnel shifts: low half from SA, amount from SB, high half from SC (R178). -/
def fshlOp (n : Norm) (a b c : BitVec 64) : BitVec 64 :=
  let t := n.x.type.toNat; let w := typeWidth t; let k := amount b % w
  extendPat t ((lowBits c w * 2 ^ w + lowBits a w) * 2 ^ k / 2 ^ w % 2 ^ w)

def fshrOp (n : Norm) (a b c : BitVec 64) : BitVec 64 :=
  let t := n.x.type.toNat; let w := typeWidth t; let k := amount b % w
  extendPat t ((lowBits c w * 2 ^ w + lowBits a w) / 2 ^ k % 2 ^ w)

/-- pos and e of a bit-field control (R179). -/
def bfPos (ctl : BitVec 64) : Nat := ctl.toNat % 256
def bfLen (ctl : BitVec 64) (w : Nat) : Nat :=
  let pos := bfPos ctl
  if w ≤ pos then 0 else min (ctl.toNat / 256 % 256) (w - pos)

def bfxOp (n : Norm) (a b _c : BitVec 64) : BitVec 64 :=
  let t := n.x.type.toNat; let w := typeWidth t; let e := bfLen b w
  if e == 0 then 0
  else
    let v := lowBits a w / 2 ^ bfPos b % 2 ^ e
    extendPat t (if typeSigned t && bit v (e - 1) then v + 2 ^ w - 2 ^ e else v)

def bfiOp (n : Norm) (a b c : BitVec 64) : BitVec 64 :=
  let t := n.x.type.toNat; let w := typeWidth t; let e := bfLen b w; let pos := bfPos b
  let m := BitVec.ofNat 64 ((2 ^ e - 1) * 2 ^ pos)
  extendPat t (lowBits ((c &&& ~~~m) ||| ((a <<< pos) &&& m)) w)

def bfrevOp (n : Norm) (_a b _c : BitVec 64) : BitVec 64 :=
  let t := n.x.type.toNat; let w := typeWidth t
  extendPat t ((List.range w).foldl (fun v i => if b.getLsbD i then v + 2 ^ (w - 1 - i) else v) 0)

/-- Index of the first position, counted from the top of w bits, at which a test holds; w where it never does. -/
def leadCount (w : Nat) (p : Nat → Bool) : Nat := ((List.range w).find? (fun i => p (w - 1 - i))).getD w

def popcOp (n : Norm) (_a b _c : BitVec 64) : BitVec 64 :=
  let w := typeWidth n.x.type.toNat
  BitVec.ofNat 64 ((List.range w).filter (fun i => b.getLsbD i)).length

def clzOp (n : Norm) (_a b _c : BitVec 64) : BitVec 64 :=
  BitVec.ofNat 64 (leadCount (typeWidth n.x.type.toNat) (fun i => b.getLsbD i))

def ctzOp (n : Norm) (_a b _c : BitVec 64) : BitVec 64 :=
  let w := typeWidth n.x.type.toNat
  BitVec.ofNat 64 (((List.range w).find? (fun i => b.getLsbD i)).getD w)

def clsOp (n : Norm) (_a b _c : BitVec 64) : BitVec 64 :=
  let w := typeWidth n.x.type.toNat
  BitVec.ofNat 64 (leadCount (w - 1) (fun i => b.getLsbD i != b.getLsbD (w - 1)))

/-- The relations eq, ne, lt, le, gt, ge by number (R151, R181). -/
def relation (k : Nat) (a b : Int) : Bool :=
  match k with
  | 0 => a == b
  | 1 => a != b
  | 2 => a < b
  | 3 => a ≤ b
  | 4 => b < a
  | _ => b ≤ a

def icmpOp (n : Norm) (a b : BitVec 64) : Bool × Nat :=
  let t := n.x.type.toNat
  (relation n.sub (ival t a) (ival t b), 0)

/-- scmp: signed for SUB 0 to 5, unsigned for 6 to 9 (R181). -/
def scmpOp (n : Norm) (a b _c : BitVec 64) : BitVec 64 :=
  let r := if n.sub < 6 then relation n.sub a.toInt b.toInt else relation (n.sub - 4) a.toNat b.toNat
  if r then 1 else 0

def icvtOp (n : Norm) (_a b _c : BitVec 64) : BitVec 64 :=
  let t := n.x.type.toNat
  extendPat t (fit t (n.x.sat == 1) (ival n.x.shape.toNat b))

/-- prmt (R183). -/
def prmtOp (_n : Norm) (a b c : BitVec 64) : BitVec 64 :=
  let src := lowBits a 32 + 2 ^ 32 * lowBits b 32
  BitVec.ofNat 64 ((List.range 4).foldl (fun v i =>
    let q := field c.toNat (4 * i) 4
    let byte := field src (8 * (q % 8)) 8
    v + (if 8 ≤ q then (if 128 ≤ byte then 255 else 0) else byte) * 2 ^ (8 * i)) 0)

/-- smovi: IMM16 sign-extended for TYPE 2, zero-extended for TYPE 3 (R181). -/
def smoviOp (n : Norm) (_a _b _c : BitVec 64) : BitVec 64 :=
  if n.x.type == 2 then n.x.disp.signExtend 64 else n.x.disp.setWidth 64

/-- A value with no flags. -/
def plain (f : Norm → BitVec 64 → BitVec 64 → BitVec 64 → BitVec 64) (n : Norm) (a b c : BitVec 64) : BitVec 64 × Nat :=
  (f n a b c, 0)

/-- iaddc and isubb: the new carry of each lane goes to k[SC], other bits of which stay (R174). -/
def carryMap (sub : Bool) (r : Row) (n : Norm) (s : State) : Res :=
  match s.curWave with
  | none => .done s
  | some w =>
    let t := n.x.type.toNat
    let k := w.k.rd n.x.sc.toNat
    let vals := s.laneVals w r n (fun L a b _ =>
      let c : Int := if k.getLsbD L then 1 else 0
      let v : Int := if sub then ival t a - ival t b - c else ival t a + ival t b + c
      (extendPat t (fit t false v), if v < 0 || 2 ^ typeWidth t ≤ v then 1 else 0))
    let s := s.vputAll w n.x.d.toNat (typeRegs t) (vals.map (fun p => (p.1, p.2.1)))
    let set := maskOf ((vals.filter (fun p => p.2.2 == 1)).map (·.1))
    .done (s.kwr n.x.sc.toNat ((k &&& ~~~(laneSet w n.x)) ||| set))

/-- sel: SB where bit L of k[SA] is 1, else the last source; only the selected source is used (R171, R181). -/
def selMap (r : Row) (n : Norm) (s : State) : Res :=
  match s.curWave with
  | none => .done s
  | some w =>
    let k := w.k.rd n.x.sa.toNat
    let lanes := laneSet w n.x
    let pz := poisonLanes s w (lanes &&& k) (opndRefs r.sb .simt n n.x.sb)
      ||| poisonLanes s w (lanes &&& ~~~k) (opndRefs r.sc .simt n n.x.sc)
    if pz != 0 && !w.exemptPoison then .trap s causePoisonConsumed 0 pz
    else
      let vals := s.laneVals w r n (fun L _ b c => (if k.getLsbD L then b else c, 0))
      .done (s.vputAll w n.x.d.toNat 1 (vals.map (fun p => (p.1, p.2.1))))

end Sys2Proof.Machine
end

