-- ==== Sys2Proof/Machine/RayPool.lean ====
section
/-! DEFINITION. The pool of a ray launch: records and their checks, stall keys, stalls, placing and retiring rays, and settling
the lanes of an episode (02 R42 to R48, R59 to R61; 14 R249 to R254). -/

namespace Sys2Proof.Machine

/-- Details of class 6 (R335). -/
def causeRayContext : Nat := 0xC1
def causeRayDisposition : Nat := 0xC2
def causeRayPoolExhausted : Nat := 0xC3
def causeAccumulateSpace : Nat := 0xC4
def eventRecordInvalid : Nat := 0xD0
def eventNoDisposition : Nat := 0xD1
def eventSceneError : Nat := 0xD2
def eventSceneFault : Nat := 0xD3
def eventClassUnused : Nat := 0xD4
def eventPoolError : Nat := 0xD5

/-- The index that names no instance, treelet or class (R44, R47). -/
def noIndex : Nat := 2 ^ 32 - 1

/-! ## Exact binary32 values (R47, R56) -/

/-- A finite binary32 value as a multiple of 2^-149. -/
def f32Int (p : Nat) : Option Int :=
  match fmtF32.value p with
  | .num neg m e => some (signed neg (scaleTo m e (-149)))
  | _ => none

/-- The pattern of a binary32 value that is +∞. -/
def f32Inf : Nat := 0x7F800000

/-- Three components. -/
abbrev V3 := Int × Int × Int

/-- Three patterns as components; `none` when one is NaN or infinite. -/
def v3Of (x y z : Nat) : Option V3 :=
  match f32Int x, f32Int y, f32Int z with
  | some a, some b, some c => some (a, b, c)
  | _, _, _ => none

def V3.isZero (v : V3) : Bool := v.1 == 0 && v.2.1 == 0 && v.2.2 == 0

/-! ## Ray records (R42, R43) -/

/-- 32-bit word n of a ray record. -/
def rayWord (r : BitVec 1024) (n : Nat) : Nat := r.toNat / 2 ^ (32 * n) % 2 ^ 32

def rayCtlw (r : BitVec 1024) : Nat := rayWord r 9
def rayMissCls (r : BitVec 1024) : Nat := field (rayCtlw r) 24 8
def rayOccCls (r : BitVec 1024) : Nat := field (rayCtlw r) 16 8
def rayMask (r : BitVec 1024) : Nat := field (rayCtlw r) 8 8
def rayFirst (r : BitVec 1024) : Bool := bit (rayCtlw r) 6
def rayCullB (r : BitVec 1024) : Bool := bit (rayCtlw r) 5
def rayCullF (r : BitVec 1024) : Bool := bit (rayCtlw r) 4
def raySkip (r : BitVec 1024) : Bool := bit (rayCtlw r) 3
def rayPixel (r : BitVec 1024) : Nat := rayWord r 8
def rayOrg (r : BitVec 1024) : Option V3 := v3Of (rayWord r 0) (rayWord r 1) (rayWord r 2)
def rayDir (r : BitVec 1024) : Option V3 := v3Of (rayWord r 4) (rayWord r 5) (rayWord r 6)

/-- The first check of R43 that a record fails, counted from 1; 0 for a valid record. -/
def rayCheck (r : BitVec 1024) : Nat :=
  match rayOrg r, rayDir r, f32Int (rayWord r 3) with
  | some _, some d, some tmin =>
    let tmax := rayWord r 7
    if tmax != f32Inf && (f32Int tmax).isNone then 2
    else if d.isZero then 3
    else if tmin < 0 || (match f32Int tmax with
        | some m => decide (m < tmin)
        | none => false) then 4
    else if (field (rayCtlw r) 0 3) != 0 || bit (rayCtlw r) 7 then 5
    else 0
  | _, _, _ => 1

/-! ## Hit records (R44) -/

/-- Eight words as a hit record. -/
def hitRecord (t u v prim inst iid flags treelet : Nat) : BitVec 256 :=
  BitVec.ofNat 256 (t + 2 ^ 32 * u + 2 ^ 64 * v + 2 ^ 96 * prim + 2 ^ 128 * inst + 2 ^ 160 * iid + 2 ^ 192 * flags
    + 2 ^ 224 * treelet)

def missRecord (cls : Nat) : BitVec 256 := hitRecord f32Inf 0 0 noIndex noIndex 0 (256 * cls) noIndex
def occludedRecord (cls : Nat) : BitVec 256 := hitRecord 0 0 0 noIndex noIndex 0 (5 + 256 * cls) noIndex

/-! ## Scene header (R51) and keys (R47) -/

def hdrNtreelet (h : BitVec 512) : Nat := recBytes h 4 4
def hdrTbase (h : BitVec 512) : Nat := recBytes h 8 8
def hdrRoot (h : BitVec 512) : Nat := recBytes h 16 4
def hdrNinst (h : BitVec 512) : Nat := recBytes h 20 4
def hdrIbase (h : BitVec 512) : Nat := recBytes h 24 8

/-- The cell of one axis (R47). -/
def cellAxis (o : Int) (g c : Nat) : Nat :=
  match f32Int g, f32Int c with
  | some g, some c => if c ≤ 0 then 0 else (max 0 (min 31 ((o - g) / c))).toNat
  | _, _ => 0

/-- origin_cell of R47. -/
def originCell (h : BitVec 512) (o : V3) : Nat :=
  cellAxis o.1 (recBytes h 32 4) (recBytes h 44 4) + 32 * cellAxis o.2.1 (recBytes h 36 4) (recBytes h 48 4)
    + 1024 * cellAxis o.2.2 (recBytes h 40 4) (recBytes h 52 4)

/-- direction_class of R47 for a direction that is not zero: the folded components over n. -/
def directionClass (d : V3) : Nat :=
  let (x, y, z) := d
  let n : Int := x.natAbs + y.natAbs + z.natAbs
  let sgn (v : Int) : Int := if v < 0 then -1 else 1
  let (p, q) := if z < 0 then ((n - y.natAbs) * sgn x, (n - x.natAbs) * sgn y) else (x, y)
  let cut (v : Int) : Nat := (max 0 (min 7 ((v + n) * 4 / n))).toNat
  8 * cut q + cut p

/-- The key of a record that enters needs-traversal (R47). -/
def RayLaunch.traversalKey (l : RayLaunch) (r : BitVec 1024) : Key :=
  { launchSlot := l.slot, episode := false, treelet := hdrRoot l.header,
    cell := ((rayOrg r).map (originCell l.header)).getD 0, dir := ((rayDir r).map directionClass).getD 0 }

def RayLaunch.episodeKey (l : RayLaunch) (cls treelet : Nat) : Key :=
  { launchSlot := l.slot, episode := true, treelet := treelet, cell := cls, dir := 0 }

/-! ## Launch slots and rays -/

/-- The active ray launch of a launch slot. -/
def State.raySlot? (s : State) (slot : Nat) : Option Launch :=
  s.launches.find? (fun l => match l.ray with
    | some r => r.slot == slot
    | none => false)

/-- Changes the ray part of a launch. -/
def State.modRayLaunch (s : State) (num : Nat) (f : RayLaunch → RayLaunch) : State :=
  s.modLaunch num (fun l => { l with ray := l.ray.map f })

def RayLaunch.ray? (l : RayLaunch) (slot : Nat) : Option Ray := l.rays.find? (fun r => r.slot == slot)

/-- The ray of a launch's pool slot. -/
def State.ray? (s : State) (num slot : Nat) : Option Ray :=
  match s.launch? num with
  | some l => l.ray.bind (fun r => r.ray? slot)
  | none => none

def State.setRay (s : State) (num : Nat) (r : Ray) : State :=
  s.modRayLaunch num (fun l => { l with rays := replaceFirst (fun q => q.slot == r.slot) r l.rays })

/-- The lowest free slot of a pool. -/
def RayLaunch.freeSlot (l : RayLaunch) : Nat :=
  ((List.range (l.rays.length + 1)).find? (fun i => (l.ray? i).isNone)).getD l.rays.length

/-- A ray waits in a stall. -/
def Ray.inStall (r : Ray) : Bool := r.phase == .needsTraversal || r.phase == .needsEpisode

/-- The rays of a stall, each with its launch. -/
def State.stallRays (s : State) (quarter index : Nat) : List (Nat × Ray) :=
  s.launches.flatMap (fun l => match l.ray with
    | some rl => if l.suspended then [] else
        (rl.rays.filter (fun r => r.inStall && r.quarter == quarter && r.stall == index)).map (fun r => (l.num, r))
    | none => [])

/-- A stall that has emptied is free (R48). -/
def State.sweepStalls (s : State) : State :=
  { s with stalls := s.stalls.filter (fun t => !(s.stallRays t.quarter t.index).isEmpty) }

/-! ## Events (R377) -/

/-- The logged class-6 detail of a ray. -/
def State.logRay (s : State) (l : Launch) (buf slot detail low cls lane check : Nat) : State :=
  let rs := match l.ray with
    | some r => r.slot
    | none => 0
  s.logCtx buf 0x46 l.ctx slot detail
    (BitVec.ofNat 64 (low % 2 ^ 32 + 2 ^ 32 * cls + 2 ^ 40 * rs + 2 ^ 48 * lane + 2 ^ 56 * check))

/-! ## Stalls (R48, R59) -/

/-- The home quarter of a key: the device's choice (R48; DESIGN CHOICE, log entry 12). -/
def Key.home (k : Key) : Nat := (Config.homeQuarter k.launchSlot k.episode k.treelet k.cell k.dir).val

/-- A function has a permitted core in a quarter: SCH_FN_CTL.CLMASK names one of its clusters (R303). -/
def State.quarterPermitted (s : State) (f q : Nat) : Bool := s.ctlField (.fnCtl f) (32 + 8 * q) 8 != 0

/-- The quarter in which a ray of a context joins its stall: the home of its key; for an episode key the next quarter in which
the function has a permitted core, so that the ray reaches an episode wave (R48, R66; DESIGN CHOICE, log entry 86). -/
def State.homeOf (s : State) (c : Nat) (k : Key) : Nat :=
  if !k.episode then k.home
  else ((List.range 4).find? (fun i => s.quarterPermitted (s.fnOf c) ((k.home + i) % 4))).elim k.home (fun i => (k.home + i) % 4)

/-- The lowest stall of a quarter that holds no ray; the overflow stalls are not among the 4,096 (R48). -/
def State.freeStall (s : State) (quarter : Nat) : Option Nat :=
  let used := (s.stalls.filter (fun t => t.quarter == quarter && t.index < 4096)).map (·.index)
  if 4096 ≤ used.length then none else (List.range 4096).find? (fun i => !used.contains i)

/-- The stall of a key in a quarter: its own, a free one, or the overflow stall of its phase (R48). The hint treelet of an
overflow stall is the treelet of the key that opened it, which the spec leaves open (R59; DESIGN CHOICE, log entry 86). -/
def State.stallFor (s : State) (q : Nat) (k : Key) : Nat × State :=
  match s.stalls.find? (fun t => t.quarter == q && t.key == some k) with
  | some t => (t.index, s)
  | none =>
    let make (i : Nat) (key : Option Key) : State :=
      { s with stalls := s.stalls ++ [{ quarter := q, index := i, key := key, hint := k.treelet, aged := none, overdue := none,
                                        born := s.order }], order := s.order + 1 }
    match s.freeStall q with
    | some i => (i, make i (some k))
    | none =>
      let o := if k.episode then 4097 else 4096
      if s.stalls.any (fun t => t.quarter == q && t.index == o) then (o, s) else (o, make o none)

/-- A read of scene memory for the Treelet Cache: the treelet's bytes, when they can be read without a fault (R59). -/
def State.treeletBytes (s : State) (quarter : Nat) (l : Launch) (rl : RayLaunch) (treelet : Nat) : Option (Nat × Nat) × State :=
  let va := BitVec.ofNat 64 (hdrTbase rl.header + 4096 * treelet)
  if hdrNtreelet rl.header ≤ treelet || !canonical va then (none, s)
  else match s.translate (32 * quarter) l.ctx va.toNat (Need.load true) with
    | (.ok e, t) =>
      let pa := e.pa va.toNat
      if (t.frameCause l.ctx pa true).isSome || 5 ≤ paSpace pa || t.anyPoison pa 4096 then (none, t)
      else let (v, u) := t.l2Read l.ctx pa 4096; (some (pa / 4096, v), u)
    | (_, t) => (none, t)

/-- A quarter's slice of 4 MiB takes a treelet; a full slice gives up the one it has held longest (R59; DESIGN CHOICE, log entry
13). -/
def tlcPut (quarter : Nat) (e : Nat × Nat × Nat × BitVec 32768) (l : List (Nat × Nat × Nat × BitVec 32768)) :
    List (Nat × Nat × Nat × BitVec 32768) :=
  if (l.filter (fun x => x.1 == quarter)).length < 1024 then l ++ [e]
  else match l.find? (fun x => x.1 == quarter) with
    | some x => l.erase x ++ [e]
    | none => l ++ [e]

/-- TREELET_PREFETCH: a stall that reaches 16 rays brings its hint treelet into the Treelet Cache (R59) (DEDUCED, log entry 63). -/
def State.prefetchTreelet (s : State) (l : Launch) (quarter index : Nat) : State :=
  match l.ray, s.stalls.find? (fun t => t.quarter == quarter && t.index == index) with
  | some rl, some st =>
    if (s.stallRays quarter index).length != 16 then s
    else match s.treeletBytes quarter l rl st.hint with
      | (some (frame, v), t) =>
        if t.tlc.any (fun e => e.1 == quarter && e.2.1 == l.ctx && e.2.2.1 == frame) then t
        else { t with tlc := tlcPut quarter (quarter, l.ctx, frame, BitVec.ofNat 32768 v) t.tlc }
      | (none, t) => t
  | _, _ => s

/-! ## A ray enters a phase, and leaves the pool -/

/-- The slot of a ray becomes free (R61). -/
def State.retireRay (s : State) (num slot : Nat) : State :=
  let s := match s.launch? num with
    | some l => s.bumpCtx l.ctx 25 1
    | none => s
  (s.modRayLaunch num (fun l => { l with rays := l.rays.filter (fun r => r.slot != slot) })).sweepStalls

/-- Records of a quarter's hot pool (R45). -/
def hotSlice : Nat := 32768

/-- Changes the rays of a quarter that wait in the stalls of a test. -/
def State.modWaiting (s : State) (quarter : Nat) (p : Nat → Bool) (f : Ray → Ray) : State :=
  { s with launches := s.launches.map (fun (l : Launch) => { l with ray := l.ray.map (fun rl =>
      { rl with rays := rl.rays.map (fun r => if r.inStall && r.quarter == quarter && p r.stall then f r else r) }) }) }

/-- A full hot slice writes back to the cold pool first the records of the stall that holds the fewest rays (R45). -/
def State.hotRoom (s : State) (quarter : Nat) : State :=
  let mine := s.launches.flatMap (fun l => match l.ray with
    | some rl => rl.rays.filter (fun r => r.inStall && r.hot && r.quarter == quarter)
    | none => [])
  if mine.length ≤ hotSlice then s
  else
    let count (i : Nat) : Nat := (mine.filter (fun r => r.stall == i)).length
    match (mine.map (·.stall)).eraseDups with
    | [] => s
    | i :: rest =>
      let least := rest.foldl (fun a b => if count b < count a then b else a) i
      s.modWaiting quarter (· == least) (fun r => { r with hot := false })

/-- A ray enters a needs phase under a key and joins its stall, its record in the hot pool (R45, R47, R48). -/
def State.joinStall (s : State) (num : Nat) (r : Ray) (k : Key) : State :=
  let q := s.homeOf ((s.launch? num).elim 0 (·.ctx)) k
  let (i, t) := s.stallFor q k
  let r := { r with phase := if k.episode then .needsEpisode else .needsTraversal, key := k, quarter := q, stall := i, hot := true,
                    arrival := t.clk.toNat, order := t.order, tags := [], replied := [] }
  let t := ({ t with order := t.order + 1 }.setRay num r).hotRoom q
  match t.launch? num with
  | some l => t.prefetchTreelet l q i
  | none => t

/-- A ray moves to a stall of its key in another quarter, keeping its place in the order of arrival (R48). -/
def State.moveStall (s : State) (num : Nat) (r : Ray) : State :=
  let t := s.joinStall num r r.key
  match t.ray? num r.slot with
  | some y => t.setRay num { y with arrival := r.arrival, order := r.order }
  | none => t

/-- After SCH_FN_CTL is written, the rays of a function that wait for an episode in a quarter without a permitted core move to
another (R48, R66; DESIGN CHOICE, log entry 86). -/
def State.rehome (s : State) (f : Nat) : State :=
  (s.launches.flatMap (fun l => match l.ray with
    | some rl => if s.fnOf l.ctx != f then [] else
        (rl.rays.filter (fun r => r.phase == .needsEpisode && !s.quarterPermitted f r.quarter)).map (fun r => (l.num, r))
    | none => [])).foldl (fun s p => s.moveStall p.1 p.2) s |>.sweepStalls

/-- A ray enters the episode phase with its hit record, its locator and the hit treelet of its key, or is retired when its class
is unused (R41, R44, R47, R255). -/
def State.toEpisode (s : State) (num : Nat) (r : Ray) (hit : BitVec 256) (j treelet slot cls keyTreelet : Nat) : State :=
  match s.launch? num with
  | none => s
  | some l =>
    match l.ray with
    | none => s
    | some rl =>
      let key := rl.episodeKey cls keyTreelet
      match rl.eptab[cls]? with
      | some e =>
        if e.toNat % 2 ^ 64 == 0 then
          (s.logRay l (bufCe key.home) 0x43 eventClassUnused (rayPixel r.record) cls 0xFF 0).retireRay num r.slot
        else s.joinStall num { r with hit := hit, hitJ := j, hitTreelet := treelet, hitSlot := slot } key
      | none => (s.logRay l (bufCe key.home) 0x43 eventClassUnused (rayPixel r.record) cls 0xFF 0).retireRay num r.slot

/-- A ray that holds a slot takes a valid record and enters the phase that SKIP selects (R42, R249). -/
def State.enterNeeds (s : State) (num : Nat) (r : Ray) : State :=
  if raySkip r.record then s.toEpisode num r (missRecord (rayMissCls r.record)) 3 0 0 (rayMissCls r.record) noIndex
  else match (s.launch? num).bind (·.ray) with
    | some rl => s.joinStall num r (rl.traversalKey r.record)
    | none => s

/-- Places a valid record as a new ray of a launch (R46, R249). -/
def State.placeRay (s : State) (num : Nat) (record : BitVec 1024) : State :=
  match (s.launch? num).bind (·.ray) with
  | none => s
  | some rl =>
    let r : Ray :=
      { slot := rl.freeSlot, phase := .needsTraversal, record := record, hit := 0, hitJ := 3, hitTreelet := 0, hitSlot := 0,
        key := rl.traversalKey record, quarter := 4, stall := 0, hot := false, arrival := 0, order := 0, tags := [], replied := [],
        entry := 0 }
    (s.modRayLaunch num (fun l => { l with rays := l.rays ++ [r] })).enterNeeds num r

/-! ## Lanes of an episode (R60, R61, R253) -/

def Wave.ray (w : Wave) (L : Nat) : RayLane := sget (fun _ => RayLane.empty) w.rays L

def Wave.setRay (w : Wave) (L : Nat) (r : RayLane) : Wave := { w with rays := sput (fun _ => RayLane.empty) w.rays L r }

/-- Lanes that entered with a ray. -/
def Wave.filled (w : Wave) : BitVec 64 := laneMask (fun L => (w.ray L).slot.isSome)

/-- Lanes with a disposition, and lanes that have emitted (R256). -/
def Wave.rdisp (w : Wave) : BitVec 64 := laneMask (fun L => (w.ray L).disp != 0)
def Wave.rems (w : Wave) : BitVec 64 := laneMask (fun L => (w.ray L).emitted)

/-- Gives a lane a disposition. -/
def State.dispose (s : State) (w : Wave) (L d : Nat) : State :=
  s.modWave w.core w.slot (fun w => w.setRay L { w.ray L with disp := d })

/-- Steps 1 and 2 of R253: the rays of filled lanes without a disposition are retired. -/
def State.settleLanes (s : State) (w : Wave) : State :=
  (List.range 64).foldl (fun s L =>
    let r := w.ray L
    match r.slot with
    | none => s
    | some slot =>
      if r.disp != 0 then s
      else
        let s := match s.launch? w.launch, s.ray? w.launch slot with
          | some l, some y =>
            if r.emitted then s
            else s.logRay l (bufCore w.core) w.slot eventNoDisposition (rayPixel y.record) w.cls L 0
          | _, _ => s
        (s.retireRay w.launch slot).dispose w L 2) s

end Sys2Proof.Machine
end

