-- ==== Sys2Proof/Machine/FlowOps.lean ====
section
/-! DEFINITION. Branches, calls, yield, sleep and exit (11 R203 to R208). -/

namespace Sys2Proof.Machine

/-- OFF of a branch: an I23 in words (R132, R134). -/
def branchOff (x : XF) : BitVec 64 := (x.disp ++ x.szsp ++ x.osel).signExtend 64 * 4

/-- Goes to a target, with the effect of the transfer; a target outside the canonical range performs nothing (R203). -/
def goTo (s t : State) (target : BitVec 64) : Res :=
  if canonical target then .jump t target else .trap s causeNoncanonical target 0

/-- A register target: a misaligned one performs nothing (R203). -/
def goReg (s t : State) (target : BitVec 64) : Res :=
  if !canonical target then .trap s causeNoncanonical target 0
  else if target % 4 != 0 then .trap s causeMisalignedPc 0 0
  else .jump t target

/-- A branch taken where a condition holds (R204). -/
def branchOp (cond : Norm → State → Bool) (_r : Row) (n : Norm) (s : State) : Res :=
  if cond n s then goTo s s (s.curPc + branchOff n.x) else .done s

def always (_n : Norm) (_s : State) : Bool := true

/-- A condition on the tested mask register: k0 in the base form (R204). -/
def maskCond (f : BitVec 64 → Bool) (n : Norm) (s : State) : Bool :=
  let k := s.krd n.x.mask.toNat
  f (if n.x.mneg == 1 then ~~~k else k)

/-- A signed or unsigned relation of s[SA] and s[SB]. -/
def signedCond (k : Nat) (n : Norm) (s : State) : Bool := relation k (s.srd n.x.sa.toNat).toInt (s.srd n.x.sb.toNat).toInt
def unsignedCond (k : Nat) (n : Norm) (s : State) : Bool := relation k (s.srd n.x.sa.toNat).toNat (s.srd n.x.sb.toNat).toNat

/-- loopnz (R204). -/
def loopOp (_r : Row) (n : Norm) (s : State) : Res :=
  let v := s.srd n.x.sa.toNat - 1
  let t := s.swr n.x.sa.toNat v
  if v != 0 then goTo s t (s.curPc + branchOff n.x) else .done t

/-- The link register: s127, or x31 (R205). -/
def State.linkReg (s : State) : Nat := if s.stream = .spindle then 31 else 127

def State.link (s : State) (n : Norm) : State := s.swr s.linkReg (s.nextPc n.words)

def callOp (_r : Row) (n : Norm) (s : State) : Res := goTo s (s.link n) (s.curPc + branchOff n.x)

def callindOp (_r : Row) (n : Norm) (s : State) : Res := goReg s (s.link n) (s.srd n.x.d.toNat)

def jmpOp (_r : Row) (n : Norm) (s : State) : Res := goReg s s (s.srd n.x.d.toNat)

/-- The pre-emption request flag as the agent reads it: its context's, or that of a debugger's stop of its block (R276, R392). -/
def State.agentReq (s : State) : Bool :=
  s.preReq s.curCtx || (match s.curWave, s.curSpindle with
    | some w, _ => s.dbgCovers w.ctx w.launch w.blk
    | _, some p => s.dbgCovers p.ctx p.launch p.block
    | _, _ => false)

/-- yield (R206): a set request flag stops the agent at the next instruction. The save frames hold no supervisor state
(R344, R346), so that an agent in supervisor mode stops when it returns to user mode (R340; DEDUCED, log entry 48). -/
def yieldOp (r : Row) (n : Norm) (s : State) : Res :=
  let m := s.scalOpnd n r.sa n.x.sa
  let simt := s.stream = .simt
  if 2 ^ 24 ≤ m.toNat || (simt && m != 0) then .trap s causeIllegalOperand 0 0
  else if !s.agentReq then .done s
  else if s.curMode == .user then
    .done ((s.modCurSpindle (fun p => { p with live := m.setWidth 24 })).setWait (.stopped causeSuspendYield))
  else .done ((s.modCurWave (fun w => { w with yielded := true })).modCurSpindle (fun p => { p with yielded := some (m.setWidth 24) }))

/-- sleep (R207); sleep 0 behaves as nop. -/
def sleepOp (_r : Row) (n : Norm) (s : State) : Res :=
  let d := n.x.disp.toNat
  if d == 0 then .done s
  else .done ((s.modCurSpindle (fun p => { p with live := 0 })).setWait (.sleep (s.cyc + 16 * d)))

def nopOp (_r : Row) (_n : Norm) (s : State) : Res := .done s

/-- exit (R208): the agent leaves when its issued work has completed; an episode wave's lanes are settled first (R253). -/
def exitOp (_r : Row) (_n : Norm) (s : State) : Res :=
  match s.curWave with
  | some w => .wait (if w.kind = .episode then s.settleLanes w else s) (.exiting false)
  | none => .wait s (.exiting false)

end Sys2Proof.Machine
end

