-- ==== Sys2Proof/Machine/FloatOps.lean ====
section
/-! DEFINITION. Floating-point operations of one lane (10 R185 to R194): the result pattern and the flags. -/

namespace Sys2Proof.Machine

/-- Types whose subnormals FTZ flushes (R159). -/
def flushes (t : Nat) : Bool := [8, 10, 11, 12, 13].contains t

/-- A signed zero with the sign of a pattern. -/
def Fmt2.zeroLike (f : Fmt2) (p : Nat) : Nat := if bit p (f.eb + f.fb) then f.signBit else 0

/-- fin of R185: one source value as the instruction reads it. -/
def fin (ftz : Bool) (t p : Nat) : FVal :=
  let f := fmtOf t
  if ftz && flushes t && f.isSub p then .num (bit p (f.eb + f.fb)) 0 0 else f.value p

/-- The result flush of R185. -/
def flushOut (ftz : Bool) (t : Nat) (r : Nat × Nat) : Nat × Nat :=
  let f := fmtOf t
  if ftz && flushes t && f.isSub r.1 then (f.zeroLike r.1, r.2 ||| flagUF ||| flagNX) else r

/-- fr of R185, with NV for an invalid operation or a signalling source. -/
def fr (ftz : Bool) (t mode : Nat) (sat : Bool) (v : FVal) (nv : Bool) : Nat × Nat :=
  let r := flushOut ftz t (rnd v (fmtOf t) mode sat)
  (r.1, r.2 ||| (if nv then flagNV else 0))

/-- Computes on the patterns of a type, each half of a packed type alone. -/
def perHalf (t : Nat) (g : Nat → Nat → Nat → Nat × Nat) (a b c : BitVec 64) : BitVec 64 × Nat :=
  if t == 12 || t == 13 then
    let lo := g (field a.toNat 0 16) (field b.toNat 0 16) (field c.toNat 0 16)
    let hi := g (field a.toNat 16 16) (field b.toNat 16 16) (field c.toNat 16 16)
    (BitVec.ofNat 64 (lo.1 + 2 ^ 16 * hi.1), lo.2 ||| hi.2)
  else
    let w := typeWidth t
    let r := g (lowBits a w) (lowBits b w) (lowBits c w)
    (BitVec.ofNat 64 r.1, r.2)

/-- An arithmetic operation rounded once; `op` takes the mode for the sign of a zero sum (R186). -/
def farith (op : Nat → FVal → FVal → FVal → FVal × Bool) (ftz : Bool) (n : Norm) (a b c : BitVec 64) : BitVec 64 × Nat :=
  let t := n.x.type.toNat
  let mode := n.x.rnd.toNat
  perHalf t (fun a b c =>
    let a := fin ftz t a; let b := fin ftz t b; let c := fin ftz t c
    let (v, bad) := op mode a b c
    fr ftz t mode (n.x.sat == 1) v (bad || a.isSnan || b.isSnan || c.isSnan)) a b c

/-- a × b + c with the signs given, the product exact (R186). -/
def fmaVal (negP negC : Bool) (mode : Nat) (a b c : FVal) : FVal × Bool :=
  let (p, bad) := a.mul b
  let (v, bad') := fsum mode [if negP then p.neg else p, if negC then c.neg else c]
  (v, bad || bad')

def faddVal (mode : Nat) (a b _c : FVal) : FVal × Bool := fsum mode [a, b]
def fsubVal (mode : Nat) (a b _c : FVal) : FVal × Bool := fsum mode [a, b.neg]
def fmulVal (_mode : Nat) (a b _c : FVal) : FVal × Bool := a.mul b

/-- The lesser or greater of two values, −0 below +0; the number where `num` and one is NaN (R187). -/
def fpick (greater num : Bool) (a b : FVal) : FVal :=
  if a.isNan then (if num then (if b.isNan then .nan false else b) else .nan false)
  else if b.isNan then (if num then a else .nan false)
  else
    let less := a.lt b || (a.eq b && a.minus && !b.minus)
    if less == greater then b else a

/-- fmin, fmax, fminnum, fmaxnum. -/
def fpickOp (greater num : Bool) (ftz : Bool) (n : Norm) (a b c : BitVec 64) : BitVec 64 × Nat :=
  let t := n.x.type.toNat
  perHalf t (fun a b _ =>
    let a := fin ftz t a; let b := fin ftz t b
    ((fmtOf t).encode (fpick greater num a b), if a.isSnan || b.isSnan then flagNV else 0)) a b c

/-- fcmp (R188). -/
def fcmpOp (ftz : Bool) (n : Norm) (a b : BitVec 64) : Bool × Nat :=
  let t := n.x.type.toNat
  let w := typeWidth t
  let a := fin ftz t (lowBits a w); let b := fin ftz t (lowBits b w)
  let anyNan := a.isNan || b.isNan
  let snan := a.isSnan || b.isSnan
  let quiet := n.sub ≤ 1 || 6 ≤ n.sub
  let r := match n.sub with
    | 0 => a.eq b
    | 1 => !a.eq b
    | 2 => a.lt b
    | 3 => a.lt b || a.eq b
    | 4 => b.lt a
    | 5 => b.lt a || a.eq b
    | 6 => anyNan
    | _ => !anyNan
  (r, if snan || (anyNan && !quiet) then flagNV else 0)

/-- The class of a pattern (R189). -/
def fclassOf (t p : Nat) : Nat :=
  let f := fmtOf t
  let neg := bit p (f.eb + f.fb)
  match f.value p with
  | .nan sg => if sg then 0 else 1
  | .inf n => if n then 2 else 9
  | .num _ m _ =>
    if m == 0 then (if neg then 5 else 6)
    else if f.isSub p then (if neg then 4 else 7)
    else if neg then 3 else 8

def fclassOp (n : Norm) (a b : BitVec 64) : Bool × Nat :=
  let t := n.x.type.toNat
  (b.getLsbD (fclassOf t (lowBits a (typeWidth t))), 0)

/-- frnd (R190). -/
def frndOp (ftz : Bool) (n : Norm) (a b c : BitVec 64) : BitVec 64 × Nat :=
  let t := n.x.type.toNat
  perHalf t (fun _ b _ =>
    match fin ftz t b with
    | .nan g => ((fmtOf t).nan, if g then flagNV else 0)
    | .inf s => ((fmtOf t).encode (.inf s), 0)
    | .num s m e =>
      let (x, exact) := toInteger n.x.rnd.toNat s m e
      ((fmtOf t).encode (.num s x.natAbs 0), if exact then 0 else flagNX)) a b c

/-- The transcendentals (R191). -/
def transOp (ftz : Bool) (n : Norm) (a b c : BitVec 64) : BitVec 64 × Nat :=
  let t := n.x.type.toNat
  perHalf t (fun _ b _ =>
    let x := fin ftz t b
    let (v, flags) := transVal n.sub x
    let r := fr ftz t n.x.rnd.toNat false v x.isSnan
    (r.1, r.2 ||| flags)) a b c

/-- The value of the source of fcvt (R192). -/
def cvtSource (ftz : Bool) (n : Norm) (b : BitVec 64) : FVal :=
  let s := n.x.shape.toNat
  if s ≤ 7 then .ofInt (ival s b)
  else if n.x.osel == 2 then .ofInt n.x.sb.toInt
  else if s == 22 then
    match FVal.ofInt (ival 0 b) with
    | .num g m _ => .num g m (-16)
    | v => v
  else fin ftz s (lowBits b (typeWidth s))

/-- fcvt (R168, R169, R192). -/
def fcvtOp (ftz : Bool) (n : Norm) (_a b _c : BitVec 64) : BitVec 64 × Nat :=
  let t := n.x.type.toNat
  let mode := n.x.rnd.toNat
  let v := cvtSource ftz n b
  if t ≤ 7 then
    let r := toIntPat v (typeWidth t) (typeSigned t) mode
    (extendPat t r.1, r.2)
  else if t == 22 then
    let v := match v with
      | .num g m e => .num g m (e + 16)
      | v => v
    let r := toIntPat v 32 true mode
    (BitVec.ofNat 64 r.1, r.2)
  else
    let r := fr ftz t mode (n.x.sat == 1) v v.isSnan
    (BitVec.ofNat 64 r.1, r.2)

/-- fdot2 and fdot4 (R193). -/
def fdotOp (ftz : Bool) (n : Norm) (a b c : BitVec 64) : BitVec 64 × Nat :=
  let s := n.x.shape.toNat
  let mode := n.x.rnd.toNat
  let (count, w) := if s == 12 || s == 13 then (2, 16) else (4, 8)
  let elems (v : BitVec 64) : List FVal := (List.range count).map (fun i => fin ftz s (field v.toNat (w * i) w))
  let xs := elems a; let ys := elems b
  let addend := fin ftz 8 (lowBits c 32)
  let prods := (xs.zip ys).map (fun p => p.1.mul p.2)
  let (v, bad) := fsum mode (prods.map (·.1) ++ [addend])
  let v := if prods.any (·.2) then .nan false else v
  let snan := (addend :: xs ++ ys).any FVal.isSnan
  let r := fr ftz 8 mode (n.x.sat == 1) v (bad || prods.any (·.2) || snan)
  (BitVec.ofNat 64 r.1, r.2)

/-- fabs and fneg on the sign bit alone (R194). -/
def signOp (flip : Bool) (n : Norm) (a b c : BitVec 64) : BitVec 64 × Nat :=
  let t := n.x.type.toNat
  let f := fmtOf t
  perHalf t (fun _ b _ =>
    let set := flip && !bit b (f.eb + f.fb)
    (b % f.signBit + (if set then f.signBit else 0), 0)) a b c

/-- A vector floating-point operation under the FTZ bit of the wave's launch (R159, R184). -/
def fvecMap (f : Bool → Norm → BitVec 64 → BitVec 64 → BitVec 64 → BitVec 64 × Nat) (r : Row) (n : Norm) (s : State) : Res :=
  match s.curWave with
  | none => .done s
  | some w => vecMap (f (ctlFtz (s.recordOf w.launch))) r n s

def fvecTest (f : Bool → Norm → BitVec 64 → BitVec 64 → Bool × Nat) (r : Row) (n : Norm) (s : State) : Res :=
  match s.curWave with
  | none => .done s
  | some w => vecTest (f (ctlFtz (s.recordOf w.launch))) r n s

end Sys2Proof.Machine
end

