-- ==== Sys2Proof/Machine/Atomic.lean ====
section
/-! DEFINITION. The operation of an atomic on one word (07 R151; 12 R217). -/

namespace Sys2Proof.Machine

/-- An operand pattern, and the exact or rounded result, of a floating atomic: never flushed, no flag (R217). -/
def floatAtomic (op t : Nat) (old a : BitVec 64) : BitVec 64 :=
  (perHalf t (fun x y _ =>
    let f := fmtOf t
    let p := fin false t x; let q := fin false t y
    if op == 8 then rnd (fsum 0 [p, q]).1 f 0 false
    else (f.encode (fpick (op == 10) true p q), 0)) old a 0).1

/-- The new value that OP writes; `none` for a cas that fails. For cas, `a` is the new value and `cmp` the compare value. -/
def rmwNew (op t : Nat) (old a cmp : BitVec 64) : Option (BitVec 64) :=
  let w := typeWidth t
  let cut (v : BitVec 64) : BitVec 64 := BitVec.ofNat 64 (lowBits v w)
  match op with
  | 0 => some (cut (old + a))
  | 1 => some (if ival t a < ival t old then cut a else cut old)
  | 2 => some (if ival t old < ival t a then cut a else cut old)
  | 3 => some (cut (old &&& a))
  | 4 => some (cut (old ||| a))
  | 5 => some (cut (old ^^^ a))
  | 6 => some (cut a)
  | 7 => if cut old == cut cmp then some (cut a) else none
  | _ => some (floatAtomic op t old a)

end Sys2Proof.Machine
end

