-- ==== Sys2Proof/Machine/Peer.lean ====
section
/-! DEFINITION. Requests between peer devices: the exported window, and the request of a program (05 R112; 23 R361 to R364). -/

namespace Sys2Proof.Machine

/-! ## Core Stores (R88, R90) -/

/-- Reads n bytes of a Core Store; those of the paired die's cores are free values (DESIGN CHOICE, log entry 88). -/
def State.coreRead (s : State) (o n : Nat) : Nat × State :=
  if o / 2 ^ 20 < 128 then (s.cs.readNat o n, s)
  else
    let (v, t) := s.takeBytes n
    (v, { t with out := t.out ++ [.pairCore 0 o n 0 0] })

/-- Writes bytes of a core of the paired die. -/
def State.corePut (s : State) (o n v mask : Nat) : State := { s with out := s.out ++ [.pairCore 1 o n mask (BitVec.ofNat 64 v)] }

/-- A remote request: OP 0 load, 1 store, 2 signal increment, 16 + OP of R151 for an atomic. -/
structure Remote where
  op : Nat
  key : Nat
  off : Nat
  bytes : Nat
  mask : Nat
  data : Nat
  type : Nat
  a : BitVec 64
  cmp : BitVec 64
  deriving DecidableEq, Repr

/-- What a request brings back: refused, or data with its poison mark. -/
inductive Served where
  | refused
  | data (v : Nat) (poison : Bool)
  deriving DecidableEq, Repr

/-- A field of export entry e: word w, lowest bit, width (R362). -/
def State.expField (s : State) (e w lo n : Nat) : Nat := s.ctlField (.ngxExp e w) lo n

/-- The lowest-numbered entry in use that holds a window offset (R363). -/
def State.exportAt (s : State) (off : Nat) : Option Nat :=
  (List.range 16).find? (fun e =>
    let base := s.expField e 0 12 30 * 4096
    s.expField e 0 0 1 == 1 && base ≤ off && off < base + s.expField e 1 0 42)

/-- The bit of entry word 3 that an operation needs: RD, WR or AT. -/
def Remote.right (r : Remote) : Nat := if r.op == 0 then 0 else if r.op == 1 then 1 else 2

def Remote.need (r : Remote) : Need :=
  { read := r.op != 1, write := r.op != 0, fetch := false, user := true }

/-- Translates n bytes of the window page by page: the physical address of each part, in order. -/
def State.exportParts (s : State) (c va : Nat) (n : Need) (bytes : Nat) : Option (List (Nat × Nat)) × State :=
  let first := min bytes (4096 - va % 4096)
  let part (s : State) (va : Nat) : Option Nat × State :=
    match s.translate 0 c va n with
    | (.ok e, t) =>
      let pa := e.pa va
      if (t.frameCause c pa true).isSome || 5 ≤ paSpace pa then (none, t) else (some pa, t)
    | (_, t) => (none, t)
  match part s va with
  | (none, t) => (none, t)
  | (some p, t) =>
    if first == bytes then (some [(p, bytes)], t)
    else match part t (va + first) with
      | (none, u) => (none, u)
      | (some q, u) => (some [(p, first), (q, bytes - first)], u)

/-- Performs a request at its parts at the die's L2; a read that meets poison is served with its mark, and the memory error is
logged under R387 as the next move (R363). -/
def State.serveParts (s : State) (who : Who) (r : Remote) (parts : List (Nat × Nat)) : Served × State :=
  let hit := parts.flatMap (fun p => (granules p.1 p.2).filter (fun g => s.poison.contains g))
  let poison := !hit.isEmpty && r.op != 1
  let s := if poison then { s with agenda := s.agenda ++ hit.map (fun g => .eccError g true) } else s
  match r.op with
  | 0 =>
    let (v, _, s) := parts.foldl (fun (acc : Nat × Nat × State) p =>
      let (x, t) := acc.2.2.l2Read who.ctx p.1 p.2
      (acc.1 + x * 2 ^ (8 * acc.2.1), acc.2.1 + p.2, t)) (0, 0, s)
    (.data v poison, s)
  | 1 =>
    let (_, s) := parts.foldl (fun (acc : Nat × State) p =>
      (acc.1 + p.2, acc.2.l2Write who p.1 p.2 (field r.data (8 * acc.1) (8 * p.2)) (field r.mask acc.1 p.2))) (0, s)
    (.data 0 false, s)
  | _ =>
    match parts with
    | (pa, _) :: _ =>
      if poison then (let (v, t) := s.l2Read who.ctx pa r.bytes; (.data v true, t))
      else if r.op == 2 then
        let (v, s) := s.l2Read who.ctx pa 16
        let ctl := v / 2 ^ 64
        let s := s.l2Put who pa 16 ((v % 2 ^ 64 + r.a.toNat) % 2 ^ 64 + 2 ^ 64 * setField ctl 32 1 1)
        (.data 0 false, s)
      else
        let (v, s) := s.l2Read who.ctx pa r.bytes
        match rmwNew (r.op - 16) r.type (BitVec.ofNat 64 v) r.a r.cmp with
        | some x => (.data v false, s.l2Put who pa r.bytes x.toNat)
        | none => (.data v false, s)
    | [] => (.refused, s)

/-- serve_remote of R363. -/
def State.serveRemote (s : State) (r : Remote) : Served × State :=
  let refuse (c : Nat) (s : State) : Served × State :=
    (.refused, s.logCtx bufSched 0x55 c 0x47 causeRemoteRefused (BitVec.ofNat 64 r.off))
  match s.exportAt r.off with
  | none => refuse 0 s
  | some e =>
    let c := s.expField e 3 48 8
    let base := s.expField e 0 12 30 * 4096
    let key := s.expField e 3 32 16
    let size := s.expField e 1 0 42
    if key == 0 || r.key != key || s.expField e 3 r.right 1 == 0 || s.expField e 2 0 12 != 0
        || s.ctlField (.ctxCtl c) 0 1 == 0 || s.preState c == 3 || s.mgmt.flr.contains (s.fnOf c)
        || base + size < r.off + r.bytes then refuse c s
    else
      match s.exportParts c (s.expField e 2 0 57 + r.off - base) r.need r.bytes with
      | (none, t) => refuse c t
      | (some parts, t) => t.serveParts { buf := bufSched, ctx := c, slot := 0x47 } r parts

/-- Sends a request by a port, on its first link (R361). -/
def State.sendPeer (s : State) (ctx p d : Nat) (r : Remote) : State :=
  let s := (s.bumpCtx ctx 22 r.bytes).keepRoute d p
  { s with out := s.out ++ [.peer p r.op d 1 r.off r.key r.bytes r.mask r.type
      (if r.op ≤ 1 then BitVec.ofNat 512 r.data else r.a.setWidth 512) r.cmp] }

/-- A request with what its context and its address give it. -/
def State.addressed (s : State) (ctx pa : Nat) (r : Remote) : Remote :=
  { r with key := s.ctlField (.ngxCtxKey ctx) 0 16, off := paOff pa % 2 ^ 42 }

/-- A program's request to a peer: the loop-back route serves it here; otherwise it leaves by a port, and the data that
comes back is the peer's (DESIGN CHOICE, log entry 8). -/
def State.remote (s : State) (ctx pa : Nat) (r : Remote) : Served × State :=
  let d := paOff pa / 2 ^ 42
  let r := s.addressed ctx pa r
  if d == s.ngxIdNum then s.serveRemote r
  else match s.routePort d with
    | none => (.refused, s)
    | some p =>
      let s := s.sendPeer ctx p d r
      if r.op == 1 || r.op == 2 then (.data 0 false, s)
      else
        let (v, s) := s.takeBytes r.bytes
        (.data v false, s)

/-- A request that its unit waits for at once: the peer serves it, refuses it, or answers with poison, which is the peer's to
choose (DESIGN CHOICE, log entry 8). -/
def State.remoteNow (s : State) (ctx pa : Nat) (r : Remote) : Served × State :=
  let (b, t) := s.remote ctx pa r
  if paOff pa / 2 ^ 42 == s.ngxIdNum then (b, t)
  else
    let k := Config.peerAnswer t.free
    ((if k == 1 then .refused else match b with
      | .refused => .refused
      | .data v _ => .data v (k == 2)), { t with free := t.free + 1 })

end Sys2Proof.Machine
end

