-- ==== Sys2Proof/Machine/Fetch.lean ====
section
/-! DEFINITION. Missing pages met by an instruction (21 R326 to R329), and fetching an instruction's words (06 R130, R131). -/

namespace Sys2Proof.Machine

/-- A missing page that an instruction meets: page, class, lanes whose bytes lie on it, the lowest of their addresses. -/
structure Miss where
  page : Nat
  write : Bool
  cow : Bool
  first : Bool
  lanes : BitVec 64
  addr : BitVec 64
  access : Nat
  deriving DecidableEq, Repr

/-- The requester of a fault record made for the agent. -/
def State.agentInfo (s : State) (access : Nat) (payload : BitVec 256) : FaultInfo :=
  let (unit_, slot, core) := match s.cur with
    | .wave c k => (0, k, c)
    | .spindle _ => (1, 0xFF, 0xFFFF)
    | .none => (0, 0xFF, 0xFFFF)
  { kind := 0, cause := 0, vaddr := 0, tag := 0, access := access, unit_ := unit_, slot := slot, core := core, payload := payload }

/-- The recorder buffer and SLOT value of the agent (R373, R375). -/
def State.agentBuf (s : State) : Nat × Nat :=
  match s.cur with
  | .wave c k => (bufCore c, k)
  | .spindle cl => (bufSpindle cl, 0x40)
  | .none => (bufSched, 0x45)

/-- Tags of the missing pages of an instruction, in order, each found or made, up to the first that cannot be had; whether all
were had (R326). -/
def State.tagsFor (s : State) (pc : BitVec 64) : List Miss → (List (BitVec 32) × Bool) × State
  | [] => (([], true), s)
  | m :: ms =>
    let info := s.agentInfo m.access (words4 m.addr m.lanes pc 0)
    match s.needTag s.curCtx m.page m.write m.cow info s.agentBuf.1 s.agentBuf.2 with
    | none => (([], false), s)
    | some (t, s) =>
      let (r, s) := State.tagsFor s pc ms
      ((if r.1.contains t then r.1 else t :: r.1, r.2), s)

/-- The agent holds tags while it waits for one more, or holds none; replies that were not made to held tags have served their
one re-execution (R328). -/
def State.setHolds (s : State) (h : Option (List (BitVec 32))) : State :=
  (s.modCurWave (fun w => { w with holds := h, answers := if w.holds.isSome then w.answers else [] })).modCurSpindle
    (fun p => { p with holds := h, answers := if p.holds.isSome then p.answers else [] })

/-- An instruction meets missing pages: it vectors to the first-touch handler, or parks on its tags, or waits for one
(R326 to R329). `addr` is the lowest lane's address on a first-touch page, `lanes` the lanes that touch a missing page. -/
def State.meetMissing (s : State) (ms : List Miss) (addr lanes : BitVec 64) : Res :=
  let c := s.curCtx
  let vectors := s.stream == .simt && s.curMode == .user && s.ctlField (.vmCtl c) 0 1 == 1 && ms.all (fun m => m.first && !m.cow)
  if vectors then .trap s causeFirstTouch addr lanes
  else if s.inHandler && ms.any (fun m => s.inSaveRegion c (m.page * 4096)) then .wait s (.ended causeSaveFault)
  else
    match s.tagsFor s.curPc ms with
    | ((ts, true), t) => .wait (t.setHolds none) (.parked ts)
    | ((ts, false), t) => .wait (t.setHolds (some ts)) (.retry 2 true)

/-- The reply that stands for the walk of a page in this re-execution (R328). -/
def State.answerFor (s : State) (va : Nat) : Option Nat :=
  let l := match s.curWave, s.curSpindle with
    | some w, _ => w.answers
    | _, some p => p.answers
    | _, _ => []
  (l.find? (fun a => a.page == va % 2 ^ 57 / 4096)).map (·.cause)

/-- Translates an address for the agent's instruction, a reply of STATUS 1 standing for its walk (R328). -/
def State.xlate (s : State) (va : Nat) (n : Need) : Xlate × State :=
  match s.answerFor va with
  | some c => (.cause c, s)
  | none => s.translate s.curCore s.curCtx va n

/-! ## Fetch (R131) -/

/-- A register block, scratchpad or pool of a block of a context holds the n bytes at a Core Store address (R90). On a core of the
paired die a block of the context that runs there counts as holding them (DESIGN CHOICE, log entry 88). -/
def State.storeHeld (s : State) (ctx core o n : Nat) : Bool :=
  let inRun (lo len : Nat) : Bool := lo ≤ o && o + n ≤ lo + len
  s.away.any (fun a => a.ctx == ctx && a.core == core) || s.waves.any (fun w => w.ctx == ctx && w.core == core && w.blocks.any (fun b => inRun (2048 * b) 2048))
    || s.blocks.any (fun b => b.ctx == ctx && b.core == core
        && (inRun b.scrBase b.scrSize || b.pool.any (fun p => inRun (2048 * p) 2048)))

/-- Bytes a to a + n - 1 are held one by one, so that an access may span adjoining blocks. -/
def State.storeHeldAll (s : State) (ctx pa n : Nat) : Bool :=
  let core := paOff pa / 2 ^ 20 % 256
  (List.range n).all (fun i => s.storeHeld ctx core ((paOff pa + i) % 2 ^ 20) 1)

/-- One fetched word, or the cause it meets. -/
inductive Fetched where
  | word (w : BitVec 32)
  | cause (c : Nat)
  | missing (first : Bool)
  deriving DecidableEq, Repr

/-- The word at a physical address as an instruction fetch reads it. -/
def State.codeWord (s : State) (c pa : Nat) : Fetched × State :=
  match s.code.find? (fun e => e.1 == c && e.2.1 == pa) with
  | some (_, _, w) => (.word w, s)
  | none =>
    if s.poisoned pa then (.cause causePoison, s)
    else
      let keep (v : Nat) (t : State) : Fetched × State :=
        (.word (BitVec.ofNat 32 v), { t with code := (c, pa, BitVec.ofNat 32 v) :: t.code })
      match paSpace pa with
      | 5 =>
        match s.remoteNow c pa { op := 0, key := 0, off := 0, bytes := 4, mask := 0, data := 0, type := 0, a := 0, cmp := 0 } with
        | (.data v false, t) => keep v t
        | (_, t) => (.cause causePoison, t)
      | 6 => let (v, t) := s.coreRead (paOff pa) 4; keep v t
      | _ => let (v, t) := s.l2Read c pa 4; keep v t

/-- Fetches the word at a virtual address for the agent. -/
def State.fetchWord (s : State) (va : BitVec 64) : Fetched × State :=
  if !canonical va then (.cause causeNoncanonical, s)
  else
    let c := s.curCtx
    let user := s.curMode == .user
    match s.xlate va.toNat (Need.ifetch user) with
    | (.missing first, t) => (.missing first, t)
    | (.cow, t) => (.cause causePermission, t)
    | (.cause k, t) => (.cause k, t)
    | (.ok e, t) =>
      let pa := e.pa va.toNat
      match t.frameCause c pa user with
      | some k => (.cause k, t)
      | none =>
        if paSpace pa == 7 then (.cause causeDeviceControl, t)
        else if paSpace pa == 6 && !t.storeHeldAll c pa 4 then (.cause causeCoreWindow, t)
        else t.codeWord c pa

/-- The words of the instruction at the program counter, or how its fetch ends. -/
inductive Words where
  | got (ws : List W32)
  | ends (r : Res)

/-- Fetches the rest of an instruction's words. -/
def State.fetchRest (s : State) (pc : BitVec 64) (i : Nat) (acc : List W32) : Nat → Words × State
  | 0 => (.got acc, s)
  | n + 1 =>
    let va := pc + BitVec.ofNat 64 (4 * i)
    match s.fetchWord va with
    | (.word w, t) => t.fetchRest pc (i + 1) (acc ++ [w]) n
    | (.cause c, t) => (.ends (.trap t c va 0), t)
    | (.missing f, t) =>
      (.ends (t.meetMissing [{ page := va.toNat % 2 ^ 57 / 4096, write := false, cow := false, first := f, lanes := 0,
                               addr := va, access := 4 }] va 0), t)

/-- Fetches the instruction at the program counter whole (R130, R131). -/
def State.fetch (s : State) : Words × State :=
  match s.fetchRest s.curPc 0 [] 1 with
  | (.got [w], t) => t.fetchRest s.curPc 1 [w] (lenWords w - 1)
  | r => r

end Sys2Proof.Machine
end

