-- ==== Sys2Proof/Machine/Registers.lean ====
section
/-! DEFINITION. Accesses to device registers by a program or a host, and which bits of a write a register accepts
(00 R10; 12 R216; 20 R303; 23 R352, R355, R356, R361, R371, R372; 24 R378; 25 R388). What a write does beside the register
it writes follows as a move (DESIGN CHOICE, log entry 7). -/

namespace Sys2Proof.Machine

/-- Who accesses a register: a function, and whether through its BAR; the context and SLOT of the recorder's record. -/
structure RegUser where
  fn : Nat
  host : Bool
  ctx : Nat
  slot : Nat
  deriving DecidableEq, Repr

def State.wave7 (s : State) (w : Wave) : RegUser := { fn := s.fnOf w.ctx, host := false, ctx := w.ctx, slot := w.slot }

/-- The part of a 64-bit register that n bytes from an offset cover: lowest bit. -/
def regLow (off : Nat) : Nat := 8 * (off % 8)

/-- An offset that holds no register a program or another function may reach: a mailbox buffer, or the MSI-X table and pending
bits of a physical function, which its BAR4 alone shows (R352, R356). -/
def closedAt (o : Nat) : Bool :=
  (0x340000 ≤ o && o < 0x380000 && o / 0x1000 % 2 == 1) || (0x3F8000 ≤ o && o < 0x3F8400) || (0x3FC000 ≤ o && o < 0x3FC008)

/-- Reads n bytes (4 or 8) at an offset of space 7: a register out of reach reads zero, and the access is logged (R352). -/
def State.regRead (s : State) (u : RegUser) (off n : Nat) : Nat × State :=
  if mboxAt u.fn off then (s.mbox.readNat (4096 * u.fn + (off - 0x341000 - 0x2000 * u.fn)) n, s)
  else match ctlReg (off / 8 * 8) with
    | none => (0, if closedAt off then s.logDenied u.fn u.ctx u.slot 0 off else s)
    | some r =>
      if s.reaches u.fn u.host false r then (field (s.ctlView r).toNat (regLow off) (8 * n), s)
      else (0, s.logDenied u.fn u.ctx u.slot 0 off)

/-- SCH_CTX_CTL.ENABLE and RUN of a context (R303). -/
def State.ctxEnabled (s : State) (c : Nat) : Bool := s.ctlField (.ctxCtl c) 0 1 == 1
def State.ctxRunning (s : State) (c : Nat) : Bool := s.launches.any (fun l => l.ctx == c)

/-- HIF_CTXMAP takes a write only while the context is idle or terminated, and only of a function of its port (R355). -/
def State.mapTakes (s : State) (c : Nat) (v sel : BitVec 64) : Bool :=
  let new := (s.ctlRd (.ctxMap c) &&& ~~~sel) ||| (v &&& sel)
  ((!s.ctxEnabled c && s.preState c == 0 && !s.ctxRunning c) || s.preState c == 3) && field new.toNat 0 5 / 16 == portOfCtx c

/-- The bits of a write that the register stores: REQ of SCH_CTX_PRE is the request flag, which what follows the write raises (R337,
R339, R355, R361, R371, R372, R378). -/
def State.regTakes (s : State) (r : CtlReg) (v sel : BitVec 64) : BitVec 64 :=
  match r with
  | .ctxCtl c => if s.ctxValid c then sel else sel &&& ~~~1#64
  | .pre _ => sel &&& ~~~1#64
  | .ctxMap c => if s.mapTakes c v sel then sel else 0
  | .ngxId => if (List.range 8).all (fun p => s.ctlField (.ngxPort p) 2 1 == 0) then sel else 0
  | .mgtMbox f => if s.ctlField (.mgtMbox f) 62 1 == 1 then 0 else sel
  | .mgtPwrcap => if s.mgmt.board = .pairCard then 0 else sel
  | .evrCtl => if s.ctlField .evrCtl 7 1 == 1 then sel &&& ~~~0xF#64 else sel
  | _ => sel

/-- What the device corrects in a register just written: the context of BAR2's window, the power cap, the scrub period. -/
def State.regClamp (s : State) (r : CtlReg) : State :=
  match r with
  | .fnWin g => if s.ownsCtx g (s.ctlField r 8 8) then s else s.ctlSet r 0 1 0
  | .mgtPwrcap => s.ctlSet r 0 16 (max 300 (min 1000 (s.ctlField r 0 16)))
  | .rasScrub => if s.ctlField r 0 8 == 0 then s.ctlSet r 0 8 1 else s
  | _ => s

/-- Stores a write that reaches its register; a rejected HIF_CTXMAP write is logged. -/
def State.regStore (s : State) (u : RegUser) (r : CtlReg) (v sel : BitVec 64) : State :=
  let take := s.regTakes r v sel
  let s := match r with
    | .ctxMap _ => if take == 0 && sel != 0 then s.logDenied u.fn u.ctx u.slot 1 r.off else s
    | _ => s
  if take == 0 then s else (s.ctlStore r v take).regClamp r

/-- Registers whose write does more than store. -/
def CtlReg.acts : CtlReg → Bool
  | .fnCtl _ => true
  | .ctxCtl _ => true
  | .wake _ => true
  | .pre _ => true
  | .dbg _ => true
  | .root _ => true
  | .fq _ => true
  | .fqHead _ => true
  | .reply _ => true
  | .ctxMap _ => true
  | .ngxPort _ => true
  | .mgtPwrcap => true
  | .mgtMbox _ => true
  | _ => false

/-- Writes n bytes at an offset of space 7, and says what the register does besides. -/
def State.regPut (s : State) (u : RegUser) (off n v : Nat) : State × Option Move :=
  if mboxAt u.fn off then ({ s with mbox := s.mbox.writeNat (4096 * u.fn + (off - 0x341000 - 0x2000 * u.fn)) n v }, none)
  else match ctlReg (off / 8 * 8) with
    | none => (if closedAt off then s.logDenied u.fn u.ctx u.slot 0 off else s, none)
    | some r =>
      if !s.reaches u.fn u.host true r then (s.logDenied u.fn u.ctx u.slot 0 off, none)
      else
        let val : BitVec 64 := BitVec.ofNat 64 (v * 2 ^ regLow off)
        let sel : BitVec 64 := BitVec.ofNat 64 ((2 ^ (8 * n) - 1) * 2 ^ regLow off)
        let old := s.ctlRd r
        (s.regStore u r val sel, if r.acts then some (.written u.fn r.off old val sel) else none)

/-- A program's write: what the register does besides is the device's next move. -/
def State.regWrite (s : State) (u : RegUser) (off n v : Nat) : State :=
  let (t, m) := s.regPut u off n v
  { t with agenda := m.toList ++ t.agenda }

end Sys2Proof.Machine
end

