-- ==== Sys2Proof/Machine/Perform.lean ====
section
/-! DEFINITION. Performing the elements of an access in flight, and completing it (04 R96, R97; 05 R107 to R112, R128;
12 R213 to R220; 16 R281, R285). -/

namespace Sys2Proof.Machine

/-! ## Order among accesses in flight (R97, R108, R110 to R112) -/

/-- Accesses of a path not yet counted off: the counter of R97. -/
def Wave.counter (w : Wave) (path : Nat) : Nat := (w.flight.filter (fun a => a.path == path)).length

/-- Drops the completed accesses at the front of each path (R97). -/
def pruneFlight : List Nat → List Access → List Access
  | _, [] => []
  | open_, a :: rest =>
    if a.done && !open_.contains a.path then pruneFlight open_ rest
    else a :: pruneFlight (a.path :: open_) rest

/-- An RC or UN store, or an atomic at the L1, in spaces 0 to 4 (R110, R113). -/
def Elem.l1Store (e : Elem) : Bool := e.op != .load && e.kind != .so && paSpace e.pa ≤ 4

/-- The target whose accesses are performed in program order: a peer, a Core Store, the control space (R112) (DEDUCED, log entry 25). -/
def Elem.target (e : Elem) : Option (Nat × Nat) :=
  match paSpace e.pa with
  | 5 => some (5, paOff e.pa / 2 ^ 42)
  | 6 => some (6, paOff e.pa / 2 ^ 20)
  | 7 => some (7, 0)
  | _ => none

/-- An element waits for an earlier one of the wave: the same word, the L1's store order, one target, or two SO accesses. -/
def Elem.after (e f : Elem) : Bool :=
  (e.pa / 4 ≤ (f.pa + f.bytes - 1) / 4 && f.pa / 4 ≤ (e.pa + e.bytes - 1) / 4)
  || (e.l1Store && f.l1Store)
  || (match e.target, f.target with
      | some a, some b => a == b
      | _, _ => false)
  || (e.kind == .so && f.kind == .so && paSpace e.pa ≤ 4 && paSpace f.pa ≤ 4)

/-- An element of the access at an index may be performed now. -/
def Wave.mayPerform (w : Wave) (index : Nat) (e : Elem) : Bool :=
  (w.flight.take index).all (fun a => a.elems.all (fun f => !e.after f))

/-! ## One element -/

/-- What performing an element brings: the value read, whether it met poison, whether a peer refused. -/
structure Brought where
  value : Nat
  poison : Bool
  refused : Bool

/-- The request of an element to a peer (R220, R361). -/
def Elem.request (e : Elem) (op mask data type : Nat) (a cmp : BitVec 64) : Remote :=
  { op := op, key := 0, off := 0, bytes := if op == 2 then 16 else e.bytes, mask := mask, data := data, type := type,
    a := a, cmp := cmp }

/-- Reads an element where its kind places it (R85, R110, R111, R216). -/
def State.readElem (s : State) (w : Wave) (e : Elem) : Brought × State :=
  let got (v : Nat) (p : Bool) : Brought := { value := v, poison := p, refused := false }
  match paSpace e.pa with
  | 5 =>
    match s.remote w.ctx e.pa (e.request 0 0 0 0 0 0) with
    | (.data v p, t) => (got v p, t)
    | (.refused, t) => ({ value := 0, poison := false, refused := true }, t)
  | 6 =>
    let (v, t) := s.coreRead (paOff e.pa) e.bytes
    (got v (s.anyPoison e.pa e.bytes), t)
  | 7 =>
    let (v, t) := s.regRead (s.wave7 w) (paOff e.pa) e.bytes
    (got v false, t)
  | _ =>
    if e.kind == .so || s.hostDirect e.pa then
      let p := s.anyPoison e.pa e.bytes
      let (v, t) := s.l2Read w.ctx e.pa e.bytes
      (got v p, t)
    else
      let (v, p, t) := s.l1Read w.core w.ctx (e.va.getD 0) e.pa e.bytes e.kind
      (got v p, t)

/-- Writes bytes of a Core Store; the register elements they cover whole lose their marks (R128). -/
def State.csWrite (s : State) (o n v mask : Nat) : State :=
  let words := (List.range ((o + n + 3) / 4 - o / 4)).map (fun i => o / 4 + i)
  let whole := words.filter (fun k => (List.range 4).all (fun i => let a := 4 * k + i; o ≤ a && a < o + n && bit mask (a - o)))
  { s with cs := s.cs.writeMasked o n v mask, csMark := whole.foldl (fun m k => setDel k m) s.csMark }

/-- Writes an element; the refusal of a peer (R220). -/
def State.writeElem (s : State) (w : Wave) (e : Elem) (v : Nat) : Bool × State :=
  match paSpace e.pa with
  | 5 =>
    match s.remote w.ctx e.pa (e.request 1 e.mask v 0 0 0) with
    | (.refused, t) => (true, t)
    | (_, t) => (false, t)
  | 6 => (false, if 128 ≤ paOff e.pa / 2 ^ 20 then s.corePut (paOff e.pa) e.bytes v e.mask else if w.exemptPoison then { s with cs := s.cs.writeMasked (paOff e.pa) e.bytes v e.mask }
      else s.csWrite (paOff e.pa) e.bytes v e.mask)
  | 7 => (false, s.regWrite (s.wave7 w) (paOff e.pa) e.bytes v)
  | _ =>
    if e.kind == .so || s.hostDirect e.pa then (false, s.l2Write w.who e.pa e.bytes v e.mask)
    else (false, s.l1Write w (e.va.getD 0) e.pa e.bytes v e.mask e.kind)

/-- An atomic is performed in the core's L1: RC or UN at wave or core scope (R218). -/
def Elem.inL1 (e : Elem) : Bool := e.kind != .so && e.scope ≤ scopeCore

/-- A read-modify-write at the point of R218. A poisoned word is not written (R128, R220). -/
def State.rmwElem (s : State) (w : Wave) (e : Elem) (op type : Nat) (a cmp : BitVec 64) : Brought × State :=
  let space := paSpace e.pa
  if space == 5 then
    match s.remote w.ctx e.pa (e.request (16 + op) 0 0 type a cmp) with
    | (.data v p, t) => ({ value := v, poison := p || e.bad, refused := false }, t)
    | (.refused, t) => ({ value := 0, poison := false, refused := true }, t)
  else if space != 6 && s.hostDirect e.pa then
    let (v, t) := s.takeBytes e.bytes
    ({ value := v, poison := false, refused := false },
     { t with out := t.out ++ [.hostAtomic (s.fnOf w.ctx) (space - 3) (paOff e.pa) e.bytes op type a cmp] })
  else
    let l1 := space != 6 && e.inL1
    let s := if space == 6 || l1 then s else s.l1Flush w.core w.ctx (e.pa / 128)
    let (b, s) := s.readElem w (if space == 6 || l1 then e else { e with kind := .so })
    if b.poison then (b, s)
    else match rmwNew op type (BitVec.ofNat 64 b.value) a cmp with
      | none => (b, s)
      | some x =>
        let e := { e with mask := 2 ^ e.bytes - 1 }
        (b, (s.writeElem w (if space == 6 || l1 then e else { e with kind := .so }) x.toNat).2)

/-- A remote signal increment (R224). -/
def State.sigElem (s : State) (w : Wave) (e : Elem) : Bool × State :=
  match s.remote w.ctx e.pa (e.request 2 0 0 0 e.data 0) with
  | (.refused, t) => (true, t)
  | (_, t) => (false, t)

/-! ## Destinations -/

/-- Writes bytes of a destination as they arrive; the value of a marked element is a free one (R128, DESIGN CHOICE, log entry 8). -/
def State.fillDest (s : State) (w : Wave) (d : Dest) (e : Elem) (v : Nat) (mark : Bool) : State :=
  let (v, s) := if mark then s.takeBytes e.bytes else (v, s)
  match d with
  | .none => s
  | .vec reg _ _ =>
    let at_ (k : Nat) : Nat := w.vaddr (reg + k / 4) (e.lane.getD 0) + k % 4
    let bytes := List.range e.bytes
    let marks := if mark && !w.exemptPoison then bytes.foldl (fun m i => setAdd (at_ (e.at_ + i) / 4) m) s.csMark else s.csMark
    { s with cs := bytes.foldl (fun m i => m.write (at_ (e.at_ + i)) (BitVec.ofNat 8 (v / 2 ^ (8 * i)))) s.cs,
             csMark := marks }
  | .scal reg _ _ =>
    s.modWave w.core w.slot (fun w =>
      { w with s := w.s.wr reg (BitVec.ofNat 64 (setField (w.s.rd reg).toNat (8 * e.at_) (8 * e.bytes) v)),
               sMark := if mark && !w.exemptPoison then setAdd reg w.sMark else w.sMark })

/-- n bytes extended to a width, by sign or by zero (R213). -/
def extendBytes (v n : Nat) (signed : Bool) (width : Nat) : Nat :=
  let p := v % 2 ^ (8 * n)
  if signed && bit p (8 * n - 1) then p + 2 ^ width - 2 ^ (8 * n) else p

/-- Extends the values of a completed load narrower than its register (R213). -/
def State.extendDest (s : State) (w : Wave) (d : Dest) (lanes : BitVec 64) : State :=
  match d with
  | .none => s
  | .vec reg bytes signed =>
    if 4 ≤ bytes then s
    else (lanesOf lanes).foldl (fun s L =>
      let a := w.vaddr reg L
      { s with cs := s.cs.writeNat a 4 (extendBytes (s.cs.readNat a bytes) bytes signed 32) }) s
  | .scal reg bytes signed =>
    if 8 ≤ bytes then s
    else s.modWave w.core w.slot (fun w =>
      { w with s := w.s.wr reg (BitVec.ofNat 64 (extendBytes (w.s.rd reg).toNat bytes signed 64)) })

/-! ## Accesses -/

/-- Adds a lane to a set of lanes kept with the address of the lowest. -/
def addLane (o : Option (BitVec 64 × BitVec 64)) (lane : Option Nat) (va : Nat) : Option (BitVec 64 × BitVec 64) :=
  let bitOf : BitVec 64 := match lane with
    | some L => 1#64 <<< L
    | none => 0
  match o with
  | none => some (BitVec.ofNat 64 va, bitOf)
  | some (a, m) => some (if bitOf.toNat < (m &&& (-m)).toNat then BitVec.ofNat 64 va else a, m ||| bitOf)

/-- Writes an element of a store; the granules that the store covers whole raise no record of a partial store (R128). -/
def State.storeElem (s : State) (w : Wave) (a : Access) (e : Elem) : Bool × State :=
  if a.whole.isEmpty then s.writeElem w e e.data.toNat
  else
    let kept := s.poison.filter (fun g => a.whole.contains g)
    let (r, t) := ({ s with poison := s.poison.filter (fun g => !a.whole.contains g) }).writeElem w e e.data.toNat
    (r, { t with poison := kept.foldl (fun p g => setAdd g p) t.poison })

/-- Performs one element of an access. -/
def State.performElem (s : State) (w : Wave) (a : Access) (e : Elem) : Access × State :=
  let va := e.va.getD (paOff e.pa)
  match e.op with
  | .load =>
    let (b, s) := s.readElem w e
    let s := s.fillDest w a.dest e b.value (b.poison || b.refused)
    if b.refused then (a, s.logWave w 0x55 causeRemoteRefused (BitVec.ofNat 64 va)) else (a, s)
  | .store =>
    let (r, s) := s.storeElem w a e
    (if r then { a with refused := addLane a.refused e.lane va } else a, s)
  | .rmw op type x cmp =>
    let (b, s) := s.rmwElem w e op type x cmp
    if b.refused then (a, (s.fillDest w a.dest e 0 true).logWave w 0x55 causeRemoteRefused (BitVec.ofNat 64 va))
    else if b.poison then
      ({ a with poisoned := addLane a.poisoned e.lane va }, if paSpace e.pa == 5 then s.fillDest w a.dest e b.value true else s)
    else (a, s.fillDest w a.dest e b.value false)
  | .sig =>
    let (r, s) := s.sigElem w e
    (if r then { a with refused := addLane a.refused e.lane va } else a, s)

/-- Replaces the access of an id in a wave. -/
def Wave.setAccess (w : Wave) (a : Access) : Wave :=
  { w with flight := w.flight.map (fun b => if b.id == a.id then a else b) }

/-- Cycles queued at the stages L1, crossbar, L2 slice, PAIR, LLC slice, MC: 0 where the request did not pass, at most TOTAL in
all, free otherwise (R285, R391; DESIGN CHOICE, log entry 15). -/
def Access.stages (a : Access) (now space : Nat) : List Nat :=
  ((List.range 6).foldl (fun (r : Nat × List Nat) st =>
    let passed := a.path != 0 && (st < 3 || (if st == 3 then space == 2 else space < 2))
    let v := if passed then min (min (Config.queued st a.id a.issued now) r.1) 0xFFFF else 0
    (r.1 - v, r.2 ++ [v])) (now - a.issued, [])).2

/-- The sample record of a completed request (R285, R391). -/
def sampleRecord (a : Access) (now va space : Nat) : BitVec 256 :=
  let st (i : Nat) : Nat := (a.stages now space).getD i 0
  words4 (BitVec.ofNat 64 (st 0 + 2 ^ 16 * st 1 + 2 ^ 32 * st 2 + 2 ^ 48 * st 3))
    (BitVec.ofNat 64 (st 4 + 2 ^ 16 * st 5 + min (now - a.issued) (2 ^ 32 - 1) * 2 ^ 32)) (BitVec.ofNat 64 va)
    (BitVec.ofNat 64 (2 ^ 63 + 16 * space + a.path))

/-- What completing a marked access leaves in its wave: a record, or the mark for the next access when the instruction
trapped or queued a store-fault record (R391). -/
def Wave.sampleDone (w : Wave) (a : Access) (now : Nat) : Wave :=
  match a.sampled with
  | none => w
  | some (va, space) =>
    if a.poisoned.isSome || a.refused.isSome || !a.faults.isEmpty then { w with sampleMark := true }
    else { w with sampleRec := some (sampleRecord a now va space) }

/-- Completes an access whose elements have all been performed: its store-fault records, the refusal of a peer, the
extension of its values, the sample (R97, R213, R220, R281, R285); a store of a save or restore handler that the save region
refuses ends the wave with save-area-fault (R342) (DESIGN CHOICE, log entry 27). -/
def State.completeAccess (s : State) (core slot : Nat) (a : Access) : State :=
  match s.wave? core slot with
  | none => s
  | some w =>
    let s := s.extendDest w a.dest a.lanes
    let refusal := match a.refused with
      | some (va, lanes) => [sfRecord va lanes causeRemoteRefused 2 slot w.ctx a.seq a.pc]
      | none => []
    let s := refusal.foldl (fun s r => s.logWave w 0x55 causeRemoteRefused (sfAddr r)) s
    let s := (a.faults ++ refusal).foldl (fun s r => match s.wave? core slot with
      | some w => s.pushSf w r
      | none => s) s
    let lost := w.exemptPoison && (a.faults ++ refusal).any (fun r => sfCause r / 32 == 2 && s.inSaveRegion w.ctx (sfAddr r).toNat)
    let s := if lost then s.modWave core slot (fun w => { w with wait := .ended causeSaveFault }) else s
    let s := { s with poison := a.whole.foldl (fun p g => setDel g p) s.poison }
    s.modWave core slot (fun w =>
      let w := (w.sampleDone a s.cyc).setAccess { a with done := true, elems := [], faults := [] }
      { w with flight := pruneFlight [] w.flight,
               poisPend := match a.poisoned with
                 | some p => some p
                 | none => w.poisPend })

/-- Performs elements of the access of an id in order, and completes it when none is left. -/
def State.performAll (s : State) (core slot id : Nat) : List Elem → State
  | [] =>
    match s.wave? core slot with
    | none => s
    | some w =>
      match w.flight.find? (fun a => a.id == id) with
      | some a => if a.elems.isEmpty && !a.done then s.completeAccess core slot a else s
      | none => s
  | e :: rest =>
    match s.wave? core slot with
    | none => s
    | some w =>
      match w.flight.find? (fun a => a.id == id) with
      | none => s
      | some a =>
        let (a, s) := s.performElem w a e
        let s := s.modWave core slot (fun w => w.setAccess { a with elems := a.elems.erase e })
        State.performAll s core slot id rest

/-- ACCESS_COMPLETION: an access in flight performs its remaining elements and completes (R96, R97). -/
def State.accessCompletes (s : State) (core slot index : Nat) : State :=
  match s.wave? core slot with
  | none => s
  | some w =>
    match w.flight[index]? with
    | none => s
    | some a =>
      if !a.done && a.elems.all (w.mayPerform index) then s.performAll core slot a.id a.elems else s

/-- One element of an access in flight is performed. -/
def State.performOne (s : State) (core slot index elem : Nat) : State :=
  match s.wave? core slot with
  | none => s
  | some w =>
    match w.flight[index]? with
    | none => s
    | some a =>
      match a.elems[elem]? with
      | none => s
      | some e =>
        if a.done || !w.mayPerform index e || (a.elems.take elem).any (fun f => e.after f) then s
        else s.performAll core slot a.id [e]

end Sys2Proof.Machine
end

