-- ==== Sys2Proof/Machine/MemOps.lean ====
section
/-! DEFINITION. What the memory instructions share: the bytes of their lanes, the checks of R212, and the accesses they put in
flight (04 R84 to R97, R105, R106; 05 R107, R109, R116; 12 R210 to R220). -/

namespace Sys2Proof.Machine

/-! ## Lanes and their bytes (R210, R211) -/

def xScl (x : XF) : Bool := bit x.szsp.toNat 3
def xScratch (x : XF) : Bool := bit x.szsp.toNat 4
def xSize (x : XF) : Nat := sizeBytes x.szsp.toNat

/-- lane_off of R211. -/
def State.laneOff (s : State) (w : Wave) (x : XF) (size L : Nat) : Nat :=
  let o := match x.osel.toNat with
    | 0 => (s.vrd w x.sb.toNat L).toNat
    | 1 => (s.srd x.sb.toNat).toNat % 2 ^ 32
    | _ => 0
  o * (if xScl x then size else 1) + x.disp.toNat

/-- What one lane, or an instruction without lanes, asks for: bytes from an offset, of which `mask` are used. -/
structure Req where
  lane : Option Nat
  off : Nat
  bytes : Nat
  mask : Nat
  data : Nat
  op : ElemOp
  deriving DecidableEq, Repr

/-- The request cut down to the bytes from the first used to the last (R214). -/
def Req.trim (r : Req) : Req :=
  let lo := ((List.range r.bytes).find? (fun i => bit r.mask i)).getD 0
  let hi := ((List.range r.bytes).filter (fun i => bit r.mask i)).foldl (fun _ i => i + 1) 0
  { r with off := r.off + lo, bytes := hi - lo, mask := r.mask / 2 ^ lo, data := r.data / 2 ^ (8 * lo) }

/-- The lanes of requests; an instruction without lanes names none (R272). -/
def reqLanes (l : List Req) : BitVec 64 := maskOf (l.filterMap (·.lane))

/-- How an instruction accesses memory. -/
structure AccForm where
  need : Bool → Need
  /-- ACCESS of a fault record (R332). -/
  access : Nat
  /-- Causes of check 6 make store-fault records (R212). -/
  imprecise : Bool
  /-- It meets source range locks too (R106). -/
  writes : Bool
  /-- It may reach space 7 (R216). -/
  regs : Bool
  /-- Its words must be naturally aligned (R217). -/
  natural : Bool
  /-- It names a sync cell in these spaces (R219, R221, R224). -/
  cell : Option (Nat × Nat)
  /-- It adds to an accumulation buffer, in spaces 0 to 4 (R252). -/
  accum : Bool := false
  /-- absent-target alone makes a store-fault record: a remote signal increment whose route is down (R299). -/
  lateAbsent : Bool := false

def AccForm.load : AccForm :=
  { need := Need.load, access := 1, imprecise := false, writes := false, regs := true, natural := false, cell := none }
def AccForm.store : AccForm :=
  { need := Need.store, access := 2, imprecise := true, writes := true, regs := true, natural := false, cell := none }
def AccForm.atomic : AccForm :=
  { need := Need.atomic, access := 8, imprecise := false, writes := true, regs := false, natural := true, cell := none }
def AccForm.accumulate : AccForm := { AccForm.atomic with accum := true }
def AccForm.orderedAtomic : AccForm := { AccForm.atomic with cell := some (0, 4) }
def AccForm.acquire : AccForm := { AccForm.load with regs := false, cell := some (0, 4) }
def AccForm.release : AccForm := { AccForm.store with imprecise := false, regs := false, cell := some (0, 4) }
def AccForm.signal : AccForm := { AccForm.atomic with natural := false, cell := some (5, 5), lateAbsent := true }

/-! ## Translating a request (R94, R211, R212) -/

/-- Where bytes of a request lie. -/
inductive Place where
  | found (pa : Nat) (kind : PageKind)
  | cause (c : Nat)
  | missing (first cow : Bool)
  deriving DecidableEq, Repr

/-- The bytes of a request on one page: the first of them, how many, their address, where they lie, and the space of the frame
once the walk has found it. -/
structure Part where
  lo : Nat
  n : Nat
  va : BitVec 64
  place : Place
  space : Option Nat := none
  deriving DecidableEq, Repr

/-- The frame's causes for n bytes (R86, R90, R216). -/
def State.placeCause (s : State) (f : AccForm) (r : Req) (lo n pa : Nat) (va : BitVec 64) : Option Nat :=
  match s.frameCause s.curCtx pa (s.curMode == .user) with
  | some k => some k
  | none =>
    if f.accum && (paSpace pa == 5 || paSpace pa == 6) then some causeAccumulateSpace
    else if paSpace pa == 6 && (List.range n).any (fun i => bit r.mask (lo + i) && !s.storeHeldAll s.curCtx (pa + i) 1) then
      some causeCoreWindow
    else if paSpace pa == 7 && !(f.regs && (r.bytes == 4 || r.bytes == 8) && (va.toNat - lo) % r.bytes == 0) then
      some causeDeviceControl
    else none

/-- A base translation register serves n bytes at an offset (R94) (DEDUCED, log entry 28). -/
def BReg.serves (b : BReg) (off n : Nat) (need : Need) : Bool :=
  b.valid && off + n ≤ b.limit && (if need.write then b.wr else b.rd) && (!need.user || b.usr)

/-- Places n bytes of a request on one page (R94). -/
def State.placePart (s : State) (f : AccForm) (b : BReg) (r : Req) (va : BitVec 64) (lo n : Nat) : Part × State :=
  let need := f.need (s.curMode == .user)
  let a := va + BitVec.ofNat 64 lo
  let part (p : Place) : Part := { lo := lo, n := n, va := a, place := p }
  let at_ (s : State) (pa : Nat) (ord : PageKind) : Part × State :=
    match s.placeCause f r lo n pa a with
    | some c => ({ part (.cause c) with space := some (paSpace pa) }, s)
    | none => ({ part (.found pa (kindAt pa ord)) with space := some (paSpace pa) }, s)
  if b.serves (r.off + lo) n need then at_ s (b.pb + r.off + lo) b.ord
  else match s.xlate a.toNat need with
    | (.ok e, t) => at_ t (e.pa a.toNat) e.ord
    | (.missing first, t) => (part (.missing first false), t)
    | (.cow, t) => (part (.missing false true), t)
    | (.cause c, t) => (part (.cause c), t)

/-- Places the bytes of a request, page by page, leaving out pages on which none is used. -/
def State.placeReq (s : State) (f : AccForm) (b : BReg) (base : BitVec 64) (r : Req) : List Part × State :=
  let va := base + BitVec.ofNat 64 r.off
  let first := min r.bytes (4096 - va.toNat % 4096)
  let used (lo n : Nat) : Bool := (List.range n).any (fun i => bit r.mask (lo + i))
  let step (acc : List Part × State) (q : Nat × Nat) : List Part × State :=
    if used q.1 q.2 then
      let (p, t) := acc.2.placePart f b r va q.1 q.2
      (acc.1 ++ [p], t)
    else acc
  [(0, first), (first, r.bytes - first)].foldl step ([], s)

/-- Places requests in order (DEDUCED, log entry 22). -/
def State.placeAll (s : State) (f : AccForm) (b : BReg) (base : BitVec 64) : List Req → List (Req × List Part) × State
  | [] => ([], s)
  | r :: rest =>
    let (ps, t) := s.placeReq f b base r
    let (l, u) := State.placeAll t f b base rest
    ((r, ps) :: l, u)

/-! ## The checks (R212) -/

/-- Order of a cause within check 6. -/
def causeRank (c : Nat) : Nat :=
  if c == causePageTableFormat then 0 else if c == causePoison then 1 else if c == causeSpaceReserved then 3
  else if c == causeAbsent then 4 else if c == causePrivilege then 5
  else if c == causeCoreWindow || c == causeAccumulateSpace then 6
  else if c == causeDeviceControl then 7 else 2

/-- The cause that a lane meets in check 6: the first in the row's order. -/
def laneCause (ps : List Part) : Option Nat :=
  ps.foldl (fun o p => match p.place, o with
    | .cause c, none => some c
    | .cause c, some d => if causeRank c < causeRank d then some c else some d
    | _, _ => o) none

/-- The least of the causes by rank. -/
def firstCause (l : List Nat) : Option Nat :=
  l.foldl (fun o c => match o with
    | none => some c
    | some d => if causeRank c < causeRank d then some c else some d) none

/-- Causes in the row's order, each once. -/
def causesInOrder (l : List Nat) : List Nat :=
  (List.range 8).flatMap (fun k => (l.filter (fun c => causeRank c == k)).eraseDups)

/-- A used byte of a part meets a range lock of the agent's cluster and context (R105, R106, R258). -/
def State.lockMeets (s : State) (writes : Bool) (r : Req) (p : Part) : Bool :=
  s.locks.any (fun l => l.cluster == s.curCore / 4 && l.ctx == s.curCtx && (l.dest || writes)
    && (List.range p.n).any (fun i => bit r.mask (p.lo + i) &&
      (match p.place with
        | .found pa _ =>
          if paSpace pa == 6 then l.store.any (fun q => q.1 ≤ paOff (pa + i) && paOff (pa + i) < q.2)
          else l.lo ≤ (p.va.toNat + i) % 2 ^ 57 && (p.va.toNat + i) % 2 ^ 57 < l.hi
        | _ => l.lo ≤ (p.va.toNat + i) % 2 ^ 57 && (p.va.toNat + i) % 2 ^ 57 < l.hi)))

/-- The address of a request. -/
def Req.addr (r : Req) (base : BitVec 64) : BitVec 64 := base + BitVec.ofNat 64 r.off

/-- A used byte lies at an address out of the canonical range (R84). -/
def Req.noncanonical (r : Req) (base : BitVec 64) : Bool :=
  (List.range r.bytes).any (fun i => bit r.mask i && !canonical (r.addr base + BitVec.ofNat 64 i))

/-- Check 5: the cause of a request that is misaligned, or names no sync cell (R117, R217, R219, R224). -/
def AccForm.alignCause (f : AccForm) (base : BitVec 64) (r : Req) (ps : List Part) : Option Nat :=
  if f.natural && (r.addr base).toNat % r.bytes != 0 then some causeAtomicAlign
  else match f.cell with
    | none => none
    | some (lo, hi) =>
      if (r.addr base).toNat % 128 != 0 then some causeSyncCell
      else if ps.any (fun p => match p.space with
          | some sp => sp < lo || hi < sp
          | none => false) then some causeSyncCell
      else none

/-- The missing pages of requests, each with its lanes (R326, R332). -/
def missesOf (base : BitVec 64) (write : Bool) (access : Nat) (l : List (Req × List Part)) : List Miss :=
  let all : List Miss := l.flatMap (fun q => q.2.filterMap (fun p => match p.place with
    | .missing first cow => some { page := p.va.toNat % 2 ^ 57 / 4096, write := write, cow := cow, first := first,
                                   lanes := reqLanes [q.1], addr := q.1.addr base, access := access }
    | _ => none))
  let pages := (all.map (·.page)).eraseDups
  pages.filterMap (fun g => match all.filter (fun m => m.page == g) with
    | [] => none
    | m :: ms => some { m with lanes := ms.foldl (fun a x => a ||| x.lanes) m.lanes })

/-- The outcome of the checks: the placed requests that are performed and the causes that make records, or the end of the
instruction. -/
inductive Checked where
  | ok (l : List (Req × List Part)) (sf : List (Nat × BitVec 64 × BitVec 64)) (s : State)
  | ends (r : Res)

/-- A precise cause of the requests that meet it. -/
def trapReqs (s : State) (cause : Nat) (base : BitVec 64) (l : List Req) : Res :=
  .trap s cause (match l with
    | r :: _ => r.addr base
    | [] => 0) (reqLanes l)

/-- Checks 3 to 7 for requests in the translated space (DEDUCED, log entry 26). -/
def State.checkReqs (s : State) (f : AccForm) (b : BReg) (base : BitVec 64) (reqs : List Req) : Checked :=
  let out := reqs.filter (fun r => r.noncanonical base)
  if !f.imprecise && !out.isEmpty then .ends (trapReqs s causeNoncanonical base out)
  else
    let (l, t) := s.placeAll f b base (reqs.filter (fun r => !r.noncanonical base))
    let locked : List (Req × List Part) := l.filter (fun q => q.2.any (fun p => t.lockMeets f.writes q.1 p))
    if !locked.isEmpty then .ends (trapReqs s causeRangeLock base (locked.map (·.1)))
    else
      let at_ (c : Nat) : List Req := (l.filter (fun q => f.alignCause base q.1 q.2 == some c)).map (·.1)
      if !(at_ causeAtomicAlign).isEmpty then .ends (trapReqs s causeAtomicAlign base (at_ causeAtomicAlign))
      else if !(at_ causeSyncCell).isEmpty then
        let skew := (at_ causeSyncCell).any (fun r => (r.addr base).toNat % 128 != 0)
        .ends (trapReqs (if skew then s else t) causeSyncCell base (at_ causeSyncCell))
      else
        let causes := l.filterMap (fun q => laneCause q.2)
        let lanesOfCause (c : Nat) : List Req := (l.filter (fun q => laneCause q.2 == some c)).map (·.1)
        match if f.imprecise || (f.lateAbsent && causes.all (fun c => c == causeAbsent)) then none else firstCause causes with
        | some c => .ends (trapReqs t c base (lanesOfCause c))
        | none =>
          let ms := missesOf base (f.need false).write f.access l
          match ms with
          | m :: _ =>
            let lanes := ms.foldl (fun a x => a ||| x.lanes) 0
            let first : Option Part := (l.flatMap (fun q => q.2)).find? (fun p => match p.place with
              | .missing _ _ => true
              | _ => false)
            .ends (t.meetMissing ms ((first.map (·.va)).getD m.addr) lanes)
          | [] =>
            let entry (c : Nat) (rs : List Req) : List (Nat × BitVec 64 × BitVec 64) :=
              match rs with
              | [] => []
              | r :: _ => [(c, r.addr base, reqLanes rs)]
            .ok (l.filter (fun q => (laneCause q.2).isNone))
              (entry causeNoncanonical out ++ (causesInOrder causes).flatMap (fun c => entry c (lanesOfCause c))) t

/-- Checks 4 to 6 for requests in the scratchpad (R91, R106); %taddr is the offset (DEDUCED, log entry 19). -/
def State.checkScratch (s : State) (w : Wave) (f : AccForm) (reqs : List Req) : Checked :=
  let (base, size) := match s.block? w.launch w.block with
    | some b => (b.scrBase, b.scrSize)
    | none => (0, 0)
  let pa (r : Req) : Nat := 6 * 2 ^ 48 + w.core * 2 ^ 20 + base + r.off
  let l : List (Req × List Part) :=
    reqs.map (fun r => (r, [{ lo := 0, n := r.bytes, va := BitVec.ofNat 64 r.off, place := .found (pa r) .so }]))
  let locked := (l.filter (fun q => q.1.off < size && q.2.any (fun p => s.lockMeets f.writes q.1 p))).map (·.1)
  let skew := reqs.filter (fun r => f.natural && r.off % r.bytes != 0)
  let past := reqs.filter (fun r => size < r.off + r.bytes)
  if !locked.isEmpty then .ends (trapReqs s causeRangeLock 0 locked)
  else if !skew.isEmpty then .ends (trapReqs s causeAtomicAlign 0 skew)
  else if f.cell.isSome && !reqs.isEmpty then .ends (trapReqs s causeSyncCell 0 reqs)
  else if !past.isEmpty then .ends (trapReqs s causeScratchRange 0 past)
  else .ok l [] s

/-! ## Elements (R107) -/

/-- Cuts n bytes from an address at aligned 4-byte boundaries: the start and length of each piece. -/
def cutWords (va lo : Nat) : Nat → Nat → List (Nat × Nat)
  | 0, _ => []
  | fuel + 1, n =>
    if n == 0 then []
    else
      let k := min n (4 - va % 4)
      (lo, k) :: cutWords (va + k) (lo + k) fuel (n - k)

/-- The kind of a whole request: the strongest of its pages (R109). -/
def strongest : List Part → PageKind
  | [] => .un
  | p :: ps =>
    match p.place with
    | .found _ k => k.stronger (strongest ps)
    | _ => strongest ps

/-- The elements of a placed request (DEDUCED, log entry 23). -/
def Req.elems (r : Req) (scratch : Bool) (scope : Nat) (ps : List Part) : List Elem :=
  let kind := strongest ps
  ps.flatMap (fun p => match p.place with
    | .found pa _ =>
      let whole := (match r.op with
          | .load => false
          | .store => false
          | _ => true) || paSpace pa == 7 || ([1, 2, 4].contains r.bytes && (p.va.toNat - p.lo) % r.bytes == 0)
      let cuts := if whole then [(p.lo, p.n)] else cutWords p.va.toNat p.lo p.n p.n
      (cuts.map (fun c =>
        let e : Elem :=
          { lane := r.lane, va := if scratch then none else some (p.va.toNat + (c.1 - p.lo)), pa := pa + (c.1 - p.lo),
            bytes := c.2, mask := field r.mask c.1 c.2, op := r.op, data := BitVec.ofNat 64 (r.data / 2 ^ (8 * c.1)),
            kind := kind, scope := scope, at_ := c.1, port := none, bad := false }
        e)).filter (fun e => e.op != .store || e.mask != 0)
    | _ => [])

/-- The path of an element (R96). -/
def Elem.path (e : Elem) (core : Nat) : Nat :=
  if paSpace e.pa == 5 then 4
  else match e.op with
    | .load => if paSpace e.pa == 6 && paOff e.pa / 2 ^ 20 == core then 0 else 1
    | .store => 2
    | _ => 3

/-- The element adds its line to WS: an RC store, or an atomic performed in the L1 (R116, R218). -/
def State.signs (s : State) (e : Elem) : Bool :=
  paSpace e.pa ≤ 4 && (match e.op with
    | .store => e.kind == .rc
    | .rmw _ _ _ _ => e.inL1 && !s.hostDirect e.pa
    | _ => false)

/-- A request to a peer leaves by the port of its route (R361, R364). -/
def State.sent (s : State) (e : Elem) : Elem :=
  let d := paOff e.pa / 2 ^ 42
  if paSpace e.pa == 5 && d != s.ngxIdNum then { e with port := s.routePort d } else e

/-- An element of space 6 lies in registers that an access in flight of the same wave still fills (R90, R108). -/
def Access.fills (a : Access) (w : Wave) (e : Elem) : Bool :=
  !a.done && paSpace e.pa == 6 && (match a.dest with
    | .vec n b _ => (List.range ((b + 3) / 4)).any (fun i =>
        let lo := w.vaddr (n + i) 0
        lo < paOff e.pa + e.bytes && paOff e.pa < lo + 256)
    | _ => false)

def Elem.line (e : Elem) : Nat := e.va.getD 0 % 2 ^ 57 / 128

/-! ## Issue -/

/-- Granules of memory that stores outside the L1 cover whole (R128). -/
def State.wholeGranules (s : State) (es : List Elem) : List Nat :=
  if s.poison.isEmpty then []
  else
    let far := es.filter (fun e => e.op == .store && (e.kind == .so || s.hostDirect e.pa))
    s.poison.filter (fun g => (List.range 32).all (fun i =>
      far.any (fun e => e.pa ≤ 32 * g + i && 32 * g + i < e.pa + e.bytes && bit e.mask (32 * g + i - e.pa))))

/-- A destination loses its marks when its load issues (R128). -/
def State.unmark (s : State) (w : Wave) (d : Dest) (lanes : BitVec 64) : State :=
  match d with
  | .none => s
  | .vec reg bytes _ =>
    if s.csMark.isEmpty || w.exemptPoison then s
    else
      let keys := (lanesOf lanes).flatMap (fun L => (List.range ((bytes + 3) / 4)).map (fun i => w.vaddr (reg + i) L / 4))
      { s with csMark := s.csMark.filter (fun k => !keys.contains k) }
  | .scal reg _ _ => s.modWave w.core w.slot (fun w => { w with sMark := w.cleared reg w.sMark })

/-- The paths of an instruction: those of its elements, and the store path for its store-fault records. -/
def pathsOf (path : Elem → Nat) (es : List Elem) (records : Bool) : List Nat :=
  (List.range 6).filter (fun p => es.any (fun e => path e == p) || (records && p == 2))

/-- The routes that requests to peers take keep their ports (R361). -/
def State.keepRoutes (s : State) (es : List Elem) : State :=
  es.foldl (fun s e => match (s.sent e).port with
    | some p => s.keepRoute (paOff e.pa / 2 ^ 42) p
    | none => s) s

/-- An access that completes as it issues, on a path: it leaves the counter only after the earlier ones of its path (R96, R97). -/
def State.countDone (s : State) (w : Wave) (path : Nat) : State :=
  s.modWave w.core w.slot (fun v =>
    let a : Access := { id := v.nextAcc, path := path, elems := [], dest := .none, lanes := 0, faults := [], done := true, pc := v.pc,
                        seq := v.stseq, sampled := none, poisoned := none, refused := none, whole := [], issued := s.cyc }
    { v with flight := pruneFlight [] (v.flight ++ [a]), nextAcc := v.nextAcc + 1 })

/-- An issue on a path would take its counter past 63 (R97). -/
def Wave.pathFull (w : Wave) (path : Nat) : Bool := 63 ≤ w.counter path

/-- Puts elements in flight, one access for each path (R96, R97, R111): the instruction waits while a counter is at 63, or
while an earlier SO access of the wave has not completed. -/
def issueOn (path : Elem → Nat) (s : State) (w : Wave) (es : List Elem) (dest : Dest) (lanes : BitVec 64) (sf : List SfRec)
    (seq : BitVec 32) : Res :=
  let paths := pathsOf path es (!sf.isEmpty)
  let so (e : Elem) : Bool := e.kind == .so && paSpace e.pa ≤ 4
  if paths.any (fun p => 63 ≤ w.counter p) then .wait s (.retry 9 false)
  else if es.any so && w.flight.any (fun a => a.elems.any so) then .wait s (.retry 13 false)
  else if es.any (fun e => w.flight.any (fun a => a.fills w e)) then .wait s (.retry 10 false)
  else
    let first := es.head?
    let lead := match first with
      | some e => if w.sampleMark && sf.isEmpty && path e < 5 then some (path e, e.va.getD (paOff e.pa), paSpace e.pa) else none
      | none => none
    let make (i p : Nat) : Access :=
      { id := w.nextAcc + i, path := p, elems := (es.filter (fun e => path e == p)).map s.sent, dest := dest, lanes := lanes,
        faults := if p == 2 then sf else [], done := false, pc := w.pc, seq := seq,
        sampled := match lead with
          | some (q, va, sp) => if q == p then some (va, sp) else none
          | none => none,
        poisoned := none, refused := none, whole := s.wholeGranules (es.filter (fun e => path e == p)),
        issued := s.cyc }
    let accs := (List.range paths.length).map (fun i => make i (paths.getD i 0))
    let ws := (es.filter s.signs).foldl (fun g e => sigAdd e.line g) w.ws
    let s := (s.keepRoutes es).unmark w dest lanes
    .done (s.modWave w.core w.slot (fun w =>
      { w with flight := w.flight ++ accs, nextAcc := w.nextAcc + accs.length, ws := ws, stseq := seq,
               sampleMark := w.sampleMark && lead.isNone }))

/-- Puts elements in flight on their own paths. -/
def issueElems (s : State) (w : Wave) (es : List Elem) (dest : Dest) (lanes : BitVec 64) (sf : List SfRec) (seq : BitVec 32) : Res :=
  issueOn (fun e => e.path w.core) s w es dest lanes sf seq

/-- The base translation register of a number. -/
def Wave.breg (w : Wave) (n : Nat) : BReg := sget (fun _ => BReg.none) w.b n

/-- Virtual base of a base translation register as an address (R84, R94). -/
def BReg.base (b : BReg) : BitVec 64 := sext57 b.vb

/-- The checks of an instruction with a memory operand. -/
def State.check (s : State) (w : Wave) (f : AccForm) (x : XF) (scratch : Bool) (reqs : List Req) : Checked :=
  if scratch then s.checkScratch w f reqs
  else s.checkReqs f (w.breg x.sa.toNat) (w.breg x.sa.toNat).base reqs

/-- Scope of an instruction in its launch; a level above TOP is an illegal operand (R22). -/
def State.scopeIn (s : State) (n : Norm) : Option Nat :=
  match s.curWave with
  | some w => scopeOf (s.recordOf w.launch) n.x.scope.toNat
  | none => some n.x.scope.toNat

/-- The elements of checked requests, in lane order. -/
def elemsOf (scratch : Bool) (scope : Nat) (l : List (Req × List Part)) : List Elem :=
  l.flatMap (fun q => q.1.elems scratch scope q.2)

/-- The store-fault records of a store (R212, R281). -/
def sfRecords (w : Wave) (seq : BitVec 32) (sf : List (Nat × BitVec 64 × BitVec 64)) : List SfRec :=
  sf.map (fun e => sfRecord e.2.1 e.2.2 e.1 0 w.slot w.ctx seq w.pc)

end Sys2Proof.Machine
end

