-- ==== Sys2Proof/Machine/AccessOps.lean ====
section
/-! DEFINITION. Loads, stores, atomics, sync cells, fences, hints, base translation, and the data accesses of the Spindle stream
(05 R113, R117 to R122; 12 R210 to R229). -/

namespace Sys2Proof.Machine

/-! ## Loads and stores (R213, R214) -/

/-- The whole of n bytes. -/
def allBytes (n : Nat) : Nat := 2 ^ n - 1

/-- Requests of the lanes of the lane set. -/
def State.laneReqs (s : State) (w : Wave) (n : Norm) (size : Nat) (mask data : Nat → Nat) (op : Nat → ElemOp) : List Req :=
  (lanesOf (laneSet w n.x)).map (fun L =>
    { lane := some L, off := s.laneOff w n.x size L, bytes := size, mask := mask L % 2 ^ size, data := data L, op := op L })

/-- The request of an instruction without lanes. -/
def State.scalarReq (s : State) (w : Wave) (n : Norm) (size data : Nat) (op : ElemOp) : Req :=
  { lane := none, off := s.laneOff w n.x size 0, bytes := size, mask := allBytes size, data := data, op := op }

/-- A signed SIZE (R210). -/
def xSigned (x : XF) : Bool := x.szsp.toNat % 8 == 1 || x.szsp.toNat % 8 == 3

/-- A load of requests into a destination. -/
def loadReqs (s : State) (w : Wave) (n : Norm) (reqs : List Req) (dest : Dest) (lanes : BitVec 64) : Res :=
  match s.check w .load n.x (xScratch n.x) reqs with
  | .ends r => r
  | .ok l _ t => issueElems t w (elemsOf (xScratch n.x) 0 l) dest lanes [] w.stseq

def ldOp (_r : Row) (n : Norm) (s : State) : Res :=
  match s.curWave with
  | none => .done s
  | some w =>
    let size := xSize n.x
    loadReqs s w n (s.laneReqs w n size (fun _ => allBytes size) (fun _ => 0) (fun _ => .load))
      (.vec n.x.d.toNat size (xSigned n.x)) (laneSet w n.x)

def ldsOp (_r : Row) (n : Norm) (s : State) : Res :=
  match s.curWave with
  | none => .done s
  | some w =>
    let size := xSize n.x
    loadReqs s w n [s.scalarReq w n size 0 .load] (.scal n.x.d.toNat size (xSigned n.x)) 0

/-- A store of requests: it counts in the store issue count whatever space it reaches (R281). -/
def storeReqs (s : State) (w : Wave) (f : AccForm) (n : Norm) (reqs : List Req) : Res :=
  match s.check w f n.x (xScratch n.x) reqs with
  | .ends r => r
  | .ok l sf t =>
    let seq := w.stseq + 1
    issueElems t w (elemsOf (xScratch n.x) 0 l) .none 0 (sfRecords w seq sf) seq

/-- Registers n, n + 1, … of a lane as one number. -/
def State.vwords (s : State) (w : Wave) (n L : Nat) : Nat → Nat
  | 0 => 0
  | k + 1 => (s.vrd w n L).toNat + 2 ^ 32 * State.vwords s w (n + 1) L k

def State.storeData (s : State) (w : Wave) (n : Norm) (size L : Nat) : Nat := s.vwords w n.x.d.toNat L ((size + 3) / 4)

def stOp (_r : Row) (n : Norm) (s : State) : Res :=
  match s.curWave with
  | none => .done s
  | some w =>
    let size := xSize n.x
    storeReqs s w .store n (s.laneReqs w n size (fun _ => allBytes size) (fun L => s.storeData w n size L) (fun _ => .store))

/-- The lanes of stmsk whose mask enables a byte, or whose mask carries a mark (R128, R214). -/
def stmskLanes (s : State) (w : Wave) (n : Norm) : BitVec 64 :=
  maskOf ((lanesOf (laneSet w n.x)).filter (fun L =>
    (s.vrd w n.x.sc.toNat L).toNat % 2 ^ xSize n.x != 0 || s.vmarked w n.x.sc.toNat L 1))

/-- A lane whose mask enables no byte makes no access and raises no cause (R214). -/
def stmskOp (r : Row) (n : Norm) (s : State) : Res :=
  match s.curWave with
  | none => .done s
  | some w =>
    let size := xSize n.x
    let bad := if w.exemptPoison then 0 else poisonLanes s w (stmskLanes s w n) (rowSources r s.stream n)
    if bad != 0 then .trap s causePoisonConsumed 0 bad
    else
    let reqs := s.laneReqs w n size (fun L => (s.vrd w n.x.sc.toNat L).toNat) (fun L => s.storeData w n size L) (fun _ => .store)
    storeReqs s w { AccForm.store with regs := false } n ((reqs.filter (fun r => r.mask != 0)).map Req.trim)

def stsOp (_r : Row) (n : Norm) (s : State) : Res :=
  match s.curWave with
  | none => .done s
  | some w => storeReqs s w .store n [s.scalarReq w n (xSize n.x) (s.srd n.x.d.toNat).toNat .store]

/-! ## Sync cells (R117 to R120) -/

/-- The agent of the running instruction as an accessor of the L2. -/
def State.curWho (s : State) : Who :=
  match s.curWave, s.curSpindle with
  | some w, _ => w.who
  | _, some p => p.who
  | _, _ => { buf := bufSched, ctx := 0, slot := 0 }

/-- WS and WSAT of the agent (R116). -/
def State.curSig (s : State) : Sig × Bool :=
  match s.curWave, s.curSpindle with
  | some w, _ => (w.ws, w.wsat)
  | _, some p => (p.ws, p.wsat)
  | _, _ => (0, false)

def State.setSig (s : State) (ws : Sig) (sat : Bool) : State :=
  (s.modCurWave (fun w => { w with ws := ws, wsat := sat })).modCurSpindle (fun p => { p with ws := ws, wsat := sat })

/-- The operation uses the core's L1: a wave at wave or core scope, but for a port without CXL.cache (R114, R117, R218). -/
def State.inL1 (s : State) (scope pa : Nat) : Bool := s.curWave.isSome && scope ≤ scopeCore && !s.hostDirect pa

/-- Reads a cell at the point of coherence of a scope; whether it met poison (R117). -/
def State.cellRead (s : State) (scope va pa : Nat) : Nat × Bool × State :=
  match s.curWave with
  | some w =>
    if s.inL1 scope pa then
      let (l, t) := s.l1Get w.core w.ctx (pa / 128) (va % 2 ^ 57 / 128) .rc
      let fresh (g : Nat) : Bool := field l.dirty.toNat (32 * (g % 4)) 32 == 2 ^ 32 - 1
      (l.data.toNat, (granules pa 128).any (fun g => t.poison.contains g && !fresh g), t)
    else
      let t := s.l1Flush w.core w.ctx (pa / 128)
      let p := t.anyPoison pa 128
      let (v, u) := t.l2Read w.ctx pa 128
      (v, p, u)
  | none =>
    let p := s.anyPoison pa 128
    let (v, u) := s.l2Read s.curCtx pa 128
    (v, p, u)

/-- The bytes of a cell that a release writes: VALUE, CTL and SIG. -/
def cellMask : Nat := 2 ^ 16 - 1 + (2 ^ 64 - 1) * 2 ^ 64

/-- Writes bytes of a cell at the point of coherence of a scope; in the L1 as an RC store, its line added to WS (R117). -/
def State.cellWrite (s : State) (scope va pa v mask : Nat) : State :=
  match s.curWave with
  | some w =>
    if s.inL1 scope pa then
      (s.l1Write w va pa 128 v mask .rc).modCurWave (fun w => { w with ws := sigAdd (va % 2 ^ 57 / 128) w.ws })
    else s.l2Write w.who pa 128 v mask
  | none => s.l2Write s.curWho pa 128 v mask

/-- The counters a release or fence waits for (R118). -/
def releasePaths (scope : Nat) : List Nat :=
  [0, 1, 2, 3] ++ (if scopeCluster ≤ scope then [5] else []) ++ (if scope == scopeSystem then [4] else [])

/-- The waits of R118 are over; a Spindle stream has no access in flight (R229), and its drains have ended, whose stores a
release publishes (R125, R129). -/
def State.releaseReady (s : State) (scope : Nat) : Bool :=
  match s.curWave, s.curSpindle with
  | some w, _ => (releasePaths scope).all (fun p => w.counter p == 0)
  | none, some p => p.ops.all (fun o => o.drain.isNone)
  | none, none => true

/-- The write-back of R118: the address of a line that could not be written, whose record went to the wave's queue (R127). -/
def State.releaseStep (s : State) (scope : Nat) : Option (BitVec 64) × State :=
  match s.curWave with
  | some w =>
    if scope < scopeCluster then (none, s)
    else
      let (rs, t) := s.releaseLines w.core w.ctx w.ws
      (rs.head?.map sfAddr, rs.foldl (fun t r => match t.curWave with
        | some w => t.pushSf w r
        | none => t) t)
  | none => (none, s)

/-- A release at cluster scope or wider leaves WS and WSAT empty (R118). -/
def State.clearSig (s : State) (scope : Nat) : State := if scope < scopeCluster then s else s.setSig 0 false

/-- The drop of R119 by a signature. -/
def State.acquireDrop (s : State) (scope : Nat) (sig : Sig) (sat : Bool) : State :=
  match s.curWave with
  | some w => if scope < scopeCluster then s else s.acquireLines w.core w.ctx sig sat
  | none => s

/-- Drops every RC line of the context in the core's L1, at cluster scope or wider (R120, R122, R128). -/
def State.acquireEvery (s : State) (scope : Nat) : State :=
  match s.curWave with
  | some w => if scope < scopeCluster then s else s.acquireAll w.core w.ctx
  | none => s

/-- WS and WSAT take what an acquire read, at core scope or wider (R119). -/
def State.mergeSig (s : State) (scope : Nat) (sig : Sig) (sat : Bool) : State :=
  if scope < scopeCore then s
  else
    let (ws, wsat) := s.curSig
    s.setSig (ws ||| sig) (wsat || sat)

/-- An access in flight of the wave touches the line. -/
def State.lineBusy (s : State) (pa : Nat) : Bool :=
  match s.curWave with
  | some w => w.flight.any (fun a => a.elems.any (fun e => e.pa / 128 == pa / 128))
  | none => false

/-- Where the operand of an instruction without lanes lies: its virtual and physical address, or the end of the instruction. -/
inductive Located where
  | found (va : BitVec 64) (pa : Nat) (kind : PageKind) (s : State)
  | ends (r : Res)

/-- Locates the word of an instruction without lanes under R212: b[SA].VB + lane_off, or x[SA] + DISP on the Spindle stream
(R221). -/
def State.locate (s : State) (f : AccForm) (n : Norm) (bytes : Nat) : Located :=
  let off := (if n.x.osel == 1 then (s.srd n.x.sb.toNat).toNat % 2 ^ 32 else 0) + n.x.disp.toNat
  let b := match s.curWave with
    | some w => w.breg n.x.sa.toNat
    | none => BReg.none
  let base := match s.curWave with
    | some _ => b.base
    | none => s.srd n.x.sa.toNat
  let r : Req := { lane := none, off := off, bytes := bytes, mask := allBytes bytes, data := 0, op := .load }
  match s.checkReqs f b base [r] with
  | .ends e => .ends e
  | .ok ((q, p :: _) :: _) _ t =>
    match p.place with
    | .found pa k => .found (q.addr base) pa k t
    | _ => .ends (.done t)
  | .ok _ _ t => .ends (.done t)

/-- rel (R118, R221): SUB 0 merge, 1 fresh, 2 all. -/
def relOp (_r : Row) (n : Norm) (s : State) : Res :=
  match s.scopeIn n with
  | none => .trap s causeIllegalOperand 0 0
  | some sc =>
    match s.locate .release n 8 with
    | .ends r => r
    | .found va pa _ s =>
      if !s.releaseReady sc || s.lineBusy pa then .wait s (.retry 6 true)
      else
        let (v, _, s) := s.cellRead sc va.toNat pa
        if (cellOf v).reserved then .trap s causeSyncCell va 0
        else match s.releaseStep sc with
          | (some a, s) => .trap s causeWriteBack a 0
          | (none, s) =>
            let (ws, wsat) := s.curSig
            let c := (cellOf v).release n.sub (s.srd n.x.d.toNat) ws wsat
            .done ((s.cellWrite sc va.toNat pa c cellMask).clearSig sc)

/-- acq (R119, R128, R221). -/
def acqOp (_r : Row) (n : Norm) (s : State) : Res :=
  match s.scopeIn n with
  | none => .trap s causeIllegalOperand 0 0
  | some sc =>
    match s.locate .acquire n 8 with
    | .ends r => r
    | .found va pa _ s =>
      if s.lineBusy pa then .wait s (.retry 6 true)
      else
        let (v, poison, s) := s.cellRead sc va.toNat pa
        let c := cellOf v
        if poison then .trap (s.acquireEvery sc) causePoison va 0
        else if c.reserved then .trap s causeSyncCell va 0
        else .done (((s.acquireDrop sc c.sig c.sat).mergeSig sc c.sig c.sat).swr n.x.d.toNat c.value)

/-- fence (R122, R222); on the Spindle stream every earlier access has completed (R229). -/
def fenceOp (_r : Row) (n : Norm) (s : State) : Res :=
  match s.scopeIn n with
  | none => .trap s causeIllegalOperand 0 0
  | some sc =>
    if !s.releaseReady sc then .wait s (.retry 6 true)
    else match s.releaseStep sc with
      | (some a, s) => .trap s causeWriteBack a 0
      | (none, s) => .done (s.acquireEvery sc)

/-- fence.un (R113, R222): the UN stores in flight are in the L1 first (DEDUCED, log entry 30). -/
def fenceUnOp (_r : Row) (n : Norm) (s : State) : Res :=
  match s.scopeIn n with
  | none => .trap s causeIllegalOperand 0 0
  | some sc =>
    if !s.releaseReady sc then .wait s (.retry 6 true)
    else match s.curWave with
      | none => .done s
      | some w =>
        if sc < scopeCluster then .done s
        else
          let (rs, t) := s.releaseUn w.core w.ctx
          let t := rs.foldl (fun t r => match t.curWave with
            | some w => t.pushSf w r
            | none => t) t
          match rs with
          | r :: _ => .trap t causeWriteBack (sfAddr r) 0
          | [] => .done (t.dropUn w.core w.ctx)

/-! ## Atomics (R217 to R220) -/

/-- The operand and, for cas, the compare value of a lane. -/
def State.atomOperands (s : State) (w : Wave) (n : Norm) (L : Nat) : BitVec 64 × BitVec 64 :=
  let regs := typeRegs n.x.type.toNat
  let c := n.x.sc.toNat
  if n.sub % 16 == 7 then (s.vget w (c + regs) L regs, s.vget w c L regs) else (s.vget w c L regs, 0)

/-- The requests of an atomic. -/
def State.atomReqs (s : State) (w : Wave) (n : Norm) : List Req :=
  let size := xSize n.x
  s.laneReqs w n size (fun _ => allBytes size) (fun _ => 0)
    (fun L => let (a, cmp) := s.atomOperands w n L
              .rmw (n.sub % 16) n.x.type.toNat a cmp)

/-- An atomic that meets poison at issue performs its other lanes at once, and the trap is taken at the boundary after it
(R220). -/
def atomPoisoned (path : Elem → Nat) (s : State) (w : Wave) (es : List Elem) (dest : Dest) (lanes : BitVec 64) : Res :=
  if !w.flight.isEmpty then .wait s (.retry 10 false)
  else match issueOn path s w es dest lanes [] w.stseq with
    | .done t =>
      let ids : List (Nat × List Elem) := match t.wave? w.core w.slot with
        | some v => v.flight.map (fun a => (a.id, a.elems))
        | none => []
      let u := ids.foldl (fun u a => u.performAll w.core w.slot a.1 a.2) t
      match u.wave? w.core w.slot with
      | some v =>
        match v.poisPend with
        | some (addr, m) => .trapNext (u.setWave { v with poisPend := none }) causePoison addr m
        | none => .done u
      | none => .done u
    | r => r

/-- An element's word is poisoned when the atomic would be performed now: in this die's memory, in its own exported window, or
at a peer that answers so. -/
def State.elemPoisoned (s : State) (w : Wave) (e : Elem) : Bool :=
  if paSpace e.pa != 5 then s.anyPoison e.pa e.bytes
  else if paOff e.pa / 2 ^ 42 == s.ngxIdNum then
    match (s.remote w.ctx e.pa (e.request 0 0 0 0 0 0)).1 with
    | .data _ p => p
    | .refused => false
  else e.bad

/-- Whether a peer's word is poisoned is the peer's: each element of an atomic that goes to one takes it at issue, so that the
trap comes at the boundary after the atomic (R220; DESIGN CHOICE, log entry 8). -/
def State.askPeers (s : State) : List Elem → List Elem × State
  | [] => ([], s)
  | e :: rest =>
    let far := paSpace e.pa == 5 && paOff e.pa / 2 ^ 42 != s.ngxIdNum
    let (l, t) := (if far then { s with free := s.free + 1 } else s).askPeers rest
    ((if far then { e with bad := Config.peerAnswer s.free == 2 } else e) :: l, t)

/-- An atomic performed in the L1 is an RC store there, whatever its page's kind (R218). -/
def Elem.asAtomic (e : Elem) : Elem := if paSpace e.pa ≤ 4 && e.inL1 then { e with kind := .rc } else e

/-- A relaxed atomic. -/
def atomRelaxed (n : Norm) (s : State) (w : Wave) (sc : Nat) : Res :=
  match s.check w .atomic n.x (xScratch n.x) (s.atomReqs w n) with
  | .ends r => r
  | .ok l _ t =>
    let (es, t) := t.askPeers ((elemsOf (xScratch n.x) sc l).map Elem.asAtomic)
    let dest : Dest := .vec n.x.d.toNat (xSize n.x) false
    if es.any (t.elemPoisoned w) then atomPoisoned (fun e => e.path w.core) t w es dest (laneSet w n.x)
    else issueElems t w es dest (laneSet w n.x) [] w.stseq

/-- What the lanes of an ordered atomic have brought so far. -/
structure AtomAcc where
  s : State
  sig : Sig
  sat : Bool

/-- One lane of an ordered atomic on its cell (R118, R119, R219): a cas that fails writes nothing. -/
def atomCell (n : Norm) (w : Wave) (sc : Nat) (rel acq : Bool) (ws : Sig) (wsat : Bool) (acc : AtomAcc)
    (q : Nat × Nat × Nat × BitVec 64 × BitVec 64) : AtomAcc :=
  let (L, va, pa, a, cmp) := q
  let (v, _, s) := acc.s.cellRead sc va pa
  let c := cellOf v
  let s := match rmwNew (n.sub % 16) n.x.type.toNat c.value a cmp with
    | none => s
    | some x =>
      if rel then s.cellWrite sc va pa (c.release (n.sub / 64 % 4) x ws wsat) cellMask
      else s.cellWrite sc va pa (setField v 0 64 x.toNat) 255
  { s := s.vput w n.x.d.toNat L 2 c.value, sig := if acq then acc.sig ||| c.sig else 0, sat := acq && (acc.sat || c.sat) }

/-- The cells of the lanes of an ordered atomic: lane, virtual and physical address, operands. -/
def atomCells (l : List (Req × List Part)) : List (Nat × Nat × Nat × BitVec 64 × BitVec 64) :=
  l.filterMap (fun q => match q.1.lane, q.1.op, q.2 with
    | some L, .rmw _ _ a cmp, p :: _ => match p.place with
      | .found pa _ => some (L, p.va.toNat, pa, a, cmp)
      | _ => none
    | _, _, _ => none)

/-- A marked request completes at once: its record (R285). -/
def State.sampleNow (s : State) (path va space : Nat) : State :=
  s.modCurWave (fun w =>
    if w.sampleMark then
      { w with sampleMark := false,
               sampleRec := some (words4 0 0 (BitVec.ofNat 64 va) (BitVec.ofNat 64 (2 ^ 63 + 16 * space + path))) }
    else w)

/-- An ordered atomic (R219). -/
def atomOrdered (n : Norm) (s : State) (w : Wave) (sc : Nat) : Res :=
  let acq := n.sub / 16 % 2 == 1
  let rel := n.sub / 32 % 2 == 1
  match s.check w .orderedAtomic n.x (xScratch n.x) (s.atomReqs w n) with
  | .ends r => r
  | .ok l _ s =>
    let cells := atomCells l
    if (rel && !s.releaseReady sc) || cells.any (fun q => s.lineBusy q.2.2.1) then .wait s (.retry 6 true)
    else if !cells.isEmpty && w.pathFull 3 then .wait s (.retry 9 false)
    else
      let look (q : Nat × Nat × Nat × BitVec 64 × BitVec 64) : Cell × Bool :=
        let (v, p, _) := s.cellRead sc q.2.1 q.2.2.1
        (cellOf v, p)
      let bad := cells.filter (fun q => (look q).1.reserved)
      let unp := cells.filter (fun q => (look q).2)
      match bad with
      | b :: _ => .trap s causeSyncCell (BitVec.ofNat 64 b.2.1) (maskOf (bad.map (·.1)))
      | [] =>
        match if rel then s.releaseStep sc else (none, s) with
        | (some a, s) => .trap s causeWriteBack a 0
        | (none, s) =>
          let (ws, wsat) := s.curSig
          let good := cells.filter (fun q => !(look q).2)
          let r := good.foldl (atomCell n w sc rel acq ws wsat) { s := s, sig := 0, sat := false }
          let t := if rel then r.s.clearSig sc else r.s
          let t := if acq then
              ((if unp.isEmpty then t else t.acquireEvery sc).acquireDrop sc r.sig r.sat).mergeSig sc r.sig r.sat
            else t
          match unp with
          | u :: _ => .trapNext (t.countDone w 3) causePoison (BitVec.ofNat 64 u.2.1) (maskOf (unp.map (·.1)))
          | [] =>
            match cells with
            | c :: _ => .done ((t.sampleNow 3 c.2.1 (paSpace c.2.2.1)).countDone w 3)
            | [] => .done t

/-- atom (R217 to R220). -/
def atomOp (_r : Row) (n : Norm) (s : State) : Res :=
  match s.scopeIn n, s.curWave with
  | none, _ => .trap s causeIllegalOperand 0 0
  | _, none => .done s
  | some sc, some w => if n.sub / 16 % 4 == 0 then atomRelaxed n s w sc else atomOrdered n s w sc

/-! ## Remote signals (R224) -/

def sigaddOp (_r : Row) (n : Norm) (s : State) : Res :=
  match s.curWave with
  | none => .done s
  | some w =>
    let r := s.scalarReq w n 8 (s.srd n.x.d.toNat).toNat .sig
    match s.check w .signal n.x false [r] with
    | .ends r => r
    | .ok l sf t => issueElems t w (elemsOf false 0 l) .none 0 (sfRecords w (w.stseq + 1) sf) (w.stseq + 1)

/-! ## Hints, base translation, waiting (R226 to R228) -/

/-- The lines of spaces 0 to 4 that lanes touch and that translate with no fault: virtual and physical address, kind. -/
def State.hintLines (s : State) (w : Wave) (n : Norm) : List (Nat × Nat × PageKind) × State :=
  let size := xSize n.x
  let b := w.breg n.x.sa.toNat
  let reqs := (s.laneReqs w n size (fun _ => allBytes size) (fun _ => 0) (fun _ => .load)).filter (fun r => !r.noncanonical b.base)
  let (l, t) := s.placeAll .load b b.base reqs
  let good := l.filter (fun q => q.2.all (fun p => match p.place with
    | .found pa _ => paSpace pa ≤ 4
    | _ => false))
  (good.flatMap (fun q => q.2.flatMap (fun p => match p.place with
    | .found pa _ => (List.range ((pa + p.n - 1) / 128 - pa / 128 + 1)).map (fun i =>
        (p.va.toNat + 128 * i, (pa / 128 + i) * 128, strongest q.2))
    | _ => [])), t)

def prefOp (_r : Row) (n : Norm) (s : State) : Res :=
  match s.curWave with
  | none => .done s
  | some w =>
    let (ls, t) := s.hintLines w n
    .done (ls.foldl (fun t q =>
      if q.2.2 == .so || t.hostDirect q.2.1 then t
      else (t.l1Get w.core w.ctx (q.2.1 / 128) (q.1 % 2 ^ 57 / 128) q.2.2).2) t)

def evictOp (_r : Row) (n : Norm) (s : State) : Res :=
  match s.curWave with
  | none => .done s
  | some w =>
    let (ls, t) := s.hintLines w n
    .done (ls.foldl (fun t q => t.l1Flush w.core w.ctx (q.2.1 / 128)) t)

/-- btrans (R226): a page that is readable, or a user page; LIMIT reaches to the end of the page (DESIGN CHOICE, log entry 11). -/
def btransOp (_r : Row) (n : Norm) (s : State) : Res :=
  match s.curWave with
  | none => .done s
  | some w =>
    let v := s.srd n.x.sa.toNat
    let vb := v.toNat % 2 ^ 57
    if !canonical v then .trap s causeNoncanonical v 0
    else
      let set (b : BReg) (s : State) : Res := .done (s.modCurWave (fun w => { w with b := sput (fun _ => BReg.none) w.b n.x.d.toNat b }))
      let fills (e : TlbEntry) (t : State) : Res :=
        set { valid := true, vb := vb, pb := e.pa v.toNat, limit := min (e.va + e.size - vb) (2 ^ 32 - 1), ord := e.ord, rd := e.r,
              wr := e.w && e.d, usr := e.u } t
      match s.translate w.core w.ctx v.toNat (Need.load false) with
      | (.ok e, t) => fills e t
      | (_, t) =>
        match t.translate w.core w.ctx v.toNat { read := false, write := false, fetch := false, user := true } with
        | (.ok e, u) => fills e u
        | (_, u) => set { BReg.none with vb := vb } u

/-- cwait (R97, R228). -/
def cwaitOp (_r : Row) (n : Norm) (s : State) : Res :=
  match s.curWave with
  | none => .done s
  | some w =>
    let v := (s.srd n.x.d.toNat).toNat
    if 63 ≤ v || w.counter (n.x.disp.toNat % 8) ≤ v then .done s else .wait s (.retry 6 true)

/-! ## Spindle data access (R229) -/

/-- Reads an element of the Spindle stream, which has no L1. -/
def State.spRead (s : State) (p : Spindle) (e : Elem) : Brought × State :=
  match paSpace e.pa with
  | 5 =>
    match s.remoteNow p.ctx e.pa (e.request 0 0 0 0 0 0) with
    | (.data v x, t) => ({ value := v, poison := x, refused := false }, t)
    | (.refused, t) => ({ value := 0, poison := false, refused := true }, t)
  | 6 =>
    let (v, t) := s.coreRead (paOff e.pa) e.bytes
    ({ value := v, poison := s.anyPoison e.pa e.bytes, refused := false }, t)
  | _ =>
    let x := s.anyPoison e.pa e.bytes
    let (v, t) := s.l2Read p.ctx e.pa e.bytes
    ({ value := v, poison := x, refused := false }, t)

/-- Writes an element of the Spindle stream; the refusal of a peer. -/
def State.spWrite (s : State) (p : Spindle) (e : Elem) : Bool × State :=
  match paSpace e.pa with
  | 5 =>
    match s.remoteNow p.ctx e.pa (e.request 1 e.mask e.data.toNat 0 0 0) with
    | (.refused, t) => (true, t)
    | (_, t) => (false, t)
  | 6 => (false, if 128 ≤ paOff e.pa / 2 ^ 20 then s.corePut (paOff e.pa) e.bytes e.data.toNat e.mask
      else s.csWrite (paOff e.pa) e.bytes e.data.toNat e.mask)
  | _ => (false, s.l2Write p.who e.pa e.bytes e.data.toNat e.mask)

/-- The elements of an access of the Spindle stream, or the end of the instruction. -/
inductive SpElems where
  | ok (es : List Elem) (s : State)
  | ends (r : Res)

def State.spElems (s : State) (f : AccForm) (n : Norm) (data : Nat) (op : ElemOp) : SpElems :=
  let r : Req := { lane := none, off := n.x.disp.toNat, bytes := xSize n.x, mask := allBytes (xSize n.x), data := data, op := op }
  match s.checkReqs f BReg.none (s.srd n.x.sa.toNat) [r] with
  | .ends e => .ends e
  | .ok l _ t => .ok (elemsOf false 0 l) t

/-- xld (R229; DEDUCED, log entry 80). -/
def xldOp (_r : Row) (n : Norm) (s : State) : Res :=
  match s.curSpindle with
  | none => .done s
  | some p =>
    match s.spElems { AccForm.load with regs := false } n 0 .load with
    | .ends r => r
    | .ok es s =>
      let (v, mark, s) := es.foldl (fun (acc : Nat × Bool × State) e =>
        let (b, t) := acc.2.2.spRead p e
        let bad := b.poison || b.refused
        let (x, t) := if bad then t.takeBytes e.bytes else (b.value, t)
        let t := if b.refused then t.logSpindle p 0x55 causeRemoteRefused (BitVec.ofNat 64 (e.va.getD 0)) else t
        (acc.1 + x * 2 ^ (8 * e.at_), acc.2.1 || bad, t)) (0, false, s)
      let t := s.swr n.x.d.toNat (BitVec.ofNat 64 (extendBytes v (xSize n.x) (xSigned n.x) 64))
      .done (if mark then t.modCurSpindle (fun q => { q with xMark := setAdd n.x.d.toNat q.xMark }) else t)

/-- xst: a peer's refusal is precise, since the stream has no store-fault queue (R220, R229). -/
def xstOp (_r : Row) (n : Norm) (s : State) : Res :=
  match s.curSpindle with
  | none => .done s
  | some p =>
    match s.spElems { AccForm.store with regs := false, imprecise := false } n (s.srd n.x.d.toNat).toNat .store with
    | .ends r => r
    | .ok es s =>
      let (bad, s) := es.foldl (fun (acc : Option (BitVec 64) × State) e =>
        let (r, t) := acc.2.spWrite p e
        (if r && acc.1.isNone then some (BitVec.ofNat 64 (e.va.getD 0)) else acc.1, t)) (none, s)
      let ws := (es.filter s.signs).foldl (fun g e => sigAdd e.line g) s.curSig.1
      match bad with
      | some a => .trap (s.logSpindle p 0x55 causeRemoteRefused a) causeRemoteRefused a 0
      | none => .done (s.setSig ws s.curSig.2)

end Sys2Proof.Machine
end

