-- ==== Sys2Proof/Machine/SyncOps.lean ====
section
/-! DEFINITION. Block and byte barriers, timelines, token waits, starting a Spindle program, and lending register blocks
(01 R35, R36; 04 R98 to R100; 05 R120; 13 R231 to R236, R241, R244, R245; 20 R313, R314). -/

namespace Sys2Proof.Machine

/-- Causes of class 4 (R335). -/
def causeBarrierSlot : Nat := 0x81
def causeRearrive : Nat := 0x82
def causeByteBarrier : Nat := 0x83
def causeByteOverflow : Nat := 0x84

/-! ## Releases and acquires without a signature (R120) -/

/-- The release of R120 made by an instruction: its waits, with the stall reason they count under, its write-back, and then
the instruction's own effect. -/
def release120 (s : State) (reason scope : Nat) (k : State → Res) : Res :=
  if !s.releaseReady scope then .wait s (.retry reason true)
  else match s.releaseStep scope with
    | (some a, t) => .trap t causeWriteBack a 0
    | (none, t) => k t

/-- The acquire of R120: at cluster scope or wider every RC line is dropped and WSAT is set. -/
def State.acquire120 (s : State) (scope : Nat) : State :=
  if scope < scopeCluster then s else (s.acquireEvery scope).setSig s.curSig.1 true

/-! ## Block barriers (R232, R233) -/

def Block.bar (b : Block) (i : Nat) : BarSlot := sget (fun _ => BarSlot.zero) b.slots i

def Block.setBar (b : Block) (i : Nat) (t : BarSlot) : Block := { b with slots := sput (fun _ => BarSlot.zero) b.slots i t }

/-- A phase completes when the arrival set holds every wave that has not exited, and there is one. -/
def BarSlot.test (alive : BitVec 64) (t : BarSlot) : BarSlot :=
  if alive != 0 && t.arrived &&& alive == alive then { phase := t.phase + 1, arrived := 0 } else t

/-- A wave joins the arrival set of a slot. -/
def Block.arrive (b : Block) (i wid : Nat) : Block :=
  let t := b.bar i
  b.setBar i (BarSlot.test b.alive { t with arrived := t.arrived ||| (1#64 <<< wid) })

/-- A wave that exits leaves the expected count and every arrival set, and completion is tested again. -/
def Block.leave (b : Block) (wid : Nat) : Block :=
  let alive := b.alive &&& ~~~(1#64 <<< wid)
  (List.range b.bars).foldl (fun b i =>
    let t := b.bar i
    b.setBar i (BarSlot.test alive { t with arrived := t.arrived &&& ~~~(1#64 <<< wid) })) { b with alive := alive }

/-- The slot number of bar, bararr and barwait. -/
def barNum (n : Norm) : Nat := n.x.disp.toNat % 32

/-- bar, bararr and barwait once their causes are clear; a wave that has arrived in bar waits on the phase it arrived in. -/
def barrierWork (n : Norm) (s : State) (w : Wave) (b : Block) (sc : Nat) : Res :=
  let i := barNum n
  let now := (b.bar i).phase
  if n.sub == 2 then
    if (s.srd n.x.sa.toNat).setWidth 32 == now then .wait s (.barrier i now sc) else .done (s.acquire120 sc)
  else match w.wait with
    | .barrier _ phase _ => if phase == now then .wait s w.wait else .done (s.acquire120 sc)
    | _ =>
      if (b.bar i).arrived.getLsbD w.wid then .trap s causeRearrive 0 0
      else release120 s 5 sc (fun s =>
        let t := s.modBlock w.launch w.block (fun b => b.arrive i w.wid)
        if n.sub == 1 then .done (t.swr n.x.d.toNat (now.setWidth 64))
        else
          let passed := match t.block? w.launch w.block with
            | some c => (c.bar i).phase != now
            | none => true
          if passed then .done (t.acquire120 sc) else .wait t (.barrier i now sc))

/-- bar, bararr, barwait (R233): SUB 0, 1, 2. -/
def barOp (_r : Row) (n : Norm) (s : State) : Res :=
  match s.scopeIn n, s.curWave with
  | none, _ => .trap s causeIllegalOperand 0 0
  | _, none => .done s
  | some sc, some w =>
    match s.block? w.launch w.block with
    | none => .done s
    | some b => if b.bars ≤ barNum n then .trap s causeBarrierSlot 0 0 else barrierWork n s w b sc

/-! ## Byte barriers (R99, R100, R234) -/

/-- bb_arrive of R100 on the 16 bytes at a Core Store address, at an offset of the scratchpad: the cause it meets, with nothing
changed, or the new state. -/
def State.bbArrive (s : State) (a off : Nat) (n e : Int) : Option Nat × State :=
  let flags := s.cs.readNat (a + 12) 4
  if off % 16 != 0 || 2 ≤ flags then (some causeByteBarrier, s)
  else
    let c := (BitVec.ofNat 64 (s.cs.readNat a 8)).toInt + e - n
    if 2 ^ 48 < c || c < -(2 ^ 48) then (some causeByteOverflow, s)
    else
      let armed := flags == 1 || 0 < e
      let phase := s.cs.readNat (a + 8) 4
      let turn := armed && c == 0
      let v := (BitVec.ofInt 64 c).toNat + 2 ^ 64 * ((if turn then phase + 1 else phase) % 2 ^ 32)
        + (if armed && !turn then 2 ^ 96 else 0)
      (none, { s with cs := s.cs.writeNat a 16 v })

/-- Core Store address of an offset of a block's scratchpad. -/
def Block.scratchAddr (b : Block) (off : Nat) : Nat := b.core * 2 ^ 20 + b.scrBase + off

/-- bbarr and bbwait (R234): SUB 0 and 1 (DEDUCED, log entry 43). -/
def bbOp (r : Row) (n : Norm) (s : State) : Res :=
  match s.scopeIn n, s.curWave with
  | none, _ => .trap s causeIllegalOperand 0 0
  | _, none => .done s
  | some sc, some w =>
    match s.block? w.launch w.block with
    | none => .done s
    | some b =>
      let off := (s.srd n.x.sa.toNat).toNat % 2 ^ 32
      let a := b.scratchAddr off
      let last := s.scalOpnd n (r.opnds n.accum).2.2.2 n.x.sc
      let poison := s.anyPoison (6 * 2 ^ 48 + a) 16
      if n.sub == 0 then
        let cnt := (s.srd n.x.sb.toNat).toInt
        let e := last.toInt
        if cnt < 0 || 2 ^ 48 < cnt || e < 0 || 2 ^ 48 < e then .trap s causeIllegalOperand 0 0
        else if b.scrSize < off + 16 then .trap s causeScratchRange 0 0
        else if poison then .trap s causePoison (BitVec.ofNat 64 off) 0
        else match s.bbArrive a off cnt e with
          | (some c, _) => .trap s c 0 0
          | (none, _) => release120 s 5 sc (fun s => .done (s.bbArrive a off cnt e).2)
      else if b.scrSize < off + 16 then .trap s causeScratchRange 0 0
      else if poison then .trap (s.acquireEvery sc) causePoison (BitVec.ofNat 64 off) 0
      else if off % 16 != 0 || 2 ≤ s.cs.readNat (a + 12) 4 then .trap s causeByteBarrier 0 0
      else if s.cs.readNat (a + 8) 4 == last.toNat % 2 ^ 32 then .wait s (.retry 5 true)
      else .done (s.acquire120 sc)

/-! ## Timelines (R235, R236, R313, R314) -/

/-- How the timeline instructions check their cell: all precisely (R235, R236). -/
def AccForm.timeline (wait : Bool) : AccForm :=
  if wait then { AccForm.load with regs := false } else { AccForm.atomic with natural := false }

/-- Waiter slots a context may hold (R303). -/
def State.waiterMax (s : State) (c : Nat) : Nat :=
  let n := s.ctlField (.ctxCtl c) 22 10
  if n == 0 then 1024 else n

/-- A request for a waiter slot can be granted: a slot is free, and its context is below its limit (R313). -/
def State.mayGrant (s : State) (t : Waiter) : Bool :=
  let held := s.waiters.filter (fun u => u.index.isSome)
  t.index.isNone && held.length < 1024 && (held.filter (fun u => u.ctx == t.ctx)).length < s.waiterMax t.ctx

/-- The lowest free waiter slot. -/
def State.freeWaiter (s : State) : Option Nat :=
  (List.range 1024).find? (fun i => !s.waiters.any (fun u => u.index == some i))

/-- The oldest request that can be granted takes a free slot, and is released at once when VALUE has reached its threshold. -/
def State.grantWaiter (s : State) : State :=
  match s.waiters.find? s.mayGrant, s.freeWaiter with
  | some t, some i =>
    let s := { s with waiters := s.waiters.map (fun (u : Waiter) => if u.order == t.order then { u with index := some i } else u) }
    let (v, s) := s.l2Read t.ctx t.pa 8
    if t.threshold.toNat ≤ v then s.releaseWaiter t else s
  | _, _ => s

/-- tlinc and tlset on the cell at a physical address, by an accessor: the new VALUE, and WRAPS when a sum passed 2^64. -/
def State.timelineWrite (s : State) (who : Who) (va pa : Nat) (inc : Bool) (a : BitVec 64) : State :=
  if !inc then s.l2Put who pa 8 a.toNat
  else
    let (v, s) := s.l2Read who.ctx pa 12
    let sum := v % 2 ^ 64 + a.toNat
    if sum < 2 ^ 64 then s.l2Put who pa 8 sum
    else
      (s.l2Put who pa 12 (sum % 2 ^ 64 + 2 ^ 64 * ((v / 2 ^ 64 + 1) % 2 ^ 32))).logCtx who.buf 0x4D who.ctx who.slot
        causeTimelineWrap (BitVec.ofNat 64 va)

/-- The acquire that completes tlwait. -/
def tlwaitDone (s : State) (sc : Nat) : Res := .done ((s.acquire120 sc).modCurWave (fun w => { w with tlrel := none }))

/-- tlinc, tlset, tlwait on their located cell: SUB 0, 1, 2. -/
def timelineWork (n : Norm) (s : State) (w : Wave) (sc : Nat) (va : BitVec 64) (pa : Nat) : Res :=
  let a := s.srd n.x.d.toNat
  if va.toNat % 16 != 0 || 4 < paSpace pa then .trap s causeTimelineCell va 0
  else if s.lineBusy pa then .wait s (.retry 6 true)
  else
    let s := s.l1Flush w.core w.ctx (pa / 128)
    if s.anyPoison pa 16 then .trap (if n.sub == 2 then s.acquireEvery sc else s) causePoison va 0
    else
      let (v, s) := s.l2Read w.ctx pa 16
      if v / 2 ^ 96 != 0 then .trap s causeTimelineCell va 0
      else if n.sub != 2 then
        release120 s 6 sc (fun s => .done (s.timelineWrite w.who va.toNat pa (n.sub == 0) a))
      else if a.toNat ≤ v % 2 ^ 64 then tlwaitDone s sc
      else
        let t : Waiter := { index := none, core := w.core, slot := w.slot, ctx := w.ctx, va := va.toNat, pa := pa, threshold := a,
                            order := s.order }
        let s := { s with waiters := s.waiters ++ [t], order := s.order + 1 }
        .wait ((s.setWait (.timeline false sc)).grantWaiter) (.timeline false sc)

/-- tlinc, tlset, tlwait (R236): a wave released in tlwait, or saved as released, completes without reading VALUE (R314). -/
def timelineOp (_r : Row) (n : Norm) (s : State) : Res :=
  match s.scopeIn n, s.curWave with
  | none, _ => .trap s causeIllegalOperand 0 0
  | _, none => .done s
  | some sc, some w =>
    match w.wait with
    | .timeline true _ => tlwaitDone s sc
    | .timeline false _ => .wait s w.wait
    | _ =>
      if n.sub == 2 && w.tlrel == some w.pc then tlwaitDone s sc
      else match s.locate (AccForm.timeline (n.sub == 2)) n 16 with
        | .ends r => r
        | .found va pa _ t => timelineWork n t w sc va pa

/-! ## Copy tokens (R98, R241) -/

def Wave.token (w : Wave) (t : Nat) : Token := sget (fun _ => Token.idle) w.tok t

def Wave.setToken (w : Wave) (t : Nat) (x : Token) : Wave := { w with tok := sput (fun _ => Token.idle) w.tok t x }

/-- A token is busy, or stopped at a suspension. -/
def Token.busy (t : Token) : Bool := t.state == 1 || t.state == 3

def twaitOp (_r : Row) (n : Norm) (s : State) : Res :=
  match s.curWave with
  | none => .done s
  | some w =>
    if (List.range 8).any (fun i => bit n.x.disp.toNat i && (w.token i).busy) then .wait s (.retry 6 true) else .done s

/-! ## Starting a Spindle program (R68, R244, R310) -/

/-- Requests of a cluster in order of grant: the highest issue priority, then the earliest. -/
def State.spnBest (s : State) (cl : Nat) : Option SpnReq :=
  (s.spnReqs.filter (fun q => q.cluster == cl)).foldl (fun o q => match o with
    | none => some q
    | some p => if p.prio < q.prio || (p.prio == q.prio && q.order < p.order) then some q else some p) none

/-- A wave's request, made on its first wait. -/
def State.spnRequest (s : State) (w : Wave) : State :=
  if s.spnReqs.any (fun q => q.core == w.core && q.slot == w.slot) then s
  else { s with spnReqs := s.spnReqs ++ [{ cluster := w.core / 4, core := w.core, slot := w.slot, prio := w.prio, order := s.order }],
                order := s.order + 1 }

def State.dropSpnRequest (s : State) (core slot : Nat) : State :=
  { s with spnReqs := s.spnReqs.filter (fun q => !(q.core == core && q.slot == slot)) }

/-- spnrun (R68, R244; DEDUCED, log entry 44). -/
def spnrunOp (_r : Row) (n : Norm) (s : State) : Res :=
  match s.curWave with
  | none => .done s
  | some w =>
    let entry := s.srd n.x.sa.toNat
    let cl := w.core / 4
    if entry % 4 != 0 then .trap s causeMisalignedPc 0 0
    else if !canonical entry then .trap s causeNoncanonical entry 0
    else release120 s 6 scopeCluster (fun s =>
      let s := s.spnRequest w
      let mine := match s.spnBest cl with
        | some q => q.core == w.core && q.slot == w.slot
        | none => false
      if (s.spindle? cl).isSome || !mine then .wait s (.retry 6 true)
      else
        let p := Spindle.enter cl w.ctx w.launch w.block w.blk w.prio entry (s.srd n.x.sb.toNat)
        let s := s.dropSpnRequest w.core w.slot
        .done { s with spindles := s.spindles ++ [p] })

/-! ## Register blocks (R35, R36, R245) -/

/-- Acts for another wave and returns to the agent. -/
def State.forWave (s : State) (core slot : Nat) (f : State → State) : State :=
  let t := f { s with cur := .wave core slot }
  { t with cur := s.cur }

/-- Clears n bytes of a Core Store: their marks and their poison go with them. -/
def State.clearStore (s : State) (a n : Nat) : State :=
  { s with cs := s.cs.clear a n, csMark := s.csMark.filter (fun k => 4 * k < a || a + n ≤ 4 * k),
           poison := s.poison.filter (fun g => let p := 6 * 2 ^ 48 + a; 32 * g < p || p + n ≤ 32 * g) }

/-- Clears the store blocks of a wave's core. -/
def State.clearBlocks (s : State) (core : Nat) (blocks : List Nat) : State :=
  blocks.foldl (fun s b => s.clearStore (core * 2 ^ 20 + 2048 * b) 2048) s

/-- What a wave waiting in regclaim asks for. -/
def Wave.claimed (w : Wave) : Option Nat :=
  match w.wait with
  | .claim n => some n
  | _ => none

/-- The claim at the head of a block's order can be granted. -/
def State.claimGrantable (s : State) (b : Block) : Bool :=
  match b.claims with
  | [] => false
  | wid :: _ => (s.wavesOf b.launch b.index).any (fun w => w.wid == wid && (match w.claimed with
      | some n => n ≤ b.pool.length
      | none => false))

/-- Every wave of a block that has not exited waits in regclaim, and none can be granted: each traps (R36). -/
def State.claimDeadlock (s : State) (launch block : Nat) : State :=
  match s.block? launch block with
  | none => s
  | some b =>
    let all := (List.range 64).filter (fun i => b.alive.getLsbD i)
    if b.claims.isEmpty || s.claimGrantable b || !all.all (fun i => b.claims.contains i) then s
    else
      let s := s.setBlock { b with claims := [] }
      (s.wavesOf launch block).foldl (fun s w =>
        if w.claimed.isSome then
          s.forWave w.core w.slot (fun s => (s.takeTrap causeClaimDeadlock w.pc 0 0).settle)
        else s) s

/-- Grants the oldest waiting claim of a block: the blocks that entered the pool earliest, appended in that order and
cleared (R35). The wave completes its regclaim when it issues again. -/
def State.grantClaim (s : State) (launch block : Nat) : State :=
  match s.block? launch block with
  | none => s
  | some b =>
    match b.claims with
    | [] => s
    | wid :: rest =>
      match (s.wavesOf launch block).find? (fun w => w.wid == wid) with
      | none => s
      | some w =>
        match w.claimed with
        | none => s
        | some n =>
          if b.pool.length < n then s
          else
            let s := s.setBlock { b with claims := rest, pool := b.pool.drop n }
            let s := s.clearBlocks w.core (b.pool.take n)
            s.modWave w.core w.slot (fun v => { v with blocks := v.blocks ++ b.pool.take n, wait := .claim 0 })

/-- regsurrender and regclaim use only an n of 1 to 31 that leaves the wave 1 to 32 blocks (DEDUCED, log entry 42). -/
def regsurrenderOp (_r : Row) (n : Norm) (s : State) : Res :=
  match s.curWave with
  | none => .done s
  | some w =>
    let k := n.x.disp.toNat
    let keep := w.blocks.length - k
    let gone := w.blocks.drop keep
    let under (e : Elem) : Bool := paSpace e.pa == 6 && gone.any (fun g =>
      let a := w.core * 2 ^ 20 + 2048 * g
      a < paOff e.pa + e.bytes && paOff e.pa < a + 2048)
    if k == 0 || 31 < k || w.blocks.length < k + 1 then .trap s causeIllegalOperand 0 0
    else if w.flight.any (fun a => !a.done && (match a.dest with
        | .vec reg bytes _ => 8 * keep < reg + (bytes + 3) / 4 || a.elems.any under
        | _ => a.elems.any under)) then .wait s (.retry 10 true)
    else
      let s := s.modBlock w.launch w.block (fun b => { b with pool := b.pool ++ gone.reverse })
      let inGone (key : Nat) : Bool := gone.any (fun g => let a := w.core * 2 ^ 20 + 2048 * g; a ≤ 4 * key && 4 * key < a + 2048)
      let s := { s with csMark := s.csMark.filter (fun key => !inGone key) }
      .done (s.modCurWave (fun w => { w with blocks := w.blocks.take keep }))

/-- regclaim: a claim is made once, waits its turn in its block, and completes after its grant. -/
def regclaimOp (_r : Row) (n : Norm) (s : State) : Res :=
  match s.curWave with
  | none => .done s
  | some w =>
    let k := n.x.disp.toNat
    match w.wait with
    | .claim 0 => .done s
    | .claim _ => .wait s w.wait
    | _ =>
      if k == 0 || 31 < k || 32 < w.blocks.length + k then .trap s causeIllegalOperand 0 0
      else
        let s := s.modBlock w.launch w.block (fun b => { b with claims := b.claims ++ [w.wid] })
        let s := (s.setWait (.claim k)).grantClaim w.launch w.block
        match s.curWave with
        | some v =>
          if v.wait == .claim 0 then .done s
          else
            let t := s.claimDeadlock w.launch w.block
            .wait t ((t.curWave.map (·.wait)).getD .ready)
        | none => .done s

end Sys2Proof.Machine
end

