-- ==== Sys2Proof/Machine/Slots.lean ====
section
/-! DEFINITION. Operand slots of the Spindle cores, and the slot store (03 R70, R71; 12 R225). -/

namespace Sys2Proof.Machine

/-- Causes of class 7 met by slots (R335). -/
def causeSlotState : Nat := 0xE1
def causeSlotOverfill : Nat := 0xE2

def Spindle.slot (p : Spindle) (i : Nat) : OSlot := sget (fun _ => OSlot.free) p.slots i

def Spindle.setSlot (p : Spindle) (i : Nat) (o : OSlot) : Spindle := { p with slots := sput (fun _ => OSlot.free) p.slots i o }

/-- Address of a slot's contents in the Operand Memories. -/
def slotAddr (cl i : Nat) : Nat := cl * 2 ^ 20 + 16384 * i

/-- The first n bytes of a slot: what accepted writes brought, and free values (R70; DESIGN CHOICE, log entry 8). -/
def State.slotBytes (s : State) (p : Spindle) (i n : Nat) : Nat :=
  let o := p.slot i
  let v := s.om.readNat (slotAddr p.cluster i) n
  if o.written.toNat % 2 ^ n == 2 ^ n - 1 then v
  else
    let m := byteMask o.written.toNat n
    let open_ := (List.range n).foldr (fun k a => (Config.freeByte (o.fresh + k)).toNat + 256 * a) 0
    (v &&& m) ||| (open_ &&& (2 ^ (8 * n) - 1 - m))

/-- How a write into a slot ends. -/
inductive SlotWrite where
  | done (s : State)
  | cause (c : Nat)
  | waits

/-- The state of a slot after an accepted write of n bytes (R70). -/
def OSlot.accept (o : OSlot) (n : Nat) (pieces : List (Nat × Nat × Nat)) : OSlot :=
  { o with count := o.count + n, state := if o.count + n == o.size then .ready else .filling,
           written := pieces.foldl (fun m (q : Nat × Nat × Nat) => m ||| (BitVec.ofNat 16384 (2 ^ q.2.1 - 1) <<< q.1)) o.written }

/-- Bytes of a piece that lie in a slot's 16 KiB. -/
def pieceRoom (q : Nat × Nat × Nat) : Nat := min q.2.1 (16384 - q.1)

/-- One write into slot i of a cluster, as pieces of an offset, a length and a value, later pieces over earlier ones (R71). A
byte past the slot's 16 KiB has no place and is dropped (DEDUCED, log entry 58). -/
def State.slotWrite (s : State) (ctx cl i : Nat) (pieces : List (Nat × Nat × Nat)) : SlotWrite :=
  match s.spindle? cl with
  | none => .cause causeSlotState
  | some p =>
    let o := p.slot i
    let n : Nat := pieces.foldl (fun a (q : Nat × Nat × Nat) => a + q.2.1) 0
    if p.ctx != ctx || o.state == .free then .cause causeSlotState
    else if o.state == .ready || o.state == .inUse then .waits
    else if o.size < o.count + n then .cause causeSlotOverfill
    else
      .done (({ s with om := pieces.foldl (fun m (q : Nat × Nat × Nat) => m.writeNat (slotAddr cl i + q.1) (pieceRoom q) (q.2.2 % 2 ^ (8 * pieceRoom q))) s.om }).modSpindle cl
        (fun p => p.setSlot i (o.accept n pieces)))

/-- ostore: one write of the lanes' bytes, lanes ascending (R225) (DEDUCED, log entry 58). -/
def ostoreOp (_r : Row) (n : Norm) (s : State) : Res :=
  match s.curWave with
  | none => .done s
  | some w =>
    let i := n.x.sa.toNat
    let size := xSize n.x
    if i / 16 != w.core % 4 then .trap s causeIllegalOperand 0 0
    else if w.pathFull 2 then .wait s (.retry 9 false)
    else
      let lanes := lanesOf (laneSet w n.x)
      let pieces := lanes.map (fun L => (s.laneOff w n.x size L, size, s.storeData w n size L))
      let bound := match s.spindle? (w.core / 4) with
        | some p => (p.slot i).size
        | none => 0
      let past := lanes.filter (fun L => bound < s.laneOff w n.x size L + size)
      match s.slotWrite w.ctx (w.core / 4) i pieces with
      | .waits => .wait s (.retry 8 true)
      | .cause c => .trap s c 0 (maskOf (if c == causeSlotOverfill then past else []))
      | .done t =>
        if !past.isEmpty then .trap s causeSlotOverfill 0 (maskOf past)
        else .done ((t.modCurWave (fun w => { w with stseq := w.stseq + 1 })).countDone w 2)

end Sys2Proof.Machine
end

