-- ==== Sys2Proof/Machine/Engine.lean ====
section
/-! DEFINITION. What the engines share: reads and writes of memory in a context, handles, layout records, range locks, and the
lines they drop (04 R101 to R106; 05 R124, R125; 21 R327). -/

namespace Sys2Proof.Machine

/-- Causes of class 5 (R335). -/
def causeHandleStale : Nat := 0xA1
def causeHandleType : Nat := 0xA2
def causeLayout : Nat := 0xA3
def causeCopyOperand : Nat := 0xA4
def causeCopySpace : Nat := 0xA5

/-! ## Places in memory -/

/-- Bytes on one page: virtual and physical address of the first, how many, page kind. -/
structure Piece where
  va : BitVec 64
  pa : Nat
  n : Nat
  kind : PageKind
  deriving DecidableEq, Repr

/-- What placing the bytes of an engine's access gives. -/
inductive Placed where
  | ok (l : List Piece) (s : State)
  | cause (c : Nat) (a : BitVec 64) (s : State)
  | missing (first cow : Bool) (a : BitVec 64) (s : State)

/-- n bytes from an address cut at a page boundary. -/
def pageCuts (va : BitVec 64) (n : Nat) : List (BitVec 64 × Nat) :=
  let k := min n (4096 - va.toNat % 4096)
  if k == n then [(va, n)] else [(va, k), (va + BitVec.ofNat 64 k, n - k)]

/-- Places an engine's bytes for a context: a reply of STATUS 1 stands for the walk of its page, and `bad` names the cause of
a frame that the engine may not reach. -/
def State.enginePlace (s : State) (core c : Nat) (need : Need) (answers : List Answer) (bad : State → Nat → Nat → Option Nat) :
    List (BitVec 64 × Nat) → Placed
  | [] => .ok [] s
  | (va, n) :: rest =>
    if !canonical va then .cause causeNoncanonical va s
    else match answers.find? (fun a => a.page == va.toNat % 2 ^ 57 / 4096) with
      | some a => .cause a.cause va s
      | none =>
        match s.translate core c va.toNat need with
        | (.missing first, t) => .missing first false va t
        | (.cow, t) => .missing false true va t
        | (.cause k, t) => .cause k va t
        | (.ok e, t) =>
          let pa := e.pa va.toNat
          match (match bad t pa n with
            | some k => some k
            | none => t.frameCause c pa need.user) with
          | some k => .cause k va t
          | none =>
            match State.enginePlace t core c need answers bad rest with
            | .ok l u => .ok ({ va := va, pa := pa, n := n, kind := kindAt pa e.ord } :: l) u
            | r => r

/-- A supervisor read of a descriptor, a queue or a task record reaches no device register, and only owned Core Store bytes. -/
def plainBad (c : Nat) (s : State) (pa n : Nat) : Option Nat :=
  if paSpace pa == 7 then some causeDeviceControl
  else if paSpace pa == 6 && s.targetExists c pa && !s.storeHeldAll c pa n then some causeCoreWindow
  else none

/-- Reads placed bytes, in order: at the L2, in a Core Store, or at a peer (R85, R87); whether a peer refused, or answered with
poison (R220). -/
def State.engineRead (s : State) (c : Nat) : List Piece → Nat × Bool × State
  | [] => (0, false, s)
  | p :: rest =>
    let (v, bad, t) : Nat × Bool × State :=
      match paSpace p.pa with
      | 5 =>
        match s.remoteNow c p.pa { op := 0, key := 0, off := 0, bytes := p.n, mask := 0, data := 0, type := 0, a := 0, cmp := 0 } with
        | (.data v x, t) => (v, x, t)
        | (.refused, t) => (0, true, t.logCtx bufSched 0x55 c 0x7F causeRemoteRefused p.va)
      | 6 => let (v, t) := s.coreRead (paOff p.pa) p.n; (v, false, t)
      | _ => let (v, t) := s.l2Read c p.pa p.n; (v, false, t)
    let (r, b, u) := State.engineRead t c rest
    (v + 2 ^ (8 * p.n) * r, bad || b, u)

/-- A placed byte is poisoned. -/
def State.piecesPoisoned (s : State) (l : List Piece) : Option (BitVec 64) :=
  (l.find? (fun p => paSpace p.pa != 5 && s.anyPoison p.pa p.n)).map (·.va)

/-- What a read of n bytes gives. -/
inductive DevRead where
  | data (v : Nat) (s : State)
  | cause (c : Nat) (a : BitVec 64) (s : State)
  | missing (first : Bool) (a : BitVec 64) (s : State)

/-- A supervisor read of n bytes in a context, at the L2. -/
def State.devRead (s : State) (core c : Nat) (answers : List Answer) (va : BitVec 64) (n : Nat) (need : Need) : DevRead :=
  match s.enginePlace core c need answers (plainBad c) (pageCuts va n) with
  | .cause k a t => .cause k a t
  | .missing f _ a t => .missing f a t
  | .ok l t =>
    match t.piecesPoisoned l with
    | some a => .cause causePoison a t
    | none =>
      match t.engineRead c l with
      | (v, false, u) => .data v u
      | (_, true, u) => .cause causePoison va u

/-- Writes n bytes at the places of an engine's access; a peer that refuses keeps its bytes, and the refusal is logged. -/
def State.engineWrite (s : State) (who : Who) (v : Nat) : List Piece → State
  | [] => s
  | p :: rest =>
    let t := match paSpace p.pa with
      | 5 =>
        match s.remoteNow who.ctx p.pa { op := 1, key := 0, off := 0, bytes := p.n, mask := 2 ^ p.n - 1, data := v % 2 ^ (8 * p.n),
                                         type := 0, a := 0, cmp := 0 } with
        | (.refused, t) => t.logCtx who.buf 0x55 who.ctx who.slot causeRemoteRefused p.va
        | (_, t) => t
      | 6 => if 128 ≤ paOff p.pa / 2 ^ 20 then s.corePut (paOff p.pa) p.n v (2 ^ p.n - 1) else s.csWrite (paOff p.pa) p.n v (2 ^ p.n - 1)
      | _ => s.l2Put who p.pa p.n v
    State.engineWrite t who (v / 2 ^ (8 * p.n)) rest

/-! ## Handles (R101, R102) -/

/-- Replies held by the agent for its re-execution (R328). -/
def State.curAnswers (s : State) : List Answer :=
  match s.curWave, s.curSpindle with
  | some w, _ => w.answers
  | _, some p => p.answers
  | _, _ => []

/-- A handle's object, or the end of the instruction. -/
inductive Handle where
  | ok (r : BitVec 512) (s : State)
  | ends (r : Res)

/-- Reads the n bytes of a descriptor-table entry or an object at an address, cached by context (R101, R102). -/
def State.descRead (s : State) (va : BitVec 64) (n : Nat) (k : BitVec 512 → State → Handle) : Handle :=
  let key := 2 * va.toNat + (if n == 64 then 1 else 0)
  match s.descs.find? (fun e => e.1 == s.curCtx && e.2.1 == key) with
  | some (_, _, v) => k v s
  | none =>
    match s.devRead s.curCore s.curCtx s.curAnswers va n (Need.load false) with
    | .cause c a t => .ends (.trap t c a 0)
    | .missing first a t =>
      .ends (t.meetMissing [{ page := a.toNat % 2 ^ 57 / 4096, write := false, cow := false, first := first, lanes := 0,
                              addr := a, access := 1 }] a 0)
    | .data v t => k (BitVec.ofNat 512 v) { t with descs := (s.curCtx, key, BitVec.ofNat 512 v) :: t.descs }

/-- Checks a handle and reads its object (R101). -/
def State.handle (s : State) (h : BitVec 64) (want : Nat) : Handle :=
  let slot := h.toNat % 2 ^ 20
  let gen := h.toNat / 2 ^ 20 % 4096
  let c := s.curCtx
  let log := s.ctlField (.dtab c) 0 5
  if 20 < log || 2 ^ log ≤ slot then .ends (.trap s causeHandleStale 0 0)
  else s.descRead (sext57 (s.ctlField (.dtab c) 12 45 * 4096) + BitVec.ofNat 64 (16 * slot)) 16 (fun e s =>
    let hdr := recBytes e 0 4
    if field hdr 20 12 != gen || hdr % 16 == 0 || field hdr 4 16 != 0 || recBytes e 4 4 != 0 then
      .ends (.trap s causeHandleStale 0 0)
    else if hdr % 16 != want then .ends (.trap s causeHandleType 0 0)
    else s.descRead (BitVec.ofNat 64 (recBytes e 8 8)) 64 (fun o s => .ok o s))

/-! ## Layout records (R103, R104) -/

/-- The fields of a layout record. -/
structure Layout where
  base : Nat
  dims : Nat × Nat × Nat
  kind : Nat
  eszlog : Nat
  tlog : Nat
  rowk : Nat
  fmt : Nat
  stride1 : Nat
  stride2 : Nat
  box : Nat × Nat × Nat
  deriving DecidableEq, Repr

def Layout.of (r : BitVec 512) : Layout :=
  let c := recBytes r 20 4
  { base := recBytes r 0 8, dims := (recBytes r 8 4, recBytes r 12 4, recBytes r 16 4), kind := field c 0 2,
    eszlog := field c 2 3, tlog := field c 5 3, rowk := field c 8 8, fmt := field c 16 5, stride1 := recBytes r 24 8,
    stride2 := recBytes r 32 8, box := (recBytes r 40 2, recBytes r 42 2, recBytes r 44 2) }

/-- Element size in bytes. -/
def Layout.esz (l : Layout) : Nat := 2 ^ l.eszlog

/-- A record that raises layout-record whatever uses it (R83, R103, R104). -/
def layoutBad (r : BitVec 512) : Bool :=
  let l := Layout.of r
  let two := l.kind == 2
  recBytes r 20 4 / 2 ^ 21 != 0 || recBytes r 46 2 != 0 || recBytes r 48 16 != 0 || l.kind == 3
    || (if two then l.eszlog != 5 else 4 < l.eszlog)
    || (if l.kind == 1 then l.tlog == 0 || l.tlog == 7 else l.tlog != 0)
    || (if two then l.rowk < 4 || !([0, 2, 3, 31].contains l.fmt) else l.rowk != 0 || l.fmt != 0)
    || l.dims.1 == 0 || l.dims.2.1 == 0 || l.dims.2.2 == 0 || l.box.1 == 0 || l.box.2.1 == 0 || l.box.2.2 == 0
    || l.base % l.esz != 0 || (two && (l.dims.2.2 != 1 || l.box.2.2 != 1))

/-- x in the even bits and y in the odd bits of 2n bits (R104). -/
def interleave (x y : Nat) : Nat → Nat
  | 0 => 0
  | n + 1 => x % 2 + 2 * (y % 2) + 4 * interleave (x / 2) (y / 2) n

/-- element_address of R104. -/
def Layout.addr (l : Layout) (x y z : Nat) : Nat :=
  match l.kind with
  | 1 =>
    let t := 2 ^ l.tlog
    l.base + l.stride1 * (y / t) + l.esz * 4 ^ l.tlog * (x / t) + l.esz * interleave (x % t) (y % t) l.tlog + l.stride2 * z
  | 2 => l.base + 32 * x + l.stride1 * y
  | _ => l.base + l.esz * x + l.stride1 * y + l.stride2 * z

/-- An element lies within the record's dimensions. -/
def Layout.inside (l : Layout) (x y z : Nat) : Bool := x < l.dims.1 && y < l.dims.2.1 && z < l.dims.2.2

/-- Rows of a range that can hold its least or greatest address: its ends, and the edges of the tile rows inside it. -/
def Layout.edgeRows (l : Layout) (lo hi : Nat) : List Nat :=
  let t := 2 ^ l.tlog
  if l.kind != 1 then [lo, hi] else [lo, hi, hi / t * t - 1, (lo / t + 1) * t].filter (fun y => lo ≤ y && y ≤ hi)

/-- The bounding virtual range of a box from an origin, of its elements within the dimensions (R105). -/
def Layout.bound (l : Layout) (x0 y0 z0 : Nat) : Option (Nat × Nat) :=
  let x1 := min (x0 + l.box.1) l.dims.1
  let y1 := min (y0 + l.box.2.1) l.dims.2.1
  let z1 := min (z0 + l.box.2.2) l.dims.2.2
  if x1 ≤ x0 || y1 ≤ y0 || z1 ≤ z0 then none
  else
    let as := (l.edgeRows y0 (y1 - 1)).flatMap (fun y => [l.addr x0 y z0, l.addr (x1 - 1) y z0, l.addr x0 y (z1 - 1), l.addr (x1 - 1) y (z1 - 1)])
    some (as.foldl min (as.headD 0), as.foldl max 0 + l.esz)

/-! ## Range locks (R105) -/

/-- Entries of a cluster's table. -/
def State.lockCount (s : State) (cl : Nat) : Nat := (s.locks.filter (fun l => l.cluster == cl)).length

/-- Core Store bytes that n pages from a virtual page cover, in whole runs of 128 bytes. -/
def State.coreBytes (s : State) (core c lo hi : Nat) : Nat → Nat → List (Nat × Nat)
  | 0, _ => []
  | n + 1, page =>
    let rest := State.coreBytes s core c lo hi n (page + 1)
    match (s.translate core c (4096 * page) { read := false, write := false, fetch := false, user := false }).1 with
    | .ok e =>
      let pa := e.pa (4096 * page)
      if paSpace pa == 6 then
        let a := max lo (4096 * page) - 4096 * page
        let b := min hi (4096 * page + 4096) - 4096 * page
        ((paOff pa + a) / 128 * 128, (paOff pa + b + 127) / 128 * 128) :: rest
      else rest
    | _ => rest

/-- The entry of a range, rounded out to whole lines. -/
def State.makeLock (s : State) (cl c lo hi : Nat) (dest : Bool) (owner : Option (Nat × Nat × Nat)) : RangeLock :=
  let len := (hi + 127) / 128 * 128 - lo / 128 * 128
  let lo := lo / 128 * 128 % 2 ^ 57
  let hi := lo + len
  { cluster := cl, ctx := c, lo := lo, hi := hi, dest := dest,
    store := s.coreBytes (4 * cl) c lo hi ((hi + 4095) / 4096 - lo / 4096) (lo / 4096), owner := owner }

/-- Removes the entries of an owner. -/
def State.unlock (s : State) (cl : Nat) (owner : Option (Nat × Nat × Nat)) : State :=
  { s with locks := s.locks.filter (fun l => !(l.cluster == cl && l.owner == owner)) }

/-! ## Lines (R124, R125) -/

/-- WS with every line of an RC destination range; a page that is not mapped counts as RC. -/
def State.destSig (s : State) (core c lo hi : Nat) (user : Bool) (ws : Sig) : Sig :=
  let line := lo / 128
  (List.range ((hi + 127) / 128 - line)).foldl (fun g i =>
    let kind := match (s.translate core c (128 * (line + i)) { read := false, write := false, fetch := false, user := user }).1 with
      | .ok e => kindAt (e.pa (128 * (line + i))) e.ord
      | _ => .rc
    if kind == .rc then sigAdd ((line + i) % 2 ^ 50) g else g) ws

/-- The bytes an engine has written, as a byte mask for each physical line. -/
def noteWritten (m : List (Nat × BitVec 128)) : List Piece → List (Nat × BitVec 128)
  | [] => m
  | p :: rest =>
    let o := p.pa % 128
    let k := min p.n (128 - o)
    let put (m : List (Nat × BitVec 128)) (line o k : Nat) : List (Nat × BitVec 128) :=
      if k == 0 then m
      else sput (fun _ => 0) m line (sget (fun _ => 0) m line ||| BitVec.ofNat 128 ((2 ^ k - 1) * 2 ^ o))
    noteWritten (put (put m (p.pa / 128) o k) (p.pa / 128 + 1) 0 (p.n - k)) rest

/-- Drops from the L1s of a cluster every line that holds a byte an engine wrote: its dirty bytes there are discarded, its
other dirty bytes written back (R124). -/
def State.dropWritten (s : State) (cl : Nat) (m : List (Nat × BitVec 128)) : State :=
  (s.l1.filter (fun l => l.core / 4 == cl && m.any (fun q => q.1 == l.pline))).foldl (fun s l =>
    let l' := { l with dirty := l.dirty &&& ~~~(sget (fun _ => 0#128) m l.pline) }
    (s.l1Set l').evictLine l') s

/-- Every load of the cluster's cores issued before a copy or a drain registered its range has completed: what the drop at its
end waits for (R124). -/
def State.loadsPast (s : State) (cl since : Nat) : Bool :=
  !s.waves.any (fun w => w.core / 4 == cl && w.flight.any (fun a => a.issued < since && a.elems.any (fun e => e.op == .load)))

/-- Writes back the dirty lines of a core's L1 that lie in a virtual range of a context (R124). -/
def State.writeBackRange (s : State) (core c lo hi : Nat) : State :=
  let from_ := lo % 2 ^ 57
  let to_ := from_ + (hi - lo)
  (s.l1.filter (fun l => l.core == core && l.ctx == c && l.dirty != 0 && from_ < 128 * l.vline + 128 && 128 * l.vline < to_)).foldl
    (fun s l => s.writeBackRouted l) s

end Sys2Proof.Machine
end

