-- ==== Sys2Proof/Machine/Matrix.lean ====
section
/-! DEFINITION. Matrix arithmetic: formats, shapes, payloads, operand values with their scales, 2:4 metadata, and the chunked
sums (03 R72 to R78; 08 R156, R157, R166, R167; 15 R263, R264). -/

namespace Sys2Proof.Machine

/-! ## Formats and shapes (R73, R157) -/

/-- Element kinds. -/
inductive MElem where
  | flt (f : Fmt2)
  | int (signed : Bool)
  | t2
  | fx32

/-- Scales attached to the elements of an operand. -/
inductive MScale where
  | none
  /-- One E8M0 for each so many elements of K. -/
  | block (n : Nat)
  | q16
  | b128
  deriving DecidableEq, Repr

/-- Element kind, width and scale of a format code. -/
def mFormat (code : Nat) : MElem × Nat × MScale :=
  match code with
  | 0 => (.flt fmtF32, 32, .none)
  | 1 => (.flt fmtF19, 32, .none)
  | 2 => (.flt fmtBF16, 16, .none)
  | 3 => (.flt fmtF16, 16, .none)
  | 4 => (.flt fmtE4M3, 8, .none)
  | 5 => (.flt fmtE5M2, 8, .none)
  | 6 => (.flt fmtE3M2, 6, .none)
  | 7 => (.flt fmtE2M3, 6, .none)
  | 8 => (.flt fmtE2M1, 4, .none)
  | 9 => (.int true, 8, .none)
  | 10 => (.int false, 8, .none)
  | 11 => (.int true, 4, .none)
  | 12 => (.int false, 4, .none)
  | 13 => (.int true, 16, .none)
  | 14 => (.flt fmtF64, 64, .none)
  | 15 => (.flt fmtF32, 32, .none)
  | 16 => (.flt fmtE4M3, 8, .block 32)
  | 17 => (.flt fmtE5M2, 8, .block 32)
  | 18 => (.flt fmtE3M2, 6, .block 32)
  | 19 => (.flt fmtE2M3, 6, .block 32)
  | 20 => (.flt fmtE2M1, 4, .block 32)
  | 21 => (.int true, 8, .block 32)
  | 22 => (.int true, 4, .block 32)
  | 23 => (.flt fmtE2M1, 4, .q16)
  | 24 => (.flt fmtE2M3, 6, .q16)
  | 25 => (.flt fmtE4M3, 8, .b128)
  | 26 => (.int true, 8, .b128)
  | 27 => (.flt fmtE3M4, 8, .none)
  | 28 => (.t2, 2, .none)
  | 29 => (.t2, 2, .block 32)
  | 30 => (.flt fmtE4M3, 8, .block 16)
  | _ => (.fx32, 32, .none)

/-- K base and chunk length of a format's group (R73, R167). -/
def mGroup (code : Nat) : Nat × Nat :=
  if [4, 5, 9, 10, 16, 17, 21, 25, 26, 27, 30].contains code then (32, 16)
  else if [6, 7, 18, 19, 24].contains code then (32, 16)
  else if [8, 11, 12, 20, 22, 23, 28, 29].contains code then (64, 32)
  else if [2, 3, 13].contains code then (16, 8)
  else if code == 14 then (4, 4)
  else (8, 4)

/-- M, N of a SHAPE, and K for a format. -/
def shapeM (shape : Nat) : Nat := [16, 32, 48, 96].getD (shape / 8 % 4) 0
def shapeN (shape : Nat) : Nat := [32, 64, 96, 192].getD (shape / 2 % 4) 0
def shapeK (code shape : Nat) : Nat := (mGroup code).1 * (if shape % 2 == 1 then 2 else 1)

/-- Accumulators of a result, when the first one's number allows it (R74). -/
def accCount (an elems : Nat) (f64 : Bool) : Option Nat :=
  let cap := if f64 then 2304 else 4608
  match [1, 2, 4].find? (fun u => elems ≤ u * cap) with
  | some u => if an % u == 0 && an + u ≤ 8 then some u else none
  | none => none

/-- Accumulator types that a format allows (R75). -/
def accAllowed (code : Nat) : List AccTy :=
  if [9, 10, 11, 12, 13, 28].contains code then [.i32] else if code == 14 then [.f64] else [.f32, .f16]

/-! ## Payloads (R263) -/

def scaleBytes (code rows k : Nat) : Nat :=
  match (mFormat code).2.2 with
  | .none => 0
  | .block n => rows * k / n
  | .q16 => rows * k / 16 + rows
  | .b128 => 4 * ((rows + 127) / 128)

/-- Elements, metadata and scales of an operand, in bytes. -/
def elemBytes (code rows k : Nat) (sparse : Bool) : Nat := rows * (if sparse then k / 2 else k) * (mFormat code).2.1 / 8
def metaBytes (rows k : Nat) (sparse : Bool) : Nat := if sparse then rows * (k / 2) * 2 / 8 else 0
def payload (code rows k : Nat) (sparse : Bool) : Nat := elemBytes code rows k sparse + metaBytes rows k sparse + scaleBytes code rows k

/-! ## Values (R156, R157) -/

/-- E8M0 and UE5M3. -/
def e8m0 (b : Nat) : FVal := if b == 255 then .nan false else .num false 1 ((b : Int) - 127)
def ue5m3 (b : Nat) : FVal :=
  if b == 255 then .nan false
  else if b / 8 == 0 then .num false (b % 8) (-17)
  else .num false (8 + b % 8) ((b / 8 : Nat) - 18)

/-- The value of an element pattern, and its flags: NV for a NaN, T2 for 0b10 (R156, R167). -/
def mElem (e : MElem) (w p : Nat) : FVal × Nat :=
  match e with
  | .flt f => let v := f.value p; (v, if v.isNan then flagNV else 0)
  | .int sg => (.ofInt (if sg && bit p (w - 1) then (p : Int) - 2 ^ w else p), 0)
  | .t2 => if p == 1 then (.num false 1 0, 0) else if p == 3 then (.num true 1 0, 0) else (.num false 0 0, if p == 2 then flagT2 else 0)
  | .fx32 => (match FVal.ofInt (if bit p 31 then (p : Int) - 2 ^ 32 else p) with
      | .num n m e => .num n m (e - 16)
      | v => v, 0)

/-- An element times its scale; NV where a NaN arises or the scale is NaN (R157, R167). -/
def scaled (v : FVal × Nat) (sc : FVal) : FVal × Nat :=
  let (r, inv) := v.1.mul sc
  (r, v.2 ||| (if inv || sc.isNan then flagNV else 0))

/-- The value of the element at row i and dense index k, from the operand's scales (R72, R157). -/
def attachScale (code data so rows kdense i k : Nat) (v : FVal × Nat) : FVal × Nat :=
  let byte (b : Nat) : Nat := field data (8 * b) 8
  match (mFormat code).2.2 with
  | .none => v
  | .block n => scaled v (e8m0 (byte (so + i * (kdense / n) + k / n)))
  | .q16 =>
    let u := ue5m3 (byte (so + i * (kdense / 16) + k / 16))
    let r := e8m0 (byte (so + rows * (kdense / 16) + i))
    if u.isZero && !r.isNan then (if v.1.isNan then v else (.num false 0 0, v.2)) else scaled v (u.mul r).1
  | .b128 => scaled v (fmtF32.value (field data (8 * (so + 4 * (i / 128))) 32))

/-- Position of kept element e of row i (R72). -/
def keptPos (code data rows k i e : Nat) : Nat := field data (8 * elemBytes code rows k true + 2 * (i * (k / 2) + e)) 2

/-- The value at row i and dense index k of an operand (R157, R264). -/
def operandValue (code data rows k : Nat) (sparse : Bool) (i x : Nat) : FVal × Nat :=
  let (el, w, _) := mFormat code
  let so := elemBytes code rows k sparse + metaBytes rows k sparse
  let at_ (e : Nat) : FVal × Nat := attachScale code data so rows k i x (mElem el w (field data (w * e) w))
  if !sparse then at_ (i * k + x)
  else
    let g := x / 4
    if keptPos code data rows k i (2 * g) == x % 4 then at_ (i * (k / 2) + 2 * g)
    else if keptPos code data rows k i (2 * g + 1) == x % 4 then at_ (i * (k / 2) + 2 * g + 1)
    else (.num false 0 0, 0)

/-- An operand's values, row by row, over the first k elements of the dense K. -/
def operandRows (code data rows kdense k : Nat) (sparse : Bool) : List (List (FVal × Nat)) :=
  (List.range rows).map (fun i => (List.range k).map (fun x => operandValue code data rows kdense sparse i x))

/-- The illegal groups of a sparse operand, as row and group (R77). -/
def illegalGroups (code data rows k : Nat) : List (Nat × Nat) :=
  (List.range rows).flatMap (fun i => ((List.range (k / 4)).filter (fun g =>
    keptPos code data rows k i (2 * g + 1) ≤ keptPos code data rows k i (2 * g))).map (fun g => (i, g)))

/-! ## Products and sums (R166, R167) -/

/-- The three BF16 parts of a finite value. -/
def split3 (v : FVal) : FVal × FVal × FVal :=
  let cut (x : FVal) : FVal := fmtBF16.value (rnd x fmtBF16 1 false).1
  let h := cut v
  let r := (fsum 0 [v, h.neg]).1
  let m := cut r
  (h, m, cut (fsum 0 [r, m.neg]).1)

/-- The terms of a product: one, or six for F32X3. -/
def productTerms (x3 : Bool) (a b : FVal) : List (FVal × Bool) :=
  match x3, a, b with
  | true, .num _ _ _, .num _ _ _ =>
    let (ha, ma, la) := split3 a
    let (hb, mb, lb) := split3 b
    [ha.mul hb, ha.mul mb, ma.mul hb, ha.mul lb, ma.mul mb, la.mul hb]
  | _, _, _ => [a.mul b]

/-- The exact sum of a chunk, and whether a NaN arose in it. -/
def chunkSum (x3 : Bool) (a b : List FVal) : FVal × Bool :=
  let terms := (a.zip b).flatMap (fun q => productTerms x3 q.1 q.2)
  let (s, inv) := fsum 0 (terms.map (·.1))
  (s, inv || terms.any (·.2))

/-- The format of an accumulator's type. -/
def accFmt : AccTy → Fmt2
  | .f64 => fmtF64
  | .f16 => fmtF16
  | _ => fmtF32

/-- accumulate of R167: pattern and flags, NV and OF alone. -/
def accumulate (ty : AccTy) (sat : Bool) (acc : Nat) (s : FVal) : Nat × Nat :=
  match ty with
  | .i32 =>
    let t : Int := (BitVec.ofNat 32 acc).toInt + (match s with
      | .num n m e => signed n (m * 2 ^ e.toNat)
      | _ => 0)
    let t := if sat then max (-(2 ^ 31)) (min t (2 ^ 31 - 1)) else t
    ((t % 2 ^ 32).toNat, 0)
  | ty =>
    let f := accFmt ty
    let first := if ty = .f64 then fmtF64 else fmtF32
    let (q, f1) := rnd s first 0 false
    let (sum, inv) := fsum 0 [f.value acc, first.value q]
    let (r, f2) := rnd sum f 0 false
    (r, (f1 ||| f2 ||| (if inv then flagNV else 0)) &&& (flagNV ||| flagOF))

/-- mma_element of R167 over the chunks of a row and a column. -/
def mmaElement (x3 : Bool) (ty : AccTy) (sat : Bool) (c : Nat) : Nat → List FVal → List FVal → Nat → Nat × Nat
  | 0, _, _, acc => (acc, 0)
  | p + 1, a, b, acc =>
    let (s, inv) := chunkSum x3 (a.take c) (b.take c)
    let (acc, f) := accumulate ty sat acc s
    let (r, g) := mmaElement x3 ty sat c p (a.drop c) (b.drop c) acc
    (r, f ||| g ||| (if inv then flagNV else 0))

end Sys2Proof.Machine
end

