-- ==== Sys2Proof/Machine/MatrixOps.lean ====
section
/-! DEFINITION. The matrix instructions of the Spindle stream, drains, and the events that complete matrix operations
(03 R69 to R80; 15 R258 to R269). -/

namespace Sys2Proof.Machine

/-- Causes of class 7 (R335). -/
def causeOperandSize : Nat := 0xE3
def causeMatrixShape : Nat := 0xE4
def causeAccumulatorType : Nat := 0xE5
def causeSparseMetadata : Nat := 0xE6
def causeDrainSpace : Nat := 0xE7

/-! ## Batches (R79) -/

/-- %spbdone after the operations that have completed: every batch before the oldest one with an operation left. -/
def Spindle.batchesDone (p : Spindle) : Spindle :=
  let n := p.ops.foldl (fun a o => min a (o.batch - 1)) p.bcom.toNat
  { p with bdone := BitVec.ofNat 64 (max p.bdone.toNat n) }

/-- An operation issues in the current batch. -/
def Spindle.issue (p : Spindle) (reads : List Nat) (drain : Option Drain) : Spindle :=
  { p with ops := p.ops ++ [{ batch := p.bcom.toNat + 1, reads := reads, drain := drain }] }

/-! ## Accumulators (R74, R75) -/

def accBytes : Nat := 18432

def Spindle.accTy (p : Spindle) (i : Nat) : AccTy := sget (fun _ => AccTy.f32) p.accs i

def Spindle.setAccTy (p : Spindle) (i : Nat) (t : AccTy) : Spindle := { p with accs := sput (fun _ => AccTy.f32) p.accs i t }

/-- Bytes of an element. -/
def accElem (t : AccTy) : Nat := if t = .f64 then 8 else 4

/-- The patterns of n elements from an accumulator 8q + a. -/
def Spindle.accRead (p : Spindle) (a n : Nat) (t : AccTy) : List Nat :=
  let e := accElem t
  let v := p.acc.readNat (accBytes * a) (e * n)
  (List.range n).map (fun k => field v (8 * e * k) (8 * e))

/-- Writes elements from an accumulator on. -/
def Spindle.accWrite (p : Spindle) (a : Nat) (t : AccTy) (vals : List Nat) : Spindle :=
  let e := accElem t
  let bytes := vals.flatMap (fun v => (List.range e).map (fun i => BitVec.ofNat 8 (v / 2 ^ (8 * i))))
  { p with acc := p.acc.splice (accBytes * a) bytes }

/-- The type of the accumulator that holds element k of a result. -/
def Spindle.elemTy (p : Spindle) (a k : Nat) (f64 : Bool) : AccTy := p.accTy (a + k / (if f64 then 2304 else 4608))

/-! ## Operand slots (R70, R262) -/

def oclaimOp (_r : Row) (n : Norm) (s : State) : Res :=
  match s.curSpindle with
  | none => .done s
  | some p =>
    let size := (s.srd n.x.sb.toNat).toNat
    let i := n.x.sa.toNat
    if size % 128 != 0 || size < 128 || 16384 < size then .trap s causeIllegalOperand 0 0
    else if (p.slot i).state != .free then .trap s causeSlotState 0 0
    else
      let o : OSlot := { state := .claimed, size := size, format := n.x.type.toNat, count := 0, written := 0, fresh := s.free }
      .done ({ s with free := s.free + 16384 }.setSpindle (p.setSlot i o))

def orelOp (_r : Row) (n : Norm) (s : State) : Res :=
  match s.curSpindle with
  | none => .done s
  | some p =>
    if (p.slot n.x.sa.toNat).state != .claimed then .trap s causeSlotState 0 0
    else .done (s.setSpindle (p.setSlot n.x.sa.toNat OSlot.free))

def owaitOp (_r : Row) (n : Norm) (s : State) : Res :=
  match s.curSpindle with
  | none => .done s
  | some p =>
    match (p.slot n.x.sa.toNat).state with
    | .free => .trap s causeSlotState 0 0
    | .ready => .done s
    | _ => .wait s (.retry 8 false)

/-! ## Multiply-accumulate (R263 to R265) -/

/-- The cores of an operation on core q, or of a ganged one. -/
def mmaCores (gang : Bool) (q : Nat) : List Nat := if gang then [0, 1, 2, 3] else [q]

/-- The slots that core q reads: A of core 2g and B of core h when ganged (R76). -/
def slotA (gang : Bool) (q n : Nat) : Nat := if gang then 32 * (q / 2) + n else 16 * q + n
def slotB (gang : Bool) (q n : Nat) : Nat := if gang then 16 * (q % 2) + n else 16 * q + n

/-- The contents of a slot as a number. -/
def State.slotData (s : State) (p : Spindle) (i : Nat) : Nat := s.slotBytes p i (p.slot i).size

/-- A mma as its fields give it. -/
structure Mma where
  gang : Bool
  sparse : Bool
  code : Nat
  m : Nat
  n : Nat
  k : Nat
  sat : Bool
  core : Nat
  acc : Nat
  na : Nat
  nb : Nat
  deriving DecidableEq, Repr

def Mma.of (n : Norm) : Mma :=
  let x := n.x
  { gang := 2 ≤ n.sub, sparse := n.sub % 2 == 1, code := x.type.toNat, m := shapeM x.shape.toNat, n := shapeN x.shape.toNat,
    k := shapeK x.type.toNat x.shape.toNat, sat := x.sat == 1, core := x.d.toNat / 8, acc := x.d.toNat % 8,
    na := x.sa.toNat % 16, nb := x.sb.toNat % 16 }

def Mma.f64 (o : Mma) : Bool := o.code == 14
def Mma.cores (o : Mma) : List Nat := mmaCores o.gang o.core
def Mma.slotsA (o : Mma) : List Nat := (o.cores.map (fun q => slotA o.gang q o.na)).eraseDups
def Mma.slotsB (o : Mma) : List Nat := (o.cores.map (fun q => slotB o.gang q o.nb)).eraseDups
def Mma.slots (o : Mma) : List Nat := o.slotsA ++ o.slotsB
def Mma.chunk (o : Mma) : Nat := (mGroup o.code).2

/-- The illegal groups of a sparse operation: chunk, row of the result, group, core (R77, R78) (DEDUCED, log entry 59). -/
def Mma.badGroups (o : Mma) (s : State) (p : Spindle) : List (Nat × Nat × Nat × Nat) :=
  if !o.sparse then []
  else o.slotsA.flatMap (fun i =>
    (illegalGroups o.code (s.slotData p i) o.m o.k).map (fun q =>
      (4 * q.2 / o.chunk, q.1 + (if 32 ≤ i && o.gang then o.m else 0), q.2, i / 16)))

/-- The first illegal group of the least chunk, in row order, then group order. -/
def firstBad (l : List (Nat × Nat × Nat × Nat)) : Option (Nat × Nat × Nat × Nat) :=
  l.foldl (fun o b => match o with
    | none => some b
    | some c => if b.1 < c.1 || (b.1 == c.1 && (b.2.1 < c.2.1 || (b.2.1 == c.2.1 && b.2.2.1 < c.2.2.1))) then some b else some c) none

/-- One core of an operation: the accumulators after so many chunks, and the flags (R167, R264). -/
def Mma.runCore (o : Mma) (s : State) (chunks : Nat) (acc : Spindle × Nat) (q : Nat) : Spindle × Nat :=
  let (p, fl) := acc
  let kk := chunks * o.chunk
  let a := operandRows o.code (s.slotData p (slotA o.gang q o.na)) o.m o.k kk o.sparse
  let b := operandRows o.code (s.slotData p (slotB o.gang q o.nb)) o.n o.k kk false
  let rowFlags (l : List (List (FVal × Nat))) : Nat := l.foldl (fun f r => r.foldl (fun f v => f ||| v.2) f) 0
  let first := 8 * q + o.acc
  let old := p.accRead first (o.m * o.n) (if o.f64 then .f64 else .f32)
  let av := a.map (fun r => r.map (·.1))
  let bv := b.map (fun r => r.map (·.1))
  let cells := av.flatMap (fun r => bv.map (fun c => (r, c)))
  let res := ((old.zip cells).zip (List.range (o.m * o.n))).map (fun e =>
    mmaElement (o.code == 15) (p.elemTy first e.2 o.f64) o.sat o.chunk chunks e.1.2.1 e.1.2.2 e.1.1)
  (p.accWrite first (if o.f64 then .f64 else .f32) (res.map (·.1)),
   res.foldl (fun f r => f ||| r.2) (fl ||| rowFlags a ||| rowFlags b))

/-- Runs an operation for so many chunks on every core. -/
def Mma.run (o : Mma) (s : State) (p : Spindle) (chunks : Nat) : Spindle :=
  let (q, fl) := o.cores.foldl (o.runCore s chunks) (p, 0)
  { q with flags := q.flags ||| BitVec.ofNat 64 (fl &&& (flagNV ||| flagOF ||| flagT2)) }

/-- Counts the multiply-accumulates of so many chunks for the context's function (R389). -/
def State.countMacs (s : State) (c : Nat) (o : Mma) (chunks : Nat) : State :=
  let f := s.fnOf c
  let n := sget (fun _ => 0) s.macs f + o.cores.length * o.m * o.n * (chunks * o.chunk)
  { s with macs := sput (fun _ => 0) s.macs f (n % 1024) }.bump f 23 (n / 1024)

/-- The slots of an operation take a state with count 0 where it is claimed. -/
def Spindle.slotsTo (p : Spindle) (l : List Nat) (st : SlotState) : Spindle :=
  l.foldl (fun p i => p.setSlot i { p.slot i with state := st, count := if st = .claimed then 0 else (p.slot i).count }) p

/-- %spstop (R260). -/
def spstopWord (b : Nat × Nat × Nat × Nat) : BitVec 64 :=
  BitVec.ofNat 64 (b.1 * 2 ^ 32 + b.2.2.1 * 2 ^ 24 + b.2.1 * 2 ^ 16 + b.2.2.2 * 2 ^ 14 + 1)

/-- The illegal operands of R263 and R265. -/
def Mma.illegal (o : Mma) (n : Norm) (pads : BitVec 64) : Bool :=
  (pads &&& ~~~0x7F7F#64) != 0 || n.x.sa == n.x.sb
    || (if o.gang then n.x.d.toNat / 8 != 0 || n.x.sa.toNat / 16 != 0 || n.x.sb.toNat / 16 != 0
        else n.x.sa.toNat / 16 != o.core || n.x.sb.toNat / 16 != o.core)

/-- A slot's format or size differs from the operand's (R72, R263). -/
def Mma.sizeBad (o : Mma) (p : Spindle) (pads : Nat) : Bool :=
  let bad (i size : Nat) : Bool := (p.slot i).format != o.code || (p.slot i).size != size
  o.slotsA.any (fun i => bad i (payload o.code o.m o.k o.sparse + pads % 128))
    || o.slotsB.any (fun i => bad i (payload o.code o.n o.k false + pads / 256 % 128))

/-- An accumulator of the operation holds a type that the format does not allow. -/
def Mma.typeBad (o : Mma) (p : Spindle) (u : Nat) : Bool :=
  o.cores.any (fun q => (List.range u).any (fun i => !(accAllowed o.code).contains (p.accTy (8 * q + o.acc + i))))

/-- mma, mmasp, mmag and mmagsp: SUB 0 to 3 (DEDUCED, log entry 60). -/
def mmaOp (r : Row) (n : Norm) (s : State) : Res :=
  match s.curSpindle with
  | none => .done s
  | some p =>
    let o := Mma.of n
    let pads := s.scalOpnd n (r.opnds n.accum).2.2.2 n.x.sc
    if o.illegal n pads then .trap s causeIllegalOperand 0 0
    else match accCount o.acc (o.m * o.n) o.f64 with
      | none => .trap s causeMatrixShape 0 0
      | some u =>
        if o.slots.any (fun i => (p.slot i).state == .free) then .trap s causeSlotState 0 0
        else if o.sizeBad p pads.toNat then .trap s causeOperandSize 0 0
        else if o.typeBad p u then .trap s causeAccumulatorType 0 0
        else if o.slots.any (fun i => (p.slot i).state != .ready) then .wait s (.retry 8 false)
        else match firstBad (o.badGroups s p) with
          | none => .done ((s.countMacs p.ctx o (o.k / o.chunk)).setSpindle (((o.run s p (o.k / o.chunk)).slotsTo o.slots .inUse).issue o.slots none))
          | some b =>
            if !p.ops.isEmpty then .wait s (.retry 8 false)
            else .trap ((s.countMacs p.ctx o b.1).setSpindle { (o.run s p b.1).slotsTo o.slots .claimed with stop := spstopWord b }) causeSparseMetadata
              (p.bcom + 1) 0

/-! ## Clear and scale (R266) -/

/-- The accumulator type of a TYPE code. -/
def accTyOf (t : Nat) : AccTy :=
  match t with
  | 0 => .i32
  | 9 => .f64
  | 10 => .f16
  | _ => .f32

def aclrOp (_r : Row) (n : Norm) (s : State) : Res :=
  match s.curSpindle with
  | none => .done s
  | some p =>
    let t := accTyOf n.x.type.toNat
    let a := n.x.d.toNat
    match accCount (a % 8) (shapeM n.x.shape.toNat * shapeN n.x.shape.toNat) (t = .f64) with
    | none => .trap s causeMatrixShape 0 0
    | some u =>
      let q := (List.range u).foldl (fun p i => p.setAccTy (a + i) t) p
      .done (s.setSpindle ({ q with acc := q.acc.clear (accBytes * a) (accBytes * u) }.issue [] none))

def ascaleOp (r : Row) (n : Norm) (s : State) : Res :=
  match s.curSpindle with
  | none => .done s
  | some p =>
    let t := accTyOf n.x.type.toNat
    let a := n.x.d.toNat
    let cols := shapeN n.x.shape.toNat
    let x := (s.srd n.x.sa.toNat).toNat
    let off := (s.scalOpnd n (r.opnds n.accum).2.2.1 n.x.sb).toNat
    let scaledCols := n.x.osel == 1
    if (t != .f64 && 2 ^ 32 ≤ x) || (scaledCols && (off % 4 != 0 || 16384 < off + 4 * cols)) || (!scaledCols && off != 0) then
      .trap s causeIllegalOperand 0 0
    else match accCount (a % 8) (shapeM n.x.shape.toNat * cols) (t = .f64) with
      | none => .trap s causeMatrixShape 0 0
      | some u =>
        if (List.range u).any (fun i => p.accTy (a + i) != t) then .trap s causeAccumulatorType 0 0
        else
          let f := (if t = .f64 then fmtF64 else fmtF32).value x
          let col (j : Nat) : FVal := if scaledCols then fmtF32.value (p.scratch.readNat (off + 4 * j) 4) else .num false 1 0
          let fmt := accFmt t
          let one (k v : Nat) : Nat × Nat :=
            let c := col (k % cols)
            let e := fmt.value v
            let (y, i1) := e.mul f
            let (z, i2) := y.mul c
            let (w, g) := rnd z fmt n.x.rnd.toNat false
            (w, (g ||| (if i1 || i2 || e.isSnan || f.isSnan || c.isSnan then flagNV else 0)) &&& (flagNV ||| flagOF))
          let old := p.accRead a (shapeM n.x.shape.toNat * cols) t
          let res := (old.zip (List.range old.length)).map (fun q => one q.2 q.1)
          let q := p.accWrite a t (res.map (·.1))
          .done (s.setSpindle ({ q with flags := q.flags ||| BitVec.ofNat 64 (res.foldl (fun (f : Nat) (e : Nat × Nat) => f ||| e.2) 0) }.issue [] none))

/-! ## Drains (R80, R267, R268) -/

/-- The bytes of an element of a drain's TYPE. -/
def drainElem (t : Nat) : Nat :=
  match t with
  | 3 => 8
  | 9 => 8
  | 6 => 1
  | 7 => 1
  | 10 => 2
  | 11 => 2
  | 16 => 1
  | 17 => 1
  | _ => 4

/-- Accumulator types allowed for a drain's TYPE. -/
def drainAllows (t : Nat) (a : AccTy) : Bool :=
  match t with
  | 1 => a != .f64
  | 3 => a = .f64
  | _ => true

/-- One element converted: its pattern and flags (R168, R169, R172, R267). -/
def drainConv (t mode : Nat) (sat : Bool) (a : AccTy) (v : Nat) : Nat × Nat :=
  if t == 1 || t == 3 then (v, 0)
  else if t == 0 || t == 6 || t == 7 then
    if a = .i32 then (fit t sat (BitVec.ofNat 32 v).toInt, 0)
    else toIntPat ((accFmt a).value v) (8 * drainElem t) (t != 7) mode
  else
    let x := if a = .i32 then FVal.ofInt (BitVec.ofNat 32 v).toInt else (accFmt a).value v
    let (p, f) := rnd x (fmtOf t) mode sat
    (p, f ||| (if x.isSnan then flagNV else 0))

/-- A drain's control operand is illegal (R267). -/
def drainIllegal (ctl : Nat) (gang : Bool) (a : Nat) : Bool :=
  field ctl 51 12 != 0 || field ctl 32 19 % 16 != 0 || (!bit ctl 63 && field ctl 32 19 != 0) || (gang && a / 8 != 0)

/-- The elements of a drain in row order, with their flags. -/
def drainData (p : Spindle) (gang : Bool) (a m n t mode : Nat) (sat : Bool) (ty : AccTy) : List (Nat × Nat) :=
  let all := (mmaCores gang (a / 8)).map (fun q => (q, p.accRead (8 * q + a % 8) (m * n) ty))
  let at_ (q k : Nat) : Nat := match all.find? (fun c => c.1 == q) with
    | some c => c.2.getD k 0
    | none => 0
  let rows := if gang then 2 * m else m
  let cols := if gang then 2 * n else n
  (List.range rows).flatMap (fun i => (List.range cols).map (fun j =>
    let q := if gang then 2 * (i / m) + j / n else a / 8
    drainConv t mode sat ty (at_ q (i % m * n + j % n))))

/-- adrain and adraing: SUB 2 and 3. -/
def adrainOp (_r : Row) (n : Norm) (s : State) : Res :=
  match s.curSpindle with
  | none => .done s
  | some p =>
    let ctl := (s.srd n.x.sa.toNat).toNat
    let xy := (s.srd n.x.sb.toNat).toNat
    let gang := n.sub == 3
    let a := n.x.d.toNat
    let t := n.x.type.toNat
    let m := shapeM n.x.shape.toNat
    let cols := shapeN n.x.shape.toNat
    let ty := p.accTy a
    if drainIllegal ctl gang a then .trap s causeIllegalOperand 0 0
    else match accCount (a % 8) (m * cols) (ty = .f64) with
      | none => .trap s causeMatrixShape 0 0
      | some u =>
        if !drainAllows t ty || (mmaCores gang (a / 8)).any (fun q => (List.range u).any (fun i => p.accTy (8 * q + a % 8 + i) != ty)) then
          .trap s causeAccumulatorType 0 0
        else match s.handle (BitVec.ofNat 64 (ctl % 2 ^ 32)) 1 with
          | .ends r => r
          | .ok rec_ s =>
            let l := Layout.of rec_
            let box := if gang then (2 * cols, 2 * m, 1) else (cols, m, 1)
            let size := match s.block? p.launch p.block with
              | some b => b.scrSize
              | none => 0
            if layoutBad rec_ || l.kind == 2 || l.box != box || l.esz != drainElem t then .trap s causeLayout 0 0
            else if bit ctl 63 && size < field ctl 32 19 + 16 then .trap s causeByteBarrier 0 0
            else
              let range := l.bound (xy % 2 ^ 32) (xy / 2 ^ 32) n.x.disp.toNat
              if range.isSome && 64 ≤ s.lockCount p.cluster then .wait s (.retry 8 false)
              else
                let data := drainData p gang a m cols t n.x.rnd.toNat (n.x.sat == 1) ty
                let user := p.mode == .user
                let d : Drain :=
                  { type := t, ganged := gang, rows := box.2.1, cols := box.1, x0 := xy % 2 ^ 32, y0 := xy / 2 ^ 32,
                    z0 := n.x.disp.toNat, record := rec_, bben := bit ctl 63, bboff := field ctl 32 19,
                    data := data.map (fun v => BitVec.ofNat 64 v.1), progress := 0, user := user, pc := p.pc, since := s.cyc,
                    tags := [], answers := [], wrote := [] }
                let fl := data.foldl (fun f v => f ||| v.2) 0 &&& (flagNV ||| flagOF)
                let s := match range with
                  | some (lo, hi) =>
                    let s' := { s with locks := s.locks ++ [s.makeLock p.cluster p.ctx lo hi true none] }
                    s'.modCurSpindle (fun q => { q with ws := s.destSig (4 * p.cluster) p.ctx lo hi user q.ws })
                  | none => s
                .done ((s.modCurSpindle (fun q => q.issue [] (some d))).orFlags fl)

/-- What stops a drain, and whether a page in space 5 or 7 does (R268). -/
def drainBad (c : Nat) (s : State) (pa n : Nat) : Option Nat :=
  if paSpace pa == 5 || paSpace pa == 7 then some causeDrainSpace
  else if paSpace pa == 6 && s.targetExists c pa && !s.storeHeldAll c pa n then some causeCoreWindow
  else none

/-- How one element of a drain ends. -/
inductive DrainStep where
  | moved (d : Drain) (s : State)
  | held (d : Drain) (s : State)
  | fault (cause : Nat) (a : BitVec 64) (s : State)

/-- Bytes of a drain's box. -/
def Drain.total (d : Drain) : Nat := d.rows * d.cols * drainElem d.type

/-- Writes the next element of a drain (R104, R268). -/
def State.drainElement (s : State) (p : Spindle) (d : Drain) : DrainStep :=
  let e := drainElem d.type
  let i := d.progress / e
  let l := Layout.of d.record
  let (x, y, z) := (d.x0 + i % d.cols, d.y0 + i / d.cols, d.z0)
  if !l.inside x y z then .moved { d with progress := d.progress + e } s
  else
    let va := BitVec.ofNat 64 (l.addr x y z)
    match s.enginePlace (4 * p.cluster) p.ctx (Need.store d.user) d.answers (drainBad p.ctx) (pageCuts va e) with
    | .cause c a t => .fault c a t
    | .missing _ cow a t =>
      let info : FaultInfo := { kind := 0, cause := 0, vaddr := 0, tag := 0, access := 2, unit_ := 3, slot := 0xFF, core := 0xFFFF,
                                payload := words4 a 0 d.pc 0 }
      (match t.needTag p.ctx (a.toNat % 2 ^ 57 / 4096) true cow info (bufSpindle p.cluster) 0x40 with
       | some (g, t) => .held { d with tags := [g] } t
       | none => .held d t)
    | .ok ps t =>
      .moved { d with progress := d.progress + e, wrote := noteWritten d.wrote ps, answers := [] }
        (t.engineWrite p.who (d.data.getD i 0).toNat ps)

/-- The oldest drain of a cluster's program. -/
def Spindle.drain? (p : Spindle) : Option Drain := (p.ops.find? (fun o => o.drain.isSome)).bind (·.drain)

/-- Changes the operation of the oldest drain; `none` removes it. -/
def Spindle.setDrain (p : Spindle) (d : Option Drain) : Spindle :=
  let rec go : List MatOp → List MatOp
    | [] => []
    | o :: rest => if o.drain.isSome then (match d with
        | some d => { o with drain := some d } :: rest
        | none => rest) else o :: go rest
  { p with ops := go p.ops }

/-- Runs the oldest drain until it has written up to a goal, or stops. -/
def State.drainRun (s : State) (cl goal : Nat) : Nat → State × Option (Nat × BitVec 64)
  | 0 => (s, none)
  | n + 1 =>
    match s.spindle? cl with
    | none => (s, none)
    | some p =>
      match p.drain? with
      | none => (s, none)
      | some d =>
        if !d.tags.isEmpty || d.total ≤ d.progress || goal ≤ d.progress then (s, none)
        else match s.drainElement p d with
          | .moved d t => State.drainRun (t.modSpindle cl (fun p => p.setDrain (some d))) cl goal n
          | .held d t => (t.modSpindle cl (fun p => p.setDrain (some d)), none)
          | .fault c a t => (t, some (c, a))

/-- Some bytes of the oldest drain are written. -/
def State.drainAdvance (s : State) (cl bytes : Nat) : State :=
  match (s.spindle? cl).bind (·.drain?) with
  | some d => (s.drainRun cl (d.progress + bytes) (bytes + 1)).1
  | none => s

/-- A drain stops with a cause, or its barrier arrival fails: its progress word, and a KIND 2 record (R268). -/
def State.drainReport (s : State) (p : Spindle) (cause progress : Nat) (a : BitVec 64) : State :=
  let word := BitVec.ofNat 64 (2 * 2 ^ 62 + cause % 512 * 2 ^ 53 + progress % 2 ^ 48)
  (s.modSpindle p.cluster (fun p => { p with fault := word })).makeFault p.ctx
    { kind := 2, cause := cause, vaddr := a, tag := 0, access := 2, unit_ := 3, slot := 0xFF, core := 0xFFFF,
      payload := words4 word 0 0 0 } (bufSpindle p.cluster) 0x40

/-- Every end of the oldest drain, which comes when the loads of R124 have completed (R125): the lines it wrote are dropped, its range-lock entry is removed, it counts as completed. -/
def State.drainEnd (s : State) (p : Spindle) (d : Drain) : State :=
  let s := s.dropWritten p.cluster d.wrote
  let mine (l : RangeLock) : Bool := l.cluster == p.cluster && l.owner.isNone
  let rec go : List RangeLock → List RangeLock
    | [] => []
    | l :: rest => if mine l then rest else l :: go rest
  let locked := (Layout.of d.record).bound d.x0 d.y0 d.z0
  let s := if locked.isSome then { s with locks := go s.locks } else s
  s.modSpindle p.cluster (fun p => (p.setDrain none).batchesDone)

/-- DRAIN_COMPLETE: the oldest drain writes what is left and ends with its barrier arrival (R80, R268). -/
def State.drainComplete (s : State) (cl : Nat) : State :=
  match (s.spindle? cl).bind (·.drain?) with
  | none => s
  | some d =>
    let (t, _) := s.drainRun cl d.total (d.total + 1)
    match t.spindle? cl with
    | none => s
    | some p =>
      match p.drain? with
      | none => s
      | some d =>
        if d.progress != d.total || !t.loadsPast cl d.since then t
        else
          let t := t.drainEnd p d
          match t.block? p.launch p.block with
          | some b =>
            if d.bben then
              match t.bbArrive (b.scratchAddr d.bboff) d.bboff d.total 0 with
              | (some c, u) => u.drainReport p c d.total 0
              | (none, u) => u
            else t
          | none => t

/-- DRAIN_FAULT: the oldest drain goes on until it meets a fault; without one nothing happens. -/
def State.drainFault (s : State) (cl : Nat) : State :=
  match (s.spindle? cl).bind (·.drain?) with
  | none => s
  | some d =>
    match s.drainRun cl d.total (d.total + 1) with
    | (t, some (c, a)) =>
      (match t.spindle? cl with
       | none => s
       | some p =>
         match p.drain? with
         | some d => if t.loadsPast cl d.since then (t.drainEnd p d).drainReport p c d.progress a else s
         | none => s)
    | (_, none) => s

/-! ## Batches (R269) -/

def batcomOp (_r : Row) (_n : Norm) (s : State) : Res :=
  .done (s.modCurSpindle (fun p => { p with bcom := p.bcom + 1 }.batchesDone))

def batwaitOp (r : Row) (n : Norm) (s : State) : Res :=
  match s.curSpindle with
  | none => .done s
  | some p =>
    let v := s.scalOpnd n (r.opnds n.accum).2.1 n.x.sa
    if p.bcom.toNat < v.toNat then .trap s causeIllegalOperand 0 0
    else if v.toNat ≤ p.bdone.toNat then .done s
    else .wait s (.retry 8 false)

/-! ## Events -/

/-- The slots of an operation that has read them (R70). -/
def Spindle.readDone (p : Spindle) (i : Nat) : Spindle :=
  if (p.slot i).state != .inUse then p
  else { p.slotsTo [i] .claimed with ops := p.ops.map (fun o => { o with reads := o.reads.filter (fun j => j != i) }) }

/-- Writes that wait for a slot of a cluster are treated as soon as it returns to claimed, before anything else (R71): the
copies that hold slot bytes, and the waves that wait under reason 8. -/
def State.slotReturned (s : State) (cl : Nat) : State :=
  let mine := s.waves.filter (fun w => w.core / 4 == cl)
  let copies := mine.flatMap (fun w => (w.tok.filter (fun t => t.2.state == 1 && (match t.2.copy with
    | some c => !c.pend.isEmpty
    | none => false))).map (fun t => Move.copyStep w.core w.slot t.1 512))
  let stores := (mine.filter (fun w => w.wait == .retry 8 true)).map (fun w => Move.slotWrite w.core w.slot)
  { s with agenda := copies ++ stores ++ s.agenda }

/-- The reads of a slot in use end: it is claimed again, and writes that wait for a slot are tried (R70, R71). -/
def State.slotReadEnds (s : State) (cl slot : Nat) : State :=
  match s.spindle? cl with
  | some p => if (p.slot slot).state == .inUse then (s.setSpindle (p.readDone slot)).slotReturned cl else s
  | none => s

def execSlotReadFinish (cluster : BitVec 5) (oslot : BitVec 6) (s : State) : Host.Outcome State Fault Refusal :=
  .next (s.slotReadEnds cluster.toNat oslot.toNat)

/-- The oldest issued operation other than a drain completes. -/
def Spindle.opDone (p : Spindle) : Spindle :=
  match p.ops.find? (fun o => o.drain.isNone) with
  | none => p
  | some o =>
    let q := o.reads.foldl (fun p i => p.readDone i) p
    let rec go : List MatOp → List MatOp
      | [] => []
      | o :: rest => if o.drain.isNone then rest else o :: go rest
    { q with ops := go q.ops }.batchesDone

/-- That operation of a cluster's program completes, and writes that wait for a slot are tried. -/
def State.matrixOpEnds (s : State) (cl : Nat) : State :=
  match s.spindle? cl with
  | some p => if p.ops.any (fun o => o.drain.isNone) then (s.setSpindle p.opDone).slotReturned cl else s
  | none => s

def execMatrixOpComplete (cluster : BitVec 5) (s : State) : Host.Outcome State Fault Refusal := .next (s.matrixOpEnds cluster.toNat)

/-- A program that waits becomes ready and issues next: its waiting instruction is executed again, whole. -/
def State.reissueSpindle (s : State) (cl : Nat) : State :=
  match s.spindle? cl with
  | some p =>
    match p.wait with
    | .retry _ _ => { s.setSpindle { p with wait := .ready } with agenda := .spindle cl :: s.agenda }
    | _ => s
  | none => s

def execMatrixOpIssue (cluster : BitVec 5) (s : State) : Host.Outcome State Fault Refusal := .next (s.reissueSpindle cluster.toNat)

def execDrainIssue (cluster : BitVec 5) (s : State) : Host.Outcome State Fault Refusal := .next (s.reissueSpindle cluster.toNat)

def execDrainComplete (cluster : BitVec 5) (s : State) : Host.Outcome State Fault Refusal := .next (s.drainComplete cluster.toNat)

def execDrainFault (cluster : BitVec 5) (s : State) : Host.Outcome State Fault Refusal := .next (s.drainFault cluster.toNat)

end Sys2Proof.Machine
end

