-- ==== Sys2Proof/Machine/Porter.lean ====
section
/-! DEFINITION. Porter copies: their issue, how they move bytes, and how they end (03 R83; 04 R98, R105; 05 R124, R128;
13 R237 to R241). -/

namespace Sys2Proof.Machine

/-! ## The latched operands (R237) -/

def Copy.word (c : Copy) (i : Nat) : Nat := field c.group.toNat (64 * i) 64
def Copy.ctl (c : Copy) : Nat := c.word 3
def Copy.dslot (c : Copy) : Bool := bit c.ctl 0
def Copy.bben (c : Copy) : Bool := bit c.ctl 1
def Copy.slot (c : Copy) : Nat := field c.ctl 8 6
def Copy.soff (c : Copy) : Nat := field c.ctl 16 14
def Copy.bboff (c : Copy) : Nat := field c.ctl 32 19
def Copy.srcLay (c : Copy) : Layout := Layout.of c.src
def Copy.dstLay (c : Copy) : Layout := Layout.of c.dst

/-- Origins of the source and destination boxes. -/
def Copy.srcAt (c : Copy) : Nat × Nat × Nat := (field (c.word 0) 0 32, field (c.word 0) 32 32, field (c.word 2) 0 32)
def Copy.dstAt (c : Copy) : Nat × Nat × Nat := (field (c.word 1) 0 32, field (c.word 1) 32 32, field (c.word 2) 32 32)

/-- Bytes of one element of a slot row of a KIND 2 source (R83). -/
def rowElem (fmt : Nat) : Nat := if fmt == 2 || fmt == 3 then 2 else 4

/-- Bytes that one element of the box brings: an element, or a slot row (R238). -/
def Copy.unit (c : Copy) : Nat :=
  let l := c.srcLay
  if l.kind == 2 then l.rowk * rowElem l.fmt else l.esz

/-- The box's byte count B (R238). -/
def Copy.total (c : Copy) : Nat := let b := c.srcLay.box; b.1 * b.2.1 * b.2.2 * c.unit

/-- A field of the control word is reserved or used wrongly (R237). DSLOT is such a field of cpred (R239). -/
def copyOperandBad (red : Bool) (group : BitVec 256) : Bool :=
  let v := field group.toNat 192 64
  let dslot := bit v 0
  field v 2 6 != 0 || field v 14 2 != 0 || field v 30 2 != 0 || field v 51 13 != 0
    || (!dslot && (field v 16 14 != 0 || field v 8 6 != 0)) || (!bit v 1 && field v 32 19 != 0)
    || (dslot && field group.toNat 64 64 != 0) || (red && dslot)

/-- The records of a copy raise layout-record (R237, R239). -/
def State.copyLayoutBad (s : State) (cl : Nat) (c : Copy) : Bool :=
  let a := c.srcLay
  let b := c.dstLay
  layoutBad c.src || (a.kind == 2 && (c.srcAt.2.2 != 0 || !c.dslot || c.red))
    || (!c.dslot && (layoutBad c.dst || a.eszlog != b.eszlog || a.box != b.box || b.kind == 2))
    || (c.red && 8 * a.esz != typeWidth c.type)
    || (c.dslot && a.kind == 2 && (match s.spindle? cl with
        | some p => (p.slot c.slot).state != .free && (p.slot c.slot).format != a.fmt
        | none => false))

/-- The ranges a copy registers: bounds, and whether as a destination (R105). -/
def Copy.ranges (c : Copy) : List (Nat × Nat × Bool) :=
  let a := c.srcAt
  let b := c.dstAt
  (match c.srcLay.bound a.1 a.2.1 a.2.2 with
    | some (lo, hi) => [(lo, hi, false)]
    | none => [])
  ++ (if c.dslot then [] else match c.dstLay.bound b.1 b.2.1 b.2.2 with
    | some (lo, hi) => [(lo, hi, true)]
    | none => [])

/-- The table has room for the ranges of a copy. -/
def State.lockRoom (s : State) (cl : Nat) (c : Copy) : Bool := s.lockCount cl + c.ranges.length ≤ 64

/-- Registers the ranges of a wave's copy (R105). -/
def State.lockCopy (s : State) (w : Wave) (tok : Nat) (c : Copy) : State :=
  { s with locks := s.locks ++ c.ranges.map (fun r => s.makeLock (w.core / 4) w.ctx r.1 r.2.1 r.2.2 (some (w.core, w.slot, tok))) }

/-- An access of the wave not yet performed writes into a range. -/
def Wave.storesInto (w : Wave) (lo hi : Nat) : Bool :=
  w.flight.any (fun a => a.elems.any (fun e => e.op != .load && (match e.va with
    | some v => v % 2 ^ 57 < lo % 2 ^ 57 + (hi - lo) && lo % 2 ^ 57 < v % 2 ^ 57 + e.bytes
    | none => false)))

/-- Issues a copy that has passed its checks: it waits for its token, for the wave's earlier stores into its source, and for
range locks; it registers its ranges, writes back the source's dirty lines and signs the destination's (R98, R105, R124). -/
def issueCopy (s : State) (w : Wave) (tok : Nat) (c : Copy) : Res :=
  let late := c.ranges.any (fun r => !r.2.2 && w.storesInto r.1 r.2.1)
  if (w.token tok).busy || late || !s.lockRoom (w.core / 4) c then
    .wait (s.modCurWave (fun w => { w with latched := some c })) (.retry 8 true)
  else
    let s := s.lockCopy w tok c
    let s := c.ranges.foldl (fun s r => if r.2.2 then s else s.writeBackRange w.core w.ctx r.1 r.2.1) s
    let ws := c.ranges.foldl (fun g r => if r.2.2 then s.destSig w.core w.ctx r.1 r.2.1 c.user g else g) w.ws
    .done (s.modCurWave (fun w => { w.setToken tok { state := 1, cause := 0, progress := 0, copy := some c } with ws := ws }))

/-- Runs a continuation on the object of a layout handle. -/
def withLayout (s : State) (h : BitVec 64) (k : BitVec 512 → State → Res) : Res :=
  match s.handle h 1 with
  | .ends r => r
  | .ok r t => k r t

/-- The registers that a copy reads: with DSLOT 1 not s[SB] (R237). -/
def copySources (n : Norm) (group : BitVec 256) : List Ref :=
  [.s n.x.sa.toNat 1, .s n.x.sc.toNat 4] ++ (if bit group.toNat 192 then [] else [.s n.x.sb.toNat 1])

/-- The first issue of a copy: its checks, and its records latched (R237, R239). -/
def cpFirst (n : Norm) (s : State) (w : Wave) : Res :=
    let red := n.sub == 1
    let g (i : Nat) : BitVec 64 := s.srd (n.x.sc.toNat + i)
    let group := words4 (g 0) (g 1) (g 2) (g 3)
    let size := match s.block? w.launch w.block with
      | some b => b.scrSize
      | none => 0
    if (s.poisonCheck false (copySources n group) n.x).isSome then .trap s causePoisonConsumed 0 0
    else if copyOperandBad red group then .trap s causeCopyOperand 0 0
    else withLayout s (s.srd n.x.sa.toNat) (fun src s =>
      let go (dst : BitVec 512) (s : State) : Res :=
        let c : Copy := { started := false, red := red, shape := n.x.shape.toNat, type := n.x.type.toNat, group := group, src := src,
                          dst := dst, user := s.curMode == .user, pc := w.pc, since := s.cyc, tags := [], answers := [],
                          pend := [], wrote := [] }
        if s.copyLayoutBad (w.core / 4) c then .trap s causeLayout 0 0
        else if c.bben && size < c.bboff + 16 then .trap s causeByteBarrier 0 0
        else issueCopy s w n.x.d.toNat c
      if bit group.toNat 192 then go 0 s else withLayout s (s.srd n.x.sb.toNat) go)

/-- cp and cpred (R237, R239): SUB 0 and 1. One that waits for its token or for range locks goes on with the records that it
latched (DEDUCED, log entry 57). -/
def cpOp (_r : Row) (n : Norm) (s : State) : Res :=
  match s.curWave with
  | none => .done s
  | some w =>
    match w.latched with
    | some c => issueCopy s w n.x.d.toNat c
    | none => cpFirst n s w

/-! ## Moving bytes (R83, R104, R238, R239) -/

/-- The mean of a channel over COUNT samples, to 200 bits and a sticky one (R83). -/
def meanVal (ch : BitVec 64) (cnt : Nat) : FVal :=
  if cnt == 0 then .num false 0 0
  else
    let m := ch.toInt.natAbs * 2 ^ 200
    let neg := ch.msb
    if m % cnt == 0 then .num neg (m / cnt) (-232) else inexact neg (m / cnt) (-232)

/-- A value in a slot's format, saturated (R83). -/
def rowValue (fmt : Nat) (v : FVal) : Nat :=
  if fmt == 31 then
    match v with
    | .num neg m e => (toIntPat (.num neg m (e + 16)) 32 true 0).1
    | _ => 0
  else (rnd v (if fmt == 2 then fmtBF16 else if fmt == 3 then fmtF16 else fmtF32) 0 true).1

/-- The bytes of a number, low first. -/
def bytesOf (v : Nat) (n : Nat) : List (BitVec 8) := (List.range n).map (fun i => BitVec.ofNat 8 (v / 2 ^ (8 * i)))

def numOf (l : List (BitVec 8)) : Nat := l.foldr (fun b a => b.toNat + 256 * a) 0

/-- The slot row of an accumulation-buffer entry (R83). -/
def slotRow (fmt rowk e : Nat) : List (BitVec 8) :=
  let cnt := field e 192 32
  let vals := [0, 1, 2].map (fun i => meanVal (BitVec.ofNat 64 (field e (64 * i) 64)) cnt) ++ [FVal.num false cnt 0]
  vals.flatMap (fun v => bytesOf (rowValue fmt v) (rowElem fmt)) ++ List.replicate ((rowk - 4) * rowElem fmt) 0

/-- A copy reaches spaces 0 to 4 alone (R240). -/
def copyBad (_s : State) (pa _n : Nat) : Option Nat := if 5 ≤ paSpace pa && paSpace pa ≤ 7 then some causeCopySpace else none

/-- The coordinates of the box's element i. -/
def boxAt (b : Nat × Nat × Nat) (o : Nat × Nat × Nat) (i : Nat) : Nat × Nat × Nat :=
  (o.1 + i % b.1, o.2.1 + i / b.1 % b.2.1, o.2.2 + i / (b.1 * b.2.1))

/-- How one move of a copy ends. -/
inductive CopyStep where
  /-- Bytes were read or written. -/
  | moved (c : Copy) (progress : Nat) (s : State)
  /-- It waits: for a fault tag's reply, for a tag, or for its slot. -/
  | held (c : Copy) (s : State)
  | fault (cause : Nat) (a : BitVec 64) (access : Nat) (s : State)

/-- What a copy waits for when it meets a missing page (R240, R326, R327). -/
def holdCopy (s : State) (w : Wave) (c : Copy) (write cow : Bool) (a : BitVec 64) : CopyStep :=
  let info : FaultInfo := { kind := 0, cause := 0, vaddr := 0, tag := 0, access := if write then (if c.red then 8 else 2) else 1,
                            unit_ := 2, slot := w.slot, core := w.core, payload := words4 a 0 c.pc 0 }
  match s.needTag w.ctx (a.toNat % 2 ^ 57 / 4096) write cow info (bufSpindle (w.core / 4)) 0x41 with
  | some (t, s) => .held { c with tags := [t] } s
  | none => .held c s

/-- The Porter of a cluster as an accessor of the L2. -/
def porterWho (w : Wave) : Who := { buf := bufSpindle (w.core / 4), ctx := w.ctx, slot := 0x41 }

/-- Reads one element of the source, or its slot row; zero beyond the dimensions (R104). -/
def State.copySource (s : State) (w : Wave) (c : Copy) (i : Nat) (k : List (BitVec 8) → State → CopyStep) : CopyStep :=
  let l := c.srcLay
  let (x, y, z) := boxAt l.box c.srcAt i
  if !l.inside x y z then
    if l.kind == 2 then k (slotRow l.fmt l.rowk 0) s else k (List.replicate l.esz 0) s
  else
    match s.enginePlace w.core w.ctx (Need.load c.user) c.answers copyBad (pageCuts (BitVec.ofNat 64 (l.addr x y z)) l.esz) with
    | .cause q a t => .fault q a 1 t
    | .missing _ cow a t => holdCopy t w c false cow a
    | .ok ps t =>
      match t.piecesPoisoned ps with
      | some a => .fault causePoison a 1 t
      | none =>
        let (v, _, u) := t.engineRead w.ctx ps
        k (if l.kind == 2 then slotRow l.fmt l.rowk v else bytesOf v l.esz) u

/-- OP of R151 of a reduction (R239). -/
def redOp (shape type : Nat) : Nat :=
  match shape with
  | 0 => if 8 ≤ type then 8 else 0
  | 1 => if 8 ≤ type then 9 else 1
  | 2 => if 8 ≤ type then 10 else 2
  | k => k

/-- One element into memory: stored, or combined as one atomic at the L2, after the write-back of its line from the L1 of the
core that issued it (R218, R238, R239). -/
def State.copyElem (s : State) (w : Wave) (c : Copy) (progress : Nat) : CopyStep :=
  let l := c.dstLay
  let i := progress / l.esz
  let (x, y, z) := boxAt l.box c.dstAt i
  let (sx, sy, sz) := boxAt l.box c.srcAt i
  if !l.inside x y z || (c.red && !c.srcLay.inside sx sy sz) then .moved c (progress + l.esz) s
  else s.copySource w c i (fun v s =>
    let need := if c.red then Need.atomic c.user else Need.store c.user
    let va := BitVec.ofNat 64 (l.addr x y z)
    match s.enginePlace w.core w.ctx need c.answers copyBad (pageCuts va l.esz) with
    | .cause q a t => .fault q a (if c.red then 8 else 2) t
    | .missing _ cow a t => holdCopy t w c true cow a
    | .ok ps t =>
      let c := { c with wrote := noteWritten c.wrote ps, answers := [] }
      if c.red then
        let t := ps.foldl (fun t p => t.l1Flush w.core w.ctx (p.pa / 128)) t
        match t.piecesPoisoned ps with
        | some a => .fault causePoison a 8 t
        | none =>
          let (old, _, u) := t.engineRead w.ctx ps
          match rmwNew (redOp c.shape c.type) c.type (BitVec.ofNat 64 old) (BitVec.ofNat 64 (numOf v)) 0 with
          | some r => .moved c (progress + l.esz) (u.engineWrite (porterWho w) r.toNat ps)
          | none => .moved c (progress + l.esz) u
      else .moved c (progress + l.esz) (t.engineWrite (porterWho w) (numOf v) ps))

/-- One write of at most 512 bytes into the slot, in box order (R71, R238). -/
def State.copySlotWrite (s : State) (w : Wave) (c : Copy) (progress : Nat) (bytes : List (BitVec 8)) : CopyStep :=
  let now := bytes.take 512
  match s.slotWrite w.ctx (w.core / 4) c.slot [(c.soff + progress, now.length, numOf now)] with
  | .waits => .held { c with pend := bytes } s
  | .cause k => .fault k 0 2 s
  | .done t => .moved { c with pend := bytes.drop 512, answers := [] } (progress + now.length) t

/-- Reads elements until 512 bytes are at hand, then writes them into the slot; what stops the reading comes after the bytes
before it have been written. -/
def State.copySlot (s : State) (w : Wave) (c : Copy) (progress : Nat) : Nat → CopyStep
  | 0 => s.copySlotWrite w c progress c.pend
  | n + 1 =>
    let at_ := progress + c.pend.length
    if 512 ≤ c.pend.length || c.total ≤ at_ then s.copySlotWrite w c progress c.pend
    else
      match s.copySource w c (at_ / c.unit) (fun v s => .moved { c with pend := c.pend ++ v.drop (at_ % c.unit) } progress s) with
      | .moved c s' t => State.copySlot t w c s' n
      | .held c t => if c.pend.isEmpty then .held c t else s.copySlotWrite w c progress c.pend
      | .fault q a k t => if c.pend.isEmpty then .fault q a k t else s.copySlotWrite w c progress c.pend

/-- One move of a started copy. -/
def State.copyMove (s : State) (w : Wave) (c : Copy) (progress : Nat) : CopyStep :=
  if c.dslot then s.copySlot w c progress 513 else s.copyElem w c progress

/-! ## How a copy ends (R238, R240) -/

/-- The progress word (R98). -/
def Token.word (t : Token) : BitVec 64 := BitVec.ofNat 64 (t.state * 2 ^ 62 + t.cause % 512 * 2 ^ 53 + t.progress % 2 ^ 48)

def State.setToken (s : State) (w : Wave) (tok : Nat) (t : Token) : State := s.modWave w.core w.slot (fun w => w.setToken tok t)

/-- What every end of a copy does: the lines it wrote are dropped and its range locks removed (R105, R124). -/
def State.copyRelease (s : State) (w : Wave) (tok : Nat) (c : Copy) : State :=
  (s.dropWritten (w.core / 4) c.wrote).unlock (w.core / 4) (some (w.core, w.slot, tok))

/-- The last byte has been written: the drop, the barrier arrival, the token (R238). -/
def State.copyDone (s : State) (w : Wave) (tok : Nat) (c : Copy) : State :=
  let s := s.copyRelease w tok c
  let b := c.total
  let arrival := match s.block? w.launch w.block with
    | some blk => if c.bben then s.bbArrive (blk.scratchAddr c.bboff) c.bboff b 0 else (none, s)
    | none => (none, s)
  match arrival with
  | (some k, s) => s.setToken w tok { state := 2, cause := k, progress := b, copy := none }
  | (none, s) => s.setToken w tok { state := 0, cause := 0, progress := b, copy := none }

/-- A started copy fails (R240): its progress word goes to the context's fault queue. -/
def State.copyFail (s : State) (w : Wave) (tok progress : Nat) (c : Copy) (cause : Nat) (a : BitVec 64) (access : Nat) : State :=
  let s := s.copyRelease w tok c
  let t : Token := { state := 2, cause := cause, progress := progress, copy := none }
  (s.setToken w tok t).makeFault w.ctx
    { kind := 2, cause := cause, vaddr := a, tag := 0, access := access, unit_ := 2, slot := w.slot, core := w.core,
      payload := words4 t.word 0 0 0 } (bufSpindle (w.core / 4)) 0x41

/-- Runs a copy until it has moved n bytes or more, or stops: what stopped it, if anything, is left to the caller. -/
def State.copyRun (s : State) (core slot tok goal : Nat) : Nat → State × Option (Nat × BitVec 64 × Nat)
  | 0 => (s, none)
  | n + 1 =>
    match s.wave? core slot with
    | none => (s, none)
    | some w =>
      let t := w.token tok
      match t.copy with
      | none => (s, none)
      | some c =>
        if t.state != 1 || !c.started || !c.tags.isEmpty || c.total ≤ t.progress || goal ≤ t.progress then (s, none)
        else match s.copyMove w c t.progress with
          | .moved c p u => State.copyRun (u.setToken w tok { t with progress := p, copy := some c }) core slot tok goal n
          | .held c u => (u.setToken w tok { t with copy := some c }, none)
          | .fault k a x u => (u, some (k, a, x))

/-- Some bytes of a started copy move; a fault is left for COPY_FAULT. -/
def State.copyAdvance (s : State) (core slot tok bytes : Nat) : State :=
  match s.wave? core slot with
  | none => s
  | some w => (s.copyRun core slot tok ((w.token tok).progress + bytes) (bytes + 1)).1

/-- COPY_START: an issued copy starts, one stopped at a suspension after it has registered its ranges again (R98, R105). -/
def State.copyStart (s : State) (core slot tok : Nat) : State :=
  match s.wave? core slot with
  | none => s
  | some w =>
    let t := w.token tok
    match t.copy with
    | none => s
    | some c =>
      if t.state == 1 && !c.started then s.setToken w tok { t with copy := some { c with started := true } }
      else if t.state == 3 && s.lockRoom (w.core / 4) c && w.wait != .restored && !(w.mode == .supervisor && w.handler != .trap) then
        (s.lockCopy w tok c).setToken w tok { t with state := 1, copy := some { c with started := true, since := s.cyc } }
      else s

/-- COPY_END: a started copy writes what is left and ends. -/
def State.copyEnd (s : State) (core slot tok : Nat) : State :=
  match s.wave? core slot with
  | none => s
  | some w =>
    match (w.token tok).copy with
    | none => s
    | some c =>
      let (s, _) := s.copyRun core slot tok c.total c.total
      match s.wave? core slot with
      | none => s
      | some w =>
        let t := w.token tok
        match t.copy with
        | none => s
        | some c =>
          if t.state == 1 && c.started && t.progress == c.total && s.loadsPast (core / 4) c.since then s.copyDone w tok c else s

/-- COPY_FAULT: a started copy goes on until it meets a fault, and ends when the loads that its drop waits for have completed
(R124); without a fault nothing happens. -/
def State.copyFault (s : State) (core slot tok : Nat) : State :=
  match s.wave? core slot with
  | none => s
  | some w =>
    match (w.token tok).copy with
    | none => s
    | some c =>
      match s.copyRun core slot tok c.total c.total with
      | (t, some (k, a, x)) =>
        match t.wave? core slot with
        | none => s
        | some w =>
          match (w.token tok).copy with
          | some c => if t.loadsPast (core / 4) c.since then t.copyFail w tok (w.token tok).progress c k a x else s
          | none => s
      | (_, none) => s

/-- The copies of a wave can stop: the loads that the drop at the end of a copy waits for have completed (R124). -/
def State.copiesPast (s : State) (w : Wave) : Bool :=
  w.tok.all (fun t => match t.2.copy with
    | some c => t.2.state != 1 || s.loadsPast (w.core / 4) c.since
    | none => true)

/-- Stops the copies of a wave at its suspension: STATE 3, no range lock (R105, R240). -/
def State.copySuspend (s : State) (w : Wave) : State :=
  (List.range 8).foldl (fun s i =>
    match s.wave? w.core w.slot with
    | none => s
    | some v =>
      let t := v.token i
      match t.copy with
      | none => s
      | some c =>
        if t.state == 1 then
          (s.copyRelease v i c).setToken v i
            { t with state := 3, copy := some { c with started := false, tags := [], answers := [], pend := [], wrote := [] } }
        else s) s

def execCopyStart (core : BitVec 7) (slot : BitVec 6) (token : BitVec 3) (s : State) : Host.Outcome State Fault Refusal :=
  .next (s.copyStart core.toNat slot.toNat token.toNat)

def execCopyEnd (core : BitVec 7) (slot : BitVec 6) (token : BitVec 3) (s : State) : Host.Outcome State Fault Refusal :=
  .next (s.copyEnd core.toNat slot.toNat token.toNat)

def execCopyFault (core : BitVec 7) (slot : BitVec 6) (token : BitVec 3) (s : State) : Host.Outcome State Fault Refusal :=
  .next (s.copyFault core.toNat slot.toNat token.toNat)

end Sys2Proof.Machine
end

