-- ==== Sys2Proof/Machine/Queue.lean ====
section
/-! DEFINITION. Launch queues as the device reads and writes them, launch, and spawn with the ring of a task pool
(01 R30 to R33; 13 R242, R243; 20 R305 to R308). -/

namespace Sys2Proof.Machine

def causeSpawnContext : Nat := 0x85
def causeTaskRecord : Nat := 0x86
def causeRingFull : Nat := 0x87
def causeUnderflow : Nat := 0x88
def causeLaunchQueue : Nat := 0x89
def causeQueueFull : Nat := 0x8A
def causeQueueDesc : Nat := 0x10C
def causeQueueOverrun : Nat := 0x10D

/-! ## Queue descriptors (R305) -/

/-- Address of queue descriptor q of a context. -/
def State.queueVa (s : State) (c q : Nat) : BitVec 64 := sext57 (s.ctlField (.qtab c) 12 45 * 4096) + BitVec.ofNat 64 (64 * q)

/-- The needs of a supervisor access of the device that reads and writes. -/
def Need.device : Need := { read := true, write := true, fetch := false, user := false }

/-- A queue descriptor as read: its bytes and where they lie. -/
structure QDesc where
  va : BitVec 64
  bytes : BitVec 512
  pieces : List Piece

def QDesc.ring (d : QDesc) : Nat := recBytes d.bytes 0 8
def QDesc.ctl (d : QDesc) : Nat := recBytes d.bytes 8 4
def QDesc.sizelog (d : QDesc) : Nat := field d.ctl 8 5
def QDesc.prio (d : QDesc) : Nat := field d.ctl 4 4
def QDesc.enabled (d : QDesc) : Bool := bit d.ctl 0
def QDesc.serial (d : QDesc) : Bool := bit d.ctl 14
def QDesc.devq (d : QDesc) : Bool := bit d.ctl 15
def QDesc.tail (d : QDesc) : BitVec 64 := BitVec.ofNat 64 (recBytes d.bytes 16 8)
def QDesc.head (d : QDesc) : BitVec 64 := BitVec.ofNat 64 (recBytes d.bytes 24 8)
def QDesc.status (d : QDesc) : Nat := recBytes d.bytes 32 4

/-- Records appended and not taken. -/
def QDesc.count (d : QDesc) : Nat := (d.tail - d.head).toNat

/-- The descriptor is well formed. -/
def QDesc.good (d : QDesc) : Bool :=
  d.ctl / 2 ^ 16 == 0 && field d.ctl 1 3 == 0 && field d.ctl 13 1 == 0 && recBytes d.bytes 12 4 == 0
    && field d.status 16 7 == 0 && recBytes d.bytes 36 28 == 0 && 4 ≤ d.sizelog && d.sizelog ≤ 16 && d.ring % 4096 == 0

/-- Address of the ring slot of record r. -/
def QDesc.slotVa (d : QDesc) (r : BitVec 64) : BitVec 64 := BitVec.ofNat 64 d.ring + BitVec.ofNat 64 (64 * (r.toNat % 2 ^ d.sizelog))

/-- Reads a descriptor, readable and writable; `none` when it is not, or a byte is poisoned, or a peer refuses it. -/
def State.queueDesc (s : State) (core c q : Nat) : Option QDesc × State :=
  let va := s.queueVa c q
  match s.enginePlace core c Need.device [] (plainBad c) (pageCuts va 64) with
  | .ok ps t =>
    if (t.piecesPoisoned ps).isSome then (none, t)
    else
      match t.engineRead c ps with
      | (v, false, u) => (some { va := va, bytes := BitVec.ofNat 512 v, pieces := ps }, u)
      | (_, true, u) => (none, u)
  | .cause _ _ t => (none, t)
  | .missing _ _ _ t => (none, t)

/-- The scheduler as an accessor of the L2 in a context. -/
def schedWho (c : Nat) : Who := { buf := bufSched, ctx := c, slot := 0x45 }

/-- Writes n bytes at an offset of a descriptor, after translating it again: `none` when the page is no longer writable. -/
def State.queueWrite (s : State) (c : Nat) (d : QDesc) (off n v : Nat) : Option State :=
  match s.enginePlace 0 c (Need.store false) [] (plainBad c) (pageCuts (d.va + BitVec.ofNat 64 off) n) with
  | .ok ps t => some (t.engineWrite (schedWho c) v ps)
  | _ => none

/-- A SCH_WAKE write, or a launch: marks queues pending (R306, R308). -/
def State.markPending (s : State) (c : Nat) (mask : BitVec 64) : State :=
  let top := s.ctlField (.qtab c) 0 6
  let ok : BitVec 64 := BitVec.ofNat 64 (2 ^ (top + 1) - 1)
  s.modCtx c (fun x => { x with pending := x.pending ||| (mask &&& ok) })

/-! ## Reading a record as an instruction's load -/

/-- The bytes of a record that an instruction reads. -/
inductive RecordRead where
  | ok (r : BitVec 512) (s : State)
  | ends (r : Res)

/-- Reads 64 bytes at a base and an offset as one load of the wave, under R212 (R242, R243). -/
def State.recordRead (s : State) (b : BReg) (base : BitVec 64) (off : Nat) : RecordRead :=
  let r : Req := { lane := none, off := off, bytes := 64, mask := allBytes 64, data := 0, op := .load }
  match s.checkReqs { AccForm.load with regs := false } b base [r], s.curWave with
  | .ends e, _ => .ends e
  | .ok l _ t, some w =>
    let parts := l.flatMap (fun q => q.2)
    let busy := parts.any (fun p => match p.place with
      | .found pa _ => t.lineBusy pa
      | _ => false)
    if busy then .ends (.wait t (.retry 11 true))
    else
      let words := parts.flatMap (fun p => match p.place with
        | .found pa k => (cutWords p.va.toNat 0 p.n p.n).map (fun c => (p.lo + c.1, c.2, p.va.toNat + c.1, pa + c.1, k))
        | _ => [])
      let kind := words.foldl (fun k q => k.stronger q.2.2.2.2) .un
      let (v, bad, t) := words.foldl (fun (acc : Nat × Option Nat × State) q =>
        let e : Elem := { lane := none, va := some q.2.2.1, pa := q.2.2.2.1, bytes := q.2.1, mask := 0, op := .load, data := 0,
                          kind := kind, scope := 0, at_ := q.1, port := none, bad := false }
        let (b, u) := acc.2.2.readElem w e
        (acc.1 + b.value * 2 ^ (8 * q.1), (if (b.poison || b.refused) && acc.2.1.isNone then some q.2.2.1 else acc.2.1), u)) (0, none, t)
      match bad with
      | some a => .ends (.trap t causePoison (BitVec.ofNat 64 a) 0)
      | none => .ok (BitVec.ofNat 512 v) t
  | .ok _ _ t, none => .ok 0 t

/-! ## launch (R243, R308) -/

/-- The descriptor that launch appends to, with a ring slot it can write; `none` raises launch-queue. -/
def State.devQueue (s : State) (core c q : Nat) : Option (QDesc × List Piece) × State :=
  if s.ctlField (.qtab c) 0 6 < q then (none, s)
  else match s.queueDesc core c q with
    | (none, t) => (none, t)
    | (some d, t) =>
      if !d.good || !d.enabled || !d.devq then (none, t)
      else match t.enginePlace core c (Need.store false) [] (plainBad c) (pageCuts (d.slotVa d.tail) 64) with
        | .ok ps u => (some (d, ps), u)
        | .cause _ _ u => (none, u)
        | .missing _ _ _ u => (none, u)

def launchOp (_r : Row) (n : Norm) (s : State) : Res :=
  match s.curWave with
  | none => .done s
  | some w =>
    let q := (s.srd n.x.sa.toNat).toNat
    match s.devQueue w.core w.ctx q with
    | (none, t) => .trap t causeLaunchQueue 0 0
    | (some (d, ps), t) =>
      match t.recordRead BReg.none (s.srd n.x.sb.toNat) 0 with
      | .ends r => r
      | .ok r t =>
        if d.count == 2 ^ d.sizelog then .trap t causeQueueFull 0 0
        else release120 t 6 scopeSystem (fun s =>
          let s := s.engineWrite w.who r.toNat ps
          match s.queueWrite w.ctx d 16 8 (d.tail + 1).toNat with
          | some s => .done (s.markPending w.ctx (1#64 <<< q))
          | none => .trap t causeLaunchQueue 0 0)

/-! ## Task pools (R30 to R33, R242) -/

/-- Fields of a task-pool launch record and of a task record (R30, R31). -/
def poolRing (r : BitVec 512) : BitVec 64 := BitVec.ofNat 64 (recBytes r 8 8)
def poolInit (r : BitVec 512) : Nat := recBytes r 16 8
def taskEntry (r : BitVec 512) : BitVec 64 := BitVec.ofNat 64 (recBytes r 0 8)
def taskSucc (r : BitVec 512) : BitVec 64 := BitVec.ofNat 64 (recBytes r 16 8)
def taskFlags (r : BitVec 512) : Nat := recBytes r 36 4
def taskPrio (r : BitVec 512) : Nat := field (taskFlags r) 0 4
def taskWideFlag (r : BitVec 512) : Bool := bit (taskFlags r) 4

/-- A task record that is not run (R31). -/
def taskBad (r : BitVec 512) : Bool := taskFlags r / 2 ^ 5 != 0 || (taskEntry r) % 4 != 0

/-- Scope of a task's release (R33, R242). -/
def taskScope (r : BitVec 512) : Nat := if taskWideFlag r then scopeSystem else scopeDie

/-- Address of ring slot q of a pool. -/
def Launch.ringVa (l : Launch) (q : Nat) : BitVec 64 := poolRing l.record + BitVec.ofNat 64 (64 * (q % 2 ^ ctlRinglog l.record))

/-- The ring holds 2^RINGLOG tasks. -/
def Launch.ringFull (l : Launch) : Bool := 2 ^ ctlRinglog l.record ≤ l.held

/-- Queues a task of a record already read, with its ring slot and the scope of its entry's acquire; a record that is not run
is dropped and logged (R31, R32). -/
def State.queueTask (s : State) (num : Nat) (r : BitVec 512) (scope : Nat) : State :=
  match s.launch? num with
  | none => s
  | some l =>
    let va := l.ringVa l.enqueued
    if taskBad r then (s.setLaunch { l with enqueued := l.enqueued + 1 }).logCtx bufSched 0x49 l.ctx 0x45 causeTaskRecord va
    else
      let t : Task := { record := r, number := l.enqueued, time := s.cyc, ring := va.toNat, scope := scope, aged := false }
      s.setLaunch { l with enqueued := l.enqueued + 1, held := l.held + 1, tasks := l.tasks ++ [t] }

/-- Writes a record into the ring slot of the next enqueue; a slot that cannot be written is left as it was. -/
def State.ringWrite (s : State) (num : Nat) (r : BitVec 512) : State :=
  match s.launch? num with
  | none => s
  | some l =>
    match s.enginePlace 0 l.ctx (Need.store false) [] (plainBad l.ctx) (pageCuts (l.ringVa l.enqueued) 64) with
    | .ok ps t => t.engineWrite (schedWho l.ctx) r.toNat ps
    | .cause _ _ t => t
    | .missing _ _ _ t => t

/-- spawn (R33, R242; DEDUCED, log entry 41). -/
def spawnOp (_r : Row) (n : Norm) (s : State) : Res :=
  match s.curWave with
  | none => .done s
  | some w =>
    match s.launch? w.launch with
    | none => .trap s causeSpawnContext 0 0
    | some l =>
      if l.kind != 2 then .trap s causeSpawnContext 0 0
      else
        let b := w.breg n.x.d.toNat
        let off := (s.srd n.x.sa.toNat).toNat % 2 ^ 32 + n.x.disp.toNat
        match s.recordRead b b.base off with
        | .ends r => r
        | .ok r s =>
          let va := b.base + BitVec.ofNat 64 off
          if va.toNat % 64 != 0 || taskBad r then .trap s causeTaskRecord va 0
          else if l.ringFull then .trap s causeRingFull 0 0
          else release120 s 6 (taskScope r) (fun s => .done ((s.ringWrite w.launch r).queueTask w.launch r (taskScope r)))

end Sys2Proof.Machine
end

