-- ==== Sys2Proof/Machine/Scene.lean ====
section
/-! DEFINITION. Scenes and traversal: scene records, the exact tests, and the trace of a ray (02 R51 to R59). Every length is an
integer multiple of 2^-149, every t a fraction. -/

namespace Sys2Proof.Machine

/-! ## The scene header (R51) -/

/-- The header fails a check of R51. -/
def headerBad (h : BitVec 512) : Bool :=
  let finite (b : Nat) : Bool := (f32Int (recBytes h b 4)).isSome
  let positive (b : Nat) : Bool := match f32Int (recBytes h b 4) with
    | some v => decide (0 < v)
    | none => false
  recBytes h 0 4 != 1 || hdrNtreelet h == 0 || 2 ^ 25 < hdrNtreelet h || hdrTbase h % 4096 != 0
    || hdrNtreelet h ≤ hdrRoot h || hdrIbase h % 64 != 0
    || !([32, 36, 40].all finite) || !([44, 48, 52].all positive) || recBytes h 56 8 != 0

/-! ## Exact arithmetic -/

/-- A fraction with a positive denominator. -/
structure Frac where
  n : Int
  d : Nat
  deriving DecidableEq, Repr

def Frac.le (a b : Frac) : Bool := a.n * b.d ≤ b.n * a.d

def Frac.lt (a b : Frac) : Bool := a.n * b.d < b.n * a.d

/-- n / d for a denominator that is not zero. -/
def Frac.make (n d : Int) : Frac := if d < 0 then ⟨-n, d.natAbs⟩ else ⟨n, d.natAbs⟩

/-- A value held as a multiple of 2^-149. -/
def Frac.ofUnits (n : Int) : Frac := ⟨n, 2 ^ 149⟩

/-- A fraction as a value whose last bit stands for what lies below 400 fraction bits. -/
def Frac.value (f : Frac) : FVal :=
  let m := f.n.natAbs * 2 ^ 400
  if m % f.d == 0 then .num (decide (f.n < 0)) (m / f.d) (-400) else .num (decide (f.n < 0)) (2 * (m / f.d) + 1) (-401)

/-- A fraction rounded once to binary32 under nearest-even (R56). -/
def Frac.round (f : Frac) : Nat := if f.n == 0 then 0 else (rnd f.value fmtF32 0 false).1

/-- A bound on t: a finite multiple of 2^-149, or an infinity. -/
inductive Bound where
  | fin (n : Int)
  | posInf
  | negInf
  deriving DecidableEq, Repr

def boundOf (p : Nat) : Bound :=
  match f32Int p with
  | some n => .fin n
  | none => if bit p 31 then .negInf else .posInf

/-- A fraction lies at or below a bound. -/
def Frac.leBound (f : Frac) : Bound → Bool
  | .fin n => f.le (.ofUnits n)
  | .posInf => true
  | .negInf => false

/-- Comparison of two bounds. -/
def Bound.lt : Bound → Bound → Bool
  | .negInf, .negInf => false
  | .negInf, _ => true
  | _, .negInf => false
  | .posInf, _ => false
  | .fin _, .posInf => true
  | .fin a, .fin b => decide (a < b)

def V3.sub (a b : V3) : V3 := (a.1 - b.1, a.2.1 - b.2.1, a.2.2 - b.2.2)
def V3.dot (a b : V3) : Int := a.1 * b.1 + a.2.1 * b.2.1 + a.2.2 * b.2.2
def V3.cross (a b : V3) : V3 :=
  (a.2.1 * b.2.2 - a.2.2 * b.2.1, a.2.2 * b.1 - a.1 * b.2.2, a.1 * b.2.1 - a.2.1 * b.1)
def V3.list (a : V3) : List Int := [a.1, a.2.1, a.2.2]

/-! ## The tests (R56) -/

/-- The intersection of one slab with an interval of t whose upper end may be missing: lower and upper end. -/
def slab (o d lo hi : Int) (acc : Option (Frac × Option Frac)) : Option (Frac × Option Frac) :=
  match acc with
  | none => none
  | some (a, b) =>
    if d == 0 then (if lo ≤ o && o ≤ hi then some (a, b) else none)
    else
      let x := Frac.make (lo - o) d
      let y := Frac.make (hi - o) d
      let (x, y) := if x.le y then (x, y) else (y, x)
      let a := if a.le x then x else a
      let b := match b with
        | none => y
        | some b => if b.le y then b else y
      if a.le b then some (a, some b) else none

/-- The box test: its entry value. -/
def boxTest (lo hi o d : V3) (tmin : Int) (tcur : Bound) : Option Frac :=
  let start : Option (Frac × Option Frac) := match tcur with
    | .posInf => some (.ofUnits tmin, none)
    | .fin n => if tmin ≤ n then some (.ofUnits tmin, some (.ofUnits n)) else none
    | .negInf => none
  let r := slab o.2.2 d.2.2 lo.2.2 hi.2.2 (slab o.2.1 d.2.1 lo.2.1 hi.2.1 (slab o.1 d.1 lo.1 hi.1 start))
  r.map (·.1)

/-- The triangle test: t, u and v rounded, and whether the hit is back-facing. -/
def triTest (p0 p1 p2 o d : V3) : Option (Nat × Nat × Nat × Bool) :=
  let a0 := p0.sub o
  let a1 := p1.sub o
  let a2 := p2.sub o
  let e0 := d.dot (a1.cross a2)
  let e1 := d.dot (a2.cross a0)
  let e2 := d.dot (a0.cross a1)
  let e := e0 + e1 + e2
  let nrm := (p1.sub p0).cross (p2.sub p0)
  let dn := d.dot nrm
  let same := (0 ≤ e0 && 0 ≤ e1 && 0 ≤ e2) || (e0 ≤ 0 && e1 ≤ 0 && e2 ≤ 0)
  if e == 0 || !same || dn == 0 then none
  else some ((Frac.make (a0.dot nrm) dn).round, (Frac.make e1 e).round, (Frac.make e2 e).round, decide (0 < dn))

/-- One row of the instance transform, rounded once; `none` when it is not finite. -/
def xformRow (m : List (Option Int)) (v : V3) (origin : Bool) : Option Int :=
  match m with
  | [some a, some b, some c, some d] =>
    let sum := a * v.1 + b * v.2.1 + c * v.2.2 + (if origin then d * 2 ^ 149 else 0)
    f32Int (if sum == 0 then 0 else (rnd (.num (decide (sum < 0)) sum.natAbs (-298)) fmtF32 0 false).1)
  | _ => none

/-- The instance transform: the ray in object space; `none` when the instance is not entered. -/
def instXform (inst : BitVec 512) (o d : V3) : Option (V3 × V3) :=
  let row (r : Nat) : List (Option Int) := (List.range 4).map (fun c => f32Int (recBytes inst (16 * r + 4 * c) 4))
  match xformRow (row 0) o true, xformRow (row 1) o true, xformRow (row 2) o true,
      xformRow (row 0) d false, xformRow (row 1) d false, xformRow (row 2) d false with
  | some a, some b, some c, some x, some y, some z => if V3.isZero (x, y, z) then none else some ((a, b, c), (x, y, z))
  | _, _, _, _, _, _ => none

/-! ## Instance records (R55) -/

def instRoot (i : BitVec 512) : Nat := recBytes i 48 4
def instIid (i : BitVec 512) : Nat := recBytes i 52 3
def instMask (i : BitVec 512) : Nat := recBytes i 55 1
def instSbase (i : BitVec 512) : Nat := recBytes i 56 1
def instFlip (i : BitVec 512) : Bool := bit (recBytes i 57 1) 0
def instNocull (i : BitVec 512) : Bool := bit (recBytes i 57 1) 1
def instBad (i : BitVec 512) : Bool :=
  recBytes i 57 1 / 4 != 0 || recBytes i 58 6 != 0 || field (instRoot i) 30 2 != 0

/-! ## Reading the scene (R58, R59) -/

/-- What a read of scene memory gives. -/
inductive SceneRead where
  | data (v : Nat) (s : State)
  | fault (s : State)
  | missing (va : BitVec 64) (s : State)

/-- Reads n bytes of a scene: from the Treelet Cache when it holds the page, else as a user load at the L2. -/
def State.sceneRead (s : State) (core c va n : Nat) : SceneRead :=
  let a := BitVec.ofNat 64 va
  if !canonical a then .fault s
  else match s.translate core c a.toNat (Need.load true) with
    | (.missing _, t) => .missing a t
    | (.cow, t) => .fault t
    | (.cause _, t) => .fault t
    | (.ok e, t) =>
      match t.tlc.find? (fun q => q.1 == core / 32 && q.2.1 == c && q.2.2.1 == e.pa a.toNat / 4096) with
      | some (_, _, _, v) => .data (field v.toNat (8 * (e.pa a.toNat % 4096)) (8 * n)) t
      | none =>
        match t.devRead core c [] a n (Need.load true) with
        | .data v u => .data v u
        | .cause _ _ u => .fault u
        | .missing _ b u => .missing b u

/-! ## The trace (R57, R58) -/

/-- An entry of the traversal stack: a reference, the ray in its space, the instance with its record, entry value. -/
structure TEntry where
  ref : Nat
  o : V3
  d : V3
  inst : Option (Nat × BitVec 512)
  tin : Frac

/-- The best hit so far. -/
structure Best where
  t : Bound
  inst : Option (Nat × BitVec 512)
  prim : Nat
  /-- Rounded t, u and v; back-facing; class of the triangle; where it lies. -/
  tp : Nat
  up : Nat
  vp : Nat
  back : Bool
  cls : Nat
  treelet : Nat
  slot : Nat
  j : Nat

/-- How a trace ends. -/
inductive TraceEnd where
  | hit (b : Best) (s : State)
  | occluded (b : Best) (s : State)
  | miss (s : State)
  /-- A scene error, and the entry concerned (R377). -/
  | error (value : Nat) (s : State)
  | fault (value : Nat) (s : State)
  | missing (va : BitVec 64) (value : Nat) (s : State)

/-- The order of `better`: t, then the instance index with none below every index, then the primitive index. -/
def Best.better (b c : Best) : Bool :=
  let idx (x : Option (Nat × BitVec 512)) : Nat := match x with
    | some (i, _) => i + 1
    | none => 0
  b.t.lt c.t || (b.t == c.t && (idx b.inst < idx c.inst || (idx b.inst == idx c.inst && b.prim < c.prim)))

/-- The low 30 bits of a reference: 32 × treelet + slot, or an instance index. -/
def refLow (ref : Nat) : Nat := ref % 2 ^ 30

/-- The children of a node that are entered, with their entry values, or a scene error (R53, R57). -/
def nodeChildren (h : BitVec 512) (b : BitVec 1024) (e : TEntry) (tmin : Int) (tcur : Bound) : Nat → List (Frac × Nat) → Except Nat (List (Frac × Nat))
  | 0, acc => .ok acc
  | k' + 1, acc =>
    let k := 7 - k'
    let byte (i : Nat) : Nat := field b.toNat (8 * i) 8
    let word (i : Nat) : Nat := field b.toNat (8 * i) 32
    let c := word (64 + 4 * k)
    let q (i : Nat) : Nat := byte (16 + 6 * k + i)
    match v3Of (word 0) (word 4) (word 8) with
    | none => .ok acc
    | some org =>
      if !bit (byte 15) k || c == noIndex || q 3 < q 0 || q 4 < q 1 || q 5 < q 2 then nodeChildren h b e tmin tcur k' acc
      else
        let kind := c / 2 ^ 30
        if kind == 3 then .error (refLow e.ref)
        else if kind < 2 && hdrNtreelet h ≤ refLow c / 32 then .error (refLow c)
        else if kind == 2 && (hdrNinst h ≤ refLow c || e.inst.isSome) then .error (refLow c)
        else
          let scale (a : Nat) : Int := 2 ^ ((BitVec.ofNat 8 (byte (12 + a))).toInt + 149).toNat
          let lo : V3 := (org.1 + q 0 * scale 0, org.2.1 + q 1 * scale 1, org.2.2 + q 2 * scale 2)
          let hi : V3 := (org.1 + q 3 * scale 0, org.2.1 + q 4 * scale 1, org.2.2 + q 5 * scale 2)
          match boxTest lo hi e.o e.d tmin tcur with
          | some te => nodeChildren h b e tmin tcur k' (acc ++ [(te, c)])
          | none => nodeChildren h b e tmin tcur k' acc

/-- Inserts a child so that the least entry value comes first, an equal one after those before it. -/
def insertChild (c : Frac × Nat) : List (Frac × Nat) → List (Frac × Nat)
  | [] => [c]
  | x :: xs => if c.1.lt x.1 then c :: x :: xs else x :: insertChild c xs

/-- One triangle of a block: its hit, when the tests of R56 accept it. -/
def triHit (b : BitVec 1024) (e : TEntry) (record : BitVec 1024) (tmin : Int) (tcur : Bound) (j : Nat) : Option Best :=
  let word (i : Nat) : Nat := field b.toNat (8 * i) 32
  let flags := field b.toNat (8 * 115) 8
  let vert (v : Nat) : Option V3 := v3Of (word (36 * j + 12 * v)) (word (36 * j + 12 * v + 4)) (word (36 * j + 12 * v + 8))
  if !bit flags j then none
  else match vert 0, vert 1, vert 2 with
    | some p0, some p1, some p2 =>
      match triTest p0 p1 p2 e.o e.d with
      | none => none
      | some (t, u, v, back) =>
        let (flip, nocull) := match e.inst with
          | some (_, i) => (instFlip i, instNocull i)
          | none => (false, false)
        let back := back != flip
        let culled := if back then rayCullB record else rayCullF record
        if (boundOf t).lt (.fin tmin) || tcur.lt (boundOf t) || (culled && !bit flags (3 + j) && !nocull) then none
        else some { t := boundOf t, inst := e.inst, prim := (word 108 + j) % 2 ^ 32, tp := t, up := u, vp := v, back := back,
                    cls := field b.toNat (8 * (112 + j)) 8, treelet := refLow e.ref / 32, slot := e.ref % 32, j := j }
    | _, _, _ => none

/-- The triangles of a block, from triangle j on: the best hit, and whether a FIRST ray is occluded. -/
def blockHits (b : BitVec 1024) (e : TEntry) (record : BitVec 1024) (tmin : Int) : Nat → Bound → Option Best → Option Best × Bound × Bool
  | 0, tcur, best => (best, tcur, false)
  | k + 1, tcur, best =>
    match triHit b e record tmin tcur (2 - k) with
    | none => blockHits b e record tmin k tcur best
    | some h =>
      let wins := match best with
        | none => true
        | some c => h.better c
      if wins then
        if rayFirst record then (some h, h.t, true) else blockHits b e record tmin k h.t (some h)
      else blockHits b e record tmin k tcur best

/-- The trace from a stack; the fuel is the pops left under R58. The reserved fields and the root of an instance record are checked
before its MASK, an order the spec leaves open (R58; DESIGN CHOICE, log entry 86). -/
def State.traceFrom (s : State) (core c : Nat) (h : BitVec 512) (record : BitVec 1024) (tmin : Int) :
    Nat → List TEntry → Bound → Option Best → TraceEnd
  | _, [], _, best =>
    match best with
    | some b => .hit b s
    | none => .miss s
  | 0, e :: _, _, _ => .error (refLow e.ref) s
  | n + 1, e :: rest, tcur, best =>
    if !e.tin.leBound tcur then s.traceFrom core c h record tmin n rest tcur best
    else
      let kind := e.ref / 2 ^ 30
      let low := refLow e.ref
      if kind == 2 then
        if hdrNinst h ≤ low || e.inst.isSome then .error low s
        else match s.sceneRead core c (hdrIbase h + 64 * low) 64 with
          | .missing a t => .missing a low t
          | .fault t => .fault low t
          | .data v t =>
            let i := BitVec.ofNat 512 v
            if instBad i then .error low t
            else if instMask i &&& rayMask record == 0 then t.traceFrom core c h record tmin n rest tcur best
            else match instXform i e.o e.d with
              | some (o, d) => t.traceFrom core c h record tmin n ({ ref := instRoot i, o := o, d := d, inst := some (low, i), tin := e.tin } :: rest) tcur best
              | none => t.traceFrom core c h record tmin n rest tcur best
      else if kind == 3 || hdrNtreelet h ≤ low / 32 then .error low s
      else match s.sceneRead core c (hdrTbase h + 128 * low) 128 with
        | .missing a t => .missing a low t
        | .fault t => .fault low t
        | .data v t =>
          let b := BitVec.ofNat 1024 v
          if kind == 0 then
            if field v 768 256 != 0 then .error low t
            else match nodeChildren h b e tmin tcur 8 [] with
              | .error x => .error x t
              | .ok l =>
                let sorted := l.foldl (fun acc x => insertChild x acc) []
                (t.bumpCtx c 24 1).traceFrom core c h record tmin n (sorted.map (fun q => { e with ref := q.2, tin := q.1 }) ++ rest) tcur best
          else if field v (8 * 115 + 6) 2 != 0 || field v 928 96 != 0 then .error low t
          else
            let (best, tcur, done) := blockHits b e record tmin 3 tcur best
            if done then (match best with
              | some b => .occluded b t
              | none => .miss t)
            else t.traceFrom core c h record tmin n rest tcur best

/-- The trace of a ray (R57). -/
def State.trace (s : State) (core c : Nat) (h : BitVec 512) (record : BitVec 1024) : TraceEnd :=
  match rayOrg record, rayDir record, f32Int (rayWord record 3) with
  | some o, some d, some tmin =>
    s.traceFrom core c h record tmin (32 * hdrNtreelet h * (hdrNinst h + 1))
      [{ ref := 32 * hdrRoot h, o := o, d := d, inst := none, tin := .ofUnits tmin }] (boundOf (rayWord record 7)) none
  | _, _, _ => .miss s

/-- The hit record of a hit, its locator and class (R44, R255). -/
def Best.record (b : Best) : BitVec 256 × Nat :=
  let (i, iid, sbase) := match b.inst with
    | some (i, r) => (i, instIid r, instSbase r)
    | none => (noIndex, 0, 0)
  let cls := (sbase + b.cls) % 256
  (hitRecord b.tp b.up b.vp b.prim i iid (1 + (if b.back then 2 else 0) + 256 * cls) b.treelet, cls)

end Sys2Proof.Machine
end

