-- ==== Sys2Proof/Machine/RayOps.lean ====
section
/-! DEFINITION. The ray instructions (14 R247 to R256; 02 R46, R60, R61, R63). -/

namespace Sys2Proof.Machine

/-! ## Common (R248) -/

/-- Lanes that act: those that hold a ray, in an episode (R249, R250). -/
def Wave.rayLanes (w : Wave) (x : XF) : BitVec 64 := if w.kind = .episode then laneSet w x &&& w.filled else laneSet w x

/-- A generation or an episode wave. -/
def Wave.ofRayLaunch (w : Wave) : Bool := w.kind = .generation || w.kind = .episode

/-- The poison check of remit and rcont: the record registers of the lanes that act (R248). -/
def recordPoison (s : State) (w : Wave) (n : Norm) : Option Res :=
  if w.exemptPoison then none
  else
    let p := poisonLanes s w (w.rayLanes n.x) [.v n.x.sa.toNat 32]
    if p == 0 then none else some (.trap s causePoisonConsumed 0 p)

/-- The record of a lane (R249). -/
def State.laneRecord (s : State) (w : Wave) (n : Norm) (L : Nat) : BitVec 1024 := BitVec.ofNat 1024 (s.vwords w n.x.sa.toNat L 32)

/-- Logs an invalid record (R43, R377). Its class field is 0, since the spec gives such a record no class (DESIGN CHOICE, log entry
86). -/
def State.logInvalid (s : State) (w : Wave) (record : BitVec 1024) (L : Nat) : State :=
  match s.launch? w.launch with
  | some l => s.logRay l (bufCore w.core) w.slot eventRecordInvalid (rayPixel record) 0 L (rayCheck record)
  | none => s

/-- The ray part of a wave's launch. -/
def State.rayPart (s : State) (w : Wave) : Option RayLaunch := (s.launch? w.launch).bind (·.ray)

/-! ## Placing rays (R46, R249) -/

/-- One lane of remit. -/
def remitLane (n : Norm) (w : Wave) (s : State) (L : Nat) : State :=
  let record := s.laneRecord w n L
  let s := if rayCheck record == 0 then s.placeRay w.launch record else s.logInvalid w record L
  if w.kind = .episode then s.modWave w.core w.slot (fun w => w.setRay L { w.ray L with emitted := true }) else s

def remitOp (_r : Row) (n : Norm) (s : State) : Res :=
  match s.curWave with
  | none => .done s
  | some w =>
    match recordPoison s w n with
    | some r => r
    | none =>
      match w.ofRayLaunch, s.rayPart w with
      | true, some rl =>
        let lanes := lanesOf (w.rayLanes n.x)
        let valid := (lanes.filter (fun L => rayCheck (s.laneRecord w n L) == 0)).length
        if w.kind = .generation && 7 * rl.cap < 8 * (rl.rays.length + valid) then .wait s (.retry 8 true)
        else if w.kind = .episode && rl.cap < rl.rays.length + valid then .trap s causeRayPoolExhausted 0 0
        else if w.pathFull 5 then .wait s (.retry 9 false)
        else .done ((lanes.foldl (remitLane n w) s).countDone w 5)
      | _, _ => .trap s causeRayContext 0 0

/-! ## Dispositions (R61, R250) -/

/-- A lane of the lane set that holds a ray already has a disposition. -/
def Wave.disposed (w : Wave) (x : XF) : Bool := w.rayLanes x &&& w.rdisp != 0

/-- One lane of rcont. -/
def rcontLane (n : Norm) (w : Wave) (s : State) (L : Nat) : State :=
  let record := s.laneRecord w n L
  match (w.ray L).slot with
  | none => s
  | some slot =>
    if rayCheck record != 0 then (((s.logInvalid w record L).retireRay w.launch slot).dispose w L 2)
    else
      let s := s.dispose w L 1
      match s.ray? w.launch slot with
      | some y => s.enterNeeds w.launch { y with record := record }
      | none => s

def rcontOp (_r : Row) (n : Norm) (s : State) : Res :=
  match s.curWave with
  | none => .done s
  | some w =>
    match recordPoison s w n with
    | some r => r
    | none =>
      if w.kind != .episode then .trap s causeRayContext 0 0
      else if w.disposed n.x then .trap s causeRayDisposition 0 0
      else if w.pathFull 5 then .wait s (.retry 9 false)
      else .done (((lanesOf (w.rayLanes n.x)).foldl (rcontLane n w) s).countDone w 5)

def rretireOp (_r : Row) (n : Norm) (s : State) : Res :=
  match s.curWave with
  | none => .done s
  | some w =>
    if w.kind != .episode then .trap s causeRayContext 0 0
    else if w.disposed n.x then .trap s causeRayDisposition 0 0
    else if w.pathFull 5 then .wait s (.retry 9 false)
    else .done (((lanesOf (w.rayLanes n.x)).foldl (fun s L =>
      match (w.ray L).slot with
      | some slot => (s.retireRay w.launch slot).dispose w L 2
      | none => s) s).countDone w 5)

/-- epend (R253): the lanes are settled, and the wave ends or takes a fresh emission once its work has completed. -/
def ependOp (_r : Row) (_n : Norm) (s : State) : Res :=
  match s.curWave with
  | none => .done s
  | some w =>
    if w.kind != .episode then .trap s causeRayContext 0 0
    else .wait (s.settleLanes w) (.exiting true)

/-! ## racc (R63, R252) -/

/-- A sample as I64 with 32 fraction bits (R63, R170). -/
def accumConv (p : Nat) : BitVec 64 :=
  match fmtF32.value p with
  | .nan _ => 0
  | v => BitVec.ofNat 64 (toIntPat (match v with
      | .num neg m e => .num neg m (e + 32)
      | v => v) 64 true 0).1

/-- The five updates of one lane at its entry. -/
def accumElems (s : State) (w : Wave) (n : Norm) (q : Req × List Part) : List Elem :=
  match q.1.lane, q.2 with
  | some L, p :: _ =>
    match p.place with
    | .found pa kind =>
      let v (i : Nat) : BitVec 64 := accumConv (s.vrd w (n.x.d.toNat + i) L).toNat
      let part (off bytes op type : Nat) (a : BitVec 64) : Elem :=
        { lane := some L, va := some (p.va.toNat + off), pa := pa + off, bytes := bytes, mask := allBytes bytes,
          op := .rmw op type a 0, data := 0, kind := kind, scope := scopeDie, at_ := 0, port := none, bad := false }
      [part 0 8 0 3 (v 0), part 8 8 0 3 (v 1), part 16 8 0 3 (v 2), part 24 4 0 1 (n.x.disp.setWidth 64),
       part 28 4 4 1 ((s.vrd w (n.x.d.toNat + 3) L).setWidth 64)]
    | _ => []
  | _, _ => []

def raccOp (r : Row) (n : Norm) (s : State) : Res :=
  match s.curWave with
  | none => .done s
  | some w =>
    let index (L : Nat) : Nat := (s.laneOpnd w n r.sb n.x.sb L).toNat % 2 ^ 32
    let reqs : List Req := (lanesOf (laneSet w n.x)).map (fun L =>
      { lane := some L, off := 32 * index L, bytes := 32, mask := allBytes 32, data := 0, op := .rmw 0 3 0 0 })
    match s.check w .accumulate n.x false reqs with
    | .ends r => r
    | .ok l _ t =>
      let es := l.flatMap (accumElems s w n)
      match if es.any (t.elemPoisoned w) then atomPoisoned (fun _ => 5) t w es .none 0
          else issueOn (fun _ => 5) t w es .none 0 [] w.stseq with
      | .wait u x => .wait u x
      | .done u => .done (u.bumpCtx w.ctx 26 l.length)
      | .trapNext u c a m => .trapNext (u.bumpCtx w.ctx 26 l.length) c a m
      | r => r

/-! ## Key parts (R254) -/

/-- rcell and rdircls: a value of three components; `none` for an invalid input. -/
def keyPartOp (f : BitVec 512 → V3 → Option Nat) (_r : Row) (n : Norm) (s : State) : Res :=
  match s.curWave with
  | none => .done s
  | some w =>
    match w.ofRayLaunch, s.rayPart w with
    | true, some rl =>
      let comp (i L : Nat) : Nat := (s.vrd w (n.x.sa.toNat + i) L).toNat
      let val (L : Nat) : Nat := match v3Of (comp 0 L) (comp 1 L) (comp 2 L) with
        | some v => (f rl.header v).getD noIndex
        | none => noIndex
      .done (s.vputAll w n.x.d.toNat 1 ((lanesOf (laneSet w n.x)).map (fun L => (L, BitVec.ofNat 64 (val L)))))
    | _, _ => .trap s causeRayContext 0 0

def rcellOp : Row → Norm → State → Res := keyPartOp (fun h v => some (originCell h v))
def rdirclsOp : Row → Norm → State → Res := keyPartOp (fun _ v => if v.isZero then none else some (directionClass v))

/-! ## Scene reads (R255) -/

/-- Loads words of the scene at an address for each lane that has one; the other lanes write zero. -/
def sceneLoad (s : State) (w : Wave) (n : Norm) (regs : Nat) (addr : Nat → Option Nat) : Res :=
  let lanes := lanesOf (laneSet w n.x)
  let reqs : List Req := lanes.filterMap (fun L => (addr L).map (fun a =>
    { lane := some L, off := a % 2 ^ 64, bytes := 4 * regs, mask := allBytes (4 * regs), data := 0, op := .load }))
  match s.checkReqs .load BReg.none 0 reqs with
  | .ends r => r
  | .ok l _ t =>
    match issueElems t w (elemsOf false 0 l) (.vec n.x.d.toNat (4 * regs) false) (reqLanes reqs) [] w.stseq with
    | .done u =>
      let rest := lanes.filter (fun L => (addr L).isNone)
      .done ((List.range regs).foldl (fun u i => u.vputAll w (n.x.d.toNat + i) 1 (rest.map (fun L => (L, 0)))) u)
    | r => r

/-- rhit: vertex j of the triangle that the lane's locator names; a lane without one writes +0. -/
def rhitOp (r : Row) (n : Norm) (s : State) : Res :=
  match s.curWave with
  | none => .done s
  | some w =>
    match w.kind, s.rayPart w with
    | .episode, some rl =>
      let j := (s.laneOpnd w n r.sb n.x.sb 0).toNat % 2 ^ 32
      if 2 < j then .trap s causeIllegalOperand 0 0
      else sceneLoad s w n 3 (fun L =>
        let y := w.ray L
        if y.slot.isNone || 3 ≤ y.hitJ then none
        else some (hdrTbase rl.header + 4096 * y.hitTreelet + 128 * y.hitSlot + 36 * y.hitJ + 12 * j))
    | _, _ => .trap s causeRayContext 0 0

/-- rinst and rxform: 16 bytes of the instance record that a lane's index names. -/
def instanceOp (off : Norm → Nat) (r : Row) (n : Norm) (s : State) : Res :=
  match s.curWave with
  | none => .done s
  | some w =>
    match w.ofRayLaunch, s.rayPart w with
    | true, some rl =>
      let index (L : Nat) : Nat := (s.laneOpnd w n r.sb n.x.sb L).toNat % 2 ^ 32
      let lanes := lanesOf (laneSet w n.x)
      if lanes.any (fun L => index L != noIndex && hdrNinst rl.header ≤ index L) then .trap s causeIllegalOperand 0 0
      else sceneLoad s w n 4 (fun L => if index L == noIndex then none else some (hdrIbase rl.header + 64 * index L + off n))
    | _, _ => .trap s causeRayContext 0 0

def rinstOp : Row → Norm → State → Res := instanceOp (fun _ => 48)
def rxformOp : Row → Norm → State → Res := instanceOp (fun n => 16 * n.x.shape.toNat)

end Sys2Proof.Machine
end

