-- ==== Sys2Proof/Machine/Ends.lean ====
section
/-! DEFINITION. How work ends: waves, Spindle programs, blocks, tasks and launches, and the termination of a context
(01 R25, R33 to R36; 02 R61, R65; 03 R68; 13 R253; 21 R331, R332; 22 R349). -/

namespace Sys2Proof.Machine

/-! ## Tests -/

/-- No counter of the wave is above 0, and every copy token is idle (R25, R208). -/
def Wave.quiet (w : Wave) : Bool := w.flight.isEmpty && (List.range 8).all (fun t => !(w.token t).busy)

/-- Blocks of a ray launch numbered from here are episode emissions. -/
def episodeBase : Nat := 2 ^ 32

/-- The block is an episode emission. -/
def Block.isEpisode (s : State) (b : Block) : Bool :=
  episodeBase ≤ b.index && (match s.launch? b.launch with
    | some l => l.kind == 1
    | none => false)

/-! ## Fault records of the scheduler and of task pools (R25, R332) -/

/-- A KIND 6 record: an increment of DONE_TL dropped with its cause. -/
def State.doneDropped (s : State) (l : Launch) (cause : Nat) : State :=
  let va := recDoneTl l.record
  s.makeFault l.ctx { kind := 6, cause := cause, vaddr := va, tag := 0, access := 8, unit_ := 7, slot := 0xFF, core := 0xFFFF,
                      payload := words4 va (BitVec.ofNat 64 l.num) 0 0 } bufSched 0x45

/-- A KIND 4 record: a task or successor cell. -/
def State.taskFault (s : State) (c cause access : Nat) (a : BitVec 64) : State :=
  s.makeFault c { kind := 4, cause := cause, vaddr := a, tag := 0, access := access, unit_ := 5, slot := 0xFF, core := 0xFFFF,
                  payload := words4 a 0 0 0 } bufSched 0x45

/-- A cell of 16 bytes that the device updates in a context: its place, or the cause it meets. -/
inductive CellAt where
  | ok (pa : Nat) (s : State)
  | cause (c : Nat) (s : State)

/-- Places a cell for a supervisor read and write (R25, R33). -/
def State.deviceCell (s : State) (c : Nat) (va : BitVec 64) (align : Nat) : CellAt :=
  match s.enginePlace 0 c Need.device [] (plainBad c) (pageCuts va 16) with
  | .cause k _ t => .cause k t
  | .missing _ cow _ t => .cause (if cow then causeCopyOnWrite else causePageMissing) t
  | .ok ps t =>
    match ps with
    | [p] => if va.toNat % 16 != 0 || 4 < paSpace p.pa then .cause align t else if t.anyPoison p.pa 16 then .cause causePoison t else .ok p.pa t
    | _ => .cause align t

/-- The DONE_TL increment of a launch that ends (R25): a tlinc of 1, dropped when it meets a cause. -/
def State.doneIncrement (s : State) (l : Launch) : State :=
  let va := recDoneTl l.record
  if va == 0 then s
  else match s.deviceCell l.ctx va causeTimelineCell with
    | .cause k t => t.doneDropped l k
    | .ok pa t =>
      let (v, t) := t.l2Read l.ctx pa 16
      if v / 2 ^ 96 != 0 then t.doneDropped l causeTimelineCell
      else t.timelineWrite (schedWho l.ctx) va.toNat pa true 1

/-! ## Tasks (R33) -/

/-- Enqueues a successor: a copy of the 64 bytes at TASK, unless the ring is full (R33). -/
def State.enqueueSuccessor (s : State) (num c : Nat) (va : BitVec 64) (scope : Nat) : State :=
  match s.launch? num with
  | none => s
  | some l =>
    if va.toNat % 64 != 0 then s.logCtx bufSched 0x49 c 0x45 causeTaskRecord va
    else match s.devRead 0 c [] va 64 (Need.load false) with
      | .cause k a t => t.taskFault c k 1 a
      | .missing _ a t => t.taskFault c causePageMissing 1 a
      | .data v t =>
        if l.ringFull then (t.setLaunch { l with stuck := true }).taskFault c causeRingFull 1 va
        else
          let r := BitVec.ofNat 512 v
          (t.ringWrite num r).queueTask num r scope

/-- COMPLETE_TASK: the decrement of a task's successor cell (R33). -/
def State.completeTask (s : State) (w : Wave) : State :=
  let va := BitVec.ofNat 64 w.taskSucc
  let scope := if w.taskWide then scopeSystem else scopeDie
  if w.taskSucc == 0 then s
  else match s.deviceCell w.ctx va causeAtomicAlign with
    | .cause k t => t.taskFault w.ctx k 8 va
    | .ok pa t =>
      let t := t.acquireAll w.core w.ctx
      let (v, t) := t.l2Read w.ctx pa 16
      let count := v % 2 ^ 64
      if count == 0 then t.logCtx bufSched 0x49 w.ctx 0x45 causeUnderflow va
      else
        let t := t.l2Put w.who pa 8 (count - 1)
        if count == 1 && v / 2 ^ 64 != 0 then t.enqueueSuccessor w.launch w.ctx (BitVec.ofNat 64 (v / 2 ^ 64)) scope else t

/-! ## A wave leaves its block (R25, R35, R36, R232) -/

/-- The block of a wave that has left: its expected count, its arrivals, its pool and its claims. -/
def State.leaveBlock (s : State) (w : Wave) : State :=
  match s.block? w.launch w.block with
  | none => s
  | some b =>
    let b := b.leave w.wid
    (s.setBlock { b with pool := b.pool ++ w.blocks.reverse, claims := b.claims.filter (fun i => i != w.wid) }).claimDeadlock
      w.launch w.block

/-- The write-back of the release that exit implies, whose faults go to the wave's own queue (R25, R120, R127). -/
def State.exitRelease (s : State) (w : Wave) (scope : Nat) : State :=
  s.forWave w.core w.slot (fun s => (s.releaseStep scope).2)

/-- Scope of the release that a wave's exit implies (R25, R33, R61). -/
def State.exitScope (s : State) (w : Wave) : Nat :=
  match w.kind with
  | .task => if w.taskWide then scopeSystem else scopeDie
  | .episode => scopeDie
  | _ => let r := s.recordOf w.launch; levelScope r (ctlTop r) + 1

/-- What the device holds for a wave beside the wave itself. -/
def State.forget (s : State) (core slot : Nat) : State :=
  let s := s.dropSpnRequest core slot
  { s with waiters := s.waiters.filter (fun t => !(t.core == core && t.slot == slot)) }

/-- A wave leaves the device with an ending cause, 0 for exit and epend: its store-fault records go to the context's fault
queue, the recorder notes it, and its block loses it (R25, R281, R349, R377). -/
def State.waveLeaves (s : State) (w : Wave) (cause : Nat) : State :=
  let s := w.sfq.foldl (fun s r => s.sfToQueue w.ctx w.core w.slot r (if (r.extractLsb' 181 2) == 1 then 6 else 0)) s
  let s := s.logWave w 0x25 cause w.pc
  ((s.forget w.core w.slot).dropWave w.core w.slot).leaveBlock w

/-- WAVE_EXIT_COMPLETE: a wave that exits or has ended leaves once its accesses have completed (R25, R349). -/
def State.finishWave (s : State) (core slot : Nat) : State :=
  match s.wave? core slot with
  | none => s
  | some w =>
    if !w.quiet then s
    else match w.wait with
      | .ended cause => s.waveLeaves w cause
      | .exiting _ =>
        let s := s.exitRelease w (s.exitScope w)
        let s := if w.kind = .task then s.completeTask w else s
        match s.wave? core slot with
        | some v => s.waveLeaves v 0
        | none => s
      | _ => s

/-! ## Spindle programs, blocks and launches (R25, R34, R65, R68) -/

/-- A program that exits or has ended leaves once its issued operations have completed; the Spindle core has no L1, so that
its implied release writes nothing back (R68, R349). -/
def State.finishSpindle (s : State) (p : Spindle) : State :=
  if !p.ops.isEmpty then s
  else match p.wait with
    | .exiting _ => (s.logSpindle p 0x25 0 p.pc).dropSpindle p.cluster
    | .ended cause => (s.logSpindle p 0x25 cause p.pc).dropSpindle p.cluster
    | _ => s

/-- Homes with this added to their level stand for blocks that have ended (R27). -/
def homeEnded : Nat := 8

/-- Domain instance of a core: cluster, quarter, die, or the pair; cores 128 to 255 are the paired die's (R21). -/
def domainOf (dom core : Nat) : Nat := if dom == 2 then core / 4 else if dom == 3 then core / 32 else if dom == 4 then core / 128 else 0

/-- Levels above the block level that bind to a cluster or wider, with the blocks of one unit (R27). -/
def unitLevels (r : BitVec 512) : List (Nat × Nat) :=
  ((List.range (ctlTop r + 1)).filter (fun i => blockLevel r < i && 2 ≤ levelDomain r i)).map (fun i =>
    (i, extentProduct r (blockLevel r + 1) i))

/-- Notes where a block of a launch stands, or has ended. -/
def Launch.note (l : Launch) (block core : Nat) (ended : Bool) : Launch :=
  { l with homes := (unitLevels l.record).foldl (fun hs u =>
      let h := (if ended then u.1 + homeEnded else u.1, block / u.2, domainOf (levelDomain l.record u.1) core)
      if hs.contains h then hs else h :: hs) l.homes }

/-- A block that has no wave and no Spindle program left ends (R25, R33, R68). -/
def State.endBlock (s : State) (b : Block) : State :=
  if b.alive != 0 || b.phase != .running || s.spindles.any (fun p => p.launch == b.launch && p.block == b.index) then s
  else
    let t := { s with blocks := s.blocks.filter (fun c => !c.at b.launch b.index) }
    t.modLaunch b.launch (fun l =>
      if l.kind == 2 then { l with held := l.held - 1 }
      else if l.kind == 1 && episodeBase ≤ b.index then l
      else { l.note b.index b.core true with ended := l.ended + 1 })

/-- The blocks of the paired die that have ended there. -/
def State.endAway (s : State) : State :=
  (s.away.filter (fun a => a.ends ≤ s.cyc)).foldl (fun s a =>
    { s with away := s.away.erase a }.modLaunch a.launch (fun l => { l.note a.block a.core true with ended := l.ended + 1 })) s

/-- The launch is over (R25, R34, R65). -/
def State.launchOver (s : State) (l : Launch) : Bool :=
  let resident := s.blocks.any (fun b => b.launch == l.num)
  let placed := l.kind == 2 || (l.next == totalBlocks l.record && l.ended == totalBlocks l.record)
  placed && !resident && !s.away.any (fun a => a.launch == l.num) && l.saved.isEmpty && l.tasks.isEmpty && (match l.ray with
    | some r => r.rays.isEmpty && !s.batches.any (fun b => b.launch == l.num) && !s.emissions.any (fun e => e.launch == l.num)
    | none => true)

/-- A launch that is over increments DONE_TL and leaves (R25, R34, R65). -/
def State.endLaunch (s : State) (l : Launch) : State :=
  if !s.launchOver l then s
  else
    let s := s.doneIncrement l
    let s := if s.evrOn 1 then s.logCtx bufSched 0x40 l.ctx 0x45 l.num (recDoneTl l.record) else s
    ({ s with launches := s.launches.filter (fun m => m.num != l.num) }).sweepStalls

/-- What follows when work has ended: Spindle programs, then blocks, then launches. -/
def State.settleEnds (s : State) : State :=
  let s := s.spindles.foldl (fun s p => s.finishSpindle p) s
  let s := (s.blocks.foldl (fun s b => s.endBlock b) s).endAway
  s.launches.foldl (fun s l => s.endLaunch l) s

/-! ## Termination of a context (R349) -/

/-- A FREEZE is broadcast (R379). -/
def State.raiseFreeze (s : State) (f : Freeze) : State := { s with freezes := s.freezes ++ [{ f with toReach := List.range bufCount }] }

/-- The issued accesses of a wave complete. -/
def State.completeFlight (s : State) (w : Wave) : State :=
  w.flight.foldl (fun s a => if a.done then s else s.performAll w.core w.slot a.id a.elems) s

/-- The work of the Porter for a wave stops: lines it wrote are dropped, its range locks go. -/
def State.stopCopies (s : State) (w : Wave) : State :=
  (List.range 8).foldl (fun s i => match (w.token i).copy with
    | some c => s.copyRelease w i c
    | none => s) s

/-- The drains of a Spindle program stop. -/
def State.stopDrains (s : State) (p : Spindle) : State :=
  (p.ops.filterMap (·.drain)).foldl (fun s d => (s.dropWritten p.cluster d.wrote).unlock p.cluster none) s

/-- Dirty lines of a context are written back, without a record where the page is no longer writable, and dropped. -/
def State.flushContext (s : State) (c : Nat) : State :=
  (s.l1.filter (fun l => l.ctx == c)).foldl (fun s l => (s.writeBack l).2.l1Drop l) s

/-- Everything of a context leaves the device. -/
def State.dropContext (s : State) (c : Nat) : State :=
  let nums := (s.launches.filter (fun l => l.ctx == c)).map (·.num)
  let mine (w : Wave) : Bool := w.ctx == c
  let gone := s.waves.filter mine
  let s := (s.tags.filter (fun t => t.ctx == c)).foldl (fun s t => s.freeTagOf t) s
  ({ s with
      waves := s.waves.filter (fun w => !mine w),
      blocks := s.blocks.filter (fun b => b.ctx != c),
      away := s.away.filter (fun a => a.ctx != c),
      spindles := s.spindles.filter (fun p => p.ctx != c),
      spnReqs := s.spnReqs.filter (fun q => !gone.any (fun w => w.core == q.core && w.slot == q.slot)),
      locks := s.locks.filter (fun l => l.ctx != c),
      waiters := s.waiters.filter (fun t => t.ctx != c),
      walks := s.walks.filter (fun w => w.ctx != c),
      batches := s.batches.filter (fun b => !nums.contains b.launch),
      emissions := s.emissions.filter (fun e => !nums.contains e.launch),
      launches := s.launches.filter (fun l => l.ctx != c) }).sweepStalls

/-- CONTEXT_TERMINATION: issued accesses complete, dirty lines are written back, everything of the context is freed, its
launches end without an increment, ENABLE becomes 0 and STATE 3 (R349); the recorder marks it (R377, R379) (DEDUCED, log entry 74). -/
def State.terminate (s : State) (c cause : Nat) : State :=
  let waves := s.waves.filter (fun w => w.ctx == c)
  let began := s.clk.toNat
  let s := waves.foldl (fun s w => s.completeFlight w) s
  let s := waves.foldl (fun s w => s.stopCopies w) s
  let progs := s.spindles.filter (fun p => p.ctx == c)
  let s := progs.foldl (fun s p => s.stopDrains p) s
  let s := s.flushContext c
  let s := waves.foldl (fun s w => match s.wave? w.core w.slot with
    | some v => s.logWave v 0x25 cause v.pc
    | none => s) s
  let s := progs.foldl (fun s p => s.logSpindle p 0x25 cause p.pc) s
  let s := s.dropContext c
  let s := s.ctlSet (.ctxCtl c) 0 1 0
  let s := (s.ctlSet (.pre c) 0 1 0).ctlSet (.dbg c) 3 1 0
  let x := s.ctx c
  let s := s.setCtx c { Ctx.idle with seq := x.seq, held := x.held, dropped := x.dropped, lastQueue := x.lastQueue, terminated := true }
  let s := s.setPreState c 3
  let s := s.logCtx bufSched 0x30 c 0x7D cause (BitVec.ofNat 64 (s.ctlField (.pre c) 16 16))
  s.raiseFreeze { full := false, t := began, cause := cause, reason := 1, okind := 5, oindex := 0, ctx := c, source := 2,
                  toReach := [], opened := false, requester := none }

/-- Contexts that a wave's ending cause terminates: class 9, details 4 to 7 (R336). -/
def terminatingCause (k : Nat) : Bool := 0x124 ≤ k && k ≤ 0x127

/-- Terminates the contexts whose waves have ended with such a cause. -/
def State.settleTerminations (s : State) : State :=
  s.waves.foldl (fun s w => match w.wait with
    | .ended k => if terminatingCause k && (s.wave? w.core w.slot).isSome then s.terminate w.ctx k else s
    | _ => s) s

end Sys2Proof.Machine
end

