-- ==== Sys2Proof/Machine/Frames.lean ====
section
/-! DEFINITION. The save region: its directory, block frames, wave control records, and the device's reads and writes of them
(22 R342 to R344). -/

namespace Sys2Proof.Machine

/-! ## The region (R342) -/

/-- Granules of the save region; 0 for a SIZELOG out of range. -/
def State.saveGranules (s : State) (c : Nat) : Nat :=
  let n := s.ctlField (.save c) 0 5
  if 3 ≤ n && n ≤ 20 then 2 ^ n else 0

/-- Virtual address of a byte of the save region. -/
def State.saveVa (s : State) (c off : Nat) : BitVec 64 := sext57 (s.ctlField (.save c) 16 41 * 65536 + off)

/-- Virtual address of a byte of a frame. -/
def State.frameVa (s : State) (c : Nat) (f : Frame) (off : Nat) : BitVec 64 := s.saveVa c (65536 * f.first + off)

/-- Bytes cut at page boundaries, the first at an aligned or unaligned address. -/
def manyCuts (va : BitVec 64) (n : Nat) : Nat → List (BitVec 64 × Nat)
  | 0 => []
  | fuel + 1 =>
    let k := min n (4096 - va.toNat % 4096)
    if n ≤ k then [(va, n)] else (va, k) :: manyCuts (va + BitVec.ofNat 64 k) (n - k) fuel

/-- The bytes of a save or restore are counted by no counter (R390). -/
def State.uncounted (s t : State) : State := { t with ctl := s.ctl }

/-- Writes n bytes of the save region, as a supervisor store at the L2; `none` when it meets a translation cause (R342). -/
def State.saveWrite (s : State) (c : Nat) (va : BitVec 64) (n v : Nat) : Option State :=
  match s.enginePlace 0 c (Need.store false) [] (plainBad c) (manyCuts va n (n / 4096 + 2)) with
  | .ok ps t => some (s.uncounted (t.engineWrite { buf := bufSched, ctx := c, slot := 0x45 } v ps))
  | _ => none

/-- Reads n bytes of the save region. -/
def State.saveRead (s : State) (c : Nat) (va : BitVec 64) (n : Nat) : Option (Nat × State) :=
  match s.enginePlace 0 c (Need.load false) [] (plainBad c) (manyCuts va n (n / 4096 + 2)) with
  | .ok ps t =>
    match t.piecesPoisoned ps with
    | some _ => none
    | none =>
      match t.engineRead c ps with
      | (v, false, u) => some (v, s.uncounted u)
      | (_, true, _) => none
  | _ => none

/-- Frames that the context's launches hold in the region. -/
def State.framesOf (s : State) (c : Nat) : List Frame :=
  (s.launches.filter (fun l => l.ctx == c)).flatMap (fun l => l.saved.map (·.frame) ++ (match l.ray with
    | some r => r.cold.toList
    | none => []))

/-- The lowest run of free granules from granule 4, and the lowest free entry (R342). -/
def State.allocFrame (s : State) (c count : Nat) : Option Frame :=
  let fs := s.framesOf c
  let total := s.saveGranules c
  let busy (g : Nat) : Bool := fs.any (fun f => f.first ≤ g && g < f.first + f.count)
  let starts := 4 :: (fs.map (fun f => f.first + f.count))
  let ok (g : Nat) : Bool := g + count ≤ total && (List.range count).all (fun i => !busy (g + i))
  match (starts.filter ok).foldl (fun o g => match o with
      | none => some g
      | some h => some (min g h)) (none : Option Nat),
    (List.range 16384).find? (fun e => !fs.any (fun f => f.entry == e)) with
  | some g, some e => some { entry := e, first := g, count := count }
  | _, _ => none

/-- Writes a directory entry: KIND 0 frees it. -/
def State.writeEntry (s : State) (c : Nat) (f : Frame) (block lnum kind : Nat) : Option State :=
  s.saveWrite c (s.saveVa c (16 * f.entry)) 16
    (if kind == 0 then 0 else f.first + 2 ^ 32 * f.count + 2 ^ 64 * (block % 2 ^ 32) + 2 ^ 96 * (lnum % 512) + 2 ^ 112 * kind)

/-! ## A block frame (R343) -/

def waveFrameSize : Nat := 0x13000

/-- Offset of wave w's frame. -/
def waveFrameOff (w : Nat) : Nat := 0x1000 + waveFrameSize * w

/-- Offset of the Spindle image. -/
def spindleOff (waves scratch : Nat) : Nat := (waveFrameOff waves + scratch + 4095) / 4096 * 4096

/-- Bytes of a Spindle image (R346). -/
def spindleImageSize : Nat := 0x105000 + 0x4800 * 32

/-- Granules of a block frame. -/
def blockFrameGranules (waves scratch : Nat) (spindle : Bool) : Nat :=
  let n := if spindle then spindleOff waves scratch + spindleImageSize else waveFrameOff waves + scratch
  (n + 65535) / 65536

/-- The block header as 0x1000 bytes. -/
def blockHeader (b : Block) (blk : Nat) (spindle : Bool) (pool : Nat) : Nat :=
  b.launch % 2 ^ 9 + 2 ^ 16 * b.waves + (if spindle then 2 ^ 24 else 0) + 2 ^ 32 * (blk % 2 ^ 32) + 2 ^ 64 * b.scrSize
    + 2 ^ 96 * pool + 2 ^ 128 * b.alive.toNat
    + (List.range 32).foldl (fun a j =>
        let t := b.bar j
        a + (t.phase.toNat + 2 ^ 64 * t.arrived.toNat) * 2 ^ (8 * (0x100 + 16 * j))) 0

/-- The bits of a header that a restore finds nonzero although they are reserved: of bytes 0 to 1 above LNUM, of byte 3 above
FLAGS. -/
def headerReserved (v : Nat) : Bool :=
  field v 9 7 != 0 || field v 25 7 != 0 || field v (8 * 24) (8 * (0x100 - 24)) != 0 || field v (8 * 0x300) (8 * 0xD00) != 0
    || (List.range 32).any (fun j => field v (8 * (0x100 + 16 * j + 4)) 32 != 0)

/-! ## The wave control record (R344) -/

def WKind.code : WKind → Nat
  | .compute => 0
  | .generation => 1
  | .episode => 2
  | .task => 3

def WKind.ofCode (n : Nat) : WKind := if n == 1 then .generation else if n == 2 then .episode else if n == 3 then .task else .compute

/-- The STATE word of a wave whose wait is w.wait. -/
def Wave.stateWord (w : Wave) (wait : Wait) (pending forced : Bool) : Nat :=
  let b (x : Bool) (i : Nat) : Nat := if x then 2 ^ i else 0
  w.kind.code + b forced 3
    + (match wait with
      | .parked _ => 2 ^ 4
      | .barrier _ _ _ => 2 ^ 5
      | .timeline true _ => 2 ^ 6
      | .claim n => b (n != 0) 7
      | _ => 0)
    + b (w.tlrel == some w.pc && !(match wait with
        | .timeline true _ => true
        | _ => false)) 6
    + b w.tmrMask 8 + b pending 9 + 2 ^ 16 * w.blocks.length + 2 ^ 32 * w.wid

/-- Token t in 256 bytes: progress word, group, what the copy is, source and destination records. -/
def tokenImage (t : Token) : Nat :=
  t.word.toNat + (match t.copy with
    | some c => 2 ^ 128 * c.group.toNat + 2 ^ 384 * ((if c.red then 1 else 0) + 2 * (c.shape % 32) + 64 * (c.type % 32))
        + 2 ^ 512 * c.src.toNat + 2 ^ 1024 * c.dst.toNat
    | none => 0)

/-- Lane L's RAYLANE. -/
def rayLaneImage (r : RayLane) : Nat :=
  r.slot.getD noIndex + 2 ^ 32 * (r.hitSlot % 32 + 32 * (r.hitTreelet % 2 ^ 25) + 2 ^ 30 * (r.hitJ % 4))

/-- A sum of values at byte offsets. -/
def atOffsets (l : List (Nat × Nat)) : Nat := l.foldl (fun a p => a + p.2 * 2 ^ (8 * p.1)) 0

/-- The control record of a wave as 0x2000 bytes (R344). -/
def State.controlRecord (s : State) (w : Wave) (wait : Wait) (forced : Bool) : Nat :=
  let tags := match wait with
    | .parked ts => ts
    | _ => []
  let (slot, phase) := match wait with
    | .barrier i p _ => (i, p.toNat)
    | _ => (0, 0)
  let claim := match wait with
    | .claim n => n
    | _ => 0
  let launchSlot := match s.rayPart w with
    | some r => r.slot
    | none => 0
  atOffsets
    ([(0, w.pc.toNat), (8, w.stateWord wait (w.tmrPend || s.timerMatched w) forced), (0x10, w.fflags.toNat),
      (0x18, w.tmrcmp.toNat), (0x20, w.uret.toNat), (0x28, w.ucause.toNat), (0x30, if w.wsat then 1 else 0),
      (0x38, slot % 32 + 2 ^ 32 * phase), (0x40, w.ws.toNat), (0x100, tags.length), (0x108, w.sfq.length),
      (0x110, w.rdisp.toNat), (0x118, w.rems.toNat), (0x120, if w.kind = .episode then w.cls + 256 * launchSlot else 0),
      (0x128, claim), (0x130, w.stseq.toNat)]
     ++ (List.range 16).map (fun i => (0x80 + 8 * i, (w.k.rd i).toNat))
     ++ (List.range 64).map (fun L => (0x200 + 8 * L, rayLaneImage (w.ray L)))
     ++ tags.zipIdx.map (fun p => (0x400 + 4 * p.2, p.1.toNat))
     ++ w.sfq.zipIdx.map (fun p => (0x600 + 32 * p.2, p.1.toNat))
     ++ (List.range 8).map (fun t => (0xE00 + 256 * t, tokenImage (w.token t)))
     ++ (List.range (8 * w.blocks.length)).map (fun n => (0x1600 + 8 * n, (laneMask (fun L => s.vmarked w n L 1)).toNat))
     ++ [(0x1E00, w.sMark.foldl (fun a n => a ||| 2 ^ n) 0)])

/-- A control record has a nonzero byte where it must hold zero, or a reserved value. -/
def controlReserved (v : Nat) : Bool :=
  let st := field v 64 64
  let zero (lo hi : Nat) : Bool := field v (8 * lo) (8 * (hi - lo)) != 0
  field st 38 26 != 0 || field st 22 10 != 0 || field st 10 6 != 0 || 4 ≤ field st 0 3 || field st 16 6 == 0
    || field v (8 * 0x30 + 1) 63 != 0 || field v (8 * 0x38 + 5) 27 != 0 || field v (8 * 0x120 + 16) 48 != 0 || field v (8 * 0x134) 32 != 0
    || zero 0x138 0x200 || zero 0x1E10 0x2000
    || (List.range 8).any (fun t =>
        let x := field v (8 * (0xE00 + 256 * t)) 2048
        field x 48 5 != 0 || field x 64 64 != 0 || field x (384 + 11) 117 != 0 || field x 1536 512 != 0)

/-- A token of a control record; a copy of it runs for user mode from an address (R98, R344). -/
def tokenOfImage (x : Nat) (pc : BitVec 64) : Token :=
  let st := field x 62 2
  { state := st, cause := field x 53 9, progress := field x 0 48,
    copy := if st == 3 || st == 1 then
        some { started := false, red := bit x 384, shape := field x 385 5, type := field x 390 5,
               group := BitVec.ofNat 256 (field x 128 256), src := BitVec.ofNat 512 (field x 512 512),
               dst := BitVec.ofNat 512 (field x 1024 512), user := true, pc := pc, since := 0, tags := [], answers := [],
               pend := [], wrote := [] }
      else none }

/-- A lane of a control record, whose disposition is continue or retire (R256). -/
def rayLaneOfImage (x : Nat) (disp retire emitted : Bool) : RayLane :=
  { slot := if field x 0 32 == noIndex then none else some (field x 0 32), disp := if !disp then 0 else if retire then 2 else 1, emitted := emitted,
    hitJ := field x 62 2, hitTreelet := field x 37 25, hitSlot := field x 32 5 }

/-- The bits of %fflags (R161). -/
def fflagBits : BitVec 64 := 0x1F

/-- The fault tags of a control record that have not been answered since the save (R328, R344). -/
def parkTags (v : Nat) (saved : SavedWave) : List (BitVec 32) :=
  ((List.range (min 128 (field v (8 * 0x100) 64))).map (fun i => BitVec.ofNat 32 (field v (8 * (0x400 + 4 * i)) 32))).filter
    (fun t => saved.tags.contains t)

/-- The wave with everything of its control record restored but its registers s120 to s127, v0 and the element marks (R348). -/
def Wave.ofControl (w : Wave) (v : Nat) (saved : SavedWave) : Wave :=
  let st := field v 64 64
  let q (o : Nat) : BitVec 64 := BitVec.ofNat 64 (field v (8 * o) 64)
  let disp := field v (8 * 0x110) 64
  let ems := field v (8 * 0x118) 64
  let pc := q 0
  let wait : Wait :=
    if bit st 4 && !(parkTags v saved).isEmpty then .parked (parkTags v saved)
    else if bit st 5 then .barrier (field v (8 * 0x38) 5) (BitVec.ofNat 32 (field v (8 * 0x3C) 32)) 0
    else .ready
  let w : Wave :=
    { w with pc := pc, mode := .user, handler := .trap, fflags := q 0x10 &&& fflagBits, tmrcmp := q 0x18, uret := q 0x20, ucause := q 0x28,
             wsat := bit v (8 * 0x30), ws := BitVec.ofNat 512 (field v (8 * 0x40) 512), tmrMask := bit st 8, tmrPend := bit st 9,
             k := (List.range 16).foldl (fun k i => k.wr i (q (0x80 + 8 * i))) [],
             stseq := BitVec.ofNat 32 (field v (8 * 0x130) 32), cls := field v (8 * 0x120) 8,
             sfq := (List.range (min 64 (field v (8 * 0x108) 64))).map (fun i => BitVec.ofNat 256 (field v (8 * (0x600 + 32 * i)) 256)),
             sMark := (List.range 128).filter (fun n => bit v (8 * 0x1E00 + n)),
             tlrel := if bit st 6 then some pc else saved.tlrel, yielded := false, answers := saved.answers, wait := wait,
             holds := if bit st 4 || (saved.tags.isEmpty && saved.answers.isEmpty) then none else some saved.tags, sampleMark := false, sampleRec := none, poisPend := saved.poisPend,
             kind := WKind.ofCode (field st 0 3), b := saved.b }
  let w := (List.range 8).foldl (fun w t => w.setToken t (tokenOfImage (field v (8 * (0xE00 + 256 * t)) 2048) pc)) w
  (List.range 64).foldl (fun w L => w.setRay L (rayLaneOfImage (field v (8 * (0x200 + 8 * L)) 64) (bit disp L) (saved.retired.getLsbD L)
    (bit ems L))) w

end Sys2Proof.Machine
end

