-- ==== Sys2Proof/Machine/Place.lean ====
section
/-! DEFINITION. Placement of blocks, tasks and episodes on cores (01 R26 to R28, R31, R32; 02 R50, R60; 04 R88; 20 R304, R309,
R310, R315, R316). -/

namespace Sys2Proof.Machine

/-- Causes of class 11 (R335). -/
def causeDebuggerStop : Nat := 0x161
def causeDebuggerStep : Nat := 0x162

/-! ## Whether a block fits on a core (R26, R88) -/

/-- What a block asks of a core: the register blocks of each wave by %wid, blocks of its pool, scratchpad bytes, barrier
slots, and the cluster's Spindle core for a program it brings. -/
structure Ask where
  waves : List (Nat × Nat)
  pool : Nat
  scratch : Nat
  bars : Nat
  spindle : Bool
  deriving DecidableEq, Repr

/-- Where the parts of a block go: a wave's %wid, wave slot, partition and register blocks. -/
structure Seat where
  core : Nat
  scrBase : Nat
  waves : List (Nat × Nat × Nat × List Nat)
  pool : List Nat
  deriving DecidableEq, Repr

/-- Units of 2 KiB of a core's store that blocks hold. -/
def State.takenBlocks (s : State) (core : Nat) : List Nat :=
  (s.waves.filter (fun w => w.core == core)).flatMap (·.blocks)
    ++ (s.blocks.filter (fun b => b.core == core)).flatMap (fun b =>
        b.pool ++ (List.range (b.scrSize / 2048)).map (fun i => b.scrBase / 2048 + i))

/-- The highest 4 KiB-aligned run of n free units. -/
def freeRun (taken : List Nat) (n : Nat) : Option Nat :=
  if 512 < n then none
  else ((List.range ((512 - n) / 2 + 1)).map (fun i => (512 - n) / 2 * 2 - 2 * i)).find? (fun a =>
    (List.range n).all (fun i => !taken.contains (a + i)))

/-- Waves of each partition, then one more at the fewest, the lowest partition of a tie. -/
def nextPartition (counts : List Nat) : Nat :=
  ((List.range 4).foldl (fun b i => if counts.getD i 0 < counts.getD b 0 then i else b) 0)

/-- Gives each wave a partition, the lowest free wave slot and the lowest free register blocks, in order of %wid. -/
def seatWaves : List (Nat × Nat) → List Nat → List Nat → List Nat → Option (List (Nat × Nat × Nat × List Nat) × List Nat)
  | [], _, _, free => some ([], free)
  | (wid, n) :: rest, counts, slots, free =>
    let p := nextPartition counts
    match (List.range 64).find? (fun i => !slots.contains i) with
    | none => none
    | some slot =>
      if 16 ≤ counts.getD p 0 || free.length < n then none
      else
        (seatWaves rest (counts.set p (counts.getD p 0 + 1)) (slot :: slots) (free.drop n)).map (fun r =>
          ((wid, slot, p, free.take n) :: r.1, r.2))

/-- Whether a block fits on a core, and where its parts go. -/
def State.fits (s : State) (core : Nat) (a : Ask) : Option Seat :=
  let taken := s.takenBlocks core
  let units := (a.waves.map (·.2)).foldl (· + ·) 0 + a.pool
  let scr := a.scratch / 2048
  let mine := s.blocks.filter (fun b => b.core == core)
  let ws := s.waves.filter (fun w => w.core == core)
  if 448 < taken.length + units + scr then none
  else if 2 ^ 19 < (mine.map (·.scrSize)).foldl (· + ·) 0 + a.scratch then none
  else if 32 < (mine.map (·.bars)).foldl (· + ·) 0 + a.bars then none
  else if a.spindle && (s.spindle? (core / 4)).isSome then none
  else match (if scr == 0 then some 0 else freeRun taken scr) with
    | none => none
    | some run =>
      let busy := taken ++ (List.range scr).map (fun i => run + i)
      let free := (List.range 512).filter (fun b => !busy.contains b)
      let counts := (List.range 4).map (fun p => (ws.filter (fun w => w.partition == p)).length)
      match seatWaves a.waves counts (ws.map (·.slot)) free with
      | none => none
      | some (seats, left) =>
        if left.length < a.pool then none
        else some { core := core, scrBase := 2048 * run, waves := seats, pool := left.take a.pool }

/-! ## Sharing clusters (R309, R315) -/

/-- Functions enabled with the bit of a cluster. -/
def State.sharers (s : State) (cl : Nat) : List Nat :=
  (List.range 32).filter (fun f => s.ctlField (.fnCtl f) 0 1 == 1 && bit (s.ctlField (.fnCtl f) 32 32) cl)

/-- Contexts of a function with blocks, episode waves or a Spindle program on a cluster. -/
def State.ctxsOn (s : State) (f cl : Nat) : List Nat :=
  (((s.blocks.filter (fun b => b.core / 4 == cl)).map (·.ctx) ++ (s.spindles.filter (fun p => p.cluster == cl)).map (·.ctx)).filter
    (fun c => s.fnOf c == f)).eraseDups

/-- A placement on a shared cluster makes the cluster serve the function. -/
def State.serve (s : State) (f cl : Nat) : State :=
  if (s.sharers cl).length ≤ 1 then s
  else match s.serving.find? (fun e => e.1 == cl) with
    | some (_, g, _) =>
      if g == f || !(s.ctxsOn g cl).isEmpty then s
      else { s with serving := (cl, f, s.clk.toNat) :: s.serving.filter (fun e => e.1 != cl) }
    | none => { s with serving := (cl, f, s.clk.toNat) :: s.serving }

/-- A launch is urgent (R316). -/
def State.urgent (s : State) (l : Launch) : Bool := s.ctlField (.fnCtl (s.fnOf l.ctx)) 12 4 ≤ l.prio

/-! ## Cores allowed (R27) -/

/-- A core is allowed to a block of a launch. -/
def Launch.allows (l : Launch) (block core : Nat) : Bool :=
  (unitLevels l.record).all (fun u =>
    l.homes.all (fun h => !((h.1 == u.1 || h.1 == u.1 + homeEnded) && h.2.1 == block / u.2)
      || domainOf (levelDomain l.record u.1) core == h.2.2))

/-- A saved block no longer binds a unit of which no other block is resident (DEDUCED, log entry 52). -/
def State.unnote (s : State) (num block : Nat) : State :=
  s.modLaunch num (fun l => { l with homes := l.homes.filter (fun h =>
    !(unitLevels l.record).any (fun u => h.1 == u.1 && h.2.1 == block / u.2
      && !s.blocks.any (fun b => b.launch == num && b.index < episodeBase && b.index / u.2 == h.2.1))) })

/-- The first core after a start, of n from a base, that is allowed and on which the block fits. -/
def State.firstFit (s : State) (base n start : Nat) (ok : Nat → Bool) (a : Ask) : Option Seat :=
  (List.range n).findSome? (fun i =>
    let c := base + (start + 1 + i - base) % n
    if ok c then s.fits c a else none)

/-- What the scan for a block finds: a seat on this die, or a core of the paired die that has room for it. -/
inductive Found where
  | here (seat : Seat)
  | there (core : Nat)

/-- The scan of R27: the 128 cores of the die, or the 256 of a paired context, of which the paired die answers for its own
(DESIGN CHOICE, log entry 88). On trial both dies are empty but for the trial's own blocks (R28). -/
def State.scan (s : State) (paired trial : Bool) (ok : Nat → Bool) (a : Ask) : Option Found :=
  let n := if paired then 256 else 128
  (List.range n).findSome? (fun i =>
    let c := (s.last % n + 1 + i) % n
    if !ok c then none
    else if c < 128 || trial then (s.fits c a).map Found.here
    else if Config.pairRoom s.free c then some (.there c) else none)

/-! ## A block enters (R24, R31, R60, R88) -/

/-- An admission that shrinks the L1 evicts what no longer fits, the line filled longest ago first (R88, DESIGN CHOICE, log entry 13). -/
def State.l1Shrink (s : State) (core : Nat) : State :=
  let mine := s.l1.filter (fun l => l.core == core)
  (List.range (mine.length - s.l1Cap core)).foldl (fun s _ =>
    match s.l1.filter (fun l => l.core == core) with
    | [] => s
    | l :: rest => s.evictLine (rest.foldl (fun a b => if b.filled < a.filled then b else a) l)) s

/-- The next instance number of a core's wave slots (R110). -/
def State.nextInst (s : State) (core : Nat) : Nat × State :=
  let n := sget (fun _ => 0) s.insts core
  (n, { s with insts := sput (fun _ => 0) s.insts core (n + 1) })

/-- Puts a block on its seat: scratchpad, register blocks and barrier slots zero, its waves made from %wid, slot, partition,
instance number and register blocks. -/
def State.enterBlock (s : State) (b : Block) (seat : Seat) (mk : Nat → Nat → Nat → Nat → List Nat → Wave) : State :=
  let b := { b with core := seat.core, scrBase := seat.scrBase, pool := seat.pool }
  let s := s.clearStore (seat.core * 2 ^ 20 + seat.scrBase) b.scrSize
  let s := { s with blocks := s.blocks ++ [b] }
  let s := seat.waves.foldl (fun s q =>
    let (n, s) := s.nextInst seat.core
    let s := s.clearBlocks seat.core q.2.2.2
    { s with waves := s.waves ++ [mk q.1 q.2.1 q.2.2.1 n q.2.2.2] }) s
  s.l1Shrink seat.core

/-- Logs the wave starts of a block (R377). -/
def State.logStarts (s : State) (launch block : Nat) : State :=
  if !s.evrOn 0 then s
  else (s.wavesOf launch block).foldl (fun s w => s.logWave w 0x21 w.kind.code w.pc) s

/-! ## Debugger stops (R392) -/

/-- A block that is stopped before its first instruction (R392). -/
def State.stopPlaced (s : State) (c launch block blk : Nat) : State :=
  if !s.dbgCovers c launch blk then s
  else (s.wavesOf launch block).foldl (fun s w => s.setWave { w with wait := .stopped causeDebuggerStop }) s

/-! ## Blocks of compute and generation launches -/

/-- What a block of a launch asks (R23, R26). -/
def recordAsk (r : BitVec 512) : Ask :=
  { waves := (List.range (wavesPerBlock r)).map (fun i => (i, ctlVblk r)), pool := 0, scratch := 4096 * ctlScratch r,
    bars := ctlBars r, spindle := false }

/-- First instruction of a launch's waves: ENTRY is sign-extended from 57 bits (R23) (DEDUCED, log entry 66). -/
def launchEntry (l : Launch) : BitVec 64 := if l.kind == 0 then sext57 (recEntry l.record).toNat else recEntry l.record

/-- A block goes to a core of the paired die. -/
def State.sendBlock (s : State) (l : Launch) (block core : Nat) : State :=
  let a : Away := { launch := l.num, ctx := l.ctx, block := block, core := core, ends := s.cyc + Config.pairLife s.free }
  let t := { s with away := s.away ++ [a], out := s.out ++ [OutMsg.pairBlock l.num block core], last := core, free := s.free + 1 }
  t.modLaunch l.num (fun l => l.note block core false)

/-- Places one block of a compute or ray launch on the first core that R27 finds. -/
def State.placeBlock (s : State) (trial : Bool) (num block : Nat) (ok : Nat → Bool) : Option State :=
  match s.launch? num with
  | none => none
  | some l =>
    let r := l.record
    match s.scan (s.ctx l.ctx).paired trial (fun c => ok c && l.allows block c) (recordAsk r) with
    | none => none
    | some (.there core) => some (s.sendBlock l block core)
    | some (.here seat) =>
      let entry := launchEntry l
      let b := Block.enter num block l.ctx seat.core (wavesPerBlock r) seat.scrBase (4096 * ctlScratch r) (ctlBars r)
      let kind := if l.kind == 1 then WKind.generation else WKind.compute
      let t := s.enterBlock b seat (fun wid slot part inst blocks =>
        Wave.enter seat.core slot part inst l.ctx num block wid kind l.prio s.cyc entry (entryMask (levelExtent r 0))
          (entryRegs (recArgs r) block wid) blocks)
      let t := { t with last := seat.core }.modLaunch num (fun l => l.note block seat.core false)
      some (((t.serve (s.fnOf l.ctx) (seat.core / 4)).logStarts num block).stopPlaced l.ctx num block block)

/-- Blocks of a co-resident unit, 1 without co-residency (R28). -/
def unitBlocks (r : BitVec 512) : Nat :=
  if ctlColevel r == 0 then 1 else extentProduct r (blockLevel r + 1) (ctlColevel r)

/-- Places blocks one after the other, all or none (R27). -/
def State.placeBlocks (s : State) (trial : Bool) (num first : Nat) (ok : Nat → Bool) : Nat → Option State
  | 0 => some s
  | n + 1 => (s.placeBlock trial num first ok).bind (fun t => t.placeBlocks trial num (first + 1) ok n)

/-- Places the next block or co-resident unit of a launch. -/
def State.placeNext (s : State) (l : Launch) (ok : Nat → Bool) : Option State :=
  let n := unitBlocks l.record
  (s.placeBlocks false l.num l.next ok n).map (fun t => t.modLaunch l.num (fun l => { l with next := l.next + n, since := s.cyc, reserves := false }))

/-! ## Tasks (R31, R32, R242) -/

/-- A task that ranks as PRIO 15 (R32). -/
def State.taskAged (s : State) (t : Task) : Bool := t.aged || t.time + 65536 ≤ s.cyc

def State.taskRank (s : State) (t : Task) : Nat := if s.taskAged t then 15 else taskPrio t.record

/-- The task that a pool dispatches first (R32). -/
def State.firstTask (s : State) (l : Launch) : Option Task :=
  if l.stuck then none
  else l.tasks.foldl (fun o t => match o with
    | none => some t
    | some u => if s.taskRank u < s.taskRank t || (s.taskRank u == s.taskRank t && t.number < u.number) then some t else some u) none

/-- Registers of a task wave (R31). -/
def taskRegs (t : Task) : Regs :=
  let q (o n : Nat) : BitVec 64 := BitVec.ofNat 64 (recBytes t.record o n)
  ((((((Regs.wr [] 0 (q 8 8)).wr 1 (q 24 8)).wr 2 (q 32 4)).wr 3 (BitVec.ofNat 64 t.ring)).wr 4 (q 40 8)).wr 5 (q 48 8)).wr 6 (q 56 8)

/-- Places a task as a block of one wave; its entry makes the acquire of R120 (R242). -/
def State.placeTask (s : State) (l : Launch) (t : Task) (ok : Nat → Bool) : Option State :=
  let r := l.record
  let ask : Ask := { waves := [(0, ctlVblk r)], pool := 0, scratch := 4096 * ctlScratch r, bars := ctlBars r, spindle := false }
  match s.firstFit 0 128 (s.last % 128) ok ask with
  | none => none
  | some seat =>
    let b := Block.enter l.num t.number l.ctx seat.core 1 seat.scrBase (4096 * ctlScratch r) (ctlBars r)
    let u := s.enterBlock b seat (fun wid slot part inst blocks =>
      { Wave.enter seat.core slot part inst l.ctx l.num t.number wid .task (min (taskPrio t.record) l.prio) s.cyc
          (taskEntry t.record) (entryMask (levelExtent r 0)) (taskRegs t) blocks with
        wsat := true, taskWide := taskWideFlag t.record, taskSucc := (taskSucc t.record).toNat })
    let u := { u with last := seat.core }.modLaunch l.num (fun l => { l with tasks := l.tasks.filter (fun v => v.number != t.number) })
    let u := u.acquireAll seat.core l.ctx
    some (((u.serve (s.fnOf l.ctx) (seat.core / 4)).logStarts l.num t.number).stopPlaced l.ctx l.num t.number 0)

/-! ## Episodes (R41, R50, R60, R310) -/

/-- Fields of an episode table entry (R41). -/
def epEntry (e : BitVec 128) : BitVec 64 := e.extractLsb' 0 64
def epVblk (e : BitVec 128) : Nat := field e.toNat 64 8
def epPrio (e : BitVec 128) : Nat := field e.toNat 72 4
def epScratch (e : BitVec 128) : Nat := field e.toNat 80 8

/-- The table entry of an emission, and its launch. -/
def State.emissionEntry (s : State) (e : Emission) : Option (Launch × RayLaunch × BitVec 128) :=
  match s.launch? e.launch with
  | some l => l.ray.bind (fun rl => (rl.eptab[e.cls]?).map (fun t => (l, rl, t)))
  | none => none

/-- Issue priority of an episode wave (R50). -/
def State.emissionPrio (s : State) (e : Emission) : Nat :=
  match s.emissionEntry e with
  | some (l, _, t) => min (epPrio t) l.prio
  | none => 0

/-- Gives the lanes of an episode wave their rays: records in v0 to v31, hit records in v32 to v39 (R60). -/
def State.fillEpisode (s : State) (core slot num : Nat) (rays : List Nat) : State :=
  rays.zipIdx.foldl (fun s p =>
    match s.wave? core slot, s.ray? num p.1 with
    | some w, some r =>
      let s := (List.range 32).foldl (fun s n => s.vwr w n p.2 (r.record.extractLsb' (32 * n) 32)) s
      let s := (List.range 8).foldl (fun s n => s.vwr w (32 + n) p.2 (r.hit.extractLsb' (32 * n) 32)) s
      let s := s.setRay num { r with phase := .inEpisode }
      s.setWave (w.setRay p.2 { slot := some p.1, disp := 0, emitted := false, hitJ := r.hitJ, hitTreelet := r.hitTreelet,
                                hitSlot := r.hitSlot })
    | _, _ => s) s

/-- Registers of an episode wave: ARGS, the class, the filled lanes, the launch slot (R39, R60). -/
def episodeRegs (l : Launch) (rl : RayLaunch) (cls n : Nat) : Regs :=
  (((Regs.wr [] 0 (recArgs l.record)).wr 1 (BitVec.ofNat 64 cls)).wr 2 (BitVec.ofNat 64 n)).wr 3 (BitVec.ofNat 64 rl.slot)

/-- Core from which the scan of a quarter starts (R310). -/
def State.quarterStart (s : State) (q : Nat) : Nat := sget (fun q => 32 * q + 31) s.lastQuarter q

/-- Places an emission on a core of its quarter. -/
def State.placeEpisode (s : State) (e : Emission) (ok : Nat → Bool) : Option State :=
  match s.emissionEntry e with
  | none => none
  | some (l, rl, t) =>
    let ask : Ask := { waves := [(0, epVblk t)], pool := 0, scratch := 4096 * epScratch t, bars := 0, spindle := false }
    match s.firstFit (32 * e.quarter) 32 (s.quarterStart e.quarter) ok ask with
    | none => none
    | some seat =>
      let index := episodeBase + s.order
      let b := Block.enter l.num index l.ctx seat.core 1 seat.scrBase (4096 * epScratch t) 0
      let u := { s with order := s.order + 1 }.enterBlock b seat (fun wid slot part inst blocks =>
        { Wave.enter seat.core slot part inst l.ctx l.num index wid .episode (min (epPrio t) l.prio) s.cyc (epEntry t)
            (entryMask e.rays.length) (episodeRegs l rl e.cls e.rays.length) blocks with cls := e.cls, entry := recEntry l.record })
      let u := match seat.waves with
        | q :: _ => u.fillEpisode seat.core q.2.1 l.num e.rays
        | [] => u
      let u := { u with lastQuarter := sput (fun q => 32 * q + 31) u.lastQuarter e.quarter seat.core,
                        emissions := u.emissions.erase e }
      some (((u.serve (s.fnOf l.ctx) (seat.core / 4)).logStarts l.num index).stopPlaced l.ctx l.num index 0)

/-! ## Requests and their order (R309) -/

inductive ReqKind where
  | block (num : Nat)
  | resume (num index : Nat)
  | task (num : Nat)
  | episode (e : Emission)
  /-- The rays of a launch whose context the scheduler has taken off its clusters (R64, R315). -/
  | rays (num : Nat)
  deriving DecidableEq, Repr

/-- A pending placement: what, its launch, priority, request time, and the time its wait counts from. -/
structure PlaceReq where
  kind : ReqKind
  num : Nat
  prio : Nat
  time : Nat
  since : Nat
  reserves : Bool
  deriving DecidableEq, Repr

/-- The context's work may be placed: no pre-emption request, not suspended (R339) (DEDUCED, log entry 68). -/
def State.ctxRuns (s : State) (c : Nat) : Bool := !s.preReq c && s.preState c == 0

/-- The scheduler alone holds a suspended context off its clusters (R315, R316). -/
def State.schedAway (s : State) (c : Nat) : Bool :=
  !s.preReq c && s.preState c == 2 && !(s.ctx c).reqHost && (s.ctx c).schedHold

/-- A launch holds its cold allocation: what stands in its pool is not to be read from a frame first (R64, R347). -/
def Launch.coldHeld (l : Launch) : Bool := l.ray.all (fun r => r.cold.isNone)

/-- A saved block waits to be resumed: its context is no longer suspending, no host or debugger holds it, and it has left
its cores (R339, R392). -/
def State.resumable (s : State) (l : Launch) (b : SavedBlock) : Bool :=
  !s.preReq l.ctx && (s.preState l.ctx == 0 || s.schedAway l.ctx)
    && !b.debug && (s.block? l.num b.index).isNone

/-- The requests of a launch. A ray launch whose pool stands in a frame places nothing before its records are back. -/
def State.launchReqs (s : State) (l : Launch) : List PlaceReq :=
  let mk (k : ReqKind) (prio time since : Nat) (r : Bool) : PlaceReq :=
    { kind := k, num := l.num, prio := prio, time := time, since := since, reserves := r }
  let away := l.suspended && s.schedAway l.ctx
  match if l.suspended && !l.coldHeld then [] else l.saved.filter (s.resumable l) with
  | b :: _ => [mk (.resume l.num b.index) l.prio l.taken b.since false]
  | [] =>
    if away then [mk (.rays l.num) l.prio l.taken l.since false]
    else if !s.ctxRuns l.ctx || l.suspended then []
    else if l.kind == 2 then
      match s.firstTask l with
      | some t => [mk (.task l.num) (min (taskPrio t.record) l.prio) t.time t.time false]
      | none => []
    else if l.next < totalBlocks l.record then [mk (.block l.num) l.prio l.taken l.since l.reserves]
    else []

def State.emissionReqs (s : State) : List PlaceReq :=
  (s.emissions.filter (fun e => match s.launch? e.launch with
    | some l => s.ctxRuns l.ctx
    | none => false)).map (fun e =>
      { kind := .episode e, num := e.launch, prio := s.emissionPrio e, time := e.time, since := e.time, reserves := e.reserves })

/-- Inserts a request in the order of R309: highest priority, then earliest request time. -/
def insertReq (r : PlaceReq) : List PlaceReq → List PlaceReq
  | [] => [r]
  | q :: rest => if q.prio < r.prio || (q.prio == r.prio && r.time < q.time) then r :: q :: rest else q :: insertReq r rest

def State.placeReqs (s : State) : List PlaceReq :=
  (s.launches.flatMap s.launchReqs ++ s.emissionReqs).foldl (fun l r => insertReq r l) []

/-- A request has waited 65,536 cycles and reserves its cores. -/
def State.reserving (s : State) (r : PlaceReq) : Bool := r.reserves || r.since + 65536 ≤ s.cyc

/-- Cores that R27, or the quarter of an emission, leave to a request. -/
def Launch.reqCores (l : Launch) (r : PlaceReq) (core : Nat) : Bool :=
  match r.kind with
  | .episode e => core / 32 == e.quarter
  | .block _ => l.allows l.next core
  | .resume _ i => l.allows i core
  | .task _ => true
  | .rays _ => true

/-! ## Sharing clusters (R315) -/

/-- A function has a placement waiting that some core of a cluster is left to. -/
def State.waitsOn (s : State) (f cl : Nat) : Bool :=
  s.placeReqs.any (fun r => match s.launch? r.num with
    | some l => s.fnOf l.ctx == f && (List.range 4).any (fun i => l.reqCores r (4 * cl + i))
    | none => false)

/-- The next function of a shared cluster, round-robin after one (DEDUCED, log entry 67). -/
def State.nextSharer (s : State) (f cl : Nat) : Nat :=
  (((List.range 32).map (fun i => (f + 1 + i) % 32)).find? (fun g => (s.sharers cl).contains g && s.waitsOn g cl)).getD f

/-- A function may place on a cluster of its CLMASK: one that no other enabled function names; a shared one that it is served
by, or that passes to it because the function served last has nothing there; any, for an urgent launch (R315, R316). -/
def State.clusterFor (s : State) (f : Nat) (urgent : Bool) (cl : Nat) : Bool :=
  bit (s.ctlField (.fnCtl f) 32 32) cl &&
  (match s.sharers cl with
    | [] => true
    | [g] => f == g
    | gs => gs.contains f && (urgent || (match s.serving.find? (fun e => e.1 == cl) with
        | none => s.nextSharer 31 cl == f
        | some (_, g, _) => if (s.ctxsOn g cl).isEmpty then s.nextSharer g cl == f else g == f)))

/-- A function may place on a core of this die, or of the paired die, whose clusters it shares as the other die's registers say. -/
def State.coreFor (s : State) (f : Nat) (urgent : Bool) (core : Nat) : Bool :=
  if core < 128 then s.clusterFor f urgent (core / 4) else bit (s.ctlField (.fnCtl f) 32 32) (core % 128 / 4)

/-- Cores that a request may be placed on. -/
def State.reqAllows (s : State) (r : PlaceReq) (core : Nat) : Bool :=
  match s.launch? r.num with
  | none => false
  | some l => s.coreFor (s.fnOf l.ctx) (s.urgent l) core && l.reqCores r core

/-- Places a request that is not a resumed block. -/
def State.tryFresh (s : State) (ok : Nat → Bool) (r : PlaceReq) : Option State :=
  match s.launch? r.num with
  | none => none
  | some l =>
    let ok (c : Nat) : Bool := ok c && s.coreFor (s.fnOf l.ctx) (s.urgent l) c
    match r.kind with
    | .block _ => s.placeNext l ok
    | .task _ => (s.firstTask l).bind (fun t => s.placeTask l t ok)
    | .episode e => s.placeEpisode e ok
    | .resume _ _ => none
    | .rays _ => none

/-- Gives the placement opportunity to the first request of the order that can be placed, when it is the one wanted: no later
request takes a core that an earlier one reserves (R309). -/
def State.placeWalk (s : State) (try_ : (Nat → Bool) → PlaceReq → Option State) (want : PlaceReq → Bool) :
    (Nat → Bool) → List PlaceReq → State
  | _, [] => s
  | reserved, r :: rest =>
    match try_ (fun c => !reserved c) r with
    | some t => if want r then t else s
    | none =>
      s.placeWalk try_ want (if s.reserving r then fun c => reserved c || s.reqAllows r c else reserved) rest

/-! ## Whether a unit fits an empty device (R28, R29) -/

/-- The device with no work on it; a trial places the paired die's blocks on its cores 128 to 255. -/
def State.emptied (s : State) : State := { s with waves := [], blocks := [], spindles := [], away := [], l1 := [], serving := [] }

/-- One co-resident unit can be placed on an otherwise empty set of the function's clusters, of both dies in a paired context. -/
def State.unitFits (s : State) (l : Launch) : Bool :=
  let t := { s.emptied with launches := [l], last := 127, ctl := s.ctl, bufs := [] }
  let mask := s.ctlField (.fnCtl (s.fnOf l.ctx)) 32 32
  (t.placeBlocks true l.num 0 (fun c => bit mask (c % 128 / 4)) (unitBlocks l.record)).isSome

end Sys2Proof.Machine
end

