-- ==== Sys2Proof/Machine/Suspend.lean ====
section
/-! DEFINITION. Pre-emption: raising and ending requests, stopping, saving and restoring blocks, and what a context's suspension
completes (02 R64; 03 R81, R82; 05 R126; 22 R338 to R348; 25 R392, R393). -/

namespace Sys2Proof.Machine

/-! ## Raising a request (R339, R64) -/

/-- The rays of a launch in traversal go back to their stalls, and its batches are abandoned (R64). -/
def State.abandonBatches (s : State) (num : Nat) : State :=
  let s := { s with batches := s.batches.filter (fun b => b.launch != num) }
  match (s.launch? num).bind (·.ray) with
  | none => s
  | some rl => (rl.rays.filter (fun r => r.phase == .inTraversal)).foldl (fun s r => s.joinStall num r r.key) s

/-- Launches of a context. -/
def State.launchesOf (s : State) (c : Nat) : List Launch := s.launches.filter (fun l => l.ctx == c)

/-- The request flag rises, for one of its holders (R339). A terminated context has nothing to suspend. -/
def State.raiseReq (s : State) (c : Nat) (hold : Ctx → Ctx) : State :=
  if s.preState c == 3 then s
  else if s.preReq c || s.preState c == 2 then s.modCtx c hold
  else
    let s := s.modCtx c (fun x => { hold x with reqAt := s.clk.toNat, forced := false })
    let s := (s.ctlSet (.pre c) 0 1 1).setPreState c 1
    (s.launchesOf c).foldl (fun s l => s.abandonBatches l.num) s

/-! ## Which work a stop covers, and what has reached a yield (R339, R340, R392) -/

/-- A request covers a wave or a Spindle program: its context's, or a stop of its block (DEDUCED, log entry 53). -/
def State.covered (s : State) (c launch blk : Nat) : Bool := s.preReq c || s.dbgCovers c launch blk

/-- A wait that counts as having reached a yield (R35, R207, R223, R231, R326, R328). -/
def Wait.yields : Wait → Bool
  | .retry _ y => y
  | .sleep _ => true
  | .parked _ => true
  | .barrier _ _ _ => true
  | .timeline _ _ => true
  | .claim n => n != 0
  | .stopped _ => true
  | _ => false

/-- A wave has stopped for a save: in user mode, at a yield, its accesses complete (R206), and the loads past that the end of its
copies waits for (R124). A debugger's single step that
has been used up stops it too (R393). -/
def State.waveStopped (s : State) (w : Wave) : Bool :=
  w.mode == .user && w.flight.isEmpty && s.copiesPast w && (w.wait.yields || (w.step == some false && w.wait == .ready))

/-- A Spindle program has stopped: at its yield, or forced, with no operation issued (R81, R82). One that waits on a missing page
stops only when it is forced, with every tile named. -/
def Spindle.stopped (p : Spindle) : Bool := p.mode == .user && p.ops.isEmpty && (match p.wait with
  | .stopped _ => true
  | .sleep _ => true
  | .parked _ => p.live == BitVec.allOnes 24
  | .retry 2 _ => p.live == BitVec.allOnes 24
  | .retry _ y => y
  | _ => false)

/-- A resident block can be saved. -/
def State.savable (s : State) (b : Block) : Bool :=
  b.phase == .running && (s.wavesOf b.launch b.index).all s.waveStopped
    && (s.spindles.filter (fun p => p.launch == b.launch && p.block == b.index)).all (·.stopped)

/-- The blocks saved with a block: those of its co-resident unit that are resident (R28, R339). -/
def State.unitOf (s : State) (b : Block) : List Block :=
  match s.launch? b.launch with
  | none => [b]
  | some l =>
    let n := unitBlocks l.record
    if ctlColevel l.record == 0 || episodeBase ≤ b.index then [b]
    else s.blocks.filter (fun d => d.launch == b.launch && d.index / n == b.index / n)

/-- The block index of a block as software sees it (R20). -/
def State.blkOf (s : State) (b : Block) : Nat :=
  match s.launch? b.launch with
  | some l => if l.kind == 2 || (l.kind == 1 && episodeBase ≤ b.index) then 0 else b.index
  | none => b.index

/-! ## The save entry (R338, R343 to R345) -/

/-- Terminates a context whose save or restore met a fault of the region (R342). -/
def State.saveFault (s : State) (c : Nat) : State := s.terminate c causeSaveFault

/-- %tcause of a save entry (R338, R392). -/
def State.saveCause (s : State) (w : Wave) : Nat :=
  if w.step == some false then causeDebuggerStep
  else if s.dbgCovers w.ctx w.launch w.blk then causeDebuggerStop
  else match w.wait with
    | .stopped k => k
    | _ => if (s.ctx w.ctx).forced then causeSuspendForced else causeSuspendYield

/-- The registers that a save or restore entry sets (R338). -/
def State.handlerRegs (s : State) (w : Wave) (frame : BitVec 64) (scratch : BitVec 64) (scrSize : Nat) : State :=
  let s := (List.range 64).foldl (fun s L => s.vwr w 0 L (BitVec.ofNat 32 (4 * L))) s
  s.modWave w.core w.slot (fun w =>
    { w with k := w.k.wr 0 (BitVec.allOnes 64),
             s := (((w.s.wr 120 frame).wr 121 scratch).wr 122 (BitVec.ofNat 64 scrSize)).wr 123 (BitVec.ofNat 64 (8 * w.blocks.length)) })

/-- A wave enters the save or the restore entry. -/
def Wave.enterHandler (w : Wave) (h : Handler) (pc : BitVec 64) (cause : Nat) : Wave :=
  { w with mode := .supervisor, handler := h, pc := pc, tcause := BitVec.ofNat 64 cause, tepc := w.pc, taddr := 0,
           tlanes := BitVec.allOnes 64, b := w.dropBases.b, wait := .ready, sampleMark := false, sampleRec := none, poisPend := none, latched := none, yielded := false }

/-- The wave that writes the scratch image: the surviving wave of the lowest %wid. -/
def scratchOwner (ws : List Wave) : Nat := ws.foldl (fun a w => min a w.wid) 64

/-- The device's part of a wave frame: the control record, s120 to s127 and v0. -/
def State.writeWaveFrame (s : State) (w : Wave) (f : Frame) (wait : Wait) (forced : Bool) : Option State :=
  let va := s.frameVa w.ctx f (waveFrameOff w.wid)
  let sregs := (List.range 8).foldl (fun a i => a + (w.s.rd (120 + i)).toNat * 2 ^ (64 * i)) 0
  let v0 := (List.range 64).foldl (fun a L => a + (s.vrd w 0 L).toNat * 2 ^ (32 * L)) 0
  ((s.saveWrite w.ctx va 0x2000 (s.controlRecord w wait forced)).bind (fun t =>
    t.saveWrite w.ctx (va + 0x2000 + 960) 64 sregs)).bind (fun t => t.saveWrite w.ctx (va + 0x3000) 256 v0)

/-- What the device keeps of a wave while it is saved. -/
def SavedWave.of (w : Wave) : SavedWave :=
  { wid := w.wid, left := false,
    tags := (match w.wait with
      | .parked ts => ts
      | .retry 2 _ => w.holds.getD []
      | _ => []),
    answers := w.answers, sfCount := w.sfq.length, slot := w.slot, inst := w.inst, core := w.core, entry := w.entry,
    prio := w.prio, taskWide := w.taskWide, taskSucc := w.taskSucc, b := w.dropBases.b, poisPend := w.poisPend, tlrel := w.tlrel,
    retired := maskOf ((List.range 64).filter (fun L => (w.ray L).disp == 2)) }

/-- A wave enters its save (R344, R345): record, then registers and vector; `none` when the region faults (DEDUCED, log entry 50). -/
def State.saveEntry (s : State) (b : Block) (f : Frame) (owner : Nat) (w : Wave) : Option State :=
  let s := s.copySuspend w
  match s.wave? w.core w.slot with
  | none => some s
  | some w =>
    let cause := s.saveCause w
    let s := if cause / 32 == 11 then s.logWave w 0x6D cause w.pc else s.logWave w 0x29 cause w.pc
    if s.ctlField (.tvec w.ctx) 0 1 == 0 then some (s.setWave { w with wait := .ended cause })
    else
      (s.writeWaveFrame w f w.wait (cause == causeSuspendForced || (cause / 32 == 11 && (s.ctx w.ctx).forced))).map (fun s =>
        let s := s.forget w.core w.slot
        let v := { (w.enterHandler .save (s.trapVector w.ctx + 0x100) cause) with ws := 0, wsat := false }
        let s := s.setWave v
        let scratch := if w.wid == owner then s.frameVa w.ctx f (waveFrameOff b.waves) else 0
        s.handlerRegs v (s.frameVa w.ctx f (waveFrameOff w.wid)) scratch b.scrSize)

/-- A block starts its save: a frame, then the save entry of each of its waves (R339, R342). -/
def State.saveBlock (s : State) (b : Block) : State :=
  let ws := s.wavesOf b.launch b.index
  let program := s.spindles.any (fun p => p.launch == b.launch && p.block == b.index)
  match s.allocFrame b.ctx (blockFrameGranules b.waves b.scrSize program) with
  | none => s.terminate b.ctx causeSaveFull
  | some f =>
    match ws.foldl (fun (o : Option State) w => o.bind (fun s => s.saveEntry b f (scratchOwner ws) w)) (some s) with
    | none => s.saveFault b.ctx
    | some s =>
      let saved : SavedBlock :=
        { index := b.index, frame := f, spindle := none, core := b.core, since := s.cyc, waves := ws.map SavedWave.of,
          debug := s.dbgCovers b.ctx b.launch (s.blkOf b) }
      let s := s.modLaunch b.launch (fun l => { l with saved := l.saved ++ [saved] })
      s.modBlock b.launch b.index (fun b => { b with phase := .saving f, claims := [] })

/-! ## The end of a save (R345, R346) -/

/-- Appends a store-fault record to the saved queue of a wave, in its frame (R127, R281): a full queue marks its youngest record
LOST, and a frame that cannot be written ends the context with save-area-fault (R342). -/
def State.pushSaved (s : State) (l : Launch) (b : SavedBlock) (v : SavedWave) (r : SfRec) : State :=
  let va := s.frameVa l.ctx b.frame (waveFrameOff v.wid)
  let at_ (i : Nat) : BitVec 64 := va + BitVec.ofNat 64 (0x600 + 32 * i)
  let put : Option State :=
    if v.sfCount < 64 then
      (s.saveWrite l.ctx (at_ v.sfCount) 32 r.toNat).bind (fun t => t.saveWrite l.ctx (va + 0x108) 8 (v.sfCount + 1))
    else (s.saveRead l.ctx (at_ 63) 32).bind (fun x => x.2.saveWrite l.ctx (at_ 63) 32 (sfSetLost (BitVec.ofNat 256 x.1)).toNat)
  match put with
  | none => s.saveFault l.ctx
  | some t =>
    let t := t.logCtx (bufCore v.core) (if v.sfCount < 64 then 0x15 else 0x19) l.ctx v.slot (sfCause r) (sfAddr r)
    t.modLaunch l.num (fun l => { l with saved := l.saved.map (fun (c : SavedBlock) =>
      if c.index == b.index then
        { c with waves := c.waves.map (fun (u : SavedWave) =>
            if u.wid == v.wid then { u with sfCount := min 64 (u.sfCount + 1) } else u) }
      else c) })

/-- A wave of a context that is being saved, as a place for records. -/
abbrev SavedAt := Launch × SavedBlock × SavedWave

/-- The saved wave of a number. -/
def State.savedWave (s : State) (launch block wid : Nat) : Option SavedAt :=
  (s.launch? launch).bind (fun l => (l.saved.find? (fun b => b.index == block)).bind (fun b =>
    (b.waves.find? (fun v => v.wid == wid)).map (fun v => (l, b, v))))

/-- The saved wave that wrote a line last. -/
def State.savedWriter (s : State) (line : L1Line) : Option SavedAt :=
  s.launches.findSome? (fun l => if l.ctx != line.ctx then none else
    l.saved.findSome? (fun b => (b.waves.find? (fun v => v.core == line.core && v.slot == line.wslot && v.inst == line.winst)).map
      (fun v => (l, b, v))))

/-- Reports a write-back fault of a suspension: to a wave's saved queue, else to the context's fault queue (R127, R339). -/
def State.routeSaved (s : State) (to_ : Option SavedAt) (line : L1Line) (r : SfRec) : State :=
  match to_ with
  | some (l, b, v) => s.pushSaved l b v r
  | none => s.sfToQueue line.ctx line.core line.wslot r 6

/-- Writes back the dirty lines that satisfy a test, reporting as a suspension does. -/
def State.writeBackSaved (s : State) (to_ : State → L1Line → Option SavedAt) (p : L1Line → Bool) : State :=
  (s.l1.filter (fun l => l.dirty != 0 && p l)).foldl (fun s l => match s.writeBack l with
    | (some r, t) => t.routeSaved (to_ t l) l r
    | (none, t) => t) s

/-- The saved block of a launch. -/
def State.saved? (s : State) (num index : Nat) : Option SavedBlock :=
  (s.launch? num).bind (fun l => l.saved.find? (fun b => b.index == index))

def State.modSaved (s : State) (num index : Nat) (f : SavedBlock → SavedBlock) : State :=
  s.modLaunch num (fun l => { l with saved := l.saved.map (fun b => if b.index == index then f b else b) })

/-- Code of an accumulator type in the image (R346). -/
def AccTy.code : AccTy → Nat
  | .i32 => 0
  | .f32 => 8
  | .f64 => 9
  | .f16 => 10

def AccTy.ofCode (n : Nat) : AccTy := if n == 0 then .i32 else if n == 9 then .f64 else if n == 10 then .f16 else .f32

def SlotState.code : SlotState → Nat
  | .free => 0
  | .claimed => 1
  | .filling => 2
  | .ready => 3
  | .inUse => 3

def SlotState.ofCode (n : Nat) : SlotState := if n == 1 then .claimed else if n == 2 then .filling else if n == 3 then .ready else .free

/-- The first 0x1000 bytes of a Spindle image. -/
def Spindle.imageHead (p : Spindle) : Nat :=
  atOffsets
    ((List.range 32).map (fun i => (8 * i, (p.x.rd i).toNat))
     ++ [(0x100, p.pc.toNat), (0x108, p.bcom.toNat), (0x110, p.bdone.toNat), (0x118, p.flags.toNat), (0x120, p.live.toNat),
         (0x128, if p.wsat then 1 else 0), (0x140, p.ws.toNat)]
     ++ (List.range 64).map (fun i => let o := p.slot i
          (0x200 + 16 * i, o.state.code + 2 ^ 32 * o.size + 2 ^ 48 * o.format + 2 ^ 64 * o.count))
     ++ (List.range 32).map (fun a => (0x600 + a, (sget (fun _ => AccTy.f32) p.accs a).code)))

/-- A live-tile mask names slot 16q + n. -/
def liveSlot (m : BitVec 24) (i : Nat) : Bool := m.getLsbD (i % 16)

/-- A live-tile mask names accumulator 8q + n. -/
def liveAcc (m : BitVec 24) (a : Nat) : Bool := m.getLsbD (16 + a % 8)

/-- Writes a Spindle image: only the named contents (R346). -/
def State.writeSpindle (s : State) (p : Spindle) (f : Frame) (off : Nat) : Option State :=
  let va (o : Nat) : BitVec 64 := s.frameVa p.ctx f (off + o)
  let o := (s.saveWrite p.ctx (va 0) 0x1000 p.imageHead).bind (fun t => t.saveWrite p.ctx (va 0x1000) 0x4000 (p.scratch.readNat 0 0x4000))
  let o := (List.range 64).foldl (fun (o : Option State) i =>
    if liveSlot p.live i && (p.slot i).state != .free then
      o.bind (fun t => t.saveWrite p.ctx (va (0x5000 + 0x4000 * i)) 0x4000 (t.slotBytes p i 0x4000))
    else o) o
  (List.range 32).foldl (fun (o : Option State) a =>
    if liveAcc p.live a then o.bind (fun t => t.saveWrite p.ctx (va (0x105000 + 0x4800 * a)) 0x4800 (p.acc.readNat (18432 * a) 0x4800))
    else o) o

/-- STOPPED of a MODE 1 stop follows the block it names (R392). -/
def State.noteStopped (s : State) (c launch blk : Nat) : State :=
  if s.dbgCovers c launch blk && s.ctlField (.dbg c) 2 1 == 1 then s.ctlSet (.dbg c) 3 1 1 else s

/-- Every wave of a saving block has left: header, Spindle image and directory entry are written and the block's resources
are free (R345). -/
def State.finishSave (s : State) (b : Block) : State :=
  match b.phase with
  | .saving f =>
    if !(s.wavesOf b.launch b.index).isEmpty then s
    else
      let p := s.spindles.find? (fun p => p.launch == b.launch && p.block == b.index)
      let blk := s.blkOf b
      let survivors := match s.saved? b.launch b.index with
        | some v => v.waves.foldl (fun a u => if u.left then a ||| (1#64 <<< u.wid) else a) 0#64
        | none => 0
      let o := s.saveWrite b.ctx (s.frameVa b.ctx f 0) 0x1000 (blockHeader { b with alive := survivors } blk p.isSome b.pool.length)
      let o := match p with
        | some p => o.bind (fun t => t.writeSpindle p f (spindleOff b.waves b.scrSize))
        | none => o
      match o.bind (fun t => t.writeEntry b.ctx f blk b.launch 1) with
      | none => s.saveFault b.ctx
      | some t =>
        let t := { t with blocks := t.blocks.filter (fun c => !c.at b.launch b.index),
                          spindles := t.spindles.filter (fun p => !(p.launch == b.launch && p.block == b.index)) }
        let t := t.modSaved b.launch b.index (fun v => { v with since := t.cyc, spindle := p.map (fun p => (p.dsa, p.stop, p.fault, p.xMark)) })
        (t.unnote b.launch b.index).noteStopped b.ctx b.launch blk
  | _ => s

/-- WAVE_SAVE_END: trapret of the save handler (R345): the write-back of R126, then the wave leaves the core. -/
def State.saveReturn (s : State) (w : Wave) : State :=
  match s.block? w.launch w.block with
  | none => s
  | some b =>
    match b.phase with
    | .saving f =>
      match s.saveRead w.ctx (s.frameVa w.ctx f (waveFrameOff w.wid + 0x40)) 64 with
      | none => s.saveFault w.ctx
      | some (v, s) =>
        let ws := BitVec.ofNat 512 v
        let mine (l : L1Line) : Bool := l.core == w.core && l.ctx == w.ctx
        let s := s.writeBackSaved (fun s _ => s.savedWave w.launch w.block w.wid) (fun l => mine l && (l.kind == .un || (l.kind == .rc && (sigHit l.vline ws || sigHit l.vline w.ws))))
        let s := s.modSaved w.launch w.block (fun b => { b with waves := b.waves.map (fun (u : SavedWave) =>
          if u.wid == w.wid then { u with left := true } else u) })
        let s := s.dropWave w.core w.slot
        match s.block? w.launch w.block with
        | some b => s.finishSave b
        | none => s
    | _ => s

/-- BLOCK_SAVE: a block, or its co-resident unit, that has stopped is saved (R339). -/
def State.blockSave (s : State) (launch blk : Nat) : State :=
  match s.blocks.find? (fun b => b.launch == launch && b.index % 2 ^ 32 == blk && b.phase == .running) with
  | none => s
  | some b =>
    let unit_ := s.unitOf b
    if !s.covered b.ctx b.launch (s.blkOf b) || !unit_.all s.savable then s
    else
      let s := unit_.foldl (fun s d => match s.block? d.launch d.index with
        | some d => if d.phase == .running then s.saveBlock d else s
        | none => s) s
      unit_.foldl (fun s d => match s.block? d.launch d.index with
        | some d => s.finishSave d
        | none => s) s

/-! ## The end of a suspension (R339) -/

/-- Emissions of a launch awaiting placement return to their stalls (R64) (DEDUCED, log entry 54). -/
def State.returnEmissions (s : State) (num : Nat) : State :=
  let mine := s.emissions.filter (fun e => e.launch == num)
  let s := { s with emissions := s.emissions.filter (fun e => e.launch != num) }
  mine.foldl (fun s e => e.rays.foldl (fun s i => match s.ray? num i with
    | some r => s.joinStall num r r.key
    | none => s) s) s

/-- Whole microseconds from a time to now, saturating at 16 bits (R337). -/
def State.microsSince (s : State) (t : Nat) : Nat := min 65535 (s.since t / ticksPerMicro)

/-- A launch whose context's suspension ends: its blocks' waits for placement count from now (R309), and the records that the hot
pools held of its rays are in its cold allocation (R64). -/
def Launch.suspend (l : Launch) (now : Nat) : Launch :=
  { l with suspended := l.ray.isSome, saved := l.saved.map (fun b => { b with since := now }),
           ray := l.ray.map (fun r => { r with rays := r.rays.map (fun x => { x with hot := false }) }) }

/-- SUSPENSION_COMPLETE: nothing of the context is resident; its dirty lines are written back and STATE becomes 2 (R339). -/
def State.suspensionComplete (s : State) (c : Nat) : State :=
  let stepping := (s.ctx c).stepping && (s.launchesOf c).any (fun l => l.saved.any (fun b => !b.debug))
  if !s.preReq c || s.preState c != 1 || stepping || s.blocks.any (fun b => b.ctx == c) || s.spindles.any (fun p => p.ctx == c)
      || s.away.any (fun a => a.ctx == c) then s
  else
    let s := s.writeBackSaved State.savedWriter (fun l => l.ctx == c)
    let s := (s.launchesOf c).foldl (fun s l => s.returnEmissions l.num) s
    let s := { s with launches := s.launches.map (fun (l : Launch) => if l.ctx == c then l.suspend s.cyc else l) }.sweepStalls
    let s := s.ctlSet (.pre c) 16 16 (s.microsSince (s.ctx c).reqAt)
    let s := s.ctlSet (.pre c) 0 1 0
    let s := s.modCtx c (fun x => { x with schedHold := x.schedHold || x.reqSched, reqSched := false, forced := false, stepping := false })
    let s := if (s.ctx c).reqDebug && s.ctlField (.dbg c) 2 1 == 0 then s.ctlSet (.dbg c) 3 1 1 else s
    s.setPreState c 2

/-! ## Forced saves (R82, R340, R341) -/

/-- DEADLINE in ticks (R337). -/
def State.deadlineTicks (s : State) (c : Nat) : Nat :=
  let d := s.ctlField (.pre c) 32 16
  (if d == 0 then 1 else d) * ticksPerMicro

/-- A save of the context is outstanding: of the whole of it, or of a resident block that a debugger stops (R339, R392). -/
def State.saveDue (s : State) (c : Nat) : Bool :=
  (s.preReq c && s.preState c == 1) || s.blocks.any (fun b => b.ctx == c && s.dbgCovers c b.launch (s.blkOf b))

/-- The deadline of an outstanding save of a context has passed. -/
def State.deadlinePassed (s : State) (c extra : Nat) : Bool :=
  s.saveDue c && s.deadlineTicks c + extra ≤ s.since (s.ctx c).reqAt

/-- A user-mode wave stops at its boundary, whatever it waits for (R340). -/
def Wave.forceStop (w : Wave) : Wave :=
  match w.wait with
  | .ready => { w with wait := .stopped causeSuspendForced }
  | .retry _ false => { w with wait := .stopped causeSuspendForced }
  | _ => w

/-- A Spindle program is forced to its save with every tile named (R82). -/
def Spindle.forceStop (p : Spindle) : Spindle :=
  match p.wait with
  | .ready => { p with wait := .stopped causeSuspendForced, live := BitVec.allOnes 24 }
  | .retry 2 _ => { p with live := BitVec.allOnes 24 }
  | .retry _ _ => { p with wait := .stopped causeSuspendForced, live := BitVec.allOnes 24 }
  | .parked _ => { p with live := BitVec.allOnes 24 }
  | _ => p

/-- An agent that has returned from supervisor mode stops there when its save is forced, or when it yielded on the way (R206,
R340). -/
def State.stopReturned (s : State) : State :=
  match s.curWave, s.curSpindle with
  | some w, _ =>
    let forced := (s.ctx w.ctx).forced && w.step != some true
    let w' := { w with yielded := false }
    if !s.covered w.ctx w.launch w.blk then s.setWave w'
    else if w.yielded then s.setWave { w' with wait := .stopped causeSuspendYield }
    else if forced then s.setWave w'.forceStop else s.setWave w'
  | _, some p =>
    let p' := { p with yielded := none }
    if !s.covered p.ctx p.launch p.block then s.setSpindle p'
    else match p.yielded with
      | some m => s.setSpindle { p' with wait := .stopped causeSuspendYield, live := m }
      | none => s.setSpindle (if (s.ctx p.ctx).forced then p'.forceStop else p')
  | _, _ => s

/-- Stops what the forced save of a context covers. -/
def State.forceStops (s : State) (c : Nat) : State :=
  { s with
    waves := s.waves.map (fun w => if w.ctx == c && w.mode == .user && s.covered c w.launch w.blk then w.forceStop else w),
    spindles := s.spindles.map (fun p => if p.ctx == c && p.mode == .user && s.covered c p.launch p.block then p.forceStop else p) }

/-- FORCED_SAVE (R340). -/
def State.forcedSave (s : State) (c : Nat) : State :=
  if !s.deadlinePassed c 0 then s else (s.modCtx c (fun x => { x with forced := true })).forceStops c

/-- FORCED_SAVE_TIMEOUT: a save is outstanding 150 µs after the deadline (R341). -/
def State.forcedTimeout (s : State) (c : Nat) : State :=
  if (s.ctx c).forced && s.deadlinePassed c (150 * ticksPerMicro) && s.preState c != 3 then s.terminate c causeForcedTimeout else s

/-! ## Restoring a block (R126, R348) -/

/-- What a saved block asks of a core, from its frame: the header and the HELD counts. -/
def State.frameAsk (s : State) (l : Launch) (b : SavedBlock) : Option (Nat × Ask) :=
  match s.saveRead l.ctx (s.frameVa l.ctx b.frame 0) 0x1000 with
  | none => none
  | some (h, s) =>
    if headerReserved h then none
    else
      let alive := field h 128 64
      let helds := ((List.range 64).filter (fun i => bit alive i)).map (fun i =>
        (i, (s.saveRead l.ctx (s.frameVa l.ctx b.frame (waveFrameOff i + 8)) 8).map (fun v => field v.1 16 6)))
      if helds.any (fun p => p.2.isNone) then none
      else some (h, { waves := helds.map (fun p => (p.1, p.2.getD 1)), pool := field h 96 32, scratch := field h 64 32,
                      bars := if l.kind == 1 && episodeBase ≤ b.index then 0 else ctlBars l.record, spindle := bit h 24 })

/-- A Spindle image has a nonzero bit where it must hold zero, or a reserved value (R11, R346). -/
def imageReserved (v : Nat) : Bool :=
  field v (8 * 0x120 + 24) 40 != 0 || field v (8 * 0x128 + 1) 63 != 0
    || (List.range 64).any (fun i =>
        let x := field v (8 * (0x200 + 16 * i)) 128
        field x 2 30 != 0 || field x 56 8 != 0 || field x 96 32 != 0)
    || (List.range 32).any (fun a => !([0, 8, 9, 10].contains (field v (8 * (0x600 + a)) 8)))

/-- The Spindle program of an image (R81, R346): unnamed slots return claimed, unnamed accumulators zero; the registers that the
image does not carry come back as they were (R128, R260). -/
def State.readSpindle (s : State) (l : Launch) (b : SavedBlock) (cluster off : Nat) : Option State :=
  let va (o : Nat) : BitVec 64 := s.frameVa l.ctx b.frame (off + o)
  match s.saveRead l.ctx (va 0) 0x1000, s.saveRead l.ctx (va 0x1000) 0x4000 with
  | some (v, _), some (d, s) =>
    if imageReserved v then none else
    let kept := b.spindle.getD (0, 0, 0, [])
    let q (o : Nat) : BitVec 64 := BitVec.ofNat 64 (field v (8 * o) 64)
    let live := BitVec.ofNat 24 (field v (8 * 0x120) 24)
    let p : Spindle := Spindle.enter cluster l.ctx l.num b.index b.index l.prio (q 0x100) 0
    let p : Spindle :=
      { p with x := (List.range 32).foldl (fun x i => x.wr i (q (8 * i))) [], bcom := q 0x108, bdone := q 0x110, flags := q 0x118 &&& 0x3F,
               dsa := kept.1, stop := kept.2.1, fault := kept.2.2.1, xMark := kept.2.2.2,
               wsat := bit v (8 * 0x128), ws := BitVec.ofNat 512 (field v (8 * 0x140) 512),
               scratch := Memory.writeNat [] 0 0x4000 d, wait := .restored,
               accs := (List.range 32).foldl (fun m a => sput (fun _ => AccTy.f32) m a (AccTy.ofCode (field v (8 * (0x600 + a)) 8))) [] }
    let o := (List.range 64).foldl (fun (o : Option (Spindle × State)) i => o.bind (fun ps =>
      let x := field v (8 * (0x200 + 16 * i)) 128
      let st := SlotState.ofCode (field x 0 2)
      let clear : Memory := ps.2.om.clear (slotAddr cluster i) 16384
      if st == .free then some (ps.1.setSlot i .free, ps.2)
      else if liveSlot live i then
        (ps.2.saveRead l.ctx (va (0x5000 + 0x4000 * i)) 0x4000).map (fun r =>
          (ps.1.setSlot i { state := st, size := field x 32 16, format := field x 48 8, count := field x 64 32,
                                 written := BitVec.allOnes 16384, fresh := 0 },
           { r.2 with om := r.2.om.writeNat (slotAddr cluster i) 0x4000 r.1 }))
      else some (ps.1.setSlot i { state := .claimed, size := field x 32 16, format := field x 48 8, count := 0,
                                        written := BitVec.allOnes 16384, fresh := 0 },
                 { ps.2 with om := clear }))) (some (p, s))
    let o := (List.range 32).foldl (fun (o : Option (Spindle × State)) a => o.bind (fun ps =>
      if liveAcc live a then
        (ps.2.saveRead l.ctx (va (0x105000 + 0x4800 * a)) 0x4800).map (fun r =>
          ({ ps.1 with acc := ps.1.acc.writeNat (18432 * a) 0x4800 r.1 }, r.2))
      else some ps)) o
    o.map (fun ps => { ps.2 with spindles := ps.2.spindles ++ [ps.1] })
  | _, _ => none

/-- The implied acquire of a resumed wave (R126): nothing on the core it was saved from. On another core every line of the context
goes, so that the wave reads nothing older than it has read or written (R108). -/
def State.resumeAcquire (s : State) (core c old : Nat) : State :=
  if core == old then s else s.dropLines (fun l => l.core == core && l.ctx == c)

/-- A restored wave enters the restore entry (R338, R348). -/
def State.restoreEntry (s : State) (l : Launch) (b : SavedBlock) (scrSize waves owner : Nat) (w : Wave) : Option State :=
  let va := s.frameVa l.ctx b.frame (waveFrameOff w.wid)
  match s.saveRead l.ctx va 0x80 with
  | none => none
  | some (v, s) =>
    let w := { w with pc := BitVec.ofNat 64 (field v 0 64) }
    let s := s.logWave w 0x2D causeRestore w.pc
    let s := s.resumeAcquire w.core l.ctx b.core
    if s.ctlField (.tvec l.ctx) 0 1 == 0 then some (s.setWave { w with wait := .ended causeRestore })
    else
      let w := w.enterHandler .restore (s.trapVector l.ctx + 0x200) causeRestore
      let s := s.setWave w
      let scratch := if w.wid == owner then s.frameVa l.ctx b.frame (waveFrameOff waves) else 0
      some (s.handlerRegs w va scratch scrSize)

/-- The barrier slots of a header. -/
def headerSlots (h : Nat) : List (Nat × BarSlot) :=
  (List.range 32).foldl (fun m j =>
    let o := 8 * (0x100 + 16 * j)
    sput (fun _ => BarSlot.zero) m j { phase := BitVec.ofNat 32 (field h o 32), arrived := BitVec.ofNat 64 (field h (o + 64) 64) }) []

/-- Result of trying to resume one block. -/
inductive Resumed where
  | placed (s : State)
  | noRoom
  | fault

/-- Places a saved block on a core and enters its waves into the restore entry (R348). -/
def State.resumeBlock (s : State) (num index : Nat) (ok : Nat → Bool) : Resumed :=
  match s.launch? num, s.saved? num index with
  | some l, some b =>
    match s.frameAsk l b with
    | none => .fault
    | some (h, ask) =>
      let episode := l.kind == 1 && episodeBase ≤ index
      let seat := if episode then s.firstFit 0 128 (s.last % 128) ok ask
        else s.firstFit 0 128 (s.last % 128) (fun c => ok c && l.allows index c) ask
      match seat with
      | none => .noRoom
      | some seat =>
        let waves := field h 16 8
        let blk : Block :=
          { Block.enter num index l.ctx seat.core waves seat.scrBase ask.scratch ask.bars with
            alive := BitVec.ofNat 64 (field h 128 64), slots := headerSlots h, phase := .restoring b.frame }
        let mk (wid slot part inst : Nat) (blocks : List Nat) : Wave :=
          let sw := b.waves.find? (fun v => v.wid == wid)
          { Wave.enter seat.core slot part inst l.ctx num index wid
              (if episode then .episode else if l.kind == 1 then .generation else if l.kind == 2 then .task else .compute)
              ((sw.map (·.prio)).getD l.prio) s.cyc ((sw.map (·.entry)).getD 0) 0 [] blocks with
            taskWide := (sw.map (·.taskWide)).getD false, taskSucc := (sw.map (·.taskSucc)).getD 0 }
        let t := s.enterBlock blk seat mk
        let lo := s.frameVa l.ctx b.frame 0
        let lines := (65536 * b.frame.count) / 128
        let t := t.dropLines (fun x => x.core == seat.core && x.ctx == l.ctx && lo.toNat % 2 ^ 57 / 128 ≤ x.vline
          && x.vline < lo.toNat % 2 ^ 57 / 128 + lines)
        let t := { t with last := if episode then t.last else seat.core }
        let t := if episode then t else t.modLaunch num (fun l => l.note index seat.core false)
        let ws := t.wavesOf num index
        match ws.foldl (fun (o : Option State) w => o.bind (fun t => t.restoreEntry l b ask.scratch waves (scratchOwner ws) w)) (some t) with
        | none => .fault
        | some t =>
          if ask.spindle then
            match t.readSpindle l b (seat.core / 4) (spindleOff waves ask.scratch) with
            | some t => .placed (t.serve (s.fnOf l.ctx) (seat.core / 4))
            | none => .fault
          else .placed (t.serve (s.fnOf l.ctx) (seat.core / 4))
  | _, _ => .noRoom

/-- Saved blocks that resume together with one: those of its co-resident unit (R27). -/
def State.savedUnit (s : State) (num index : Nat) : List Nat :=
  match s.launch? num with
  | none => []
  | some l =>
    let n := unitBlocks l.record
    if ctlColevel l.record == 0 || episodeBase ≤ index then [index]
    else (l.saved.filter (fun b => b.index / n == index / n && (s.block? num b.index).isNone)).map (·.index)

/-- Resumes blocks one after the other, all or none. -/
def State.resumeAll (s : State) (num : Nat) (ok : Nat → Bool) : List Nat → Resumed
  | [] => .placed s
  | i :: rest =>
    match s.resumeBlock num i ok with
    | .placed t => t.resumeAll num ok rest
    | r => r

/-- A context whose work returns runs again (R339): STATE 0, its ray launches' stalls rebuilt (R64). -/
def State.unsuspend (s : State) (c : Nat) : State :=
  if s.preState c != 2 then s
  else
    let s := s.modCtx c (fun x => { x with schedHold := false })
    s.setPreState c 0

/-! ## Ray launches (R64, R347) -/

/-- Cold pool in units of C × 128 bytes: rays of the launch's pool that hold an allocation. -/
def State.coldUsed (s : State) : Nat :=
  s.launches.foldl (fun a l => match l.ray with
    | some r => if r.cold.isSome then a else a + 128 * r.cap
    | none => a) 0

/-- Bytes of cold pool not allocated (R372). -/
def State.coldFree (s : State) : Nat := s.mgmt.pool * 2 ^ 20 - s.coldUsed

/-- The phase byte of a ray's metadata (R347). -/
def RayPhase.code : RayPhase → Nat
  | .needsTraversal => 1
  | .inTraversal => 1
  | .needsEpisode => 2
  | .inEpisode => 3

/-- A ray's metadata entry. -/
def Ray.metadata (r : Ray) : Nat :=
  let k := r.key
  r.phase.code + 2 ^ 32 * (k.treelet % 2 ^ 32) + 2 ^ 64 * (k.cell % 2 ^ 16) + (if k.episode then 0 else 2 ^ 80 * k.dir)

/-- Granules of a ray pool frame of C rays. -/
def poolFrameGranules (cap : Nat) : Nat := 1 + (144 * cap + 65535) / 65536

/-- COLD_POOL_RECLAIM: the allocation of a suspended ray launch goes to a frame (R347) (DEDUCED, log entry 64). -/
def State.coldReclaim (s : State) (num : Nat) : State :=
  match s.launch? num with
  | none => s
  | some l =>
    match l.ray with
    | none => s
    | some rl =>
      if !l.suspended || rl.cold.isSome || s.preState l.ctx != 2 then s
      else match s.allocFrame l.ctx (poolFrameGranules rl.cap) with
        | none => s.terminate l.ctx causeSaveFull
        | some f =>
          let va (o : Nat) : BitVec 64 := s.frameVa l.ctx f o
          let meta_ := 65536 + 128 * rl.cap
          let o := s.saveWrite l.ctx (va 0) 64 (rl.cap + 2 ^ 32 * rl.slot)
          let o := (List.range (16 * rl.cap / 4096)).foldl (fun (o : Option State) i =>
            o.bind (fun t => t.saveWrite l.ctx (va (meta_ + 4096 * i)) 4096 0)) o
          let o := rl.rays.foldl (fun (o : Option State) r => o.bind (fun t =>
            (t.saveWrite l.ctx (va (65536 + 128 * r.slot)) 128 r.record.toNat).bind (fun t =>
              t.saveWrite l.ctx (va (meta_ + 16 * r.slot)) 16 r.metadata))) o
          match o.bind (fun t => t.writeEntry l.ctx f 0 l.num 2) with
          | none => s.saveFault l.ctx
          | some t => t.modRayLaunch num (fun r => { r with cold := some f })

/-- A ray pool frame has a nonzero byte where it must hold zero, a phase above 3, or another pool's header (R11, R347). -/
def State.poolReserved (s : State) (l : Launch) (rl : RayLaunch) (f : Frame) : Option Bool :=
  let entry (x : Nat) : Bool := 4 ≤ field x 0 8 || field x 8 24 != 0 || field x 88 40 != 0
  match s.saveRead l.ctx (s.frameVa l.ctx f 0) 64 with
  | none => none
  | some (h, s) =>
    (List.range (16 * rl.cap / 4096)).foldl (fun (o : Option Bool) i => o.bind (fun bad =>
      (s.saveRead l.ctx (s.frameVa l.ctx f (65536 + 128 * rl.cap + 4096 * i)) 4096).map (fun v =>
        bad || (v.1 != 0 && (List.range 256).any (fun j => entry (field v.1 (128 * j) 128))))))
      (some (h != rl.cap + 2 ^ 32 * rl.slot))

/-- The records of a pool come back from its frame (R348). -/
def State.coldRestore (s : State) (l : Launch) (rl : RayLaunch) (f : Frame) : Option State :=
  if s.poolReserved l rl f != some false then none else
  let o := rl.rays.foldl (fun (o : Option State) r => o.bind (fun t =>
    (t.saveRead l.ctx (t.frameVa l.ctx f (65536 + 128 * r.slot)) 128).map (fun v =>
      v.2.setRay l.num { r with record := BitVec.ofNat 1024 v.1 }))) (some s)
  (o.bind (fun t => t.writeEntry l.ctx f 0 0 0)).map (fun t => t.modRayLaunch l.num (fun r => { r with cold := none }))

/-- A suspended ray launch comes back: its pool, then its stalls, whose rays of one arrival time stand in the order of the pool
list (R64; DESIGN CHOICE, log entry 86). A reclaimed allocation that is not free again makes the rays wait for it. -/
def State.raysBack (s : State) (l : Launch) : State :=
  match l.ray with
  | none => s
  | some rl =>
    let back (s : State) : State :=
      let s := s.modLaunch l.num (fun l => { l with suspended := false })
      (((s.launch? l.num).bind (·.ray)).map (·.rays)).getD [] |>.foldl (fun s r =>
        if r.inStall then s.joinStall l.num r r.key else s) s
    match rl.cold with
    | none => back s
    | some f =>
      if s.coldFree < 128 * rl.cap then s
      else match s.coldRestore l rl f with
        | some t => back t
        | none => s.saveFault l.ctx

/-- RAY_RESUME: the rays of a launch of a context that runs again. -/
def State.resumeRays (s : State) (l : Launch) : State := if l.suspended && s.ctxRuns l.ctx then s.raysBack l else s

/-! ## The opportunity (R309) -/

/-- Tries a request of R309, a resumed block among them. A frame that faults ends its context (R342). -/
def State.tryReq (s : State) (ok : Nat → Bool) (r : PlaceReq) : Option State :=
  match r.kind, s.launch? r.num with
  | .resume num i, some l =>
    let ok (c : Nat) : Bool := ok c && s.coreFor (s.fnOf l.ctx) (s.urgent l) c
    match s.resumeAll num ok (s.savedUnit num i) with
    | .placed t => some (if (s.ctx l.ctx).stepping then t else t.unsuspend l.ctx)
    | .fault => some (s.saveFault l.ctx)
    | .noRoom => none
  | .rays num, some l =>
    if !(List.range 128).any (fun c => ok c && s.coreFor (s.fnOf l.ctx) (s.urgent l) c) then none
    else
      let t := (s.unsuspend l.ctx).raysBack l
      if (t.launch? num).any (fun l => l.suspended) then none else some t
  | _, _ => s.tryFresh ok r

/-- The placement opportunity of this step, when it goes to a request that satisfies a test (R309). -/
def State.placeFor (s : State) (want : PlaceReq → Bool) : State := s.placeWalk s.tryReq want (fun _ => false) s.placeReqs

/-! ## The end of a restore (R348) -/

/-- trapret of the restore handler: everything of the frame that is the device's part; the wave waits for its block. -/
def State.restoreReturn (s : State) (w : Wave) : State :=
  match s.block? w.launch w.block, s.saved? w.launch w.block with
  | some b, some sb =>
    match b.phase with
    | .restoring f =>
      let va := s.frameVa w.ctx f (waveFrameOff w.wid)
      match s.saveRead w.ctx va 0x2000, s.saveRead w.ctx (va + 0x2000 + 960) 64, s.saveRead w.ctx (va + 0x3000) 256 with
      | some (v, _), some (sr, _), some (v0, t) =>
        if controlReserved v then s.saveFault w.ctx
        else
          let sw := (sb.waves.find? (fun u => u.wid == w.wid)).getD (SavedWave.of w)
          let r := w.ofControl v sw
          let regs := (List.range 8).foldl (fun x i => x.wr (120 + i) (BitVec.ofNat 64 (field sr (64 * i) 64))) r.s
          let t := (List.range 64).foldl (fun t L => t.vwr w 0 L (BitVec.ofNat 32 (field v0 (32 * L) 32))) t
          let marks := (List.range (8 * w.blocks.length)).flatMap (fun n =>
            ((List.range 64).filter (fun L => bit v (8 * (0x1600 + 8 * n) + L))).map (fun L => w.vaddr n L / 4))
          let own (key : Nat) : Bool := w.blocks.any (fun blk => let a := w.core * 2 ^ 20 + 2048 * blk; a ≤ 4 * key && 4 * key < a + 2048)
          let t := { t with csMark := marks.foldl (fun m k => setAdd k m) (t.csMark.filter (fun k => !own k)) }
          t.setWave { r with s := regs, wait := .restored }
      | _, _, _ => s.saveFault w.ctx
    | _ => s
  | _, _ => s

/-- The wait a restored wave resumes (R233, R314, R328, R36). -/
def State.resumedWait (s : State) (f : Frame) (sw : SavedWave) (w : Wave) : Option (Wait × State) :=
  (s.saveRead w.ctx (s.frameVa w.ctx f (waveFrameOff w.wid)) 0x140).map (fun r =>
    let st := field r.1 64 64
    let x := (w.ofControl r.1 sw).wait
    (if bit st 7 then .claim (field r.1 (8 * 0x128) 64) else x, r.2))

/-- RESTORE_RELEASE: every wave of a restoring block has passed its restore trapret; they go on, and the frame and its
directory entry are free (R342, R348). Waves that waited in regclaim claim again first, in order of %wid (R36). -/
def State.restoreRelease (s : State) (b : Block) : State :=
  let ws := s.wavesOf b.launch b.index
  match b.phase, s.saved? b.launch b.index with
  | .restoring f, some sb =>
    if !ws.all (fun w => w.wait == .restored) then s
    else
      let step := if (s.ctx b.ctx).stepping && s.dbgCovers b.ctx b.launch (s.blkOf b) then some true else none
      match ws.foldl (fun (o : Option State) w => o.bind (fun s =>
          let sw := (sb.waves.find? (fun u => u.wid == w.wid)).getD (SavedWave.of w)
          (s.resumedWait f sw w).map (fun r => r.2.modWave w.core w.slot (fun v =>
            { v with wait := r.1, step := step, answers := sw.answers, readySince := s.cyc })))) (some s) with
      | none => s.saveFault b.ctx
      | some s =>
        match s.writeEntry b.ctx f 0 0 0 with
        | none => s.saveFault b.ctx
        | some s =>
          let claims := ((s.wavesOf b.launch b.index).filter (fun w => w.claimed.isSome)).map (·.wid)
          let order := (List.range 64).filter (fun i => claims.contains i)
          let s := { s with spindles := s.spindles.map (fun (p : Spindle) =>
            if p.launch == b.launch && p.block == b.index && (p.wait == Wait.restored) = true then { p with wait := .ready, step := step } else p) }
          let s := s.modLaunch b.launch (fun l => { l with saved := l.saved.filter (fun v => v.index != b.index) })
          (s.modBlock b.launch b.index (fun b => { b with phase := .running, claims := order })).claimDeadlock b.launch b.index
  | _, _ => s

/-- trapret in supervisor mode (R274, R345, R348): of the save and restore handlers once their accesses have completed. -/
def State.handlerReturn (s : State) (w : Wave) : State :=
  match w.handler with
  | .trap => s.trapReturn
  | .save => s.saveReturn w
  | .restore => s.restoreReturn w

/-! ## Host-held requests (R339, R392) -/

/-- The waves and programs of a context that have stopped at a yield go on, when no stop covers them any more. -/
def State.releaseStopped (s : State) (c : Nat) : State :=
  let go (wait : Wait) : Bool := match wait with
    | .stopped _ => true
    | _ => false
  { s with
    waves := s.waves.map (fun (w : Wave) =>
      if w.ctx == c && go w.wait && !s.covered c w.launch w.blk then { w with wait := .ready, readySince := s.cyc } else w),
    spindles := s.spindles.map (fun (p : Spindle) =>
      if p.ctx == c && go p.wait && !s.covered c p.launch p.block then { p with wait := .ready, live := 0 } else p) }

/-- SCH_CTX_PRE.RESUME: ends host-held suspensions and every debugger stop of the context, whose STOP and STEP clear (R337, R392;
DESIGN CHOICE, log entry 73). -/
def State.resumeHost (s : State) (c : Nat) : State :=
  let s := s.modCtx c (fun x => { x with reqHost := false, reqDebug := false, stepping := false })
  let s := (s.ctlSet (.dbg c) 3 1 0).ctlSet (.dbg c) 0 2 0
  let s := { s with waves := s.waves.map (fun (w : Wave) => if w.ctx == c then { w with step := none } else w),
                    spindles := s.spindles.map (fun (p : Spindle) => if p.ctx == c then { p with step := none } else p) }
  let s := { s with launches := s.launches.map (fun (l : Launch) =>
    if l.ctx == c then { l with saved := l.saved.map (fun (b : SavedBlock) => { b with debug := false, since := s.cyc }) } else l) }
  let x := s.ctx c
  if s.preState c == 2 && !x.schedHold then s.setPreState c 0
  else if s.preState c == 1 && !x.reqSched then
    (((s.ctlSet (.pre c) 0 1 0).modCtx c (fun x => { x with forced := false })).setPreState c 0).releaseStopped c
  else s.releaseStopped c

/-- SCH_CTX_DBG.STOP (R392). -/
def State.debugStop (s : State) (c : Nat) : State :=
  let s := s.modCtx c (fun x => { x with reqDebug := true })
  if s.ctlField (.dbg c) 2 1 == 0 then s.raiseReq c (fun x => { x with reqHost := true })
  else
    let s := s.modCtx c (fun x => if s.preReq c then x else { x with reqAt := s.clk.toNat })
    -- a block that is saved already counts as stopped
    match (s.launch? (s.ctlField (.dbg c) 23 9)).bind (fun l => (l.saved.find? (fun b => b.index == s.ctlField (.dbg c) 32 32)).map (fun b => (l, b))) with
    | some (l, b) =>
      if l.ctx == c && (s.block? l.num b.index).isNone then (s.modSaved l.num b.index (fun b => { b with debug := true })).ctlSet (.dbg c) 3 1 1
      else s
    | none => s

/-- SCH_CTX_DBG.STEP: the stopped blocks are restored for one instruction of each wave (R393). -/
def State.debugStep (s : State) (c : Nat) : State :=
  if s.ctlField (.dbg c) 3 1 == 0 then s
  else
    let s := s.ctlSet (.dbg c) 3 1 0
    let s := { s with launches := s.launches.map (fun (l : Launch) =>
      if l.ctx == c then { l with saved := l.saved.map (fun (b : SavedBlock) =>
        if s.dbgCovers c l.num b.index then { b with debug := false, since := s.cyc } else b) } else l) }
    let s := s.modCtx c (fun x => { x with stepping := true, reqAt := s.clk.toNat, forced := false })
    if s.ctlField (.dbg c) 2 1 == 0 then (s.ctlSet (.pre c) 0 1 1).setPreState c 1 else s

end Sys2Proof.Machine
end

