-- ==== Sys2Proof/Machine/Sched.lean ====
section
/-! DEFINITION. Launch queues: wakes, scans, the checks of a launch record, taking and refusing records, and activating ray
launches (01 R17 to R19, R28 to R30; 02 R39 to R41; 20 R303 to R307). -/

namespace Sys2Proof.Machine

/-! ## STATUS (R305) -/

/-- A failed access of the scheduler to a queue: nothing more is taken until a later scan. -/
def State.queueIdle (s : State) (c q : Nat) : State := s.modCtx c (fun x => { x with avail := sput (fun _ => 0) x.avail q 0 })

def State.queueLog (s : State) (c q cause : Nat) : State := s.logCtx bufSched 0x39 c 0x45 cause (s.queueVa c q)

/-- Writes STATUS of a queue: CAUSE, and REFUSED raised by `inc`; `none` when the page cannot be read and written. -/
def State.queueStatus (s : State) (c q cause inc : Nat) : Option State :=
  match s.enginePlace 0 c Need.device [] (plainBad c) (pageCuts (s.queueVa c q + 32) 4) with
  | .ok ps t =>
    if (t.piecesPoisoned ps).isSome then none
    else
      let (old, _, t) := t.engineRead c ps
      let v := setField (setField old 23 9 cause) 0 16 (field old 0 16 + inc)
      some ((t.engineWrite (schedWho c) v ps).ctxIrqEvent c 1)
  | _ => none

/-- A descriptor fault or an overrun: logged, and written to STATUS when that can be done. -/
def State.queueFault (s : State) (c q cause : Nat) : State :=
  let s := (s.queueLog c q cause).queueIdle c q
  (s.queueStatus c q cause 0).getD s

/-! ## Scans (R306) -/

/-- QUEUE_SCAN: reads the descriptor of a pending queue (DEDUCED, log entry 39). -/
def State.queueScan (s : State) (c q : Nat) : State :=
  if !(s.ctx c).pending.getLsbD q then s
  else
    let s := s.modCtx c (fun x => { x with pending := x.pending &&& ~~~(1#64 <<< q) })
    let s := s.modCtx c (fun x => { x with rayHead := x.rayHead.filter (fun e => e.1 != q) })
    match s.queueDesc 0 c q with
    | (none, t) => t.queueFault c q causeQueueDesc
    | (some d, t) =>
      if !d.good then t.queueFault c q causeQueueDesc
      else if !d.enabled then t.queueIdle c q
      else if 2 ^ d.sizelog < d.count then t.queueFault c q causeQueueOverrun
      else t.modCtx c (fun x =>
        { x with avail := sput (fun _ => 0) x.avail q d.count,
                 scanned := sput (fun _ => 0) x.scanned q d.bytes })

/-- A queue's descriptor as the last scan left it. -/
def State.scannedDesc (s : State) (c q : Nat) : QDesc :=
  { va := s.queueVa c q, bytes := sget (fun _ => 0) (s.ctx c).scanned q, pieces := [] }

/-! ## The checks of a launch record (R29) -/

def causeRecordReserved : Nat := 0x101
def causeHierarchy : Nat := 0x102
def causeExtent : Nat := 0x103
def causeResources : Nat := 0x104
def causeBlockTooLarge : Nat := 0x105
def causeCoResidency : Nat := 0x106
def causeLaunchAlign : Nat := 0x107
def causePoolConfig : Nat := 0x108
def causeLaunchStale : Nat := 0x109
def causeEpisodeTable : Nat := 0x10A
def causeSceneHeader : Nat := 0x10B

/-- Level descriptors that a record of a kind carries. -/
def levelCount (r : BitVec 512) : Nat := if ctlKind r == 1 then 3 else if ctlKind r == 2 then 1 else 8

/-- Row 1: reserved values. -/
def recordReserved (r : BitVec 512) : Bool :=
  let c := ctlWord r
  let k := ctlKind r
  2 < k || field c 44 2 != 0 || field c 22 2 != 0 || field c 11 5 != 0
    || (List.range (levelCount r)).any (fun i => field (levelDesc r i) 6 2 != 0)
    || (List.range (min (levelCount r) (ctlTop r + 1))).any (fun i => 6 ≤ levelScope r i || 6 ≤ levelDomain r i)
    || (k != 2 && ctlRinglog r != 0)
    || (k == 1 && (recBytes r 60 4 != 0 || field (recBytes r 44 4) 8 6 != 0))
    || (k == 2 && recBytes r 36 28 != 0)

/-- Minimum scope of a domain (R18). -/
def minScope (domain : Nat) : Nat := if domain ≤ 2 then domain else domain - (if domain == 3 then 0 else 1)

/-- Row 2: the rules of R18, and the TOP of a task pool and of a ray launch. -/
def hierarchyBad (r : BitVec 512) (paired : Bool) : Bool :=
  let top := ctlTop r
  levelDomain r 0 != 0
    || (List.range (top + 1)).any (fun i =>
        levelExtent r i == 0 || levelScope r i < minScope (levelDomain r i) || (levelDomain r i == 5 && !paired)
          || (i != 0 && (levelDomain r i == 0 || levelDomain r i < levelDomain r (i - 1))))
    || (List.range 8).any (fun i => top < i && levelDesc r i != 0)
    || (ctlKind r == 2 && (top != 0 || ctlColevel r != 0))
    || (ctlKind r == 1 && 2 < top)

/-- Row 3. -/
def extentBad (r : BitVec 512) : Bool :=
  64 < levelExtent r 0 || 64 < wavesPerBlock r || wavesPerBlock r == 0 || 2 ^ 32 < totalBlocks r
    || (ctlKind r == 2 && 2 ^ ctlRinglog r < poolInit r)

/-- Row 4. -/
def resourcesBad (r : BitVec 512) : Bool :=
  ctlVblk r == 0 || 32 < ctlVblk r || 128 < ctlScratch r || 32 < ctlBars r
    || (ctlKind r == 2 && (ctlRinglog r < 6 || 20 < ctlRinglog r))

/-- Row 5: one block on an empty core (R26). -/
def blockTooLarge (r : BitVec 512) : Bool := 2 ^ 20 - 2 ^ 17 < 2048 * (wavesPerBlock r * ctlVblk r) + 4096 * ctlScratch r

/-- Row 6: the rule of R28. -/
def State.coResidencyBad (s : State) (l : Launch) : Bool :=
  let r := l.record
  ctlColevel r != 0 && (ctlColevel r ≤ blockLevel r || ctlTop r < ctlColevel r || !s.unitFits l)

/-- Row 7. -/
def alignBad (r : BitVec 512) : Bool :=
  (if ctlKind r == 2 then recBytes r 8 8 % 4096 != 0 else recBytes r 8 8 % 4 != 0) || recBytes r 24 8 % 16 != 0

/-- Fields of a ray launch record (R39). -/
def rayEptab (r : BitVec 512) : BitVec 64 := BitVec.ofNat 64 (recBytes r 32 8)
def rayScene (r : BitVec 512) : Nat := recBytes r 40 4
def rayPoolWord (r : BitVec 512) : Nat := recBytes r 44 4
def rayCold (r : BitVec 512) : Nat := field (rayPoolWord r) 16 8
def rayCapacity (r : BitVec 512) : Nat := 65536 * (if rayCold r == 0 then 32 else rayCold r)
def rayClasses (r : BitVec 512) : Nat := field (rayPoolWord r) 0 8 + 1

/-- The first row of R40: the pool configuration. -/
def State.poolBad (s : State) (r : BitVec 512) : Bool := 128 < rayCold r || s.mgmt.pool * 2 ^ 20 < 128 * rayCapacity r

/-- The cause of the first row of R29, or of the first row of R40, that a launch's record fails. -/
def State.recordCause (s : State) (l : Launch) : Option Nat :=
  let r := l.record
  if recordReserved r then some causeRecordReserved
  else if hierarchyBad r (s.ctx l.ctx).paired then some causeHierarchy
  else if extentBad r then some causeExtent
  else if resourcesBad r then some causeResources
  else if blockTooLarge r then some causeBlockTooLarge
  else if s.coResidencyBad l then some causeCoResidency
  else if alignBad r then some causeLaunchAlign
  else if l.kind == 1 && s.poolBad r then some causePoolConfig
  else none

/-! ## The order of service (R304, R307) -/

/-- The priority a record of a queue receives. -/
def State.launchPrio (s : State) (c prio : Nat) : Nat :=
  min prio (min (s.ctlField (.ctxCtl c) 4 4) (s.ctlField (.fnCtl (s.fnOf c)) 8 4))

/-- Launch slot and cold pool for a ray launch of a record (R40). -/
def State.rayRoom (s : State) (r : BitVec 512) : Bool :=
  (s.launches.filter (fun l => l.ray.isSome)).length < 8 && 128 * rayCapacity r ≤ s.coldFree

/-- The record at a queue's head can be taken, or must first be copied and checked. -/
def State.queueReady (s : State) (c q : Nat) : Bool :=
  sget (fun _ => 0) (s.ctx c).avail q != 0
    && !((s.scannedDesc c q).serial && s.launches.any (fun l => l.ctx == c && l.queue == q
          && (s.ctx c).prev.any (fun e => e == (q, l.serial))))
    && (match (s.ctx c).rayHead.find? (fun e => e.1 == q) with
      | some (_, r) => s.rayRoom r
      | none => true)

/-- The first of a list in a round-robin order that starts after a number, of the highest rank. -/
def roundRobin (n last : Nat) (rank : Nat → Option Nat) : Option Nat :=
  ((List.range n).map (fun i => (last + 1 + i) % n)).foldl (fun best i =>
    match rank i, best with
    | some p, some b => if (rank b).getD 0 < p then some i else best
    | some _, none => some i
    | none, _ => best) none

/-- The queue of a context that it is served from next: the highest PRIO, then round-robin. Nothing is taken while the context
is being suspended, is suspended or is terminated (R339). -/
def State.nextQueue (s : State) (c : Nat) : Option Nat :=
  if (s.ctx c).avail.isEmpty || s.ctlField (.ctxCtl c) 0 1 == 0 || s.ctlField (.fnCtl (s.fnOf c)) 0 1 == 0 || !s.ctxValid c
      || !s.ctxRuns c then none
  else roundRobin 64 (s.ctx c).lastQueue (fun q => if s.queueReady c q then some (s.scannedDesc c q).prio else none)

/-- The context and queue served next. -/
def State.nextService (s : State) : Option (Nat × Nat) :=
  if 256 ≤ s.launches.length then none
  else
    (roundRobin 256 s.lastCtx (fun c => (s.nextQueue c).map (fun q => s.launchPrio c (s.scannedDesc c q).prio))).bind (fun c =>
      (s.nextQueue c).map (fun q => (c, q)))

/-! ## Taking a record (R307) -/

/-- The record at the head is passed: HEAD + 1 is written, and the order of service goes on after this queue. -/
def State.passHead (s : State) (c q : Nat) : State :=
  let d := s.scannedDesc c q
  let s := s.modCtx c (fun x =>
    { x with avail := sput (fun _ => 0) x.avail q (sget (fun _ => 0) x.avail q - 1),
             scanned := sput (fun _ => 0) x.scanned q (BitVec.ofNat 512 (setField d.bytes.toNat 192 64 (d.head + 1).toNat)),
             rayHead := x.rayHead.filter (fun e => e.1 != q), lastQueue := q })
  let s := { s with lastCtx := c }
  (s.queueWrite c d 24 8 (d.head + 1).toNat).getD ((s.queueLog c q causeQueueDesc).queueIdle c q)

/-- A refused record: STATUS takes the cause, REFUSED rises, and the refusal is logged. -/
def State.refuse (s : State) (c q cause : Nat) (slotVa : BitVec 64) : State :=
  let s := (s.queueStatus c q cause 1).getD ((s.queueLog c q causeQueueDesc).queueIdle c q)
  s.logCtx bufSched 0x35 c 0x45 cause slotVa

/-- The lowest free number of an active launch, and of a launch slot. -/
def State.freeLaunch (s : State) : Nat := ((List.range 256).find? (fun n => (s.launch? n).isNone)).getD 0
def State.freeRaySlot (s : State) : Nat :=
  ((List.range 8).find? (fun n => !s.launches.any (fun l => l.ray.any (fun r => r.slot == n)))).getD 0

/-- Seed tasks of a pool are enqueued in slot order (R32); one that cannot be read goes to the context's fault queue. -/
def State.seedTasks (s : State) (num c : Nat) : Nat → State
  | 0 => s
  | n + 1 =>
    match s.launch? num with
    | none => s
    | some l =>
      let s := match s.devRead 0 c [] (l.ringVa l.enqueued) 64 (Need.load false) with
        | .data v t => t.queueTask num (BitVec.ofNat 512 v) scopeSystem
        | .cause k a t => (t.taskFault c k 1 a).modLaunch num (fun l => { l with enqueued := l.enqueued + 1 })
        | .missing _ a t => (t.taskFault c causePageMissing 1 a).modLaunch num (fun l => { l with enqueued := l.enqueued + 1 })
      s.seedTasks num c n

/-- A launch becomes active: it is the one that its queue delivered last (R307), and its context's cached instructions are
dropped (R131). -/
def State.activate (s : State) (l : Launch) (slotVa : BitVec 64) : State :=
  let s := { s with launches := s.launches ++ [l], code := s.code.filter (fun e => e.1 != l.ctx), order := s.order + 1 }
  let s := s.modCtx l.ctx (fun x => { x with prev := (l.queue, l.serial) :: x.prev.filter (fun e => e.1 != l.queue) })
  let s := if s.evrOn 1 then s.logCtx bufSched 0x3D l.ctx 0x45 l.queue slotVa else s
  if l.kind == 2 then s.seedTasks l.num l.ctx (poolInit l.record) else s

/-! ## Activating a ray launch (R40) -/

/-- A read of 64 or fewer bytes of the launch's context, without a fault tag or record. -/
def State.launchRead (s : State) (c : Nat) (va : BitVec 64) (n : Nat) : Option Nat × State :=
  match s.devRead 0 c [] va n (Need.load false) with
  | .data v t => (some v, t)
  | .cause _ _ t => (none, t)
  | .missing _ _ t => (none, t)

/-- The address of the scene header that a handle names. -/
def State.sceneObject (s : State) (c handle : Nat) : Option (BitVec 64) × State :=
  let slot := handle % 2 ^ 20
  let log := s.ctlField (.dtab c) 0 5
  if 20 < log || 2 ^ log ≤ slot then (none, s)
  else match s.launchRead c (sext57 (s.ctlField (.dtab c) 12 45 * 4096) + BitVec.ofNat 64 (16 * slot)) 16 with
    | (none, t) => (none, t)
    | (some e, t) =>
      let hdr := field e 0 32
      if field hdr 20 12 != handle / 2 ^ 20 % 4096 || hdr % 16 != 2 || field hdr 4 16 != 0 || field e 32 32 != 0 then (none, t)
      else (some (BitVec.ofNat 64 (field e 64 64)), t)

/-- An episode table entry fails R41. -/
def episodeBad (e : BitVec 128) : Bool :=
  epEntry e != 0 && (epEntry e % 4 != 0 || epVblk e < 5 || 32 < epVblk e || field e.toNat 76 4 != 0 || 128 < epScratch e
    || field e.toNat 88 40 != 0)

/-- Reads n entries of an episode table from class c, well formed. -/
def State.episodeTable (s : State) (c : Nat) (base : BitVec 64) (i : Nat) : Nat → Option (List (BitVec 128)) × State
  | 0 => (some [], s)
  | n + 1 =>
    match s.launchRead c (base + BitVec.ofNat 64 (16 * i)) 16 with
    | (none, t) => (none, t)
    | (some v, t) =>
      let e := BitVec.ofNat 128 v
      if episodeBad e then (none, t)
      else match t.episodeTable c base (i + 1) n with
        | (some l, u) => (some (e :: l), u)
        | (none, u) => (none, u)

/-- The remaining rows of R40, with what the launch then holds. -/
def State.rayParts (s : State) (c : Nat) (r : BitVec 512) : Except Nat (BitVec 512 × List (BitVec 128)) × State :=
  match s.sceneObject c (rayScene r) with
  | (none, t) => (.error causeLaunchStale, t)
  | (some va, t) =>
    if rayEptab r % 4096 != 0 then (.error causeEpisodeTable, t)
    else match t.episodeTable c (rayEptab r) 0 (rayClasses r) with
      | (none, u) => (.error causeEpisodeTable, u)
      | (some tab, u) =>
        if va.toNat % 64 != 0 then (.error causeSceneHeader, u)
        else match u.launchRead c va 64 with
        | (none, u) => (.error causeSceneHeader, u)
        | (some h, u) =>
          let h := BitVec.ofNat 512 h
          if headerBad h then (.error causeSceneHeader, u) else (.ok (h, tab), u)

/-- Takes a ray launch that has its launch slot and cold pool: active, or refused by a remaining row. -/
def State.activateRay (s : State) (l : Launch) (slotVa : BitVec 64) : State :=
  let slot := s.freeRaySlot
  let s := s.passHead l.ctx l.queue
  match s.rayParts l.ctx l.record with
  | (.error k, t) => t.refuse l.ctx l.queue k slotVa
  | (.ok (h, tab), t) =>
    let part : RayLaunch := { slot := slot, cap := rayCapacity l.record, header := h, eptab := tab, rays := [], cold := none }
    { t with tlc := t.tlc.filter (fun e => e.2.1 != l.ctx) }.activate { l with ray := some part } slotVa

/-- Copies the record at a queue's head, and takes it, refuses it, or leaves a ray launch waiting at the head. Whether a write
to the slot of a launch that has waited reaches it is a choice under R14: then the slot is read and checked again (DESIGN CHOICE,
log entry 40). -/
def State.takeFrom (s : State) (c q : Nat) : State :=
  let d := s.scannedDesc c q
  let va := d.slotVa d.head
  let held := if Config.rewriteReaches s.free then none else (s.ctx c).rayHead.find? (fun e => e.1 == q)
  let s := { s with free := s.free + 1 }
  match (match held with
    | some (_, r) => (some r.toNat, s)
    | none => s.launchRead c va 64) with
  | (none, t) => t.queueFault c q causeQueueDesc
  | (some v, t) =>
    let r := BitVec.ofNat 512 v
    let l := Launch.enter t.freeLaunch c q (t.launchPrio c d.prio) t.cyc t.order (ctlKind r) r t.cyc
    if held.isSome then t.activateRay l va
    else match t.recordCause l with
      | some k => (t.passHead c q).refuse c q k va
      | none =>
        if l.kind != 1 then (t.passHead c q).activate l va
        else if t.rayRoom r then t.activateRay l va
        else t.modCtx c (fun x => { x with rayHead := (q, r) :: x.rayHead.filter (fun e => e.1 != q) })

/-- LAUNCH_TAKE. -/
def State.launchTake (s : State) : State :=
  match s.nextService with
  | some (c, q) => s.takeFrom c q
  | none => s

/-- RAY_LAUNCH_ACTIVATION of a launch that waits at its queue's head, when the order of service comes to it. -/
def State.rayActivation (s : State) (c q : Nat) : State :=
  if (s.ctx c).rayHead.any (fun e => e.1 == q) && s.nextService == some (c, q) then s.takeFrom c q else s

/-! ## Placement waits (R309) and sharing (R315, R316) -/

/-- PLACEMENT_RESERVATION: a launch's next block, or the emissions of a ray launch, have waited 65,536 cycles; a task and a resumed
block reserve by the time their own wait counts from. -/
def State.placementReservation (s : State) (num : Nat) : State :=
  let s := { s with emissions := s.emissions.map (fun (e : Emission) =>
    if e.launch == num && e.time + 65536 ≤ s.cyc then { e with reserves := true } else e) }
  if s.placeReqs.any (fun r => r.num == num && r.since + 65536 ≤ s.cyc && (match r.kind with
    | .block _ => true
    | _ => false)) then s.modLaunch num (fun l => { l with reserves := true }) else s

/-- TASK_PRIORITY_AGING: the tasks of a pool that have been queued for 65,536 cycles rank as PRIO 15 (R32). -/
def State.ageTasks (s : State) (num : Nat) : State :=
  s.modLaunch num (fun l => { l with tasks := l.tasks.map (fun (t : Task) => { t with aged := s.taskAged t }) })

/-- Another function with a bit for a cluster has a placement waiting. -/
def State.waitedFor (s : State) (f cl : Nat) : Bool :=
  s.placeReqs.any (fun r => match s.launch? r.num with
    | some l => s.fnOf l.ctx != f && (s.sharers cl).contains (s.fnOf l.ctx)
    | none => false)

/-- QUANTUM_EXPIRY: the serving function of a shared cluster has held it for its quantum while another waits: its contexts
there are pre-empted, and the cluster passes on. -/
def State.quantumExpiry (s : State) (cl : Nat) : State :=
  match s.serving.find? (fun e => e.1 == cl) with
  | none => s
  | some (_, f, at_) =>
    let quantum := s.ctlField (.fnCtl f) 16 16
    if (s.sharers cl).length ≤ 1 || quantum == 0 || s.since at_ < quantum * ticksPerMicro || !s.waitedFor f cl then s
    else
      let t := (s.ctxsOn f cl).foldl (fun s c =>
        (s.raiseReq c (fun x => { x with reqSched := true }))) s
      { t with serving := t.serving.map (fun e => if e.1 == cl then (cl, s.nextSharer f cl, s.clk.toNat) else e) }

/-- Contexts with work on the cores of this die that a request may be placed on. -/
def State.holders (s : State) (l : Launch) (r : PlaceReq) : List Nat :=
  let mask := s.ctlField (.fnCtl (s.fnOf l.ctx)) 32 32
  let may (core : Nat) : Bool := bit mask (core / 4) && l.reqCores r core
  ((s.blocks.filter (fun b => may b.core)).map (·.ctx)
    ++ (s.spindles.filter (fun p => (List.range 4).any (fun i => may (4 * p.cluster + i)))).map (·.ctx)).eraseDups

/-- Contexts that hold resources on the cores of an urgent launch's request and may be pre-empted for it, lowest priority
first. -/
def State.victims (s : State) (l : Launch) (r : PlaceReq) : List Nat :=
  let top (c : Nat) : Nat := (s.launchesOf c).foldl (fun a m => max a m.prio) 0
  let here := s.holders l r
  let ok := here.filter (fun c => s.fnOf c != s.fnOf l.ctx && !s.preReq c && top c < l.prio
    && !(s.launchesOf c).any (fun m => s.urgent m && l.prio ≤ m.prio))
  (List.range 16).flatMap (fun p => ok.filter (fun c => top c == p))

/-- The die without the resident work of some contexts. -/
def State.without (s : State) (cs : List Nat) : State :=
  { s with waves := s.waves.filter (fun w => !cs.contains w.ctx), blocks := s.blocks.filter (fun b => !cs.contains b.ctx),
           spindles := s.spindles.filter (fun p => !cs.contains p.ctx) }

/-- A request of a launch could be placed without the work of some contexts. -/
def State.placedWithout (s : State) (r : PlaceReq) (cs : List Nat) : Bool := ((s.without cs).tryReq (fun _ => true) r).isSome

/-- The victims, from the first, up to those without whose work the request can be placed. -/
def State.enough (s : State) (r : PlaceReq) (taken : List Nat) : List Nat → Option (List Nat)
  | [] => if s.placedWithout r taken then some taken else none
  | c :: rest => if s.placedWithout r taken then some taken else s.enough r (taken ++ [c]) rest

/-- Leaves out the victims, from the first, that the placement does not need. -/
def State.needed (s : State) (r : PlaceReq) (kept : List Nat) : List Nat → List Nat
  | [] => kept
  | c :: rest => if s.placedWithout r (kept ++ rest) then s.needed r kept rest else s.needed r (kept ++ [c]) rest

/-- URGENT_PREEMPTION: an urgent launch whose next request fits nowhere pre-empts, lowest priority first, only the contexts that
free enough beside those being saved already. -/
def State.urgentPreemption (s : State) (num : Nat) : State :=
  match s.launch? num with
  | none => s
  | some l =>
    match s.placeReqs.find? (fun r => r.num == num && !s.placedWithout r []) with
    | none => s
    | some r =>
      if !s.urgent l then s
      else
        let t := s.without ((s.holders l r).filter s.preReq)
        match t.enough r [] (s.victims l r) with
        | none => s
        | some cs => (t.needed r [] cs).foldl (fun s c => s.raiseReq c (fun x => { x with reqSched := true })) s

end Sys2Proof.Machine
end

