-- ==== Sys2Proof/Machine/Crier.lean ====
section
/-! DEFINITION. The Criers and the Traversal Units: ageing stalls, emissions, batches and traces (02 R46, R49, R50, R57 to R59;
20 R310; 21 R327). -/

namespace Sys2Proof.Machine

/-! ## Ages and pressure (R49) -/

/-- The stall age limit of a launch in ticks: 0 selects 20 µs (R39). -/
def ageTicks (r : BitVec 512) : Nat :=
  let a := field (rayPoolWord r) 24 8
  (if a == 0 then 20 else a) * ticksPerMicro

/-- Occupancy at or above the pressure watermark (PRESS + 4) / 8 of C. -/
def Launch.pressed (l : Launch) : Bool :=
  match l.ray with
  | some r => (field (rayPoolWord l.record) 14 2 + 4) * r.cap ≤ 8 * r.rays.length
  | none => false

/-- Inserts a ray in order of arrival. -/
def insertRay (p : Nat × Ray) : List (Nat × Ray) → List (Nat × Ray)
  | [] => [p]
  | q :: rest => if p.2.order < q.2.order then p :: q :: rest else q :: insertRay p rest

/-- The rays of a stall that the Crier may emit, in order of arrival: none of a context being suspended (R339). -/
def State.emittable (s : State) (t : Stall) : List (Nat × Ray) :=
  ((s.stallRays t.quarter t.index).filter (fun p => match s.launch? p.1 with
    | some l => s.ctxRuns l.ctx
    | none => false)).foldr insertRay []

/-- A ray arrived more than so many age limits of its launch ago. -/
def State.olderThan (s : State) (p : Nat × Ray) (limits : Nat) : Bool :=
  match s.launch? p.1 with
  | some l => limits * ageTicks l.record < s.since p.2.arrival
  | none => false

/-- A stall with its oldest ray and how it stands with the Crier. -/
structure StallView where
  stall : Stall
  oldest : Nat × Ray
  count : Nat
  aged : Bool
  overdue : Bool
  pressed : Bool

/-- How a stall stands, by its oldest ray. An overflow stall may hold rays of several launches: AGE and PRESS are those of its
oldest ray's launch, which the spec leaves open (R49; DESIGN CHOICE, log entry 86). -/
def State.stallView (s : State) (t : Stall) : Option StallView :=
  match s.emittable t with
  | [] => none
  | p :: rest =>
    some { stall := t, oldest := p, count := rest.length + 1, aged := t.aged == some p.2.order || s.olderThan p 1,
           overdue := t.overdue == some p.2.order || s.olderThan p 2, pressed := (s.launch? p.1).any (·.pressed) }

def StallView.eligible (v : StallView) : Bool := 64 ≤ v.count || v.aged || v.overdue || v.pressed

/-- The first of some stalls by a strict order. -/
def bestView (less : StallView → StallView → Bool) (l : List StallView) : Option StallView :=
  l.foldl (fun best v => match best with
    | some b => if less v b then some v else best
    | none => some v) none

def StallView.older (v b : StallView) : Bool := v.oldest.2.order < b.oldest.2.order

/-- The Crier's own choice among stalls (R49; DESIGN CHOICE, log entry 12). -/
def State.crierOwn (s : State) : List StallView → Option StallView
  | [v] => some v
  | l => l[Config.crierPick s.cyc % l.length]?

/-- The stall the Crier of a quarter emits from (R49, R310): overdue stalls, then those under pressure, then aged ones, then
one of the others. While 64 emissions await placement no needs-episode stall is emitted. -/
def State.crierChoice (s : State) (quarter : Nat) : Option StallView :=
  let full := 64 ≤ (s.emissions.filter (fun e => e.quarter == quarter)).length
  let views := ((s.stalls.filter (fun t => t.quarter == quarter)).filterMap s.stallView).filter (fun v =>
    v.eligible && !(full && v.oldest.2.key.episode))
  match bestView StallView.older (views.filter (·.overdue)) with
  | some v => some v
  | none =>
    match bestView (fun v b => b.count < v.count || (v.count == b.count && v.older b)) (views.filter (·.pressed)) with
    | some v => some v
    | none =>
      match bestView StallView.older (views.filter (·.aged)) with
      | some v => some v
      | none => s.crierOwn views

/-- STALL_AGE_EXPIRY and STALL_OVERDUE. -/
def State.markStall (s : State) (quarter index limits : Nat) : State :=
  { s with stalls := s.stalls.map (fun (t : Stall) =>
      if t.quarter == quarter && t.index == index then
        match s.emittable t with
        | p :: _ => if s.olderThan p limits then (if limits == 1 then { t with aged := some p.2.order } else { t with overdue := some p.2.order }) else t
        | [] => t
      else t) }

/-! ## Emission (R50, R310) -/

/-- The rays an emission takes: of the stall's 64 oldest, those of the oldest ray's key (R49, R50). -/
def State.emissionRays (s : State) (v : StallView) : List (Nat × Ray) :=
  ((s.emittable v.stall).take 64).filter (fun p => p.1 == v.oldest.1 && p.2.key == v.oldest.2.key)

/-- The rays of an emission leave their stall. -/
def State.takeRays (s : State) (phase : RayPhase) (rays : List (Nat × Ray)) : State :=
  rays.foldl (fun s p => s.setRay p.1 { p.2 with phase := phase, hot := false }) s

/-- CRIER_EMISSION: a traversal batch, or an episode emission that awaits placement. -/
def State.crierEmission (s : State) (quarter : Nat) : State :=
  match s.crierChoice quarter with
  | none => s
  | some v =>
    let rays := s.emissionRays v
    let num := v.oldest.1
    let key := v.oldest.2.key
    let phase := if key.episode then RayPhase.inEpisode else .inTraversal
    let t := s.takeRays phase rays
    let slots := rays.map (fun p => p.2.slot)
    let t :=
      if key.episode then
        let e : Emission := { quarter := quarter, launch := num, cls := key.cell, rays := slots, time := t.cyc, reserves := false }
        let t := { t with emissions := t.emissions ++ [e] }
        match t.evrOn 2, t.launch? num with
        | true, some l => t.logCtx (bufCe quarter) 0x68 l.ctx 0x43 key.cell (BitVec.ofNat 64 (slots.length + 65536 * key.launchSlot))
        | _, _ => t
      else
        let b : Batch := { quarter := quarter, launch := num, stall := v.stall.index, born := v.stall.born, unit := none, rays := slots, hits := [] }
        { t with batches := t.batches ++ [b] }
    t.sweepStalls

/-- TRAVERSAL_BATCH_START: the oldest waiting batch of a quarter enters a unit of it that has room for its rays. -/
def State.batchStart (s : State) (quarter unit : Nat) : State :=
  if unit / 32 != quarter then s
  else
    let load := (s.batches.filter (fun b => b.unit == some unit)).foldl (fun a b => a + b.rays.length) 0
    match s.batches.find? (fun b => b.quarter == quarter && b.unit.isNone) with
    | some b => if load + b.rays.length ≤ 512 then { s with batches := replaceFirst (fun c => c == b) { b with unit := some unit } s.batches } else s
    | none => s

/-! ## Traces (R57, R58) -/

/-- The treelet named most often in a list; the lower index wins a tie. -/
def mostHits (l : List Nat) : Option Nat :=
  (l.eraseDups).foldl (fun best t => match best with
    | some b => if l.count b < l.count t || (l.count b == l.count t && t < b) then some t else best
    | none => some t) none

/-- A ray's trace is over: it leaves its batch, whose end names the hint treelet of the stall it was emitted from, while that
stall still holds rays. A batch without a hit leaves the hint as it was, which the spec leaves open (R59; DESIGN CHOICE, log
entry 86). -/
def State.leaveBatch (s : State) (num slot : Nat) (hit : Option Nat) : State :=
  match s.batches.find? (fun b => b.launch == num && b.rays.contains slot) with
  | none => s
  | some b =>
    let c := { b with rays := b.rays.filter (· != slot), hits := b.hits ++ hit.toList }
    if !c.rays.isEmpty then { s with batches := replaceFirst (fun d => d == b) c s.batches }
    else
      { s with batches := s.batches.filter (fun d => d != b),
               stalls := s.stalls.map (fun (t : Stall) => match mostHits c.hits with
                 | some h => if t.quarter == b.quarter && t.index == b.stall && t.born == b.born && t.key.isSome then { t with hint := h } else t
                 | none => t) }

/-- The requester of a trace's fault record (R332) (DEDUCED, log entry 62). -/
def traceInfo (unit : Nat) (a : BitVec 64) : FaultInfo :=
  { kind := 0, cause := 0, vaddr := 0, tag := 0, access := 1, unit_ := 4, slot := 0xFF, core := unit, payload := words4 a 0 0 0 }

/-- A scene error or fault: the ray is retired and logged (R58). The record's class is the ray's miss class, which the spec leaves
open for a ray without a hit record (R377; DESIGN CHOICE, log entry 86). -/
def State.traceFails (s : State) (l : Launch) (unit : Nat) (r : Ray) (detail value : Nat) : State :=
  ((s.logRay l (bufCore unit) 0x42 detail value (rayMissCls r.record) 0xFF 0).retireRay l.num r.slot).leaveBatch l.num r.slot none

/-- A trace meets a missing page: it waits on its tag; a page answered before and missing again retires the ray. -/
def State.traceMisses (s : State) (l : Launch) (unit : Nat) (r : Ray) (a : BitVec 64) (value : Nat) : State :=
  let page := a.toNat % 2 ^ 57 / 4096
  if r.replied.contains page then s.traceFails l unit r eventSceneFault value
  else match s.needTag l.ctx page false false (traceInfo unit a) (bufCore unit) 0x42 with
    | some (t, u) => u.setRay l.num { r with tags := [t], entry := value }
    | none => s

/-- TRACE_COMPLETION: the trace of a ray in a unit ends, and the ray enters the episode phase with its hit record (DEDUCED, log entry 71). -/
def State.traceCompletion (s : State) (launchSlot slot : Nat) : State :=
  match s.raySlot? launchSlot with
  | none => s
  | some l =>
    match s.ray? l.num slot, l.ray, s.batches.find? (fun b => b.launch == l.num && b.rays.contains slot) with
    | some r, some rl, some b =>
      match b.unit with
      | none => s
      | some unit =>
        if r.phase != .inTraversal || !r.tags.isEmpty then s
        else match s.trace (32 * b.quarter) l.ctx rl.header r.record with
          | .missing a v t => t.traceMisses l unit r a v
          | .fault v t => t.traceFails l unit r eventSceneFault v
          | .error v t => t.traceFails l unit r eventSceneError v
          | .miss t =>
            (t.leaveBatch l.num slot none).toEpisode l.num r (missRecord (rayMissCls r.record)) 3 0 0 (rayMissCls r.record) noIndex
          | .occluded h t =>
            (t.leaveBatch l.num slot none).toEpisode l.num r (occludedRecord (rayOccCls r.record)) h.j h.treelet h.slot
              (rayOccCls r.record) noIndex
          | .hit h t =>
            let (hr, cls) := h.record
            (t.leaveBatch l.num slot (some h.treelet)).toEpisode l.num r hr h.j h.treelet h.slot cls h.treelet
    | _, _, _ => s

/-- The die's answer to a tag that traces wait on: the trace goes on, or its ray is retired (R58, R327). -/
def State.answerTraces (s : State) (tag : BitVec 32) (page : Nat) (fails : Bool) : State :=
  s.launches.foldl (fun s l => match l.ray with
    | none => s
    | some rl => (rl.rays.filter (fun r => r.tags.contains tag)).foldl (fun s r =>
        let unit := ((s.batches.find? (fun b => b.launch == l.num && b.rays.contains r.slot)).bind (·.unit)).getD 0
        if fails then s.traceFails l unit r eventSceneFault r.entry
        else s.setRay l.num { r with tags := [], replied := page :: r.replied }) s) s

/-! ## Reload and pool errors (R251, R253) -/

/-- The stall that reloads an ending episode wave: of its launch, class and quarter, eligible, the oldest first; none while 64
emissions of the quarter await placement, when its Crier may emit none (R253, R310). -/
def State.reloadChoice (s : State) (w : Wave) : Option StallView :=
  if 64 ≤ (s.emissions.filter (fun e => e.quarter == w.core / 32)).length then none else
  bestView StallView.older (((s.stalls.filter (fun t => t.quarter == w.core / 32)).filterMap s.stallView).filter (fun v =>
    v.eligible && v.oldest.1 == w.launch && v.oldest.2.key.episode && v.oldest.2.key.cell == w.cls))

/-- EPISODE_RELOAD: an episode wave that has settled its lanes at epend re-enters with a fresh emission of its class. It holds
again the register blocks of its class's VBLK, those that regsurrender gave to its block's pool among them (R24, R35, R60). -/
def State.reload (s : State) (core slot : Nat) : State :=
  match s.wave? core slot with
  | none => s
  | some w =>
    if w.wait != .exiting true || !w.quiet || s.preReq w.ctx then s
    else match s.reloadChoice w, s.launch? w.launch, s.block? w.launch w.block with
      | some v, some l, some b =>
        match l.ray.bind (fun rl => (rl.eptab[w.cls]?).map (fun t => (rl, t))) with
        | none => s
        | some (rl, t) =>
          let s := s.exitRelease w scopeDie
          let rays := s.emissionRays v
          let s := s.takeRays .inEpisode rays
          let own := w.blocks ++ b.pool
          let blocks := own.take (epVblk t)
          let s := s.setBlock { b with pool := own.drop (epVblk t), claims := [] }
          let s := (s.clearBlocks core blocks).clearStore (core * 2 ^ 20 + b.scrBase) b.scrSize
          let fresh := Wave.enter core slot w.partition w.inst l.ctx l.num w.block w.wid .episode (min (epPrio t) l.prio) w.placed (epEntry t)
            (entryMask rays.length) (episodeRegs l rl w.cls rays.length) blocks
          let sfq := ((s.wave? core slot).map (·.sfq)).getD []
          let s := s.setWave { fresh with cls := w.cls, entry := w.entry, sfq := sfq, stseq := w.stseq, readySince := s.cyc }
          let slots := rays.map (fun p => p.2.slot)
          let s := (s.fillEpisode core slot l.num slots).sweepStalls
          if s.evrOn 2 then s.logCtx (bufCe (core / 32)) 0x68 l.ctx 0x43 w.cls (BitVec.ofNat 64 (slots.length + 65536 * rl.slot)) else s
      | _, _, _ => s

/-- The lane of an episode wave that holds a ray loses it. -/
def Wave.loseRay (slot : Nat) (w : Wave) : Wave :=
  { w with rays := w.rays.map (fun e => if e.2.slot == some slot && e.2.disp == 0 then (e.1, { e.2 with slot := none }) else e) }

/-- RAY_POOL_ERROR: an uncorrectable error in the pool record of a ray retires the ray, whatever its phase (R251). The lane of an
episode that held it holds no ray afterwards (DESIGN CHOICE, log entry 86). -/
def State.poolError (s : State) (launchSlot slot : Nat) : State :=
  match s.raySlot? launchSlot with
  | none => s
  | some l =>
    match s.ray? l.num slot with
    | some r =>
      let t := ((s.logRay l (bufCe r.quarter) 0x43 eventPoolError (rayPixel r.record) (if r.key.episode then r.key.cell else 0) 0xFF 0).retireRay
        l.num slot).leaveBatch l.num slot none
      { t with waves := t.waves.map (fun w => if w.launch == l.num && w.kind == .episode then w.loseRay slot else w),
               emissions := t.emissions.map (fun e => if e.launch == l.num then { e with rays := e.rays.filter (· != slot) } else e) }
    | none => s

end Sys2Proof.Machine
end

