-- ==== Sys2Proof/Machine/VmEvents.lean ====
section
/-! DEFINITION. Translation as its registers and walkers drive it: answers to fault tags, the fault queue's head, roots, page
walks; and the events that let waiting agents go on (13 R236; 20 R313; 21 R317, R324 to R333). -/

namespace Sys2Proof.Machine

/-! ## An agent tries its instruction again -/

/-- The wave issues next, when its wait is one that its instruction may end. -/
def State.retryWave (s : State) (core slot : Nat) (ok : Wait → Bool) : State :=
  match s.wave? core slot with
  | some w => if ok w.wait then { s with agenda := .wave core slot :: s.agenda } else s
  | none => s

/-- FAULT_TAG_ALLOCATION, REMIT_RESUME, SLOT_WRITE_RETRY: a wave that waits for a tag (reason 2), or for pool space, a slot or
another resource (reason 8), executes its instruction again. -/
def Wait.isRetry (reason : Nat) : Wait → Bool
  | .retry r _ => r == reason
  | _ => false

/-! ## Answers (R328, R333) -/

/-- A requester's tags and answers after a reply. -/
def answered (tag : BitVec 32) (a : Answer) (fails : Bool) (tags : List (BitVec 32)) (answers : List Answer) :
    List (BitVec 32) × List Answer :=
  if tags.contains tag then (tags.filter (· != tag), if fails then answers ++ [a] else answers) else (tags, answers)

/-- A parked wave or program after a reply: ready at count zero. -/
def Wait.answer (tag : BitVec 32) : Wait → Wait
  | .parked tags => let l := tags.filter (· != tag); if l.isEmpty then .ready else .parked l
  | w => w

def Wait.holdsTag (tag : BitVec 32) : Wait → Bool
  | .parked tags => tags.contains tag
  | _ => false

def Copy.answer (tag : BitVec 32) (a : Answer) (fails : Bool) (c : Copy) : Copy :=
  let (t, l) := answered tag a fails c.tags c.answers
  { c with tags := t, answers := l }

def Drain.answer (tag : BitVec 32) (a : Answer) (fails : Bool) (d : Drain) : Drain :=
  let (t, l) := answered tag a fails d.tags d.answers
  { d with tags := t, answers := l }

def Wave.answer (tag : BitVec 32) (a : Answer) (fails : Bool) (now : Nat) (w : Wave) : Wave :=
  let w := { w with tok := w.tok.map (fun (p : Nat × Token) => (p.1, { p.2 with copy := p.2.copy.map (Copy.answer tag a fails) })) }
  if w.wait.holdsTag tag then
    { w with wait := w.wait.answer tag, answers := if fails then w.answers ++ [a] else w.answers, readySince := now }
  else if (w.holds.getD []).contains tag then
    { w with holds := w.holds.map (·.filter (· != tag)), answers := if fails then w.answers ++ [a] else w.answers }
  else w

def Spindle.answer (tag : BitVec 32) (a : Answer) (fails : Bool) (p : Spindle) : Spindle :=
  let p := { p with ops := p.ops.map (fun (o : MatOp) => { o with drain := o.drain.map (Drain.answer tag a fails) }) }
  if p.wait.holdsTag tag then { p with wait := p.wait.answer tag, answers := if fails then p.answers ++ [a] else p.answers }
  else if (p.holds.getD []).contains tag then
    { p with holds := p.holds.map (·.filter (· != tag)), answers := if fails then p.answers ++ [a] else p.answers }
  else p

def SavedWave.answer (tag : BitVec 32) (a : Answer) (fails : Bool) (w : SavedWave) : SavedWave :=
  let (t, l) := answered tag a fails w.tags w.answers
  { w with tags := t, answers := l }

/-- Ends a tag for every request that waits on it. -/
def State.answerTag (s : State) (t : Tag) (fails : Bool) (cause : Nat) : State :=
  let tag := t.word
  let a : Answer := { page := t.page, cause := cause }
  let s := s.freeTagOf t
  let s := { s with
    waves := s.waves.map (Wave.answer tag a fails s.cyc),
    spindles := s.spindles.map (Spindle.answer tag a fails),
    launches := s.launches.map (fun (l : Launch) =>
      { l with saved := l.saved.map (fun (b : SavedBlock) => { b with waves := b.waves.map (SavedWave.answer tag a fails) }) }) }
  s.answerTraces tag t.page fails

/-- A cause that the reply to a fault tag may carry: an assigned detail of the translation class (R333, R335). -/
def replyCause (cause : Nat) : Bool := 0x41 ≤ cause && cause ≤ 0x4C

/-- A write to VM_CTX_REPLY; a reply that names the paired device is carried to it (DEDUCED, log entry 38). -/
def State.reply (s : State) (c : Nat) (v : BitVec 64) : State :=
  let status := field v.toNat 62 2
  let cause := field v.toNat 32 9
  let tag := v.setWidth 32
  if v.getLsbD 28 && s.pairUp then { s with out := s.out ++ [.pairReply c v] }
  else match s.tags.find? (fun t => t.word == tag && t.ctx == c) with
  | some t =>
    if 2 ≤ status || (status == 1 && !replyCause cause) then s.logCtx bufSched 0x5E c 0x44 causeReplyInvalid v
    else s.answerTag t (status == 1) cause
  | none => s.logCtx bufSched 0x5E c 0x44 causeReplyInvalid v
where causeReplyInvalid : Nat := 0x128

/-- A write to VM_CTX_FQHEAD: held records are written while there is room (R331). -/
def State.headMoved (s : State) (c : Nat) : State := s.fqFlush c ((s.ctx c).held.length + 1)

/-- A write to VM_CTX_ROOT drops every translation of the context, G entries included, once the accesses in flight of the context
have completed (R279, R317) (DEDUCED, log entry 37). -/
def State.rootWritten (s : State) (c : Nat) : State :=
  ((s.waves.filter (fun w => w.ctx == c)).foldl (fun s w => s.completeFlight w) s).tlbDrop c none true

/-! ## Walkers (R325) -/

def State.walkShare (s : State) (c : Nat) : Nat := max 1 (s.ctlField (.vmCtl c) 36 4)

/-- The contexts with an active launch on the die. -/
def State.walkContexts (s : State) : List Nat := (List.range 256).filter (fun c => s.launches.any (fun l => l.ctx == c))

/-- Owners in order: WSHARE, highest first, then the lower context. -/
def State.walkOwners (s : State) : List Nat :=
  (List.range 15).flatMap (fun i => s.walkContexts.filter (fun c => s.walkShare c == 15 - i))

/-- Walkers of each owner: one for each of the first 64, the others in proportion to WSHARE by largest remainder. -/
def walkerCounts (owners : List (Nat × Nat)) : List (Nat × Nat) :=
  let first := owners.take 64
  let left := 64 - first.length
  let total := first.foldl (fun a o => a + o.2) 0
  let base := first.map (fun o => (o.1, 1 + left * o.2 / max 1 total, left * o.2 % max 1 total))
  let given := base.foldl (fun a o => a + (o.2.1 - 1)) 0
  let rank (o : Nat × Nat × Nat) : Nat :=
    (base.filter (fun p => o.2.2 < p.2.2 || (o.2.2 == p.2.2 && p.1 < o.1))).length
  base.map (fun o => (o.1, o.2.1 + (if rank o < left - given then 1 else 0)))

/-- The walkers are assigned anew when the set of owners has changed since they last were. -/
def State.assignWalkers (s : State) : State :=
  if s.owners == s.walkContexts then s
  else { s with owners := s.walkContexts,
                walkerOwner := (walkerCounts (s.walkOwners.map (fun c => (c, s.walkShare c)))).flatMap
                  (fun o => List.replicate o.2 o.1) }

/-- PAGE_WALK: a walker takes the oldest pending walk of its owner, else the oldest of any context, and fills the TLB. -/
def State.pageWalk (s : State) (walker : Nat) : State :=
  let s := s.assignWalkers
  let mine := s.walks.find? (fun w => some w.ctx == s.walkerOwner[walker]?)
  match (match mine with
    | some w => some w
    | none => s.walks.head?) with
  | none => s
  | some w =>
    let t := { s with walks := s.walks.erase w }
    (t.translate w.core w.ctx w.va { read := w.read, write := w.write, fetch := w.fetch, user := w.user }).2

/-! ## Waiter slots (R236, R313) -/

/-- TLWAIT_RELEASE and WAITER_SLOT_POLL: a slot whose cell has reached its threshold releases its wave. -/
def State.pollWaiter (s : State) (index : Nat) : State :=
  match s.waiters.find? (fun t => t.index == some index) with
  | none => s
  | some t =>
    let (v, u) := s.l2Read t.ctx t.pa 8
    if t.threshold.toNat ≤ v then u.releaseWaiter t else u

end Sys2Proof.Machine
end

