-- ==== Sys2Proof/Machine/Resets.lean ====
section
/-! DEFINITION. Reset levels and start-up (23 R365 to R369). -/

namespace Sys2Proof.Machine

/-! ## Function and port resets (R365, R366) -/

/-- A register takes its reset value. -/
def State.ctlReset (s : State) (r : CtlReg) : State := s.ctlWr r r.reset

/-- Contexts assigned to a function. -/
def State.ctxsOf (s : State) (f : Nat) : List Nat := (List.range 256).filter (fun c => s.ctxValid c && s.fnOf c == f)

/-- A function reset: its contexts are terminated, and their registers of the host interface, its MSI-X table and its counters
return to reset; its epoch rises (R365, R385, R389). -/
def State.functionReset (s : State) (f : Nat) : State :=
  let cs := s.ctxsOf f
  let s := cs.foldl (fun s c => if s.preState c == 3 then s else s.terminate c causeKilled) s
  let s := cs.foldl (fun s c => (s.ctlReset (.ctxIrq c)).ctlReset (.ngxCtxKey c)) (s.ctlReset (.fnWin f))
  let s := (List.range 28).foldl (fun s i => s.ctlReset (.fnCnt f i)) s
  { s with msix := s.msix.clear (1024 * f) 1024, msixPending := s.msixPending.wr f 0, macs := sput (fun _ => 0) s.macs f 0,
           epochs := sput (fun _ => 0#32) s.epochs f (sget (fun _ => 0#32) s.epochs f + 1),
           mgmt := { s.mgmt with flr := if s.mgmt.flr.contains f then s.mgmt.flr else s.mgmt.flr ++ [f] } }

/-- The functions that an FLR of a function resets: a physical function takes its virtual functions with it. -/
def flrFns (f : Nat) : List Nat := if isPhysical f then (List.range 16).map (fun i => f + i) else [f]

/-- FUNCTION_LEVEL_RESET. -/
def State.flr (s : State) (f : Nat) : State := (flrFns f).foldl (fun s g => s.functionReset g) s

/-- FLR_COMPLETE. -/
def State.flrComplete (s : State) (f : Nat) : State :=
  { s with mgmt := { s.mgmt with flr := s.mgmt.flr.filter (fun g => !(flrFns f).contains g) } }

/-- What a host port's link held goes with it: the lines of its memory that this L2 holds, and its part as a holder of this die's
lines (R115, R354; DESIGN CHOICE, log entry 83). -/
def State.dropPortLines (s : State) (p : Nat) : State :=
  let s := { s with mem := s.mem.clear ((3 + p) * 2 ^ 48) (2 ^ 48) }
  s.dir.foldl (fun s (e : Nat × DirLine) =>
    if paSpace (128 * e.1) == 3 + p then s.setDir e.1 { e.2 with own := .i }
    else s.setDir e.1 (if p == 0 then { e.2 with host0 := .i } else { e.2 with host1 := .i })) s

/-- PORT_RESET: hot reset or link down on a host port. The link is down until it trains again. -/
def State.portReset (s : State) (p : Nat) : State :=
  let s := (s.flr (16 * p)).dropPortLines p
  let s := s.ctlWr (.portSts p) (s.ctlRd (.portSts p) &&& 2)
  s.devLog 10 (BitVec.ofNat 64 p)

/-! ## Warm and cold reset (R365) -/

/-- The reset value of MGT_PWRCAP on a pair card (R371). -/
def State.boardCap (s : State) : State := if s.mgmt.board = .pairCard then s.ctlSet .mgtPwrcap 0 16 450 else s

/-- What a warm reset keeps: the Capsule Store, the device log, board flash and fuses, and the counters marked so. -/
def State.warmReset (s : State) (source : Nat) : State :=
  let m := s.mgmt
  let keep : Mgmt :=
    { m with boots := m.boots + 1, boot := 2, resetAt := 0, heldReset := none, flr := [], govAt := 0, running := [], spdm := [] }
  let t : State := { State.reset with
    mgmt := keep, capsules := s.capsules, free := s.free, out := s.out,
    epochs := (List.range 32).foldl (fun e f => sput (fun _ => 0#32) e f (sget (fun _ => 0#32) e f + 1)) s.epochs }
  (t.boardCap.ctlWr .rasErrcnt (s.ctlRd .rasErrcnt)).devLog 2 (BitVec.ofNat 64 source)

/-- A warm reset requested while a capsule is being assembled waits for it (R381) (DEDUCED, log entry 69). -/
def State.askWarmReset (s : State) (source : Nat) : State :=
  if s.freezes.isEmpty then s.warmReset source else { s with mgmt := { s.mgmt with heldReset := some source } }

/-- POWER_ON: a cold reset. Board flash and fuses are kept; the Capsule Store is empty, so that a capsule lives on only in
flash (R382). -/
def State.coldReset (s : State) : State :=
  let m := s.mgmt
  let keep : Mgmt :=
    { m with boots := m.boots + 1, lostCaps := 0, boot := 1, resetAt := 0, heldReset := none, flr := [], govAt := 0,
             running := [], spdm := [] }
  let t : State := { State.reset with
    mgmt := keep, free := s.free, out := s.out,
    capsules := (s.capsules.filter (·.inFlash)).map (fun c => { c with inStore := false }),
    epochs := (List.range 32).foldl (fun e f => sput (fun _ => 0#32) e f (sget (fun _ => 0#32) e f + 1)) s.epochs }
  t.boardCap.devLog 1 0

/-! ## Start-up (R367 to R369) -/

/-- The step reached, and a stop of start-up. -/
def State.setPhase (s : State) (p : Nat) : State := s.ctlSet .mgtStatus 0 4 p

def State.goTo (s : State) (step : Nat) : State := { s with mgmt := { s.mgmt with boot := step } }

/-- Recovery: only host port 0's physical function, with its mailbox and no cluster. -/
def State.recovery (s : State) (step : Nat) : State :=
  let s := ((s.setPhase 7).ctlSet .mgtStatus 16 8 step).goTo 0
  let s := (s.ctlWr (.fnCtl 0) 0).ctlWr (.fnCtl 16) 0
  (s.ctlSet (.portSts 0) 1 1 1).devLog 5 (s.ctlRd .mgtStatus)

/-- A firmware slot may boot (R369). -/
def Mgmt.bootable (m : Mgmt) (f : FwSlot) : Bool := f.signed && m.fusedSvn ≤ f.svn

/-- Step 2: the active slot, else the other. -/
def State.selectFirmware (s : State) : State :=
  let m := s.mgmt
  let act := if m.activeB then m.slotB else m.slotA
  let other := if m.activeB then m.slotA else m.slotB
  let run (f : FwSlot) (b : Bool) : State := ((s.ctlSet .mgtStatus 32 16 f.svn).ctlSet .mgtStatus 8 1 (if b then 1 else 0)).goTo 3
  if m.bootable act then run act m.activeB else if m.bootable other then run other (!m.activeB) else s.recovery 2

/-- The repair record passes (R368). -/
def Mgmt.repairGood (m : Mgmt) : Bool :=
  let b (i : Nat) : Nat := (m.repair.read i).toNat
  let lmap := (List.range 32).map (fun j => b (24 + j))
  m.repair.readNat 0 4 == 0x52525649 && m.repair.readNat 4 4 == 1 && m.repair.readNat 8 16 == m.serial.toNat
    && lmap.all (· < 36) && lmap.eraseDups.length == 32 && m.repair.readNat 56 8 == 0 && m.repairSigned

/-- Step 3: the core map. -/
def State.installMap (s : State) : State :=
  if !s.mgmt.repairGood then s.recovery 3
  else ((List.range 4).foldl (fun s i => s.ctlWr (.clmap i) (BitVec.ofNat 64 (s.mgmt.repair.readNat (24 + 8 * i) 8))) s).goTo 4

/-- Step 4: memory, at the cold pool's configured size, and the core clock. The junction limit is not stated (DESIGN CHOICE, log entry 8). -/
def State.trainMemory (s : State) : State :=
  let (limit, s) := s.takeWord
  let s := (s.ctlSet .mgtSense 32 16 1700).ctlSet .mgtSense 16 16 (limit.toNat % 2 ^ 16)
  { s with mgmt := { s.mgmt with pool := s.mgmt.poolNext, boot := 5 } }

/-- Step 5: the pair link of a pair card, and the ports the board brings out: ports 0 and 1 of each device of a pair card, whose
PLK_STS.ID stays 0 (DESIGN CHOICE, log entry 4). -/
def State.trainLinks (s : State) : State :=
  let s := if s.mgmt.board = .pairCard then s.ctlSet .plkSts 0 2 3 else s
  let ports := if s.mgmt.board = .serverModule then 8 else 2
  ((List.range ports).foldl (fun s p => s.ctlSet (.ngxPort p) 1 1 1) s).goTo 6

/-- Step 6: the host ports are released; a new image that gets here is committed. -/
def State.releasePorts (s : State) : State :=
  let m := s.mgmt
  let s := (s.ctlSet (.portSts 0) 1 1 1).ctlSet (.portSts 1) 1 1 (if m.board = .serverModule then 1 else 0)
  let svn := s.ctlField .mgtStatus 32 16
  let s := { s with mgmt := { m with fusedSvn := max m.fusedSvn svn, earlierB := none, boot := 0 } }
  if m.earlierB.isSome then s.devLog 3 (BitVec.ofNat 64 svn) else s

/-- Runs the next step of start-up. Step 1 leaves %clk at 0 (R278). -/
def State.bootStep (s : State) : State :=
  match s.mgmt.boot with
  | 1 => { (s.setPhase 1).goTo 2 with clk := 0 }
  | 2 => (s.setPhase 2).selectFirmware
  | 3 => (s.setPhase 3).installMap
  | 4 => (s.setPhase 4).trainMemory
  | 5 => (s.setPhase 5).trainLinks
  | 6 => (s.setPhase 6).releasePorts
  | _ => s

/-- The step of start-up that is due fails: steps 1 and 4 stop it at PHASE 8 with CAUSE, and step 5 leaves the pair link down
(R367); steps 2 and 3 fail by what the flash holds. -/
def State.startFails (s : State) : State :=
  let failed (step : Nat) : State := ((s.setPhase 8).ctlSet .mgtStatus 16 8 step).goTo 0
  match s.mgmt.boot with
  | 1 => { failed 1 with clk := 0 }
  | 4 => failed 4
  | 5 => ((s.setPhase 5).trainLinks).ctlSet .plkSts 0 1 0
  | _ => s

/-- FIRMWARE_ROLLBACK: a new image has not reached PHASE 6 in 10 s (R369) (DEDUCED, log entry 72). -/
def State.rollback (s : State) : State :=
  match s.mgmt.earlierB with
  | some b =>
    if s.ctlField .mgtStatus 0 4 == 6 || s.since s.mgmt.resetAt < 10000000 * ticksPerMicro then s
    else ({ s with mgmt := { s.mgmt with activeB := b, earlierB := none } }.devLog 4 (if b then 1 else 0)).askWarmReset 2
  | none => s

/-! ## Host links (R353) -/

/-- HOST_LINK_UP: a released port trains; speed 1 to 6, 2^width lanes up to 8. -/
def State.hostLinkUp (s : State) (port speed width flit cache mem : Nat) : State :=
  let r := CtlReg.portSts port
  if s.ctlField r 1 1 == 0 || s.ctlField r 0 1 == 1 || speed == 0 || 6 < speed then s
  else s.ctlWr r (BitVec.ofNat 64 (1 + 2 + 4 * flit + 8 * cache + 16 * mem + 256 * width + 4096 * speed))

end Sys2Proof.Machine
end

