-- ==== Sys2Proof/Machine/Recorder.lean ====
section
/-! DEFINITION. The Event Recorder's own records, freezes, and crash capsules with their views (24 R373 to R386). -/

namespace Sys2Proof.Machine

/-! ## Time-sync and loss records (R373, R376) -/

/-- Ticks between time-sync records. -/
def syncPeriod : Nat := 2 ^ 24

/-- A device record at a stamp. -/
def Buf.device (x : Buf) (b stamp type detail : Nat) (payload : BitVec 64) : Buf := x.push (bufSize b) stamp type 0 0 0x7E detail payload

/-- A buffer's time-sync record is due. -/
def State.syncDue (s : State) (b : Nat) : Bool :=
  b < bufCount && !(s.buf b).frozen && (s.buf b).last / syncPeriod < s.clk.toNat / syncPeriod

/-- TIME_SYNC: the record of the last multiple of 2^24 that %clk has passed. -/
def State.timeSync (s : State) (b : Nat) : State :=
  if !s.syncDue b then s
  else
    let at_ := s.clk.toNat / syncPeriod * syncPeriod
    s.setBuf b ((s.buf b).device b at_ 0x00 0 (BitVec.ofNat 64 at_))

/-- The loss record of a buffer that records again. -/
def Buf.lossNote (x : Buf) (b now : Nat) : Buf :=
  if x.dropped == 0 || x.frozen then x else { x with dropped := 0 }.device b now 0x0C 0 (BitVec.ofNat 64 x.dropped)

/-- LOSS_RECORD: of a buffer that records and has dropped records. -/
def State.lossRecord (s : State) (b : Nat) : State :=
  if bufCount ≤ b || (s.buf b).frozen || (s.buf b).dropped == 0 then s else s.setBuf b ((s.buf b).lossNote b s.clk.toNat)

/-! ## Freezes (R379 to R381) -/

/-- FREEZE_ARRIVAL: a FREEZE reaches a buffer and opens its window, or joins the one that is open. -/
def State.freezeArrival (s : State) (b : Nat) : State :=
  match s.freezes.find? (fun f => f.toReach.contains b) with
  | none => s
  | some f =>
    let x := s.buf b
    let g := { f with toReach := f.toReach.filter (· != b) }
    match x.window with
    | none =>
      { s with freezes := replaceFirst (fun h => h == f) { g with opened := true } s.freezes }.setBuf b
        { x with window := some (s.cyc, f.t, f.full) }
    | some (at_, t, full) =>
      let s := { s with freezes := replaceFirst (fun h => h == f) g s.freezes }
      let s := s.setBuf b { x with window := some (at_, min t f.t, full || f.full) }
      { s with freezes := match s.freezes with
          | h :: rest => { h with t := if h.opened then min h.t f.t else h.t, full := h.full || (h.opened && f.full) } :: rest
          | [] => [] }

/-- Places a record of a buffer after another at a stamp: its DELTA counts from there (R375, R376). -/
def restamp (rec : BitVec 128) (stamp last : Nat) : BitVec 128 :=
  let v := rec.toNat
  if v / 2 ^ 120 == 0 then rec else BitVec.ofNat 128 (setField v 96 24 (stamp - last))

/-- Puts back records stamped after a cut, oldest first. -/
def Buf.putBack (x : Buf) (size : Nat) : List (BitVec 128 × Nat) → Buf
  | [] => x
  | (r, t) :: rest =>
    Buf.putBack { x with recs := (restamp r t x.last :: x.recs).take size, stamps := (t :: x.stamps).take size, last := t } size rest

/-- The freeze mark, in stamp order; in full mode the records after it are discarded. -/
def Buf.mark (x : Buf) (b t : Nat) (full : Bool) (detail : Nat) : Buf :=
  let all : List (BitVec 128 × Nat) := x.recs.zip x.stamps
  let newer := all.filter (fun p => t < p.2)
  let older := all.filter (fun p => p.2 ≤ t)
  let recs : List (BitVec 128) := older.map (fun p => p.1)
  let stamps : List Nat := older.map (fun p => p.2)
  let base : Buf := { x with recs := recs, stamps := stamps, last := stamps.headD 0, window := none }
  let marked := base.device b t 0x04 detail (BitVec.ofNat 64 t)
  if full then { marked with frozen := true, dropped := x.dropped } else marked.putBack (bufSize b) newer.reverse

/-- FREEZE_WINDOW_CLOSE: 256 cycles after it opened, the window closes with the mark of the least T. -/
def State.windowClose (s : State) (b : Nat) : State :=
  match (s.buf b).window with
  | none => s
  | some (at_, t, full) =>
    if s.cyc < at_ + 256 then s
    else
      let (source, cause) := match s.freezes.find? (fun f => f.opened && f.t == t), s.freezes.head? with
        | some f, _ => (f.source, f.cause)
        | none, some f => (f.source, f.cause)
        | none, none => (0, 0)
      s.setBuf b ((s.buf b).mark b t full ((if full then 0 else 2048) + 512 * source + cause))

/-- PAIR_FREEZE_MESSAGE: a full freeze of the paired die, cut at this die's time. -/
def State.pairFreeze (s : State) (cause : Nat) : State :=
  if !s.pairUp then s
  else s.raiseFreeze { full := true, t := s.clk.toNat, cause := cause, reason := 0, okind := 5, oindex := 0, ctx := 0xFFFF, source := 1,
                       toReach := [], opened := false, requester := none }

/-! ## Capsules (R382, R383) -/

/-- A buffer's records of a capsule, oldest first: the newest 512 at or before the cut, the origin's whole. -/
def capsuleRecs (x : Buf) (t : Nat) (whole : Bool) : List (BitVec 128) :=
  let l := ((x.recs.zip x.stamps).filter (fun p => p.2 ≤ t)).map (·.1)
  (if whole then l else l.take 512).reverse

/-- The buffer of an origin unit. -/
def originBuf (kind index : Nat) : Nat :=
  match kind with
  | 0 => bufCore index
  | 1 => bufSpindle index
  | 2 => bufCe index
  | 3 => bufLlc index
  | 4 => bufMem index
  | _ => bufSched

def State.makeCapsule (s : State) (f : Freeze) : Capsule :=
  { id := s.mgmt.capId, freeze := f, pair := 0, lost := s.mgmt.lostCaps,
    fw := s.ctlField .mgtStatus 32 16 + 2 ^ 16 * s.ctlField .mgtStatus 8 1, epochs := s.epochs,
    bufs := (List.range bufCount).map (fun b => (b, capsuleRecs (s.buf b) f.t (b == originBuf f.okind f.oindex))),
    inStore := true, inFlash := false }

/-- A new master replaces the oldest that lies in flash; `none` when all three await their copy. -/
def storeRoom (l : List Capsule) : Option (List Capsule) :=
  if (l.filter (·.inStore)).length < 3 then some l
  else match l.find? (fun c => c.inStore && c.inFlash) with
    | some c => some (replaceFirst (fun d => d.id == c.id) { c with inStore := false } l)
    | none => none

/-- Frozen buffers record again after a full freeze. -/
def State.resumeBufs (s : State) : State :=
  (List.range bufCount).foldl (fun s b =>
    let x := s.buf b
    if !x.frozen then s
    else
      let now := s.clk.toNat
      let x := { x with frozen := false }
      s.setBuf b (((x.device b now 0x00 0 s.clk).device b now 0x08 0 s.clk).lossNote b now)) s

/-- The mailbox command of a function ends with a STATUS and a response length. -/
def State.mailboxEnds (s : State) (f status len : Nat) : State :=
  { s with mgmt := { s.mgmt with running := s.mgmt.running ++ [(f, status, len)] } }

def State.mboxPut (s : State) (f off n v : Nat) : State := { s with mbox := s.mbox.writeNat (4096 * f + off) n v }

/-- CAPSULE_STORED: once every buffer has passed its window, the first freeze becomes a capsule, or is lost for want of room. -/
def State.capsuleStored (s : State) : State :=
  match s.freezes with
  | [] => s
  | f :: rest =>
    if !f.toReach.isEmpty || s.bufs.any (fun b => b.2.window.isSome) then s
    else
      let done (s : State) : State :=
        let s := { s with freezes := rest }
        let s := if f.full then s.resumeBufs else s
        match rest, s.mgmt.heldReset with
        | [], some source => s.warmReset source
        | _, _ => s
      if !f.opened then done s
      else match storeRoom s.capsules with
        | none =>
          let s := { s with mgmt := { s.mgmt with lostCaps := (s.mgmt.lostCaps + 1) % 2 ^ 16 } }
          let s := s.devLog 9 (BitVec.ofNat 64 s.mgmt.lostCaps)
          match f.requester with
          | some g => let (st, s) := s.takeWord; done (s.mailboxEnds g (st.toNat % 2 ^ 16) 0)
          | none => done s
        | some l =>
          let c := s.makeCapsule f
          let s := { s with capsules := l ++ [c], mgmt := { s.mgmt with capId := s.mgmt.capId + 1 } }
          let s := s.devLog 8 (BitVec.ofNat 64 c.id)
          match f.requester with
          | some g => done ((s.mboxPut g 0 8 c.id).mailboxEnds g 0 8)
          | none => done s

/-- CAPSULE_FLASH_COPY: the oldest master not yet in flash is copied; the flash holds four, and the oldest copy gives way. -/
def State.flashCopy (s : State) : State :=
  match s.capsules.find? (fun c => c.inStore && !c.inFlash) with
  | none => s
  | some c =>
    let l := if (s.capsules.filter (·.inFlash)).length < 4 then s.capsules
      else match s.capsules.find? (·.inFlash) with
        | some d => replaceFirst (fun e => e.id == d.id) { d with inFlash := false } s.capsules
        | none => s.capsules
    let l := replaceFirst (fun e => e.id == c.id) { c with inFlash := true } l
    { s with capsules := l.filter (fun c => c.inStore || c.inFlash) }

/-! ## Views (R383 to R385) -/

/-- Little-endian bytes of a number. -/
def leBytes (v n : Nat) : List (BitVec 8) := (List.range n).map (fun i => BitVec.ofNat 8 (v / 2 ^ (8 * i)))

def zeros (n : Nat) : List (BitVec 8) := List.replicate n 0

/-- The measurements of R369, as the image, its microcode, the repair record and the board form stand. -/
def State.measurements (s : State) : List (BitVec 384) :=
  let f := if s.ctlField .mgtStatus 8 1 == 1 then s.mgmt.slotB else s.mgmt.slotA
  let img := leBytes (f.image.readNat 0 f.size) f.size
  let rom := Config.sha384 []
  let board := Config.sha384 (leBytes (if s.mgmt.board = .pairCard then 1 else 0) 1 ++ leBytes s.mgmt.sockets 1)
  [rom, Config.sha384 img, Config.sha384 (leBytes 3 1 ++ img), Config.sha384 (leBytes (s.mgmt.repair.readNat 0 160) 160), board]

/-- The redaction of one record in a view (R384): the record, and its two bits of MAP. -/
def redact (view fn : Nat) (epochOk : Bool) (r : BitVec 128) : BitVec 128 × Nat :=
  let v := r.toNat
  let cls := v / 2 ^ 120 % 4
  let time : BitVec 128 := BitVec.ofNat 128 (v / 2 ^ 120 * 2 ^ 120 + field v 96 24 * 2 ^ 96)
  match view with
  | 0 =>
    if (field v 91 5 == fn && field v 76 7 != 0x7E && epochOk) || (field v 76 7 == 0x7E && cls == 0) then (r, 0) else (time, 1)
  | 1 =>
    if cls ≤ 1 then (r, 0)
    else if cls == 2 then (BitVec.ofNat 128 (v / 2 ^ 64 * 2 ^ 64), 2)
    else (BitVec.ofNat 128 (setField (v / 2 ^ 64 * 2 ^ 64) 64 12 0), 2)
  | _ => (r, 0)

def mapBytes (l : List Nat) : List (BitVec 8) :=
  let v := l.foldr (fun m a => m + 4 * a) 0
  leBytes v ((2 * l.length + 63) / 64 * 8)

/-- Bytes 0 to 511 of a view. -/
def Capsule.head (s : State) (c : Capsule) (view fn : Nat) : List (BitVec 8) :=
  let f := c.freeze
  leBytes 0x50435649 4 ++ leBytes 1 2 ++ leBytes view 1 ++ leBytes f.reason 1 ++ leBytes c.id 8 ++ leBytes f.t 8 ++ leBytes c.pair 8
    ++ leBytes f.cause 2 ++ leBytes (if f.reason == 0 then f.okind else 5) 1 ++ zeros 1 ++ leBytes f.oindex 2
    ++ leBytes (if view == 0 then fn else 0xFFFF) 2 ++ leBytes (if f.reason == 1 then f.ctx else 0xFFFF) 2 ++ leBytes c.lost 2
    ++ leBytes bufCount 4 ++ leBytes s.mgmt.serial.toNat 16 ++ leBytes c.fw 8
    ++ (List.range 32).flatMap (fun i => leBytes (sget (fun _ => 0#32) c.epochs i).toNat 4) ++ zeros 56
    ++ s.measurements.flatMap (fun m => leBytes m.toNat 48) ++ zeros 16

/-- DIR, RECORDS and MAP of a view. -/
def Capsule.body (s : State) (c : Capsule) (view fn : Nat) : List (BitVec 8) :=
  let ok := sget (fun _ => 0#32) c.epochs fn == sget (fun _ => 0#32) s.epochs fn
  let red := c.bufs.map (fun b => b.2.map (redact view fn ok))
  let dir := (c.bufs.zip red).foldl (fun (acc : List (BitVec 8) × Nat) p =>
    let u := bufUnit p.1.1
    (acc.1 ++ leBytes u.1 1 ++ zeros 1 ++ leBytes u.2 2 ++ leBytes p.2.length 4 ++ leBytes acc.2 8, acc.2 + 16 * p.2.length))
    ([], 512 + 16 * bufCount)
  dir.1 ++ red.flatMap (fun l => l.flatMap (fun r => leBytes r.1.toNat 16)) ++ mapBytes (red.flatMap (fun l => l.map (·.2)))

/-- A view of a capsule, signed. -/
def Capsule.view (s : State) (c : Capsule) (view fn : Nat) : List (BitVec 8) :=
  let head := c.head s view fn
  let body := c.body s view fn
  let all := head ++ (if view == 2 then Config.vendorSeal c.id body else body)
  all ++ leBytes (Config.sign all).toNat 96

/-- A function may read a view (R385, R386). -/
def State.viewAllowed (s : State) (c : Capsule) (view fn : Nat) : Bool :=
  if view == 0 then sget (fun _ => 0#32) c.epochs fn == sget (fun _ => 0#32) s.epochs fn else isPhysical fn

end Sys2Proof.Machine
end

