-- ==== Sys2Proof/Machine/Mgmt.lean ====
section
/-! DEFINITION. Brolek: the mailbox, SPDM, the governor, machine checks, memory errors and the device log
(22 R335, R336; 23 R369 to R372; 24 R386; 25 R387, R388, R395). -/

namespace Sys2Proof.Machine

/-! ## Machine checks (R336, R379) -/

/-- A unit of a kind and index exists (R373). -/
def unitExists (kind index : Nat) : Bool :=
  index < (match kind with
    | 0 => 128
    | 1 => 32
    | 2 => 4
    | 3 => 64
    | 4 => 24
    | 5 => 1
    | _ => 0)

/-- A class-10 cause arises in a unit: the device freezes, and every context with a resident wave is terminated. -/
def State.machineCheck (s : State) (cause kind index : Nat) (syndrome : BitVec 64) : State :=
  let s := s.logDev (originBuf kind index) 0x64 cause syndrome
  let s := s.devLog 6 (BitVec.ofNat 64 cause)
  let s := s.raiseFreeze { full := true, t := s.clk.toNat, cause := cause, reason := 0, okind := kind, oindex := index, ctx := 0xFFFF,
                           source := 0, toReach := [], opened := false, requester := none }
  let s := if s.pairUp then { s with out := s.out ++ [.freeze s.clk.toNat cause] } else s
  ((s.waves.map (·.ctx)).eraseDups).foldl (fun s c => s.terminate c cause) s

/-- MACHINE_CHECK: details 1 to 5, in a unit that exists. -/
def State.machineCheckEvent (s : State) (detail kind index : Nat) (syndrome : BitVec 64) : State :=
  if detail == 0 || 5 < detail || !unitExists kind index then s else s.machineCheck (0x140 + detail) kind index syndrome

/-! ## Memory errors (R387, R388) -/

/-- Recorder buffer of the controller of an address: GDDR-7 in equal parts, one socket each (DESIGN CHOICE, log entry 5). -/
def memBuf (pa : Nat) : Nat :=
  if paSpace pa == 0 then bufMem (min 15 (paOff pa / (gddrBytes / 16))) else bufMem (16 + min 7 (paOff pa / socketBytes))

/-- A granule of this die's memory is found with an error, correctable or not (DESIGN CHOICE, log entry 77). -/
def State.memoryError (s : State) (granule : Nat) (ue : Bool) : State :=
  let pa := 32 * granule
  if 2 ≤ paSpace pa || !s.dramExists (paSpace pa) (paOff pa) then s
  else
    let s := s.logDev (memBuf pa) 0x71 (if ue then 1 else 0) (BitVec.ofNat 64 pa)
    let s := s.errCount ue
    if ue then { s with poison := setAdd granule s.poison }.devLog 11 (BitVec.ofNat 64 pa) else s

/-- PATROL_SCRUB_READ: finding 1 correctable, 2 or 3 uncorrectable. -/
def State.scrubRead (s : State) (granule finding : Nat) : State :=
  if s.ctlField .rasScrub 8 1 == 0 || finding == 0 then s else s.memoryError granule (finding != 1)

/-! ## Sensors and the governor (R371) -/

/-- THERMAL_TRIP: a junction 10 °C above its limit. -/
def State.thermalTrip (s : State) : State :=
  let hot := s.ctlField .mgtSense 0 16
  if s.ctlField .mgtSense 16 16 + 80 ≤ hot then (s.machineCheck 0x145 5 0 (BitVec.ofNat 64 hot)).devLog 7 (BitVec.ofNat 64 hot) else s

/-- The governor may lower the clock: on a pair card, or on a server module whose cap lies below 1,000 W or whose hottest junction
has reached its limit (R2, R3). -/
def State.mayLower (s : State) : Bool :=
  s.mgmt.board == .pairCard || s.ctlField .mgtPwrcap 0 16 < 1000 || s.ctlField .mgtSense 16 16 ≤ s.ctlField .mgtSense 0 16

/-- GOVERNOR_STEP: 25 MHz, at most once per 100 µs, between 900 and 1,700 MHz. -/
def State.governorStep (s : State) (up : Bool) : State :=
  let f := s.ctlField .mgtSense 32 16
  let g := if up then f + 25 else f - 25
  if !(up || s.mayLower) || s.since s.mgmt.govAt < 100 * ticksPerMicro || g < 900 || 1700 < g then s
  else { s.ctlSet .mgtSense 32 16 g with mgmt := { s.mgmt with govAt := s.clk.toNat } }

/-- What the sensors read (DESIGN CHOICE, log entry 76). -/
def State.sensors (s : State) (hot power : Nat) : State := (s.ctlSet .mgtSense 0 16 hot).ctlSet .mgtPwrcap 16 16 power

/-! ## SPDM (R370) -/

/-- The body of an SPDM response of a code: the digest of the certificate chain, the chain, the measurements 1 to 5 of R369, each
signed answer with its signature; the layout is the model's (PRESUMED, log entry 6). -/
def State.spdmBody (s : State) (code : Nat) : List (BitVec 8) :=
  let digest := leBytes (Config.sha384 Config.certChain).toNat 48
  let signed (l : List (BitVec 8)) : List (BitVec 8) := l ++ leBytes (Config.sign l).toNat 96
  match code with
  | 0x01 => digest
  | 0x02 => Config.certChain
  | 0x03 => signed digest
  | 0x60 => signed (s.measurements.flatMap (fun m => leBytes m.toNat 48))
  | _ => []

/-- An SPDM request over the DOE of a host port's physical function, or over MCTP on the management bus as port 2: answered once the
connection has reached a stage (0 none, 1 version, 2 capabilities, 3 algorithms), else with an error; the codes are those of SPDM
1.2 (PRESUMED, log entry 6). -/
def State.spdmAnswer (s : State) (port need after code : Nat) : State :=
  let stage := sget (fun _ => 0) s.mgmt.spdm port
  if port < 2 && s.ctlField (.portSts port) 0 1 == 0 then s
  else if stage < need then { s with out := s.out ++ [.spdm port 0x7F []] }
  else
    let m := s.mgmt
    { s with out := s.out ++ [.spdm port code (s.spdmBody code)],
             mgmt := { m with spdm := if after == 0 then m.spdm else sput (fun _ => 0) m.spdm port after } }

/-- The seven requests of R370, by number: the stage that each needs, the stage that it reaches, the code of its response. -/
def spdmRow : Nat → Option (Nat × Nat × Nat)
  | 0 => some (0, 1, 0x04)
  | 1 => some (1, 2, 0x61)
  | 2 => some (2, 3, 0x63)
  | 3 => some (3, 0, 0x01)
  | 4 => some (3, 0, 0x02)
  | 5 => some (3, 0, 0x03)
  | 6 => some (3, 0, 0x60)
  | _ => none

/-- Brolek answers one of them. -/
def State.spdmRequest (s : State) (port i : Nat) : State :=
  match spdmRow i with
  | some (need, after, code) => s.spdmAnswer port need after code
  | none => s

/-! ## The mailbox (R369, R372, R386, R395) -/

/-- Bytes of a function's mailbox buffer, and a response written into it (DEDUCED, log entry 70). -/
def State.mboxGet (s : State) (f off n : Nat) : Nat := s.mbox.readNat (4096 * f + off) n

def State.mboxBytes (s : State) (f : Nat) (l : List (BitVec 8)) : State :=
  s.mboxPut f 0 l.length (l.foldr (fun b a => b.toNat + 256 * a) 0)

/-- STAGE: the image in the buffer goes to the inactive slot. Its security version is not a field that the spec lays out. -/
def State.stageImage (s : State) (f len : Nat) : State :=
  let n := min len 4096
  let img := s.mboxGet f 0 n
  let (svn, s) := s.takeWord
  let slot : FwSlot := { image := Memory.writeNat [] 0 n img, size := n, svn := svn.toNat % 2 ^ 16, signed := Config.verifies (leBytes img n) }
  let m := s.mgmt
  ({ s with mgmt := if m.activeB then { m with slotA := slot } else { m with slotB := slot } }).mailboxEnds f 0 0

/-- ACTIVATE: verifies the staged image, marks it active and makes a warm reset. -/
def State.activateImage (s : State) (f : Nat) : State :=
  let m := s.mgmt
  if !m.bootable (if m.activeB then m.slotA else m.slotB) then s.mailboxEnds f 3 0
  else ({ s with mgmt := { m with activeB := !m.activeB, earlierB := some m.activeB } }).askWarmReset 2

/-- POOLCFG: the cold pool in MiB for the next warm reset. -/
def State.poolConfig (s : State) (f : Nat) : State :=
  let n := s.mboxGet f 0 4
  if n < 256 || 1024 < n || n % 64 != 0 then s.mailboxEnds f 1 0
  else { s with mgmt := { s.mgmt with poolNext := n } }.mailboxEnds f 0 0

/-- CAPLIST. -/
def State.capList (s : State) (f : Nat) : State :=
  let size (c : Capsule) (v : Nat) : Nat := if s.viewAllowed c v f then (c.view s v f).length else 0
  let entry (c : Capsule) : List (BitVec 8) :=
    leBytes c.id 8 ++ leBytes c.freeze.t 8 ++ leBytes c.freeze.reason 1
      ++ leBytes ((if c.inStore then 1 else 0) + (if c.inFlash then 2 else 0)) 1 ++ leBytes c.freeze.cause 2
      ++ leBytes (size c 0) 4 ++ leBytes (size c 1) 4 ++ leBytes (size c 2) 4
  let l := (s.capsules.take 7).flatMap entry
  (s.mboxBytes f l).mailboxEnds f 0 l.length

/-- CAPREAD. -/
def State.capRead (s : State) (f : Nat) : State :=
  let view := s.mboxGet f 8 1
  let off := s.mboxGet f 16 8
  match s.capsules.find? (fun c => c.id == s.mboxGet f 0 8) with
  | none => s.mailboxEnds f 1 0
  | some c =>
    if 2 < view || s.mboxGet f 9 7 != 0 then s.mailboxEnds f 1 0
    else if !s.viewAllowed c view f then s.mailboxEnds f 2 0
    else
      let v := c.view s view f
      if v.length ≤ off then s.mailboxEnds f 1 0
      else
        let part := (v.drop off).take 4096
        (s.mboxBytes f part).mailboxEnds f 0 part.length

/-- CAPTURE: a mark-only freeze; the command ends when its capsule lies in the store. -/
def State.captureNow (s : State) (f : Nat) : State :=
  s.raiseFreeze { full := false, t := s.clk.toNat, cause := 0, reason := 2, okind := 5, oindex := 0, ctx := 0xFFFF, source := 2,
                  toReach := [], opened := false, requester := some f }

/-- CAPCLEAR. -/
def State.capClear (s : State) (f : Nat) : State :=
  let id := s.mboxGet f 0 8
  if s.capsules.any (fun c => c.id == id) then
    { s with capsules := s.capsules.filter (fun c => c.id != id) }.mailboxEnds f 0 0
  else s.mailboxEnds f 1 0

/-- LOGREAD: up to 128 entries from a SEQ onward. -/
def State.logRead (s : State) (f : Nat) : State :=
  let first := s.mboxGet f 0 8
  let entry (e : LogEntry) : List (BitVec 8) :=
    leBytes e.seq 8 ++ leBytes e.boot 4 ++ leBytes e.event 2 ++ zeros 2 ++ leBytes e.clk.toNat 8 ++ leBytes e.arg.toNat 8
  let l := ((s.mgmt.log.filter (fun e => first ≤ e.seq)).take 128).flatMap entry
  (s.mboxBytes f l).mailboxEnds f 0 l.length

/-- Runs the command of a function's mailbox, which is BUSY from now on. -/
def State.mailboxRun (s : State) (f : Nat) : State :=
  let r := CtlReg.mgtMbox f
  let s := s.ctlSet r 62 1 1
  let len := s.ctlField r 32 16
  let denied := s.mailboxEnds f 2 0
  match s.ctlField r 0 16 with
  | 0x0001 => if f == 0 then s.stageImage f len else denied
  | 0x0002 => if f == 0 then s.activateImage f else denied
  | 0x0003 => if isPhysical f then s.askWarmReset 0 else denied
  | 0x0004 => if isPhysical f then s.poolConfig f else denied
  | 0x0010 => s.capList f
  | 0x0011 => s.capRead f
  | 0x0012 => if isPhysical f then s.captureNow f else denied
  | 0x0013 => if isPhysical f then s.capClear f else denied
  | 0x0020 => if isPhysical f then s.logRead f else denied
  | _ => s.mailboxEnds f 1 0

/-- MAILBOX_COMPLETION: STATUS and LEN are written, BUSY clears, and vector 0 of the function is signalled. -/
def State.mailboxDone (s : State) (f : Nat) : State :=
  match s.mgmt.running.find? (fun e => e.1 == f) with
  | none => s
  | some e =>
    let r := CtlReg.mgtMbox f
    let s := ((s.ctlSet r 16 16 e.2.1).ctlSet r 32 16 e.2.2).ctlSet r 62 1 0
    { s with mgmt := { s.mgmt with running := s.mgmt.running.erase e } }.sendMsix f 0

end Sys2Proof.Machine
end

