-- ==== Sys2Proof/Machine/Host.lean ====
section
/-! DEFINITION. What reaches the die from outside: writes of registers by a host and what they do, BAR2, CXL.mem and
CXL.cache, the pair link, and the peer ports (05 R115; 20 R303, R306; 21 R317, R331, R333; 22 R339, R349; 23 R354 to R364;
24 R385; 25 R392, R393). -/

namespace Sys2Proof.Machine

/-! ## A link fails a request in flight (R220, R360, R363, R364) -/

/-- How a request in flight comes back when it is not served as usual. -/
inductive Failing where
  /-- A peer refuses it. -/
  | refused
  /-- A peer answers with a poison mark. -/
  | poison
  /-- Its target has gone with the pair link. -/
  | absent
  deriving DecidableEq, Repr

/-- An element that its target does not serve. -/
def State.failElem (s : State) (w : Wave) (a : Access) (how : Failing) (e : Elem) : Access × State :=
  let va := e.va.getD (paOff e.pa)
  let marked : State :=
    let t := s.fillDest w a.dest e 0 true
    if how = .refused then t.logWave w 0x55 causeRemoteRefused (BitVec.ofNat 64 va) else t
  match e.op with
  | .load => (a, marked)
  | .rmw _ _ _ _ => (if how = .poison then { a with poisoned := addLane a.poisoned e.lane va } else a, marked)
  | _ => (if how = .refused then { a with refused := addLane a.refused e.lane va } else a, s)

/-- The elements of an access that satisfy a test come back so; a store whose target is gone queues an absent-target record. -/
def State.failAccess (s : State) (core slot id : Nat) (how : Failing) (p : Elem → Bool) : State :=
  match s.wave? core slot with
  | none => s
  | some w =>
    match w.flight.find? (fun a => a.id == id) with
    | none => s
    | some a =>
      let es := a.elems.filter p
      if a.done || es.isEmpty then s
      else
        let (a, s) := es.foldl (fun (acc : Access × State) e => acc.2.failElem w acc.1 how e) (a, s)
        let lost := (es.filter (fun e => how == Failing.absent && (e.op == .store || e.op == .sig))).foldl
          (fun o e => addLane o e.lane (e.va.getD (paOff e.pa))) none
        let rs := (lost.map (fun l => sfRecord l.1 l.2 causeAbsent 0 slot w.ctx a.seq a.pc)).toList
        let a := { a with elems := a.elems.filter (fun e => !p e), faults := a.faults ++ rs }
        let s := s.modWave core slot (fun w => w.setAccess a)
        if a.elems.isEmpty then s.completeAccess core slot a else s

/-- Fails the elements of every access in flight that satisfy a test. -/
def State.failAll (s : State) (how : Failing) (p : Elem → Bool) : State :=
  s.waves.foldl (fun s w => w.flight.foldl (fun s a => s.failAccess w.core w.slot a.id how p) s) s

/-- A peer refuses an access in flight, or answers its reads with poison. -/
def State.peerAnswer (s : State) (core slot index : Nat) (poison : Bool) : State :=
  match (s.wave? core slot).bind (fun w => w.flight[index]?) with
  | none => s
  | some a =>
    s.failAccess core slot a.id (if poison then .poison else .refused) (fun e =>
      paSpace e.pa == 5 && !(poison && (e.op == .store || e.op == .sig)))

/-! ## Peer ports (R361, R364) -/

/-- NGX_PORT_UP: an enabled port that the board brings out trains, and learns the device at its far end. -/
def State.portTrains (s : State) (p peer : Nat) : State :=
  let r := CtlReg.ngxPort p
  if s.ctlField r 0 3 != 6 then s else ((s.ctlSet r 8 6 peer).ctlSet r 15 1 1).ctlSet r 0 1 1

/-- NGX_PORT_DOWN: requests in flight on the port complete as refused. -/
def State.portFails (s : State) (p : Nat) : State :=
  let r := CtlReg.ngxPort p
  if s.ctlField r 0 1 == 0 then s
  else
    let s := s.failAll .refused (fun e => paSpace e.pa == 5 && e.port == some p)
    let s := { s with routes := s.routes.filter (fun r => r.2 != p) }
    ((s.ctlSet r 0 1 0).ctlSet r 15 1 0).devLog 10 (BitVec.ofNat 64 (0x200 + p))

/-- REMOTE_REQUEST: a request for another device is forwarded, unless that would be its fifth link; one for this device is
served (R361, R363) (DEDUCED, log entry 34). -/
def State.remoteRequest (s : State) (dest hops : Nat) (r : Remote) : State :=
  let refused (s : State) : State := { s with out := s.out ++ [.peerRefused dest] }
  if dest == s.ngxIdNum then
    match s.serveRemote r with
    | (.refused, t) => refused t
    | (.data v p, t) => { t with out := t.out ++ [.peerData dest p (BitVec.ofNat 128 v)] }
  else
    match (if 4 ≤ hops then none else s.routePort dest) with
    | none => refused (s.logDev bufSched 0x55 causeRemoteRefused (BitVec.ofNat 64 r.off))
    | some p =>
      let s := s.keepRoute dest p
      { s with out := s.out ++ [.peer p r.op dest (hops + 1) r.off r.key r.bytes r.mask r.type
          (if r.op ≤ 1 then BitVec.ofNat 512 r.data else r.a.setWidth 512) r.cmp] }

/-- A request as it arrives: OP 0 load, 1 store, 2 signal increment, 3 atomic; the data holds the store's bytes, or the
operand and the compare value. -/
def Remote.arriving (op key off bytes atom type : Nat) (data : BitVec 128) : Remote :=
  { op := if op == 3 then 16 + atom else op, key := key, off := off, bytes := if op == 2 then 16 else bytes, mask := 2 ^ bytes - 1,
    data := data.toNat, type := type, a := data.extractLsb' 0 64, cmp := data.extractLsb' 64 64 }

/-! ## The pair link (R115, R358 to R360) -/

/-- PAIR_LINK_FAILURE: space-2 accesses in flight come back absent, class 10 acts, and every paired context is terminated. -/
def State.pairFails (s : State) : State :=
  if !s.pairUp then s
  else
    let s := s.failAll .absent (fun e => paSpace e.pa == 2)
    let paired := (s.ctxs.filter (fun p => p.2.paired)).map (·.1)
    let s := (s.ctlSet .plkSts 0 1 0).devLog 10 0x100#64
    let s := s.machineCheck 0x144 5 0 0
    paired.foldl (fun s c => if s.preState c == 3 then s else s.terminate c 0x144) s

/-- What this L2 holds of a foreign line is asked for by its home: the data goes back, and the L2 keeps it in O or S, or loses
it (R115). -/
def State.giveLine (s : State) (line : Nat) (takes : Bool) (answer : Bool → BitVec 1024 → OutMsg) : State :=
  let d := s.dirAt line
  if !foreignLine line || d.own == .i then s
  else
    let dirty := d.own == .m || d.own == .o
    let s := { s with out := s.out ++ [answer dirty (BitVec.ofNat 1024 (s.mem.readNat (128 * line) 128))] }
    if takes then ({ s with mem := s.mem.clear (128 * line) 128 }).setDir line { d with own := .i }
    else s.setDir line { d with own := if dirty then .o else d.own }

/-- PAIR_LINK_REQUEST: the paired die reads (0) or writes (1) eight bytes of this die's memory, or its directory asks for (2) or
takes away (3) a line of its own memory that this L2 holds; bit 43 of the address is the space. -/
def State.pairRequest (s : State) (kind addr : Nat) (data : BitVec 64) : State :=
  let space := addr / 2 ^ 43 % 2
  let off := addr % 2 ^ 43 / 8 * 8
  let pa := space * 2 ^ 48 + off
  if !s.pairUp then s
  else if 2 ≤ kind then
    s.giveLine ((2 * 2 ^ 48 + space * 2 ^ 44 + off) / 128) (kind == 3) (.pairSnoop (addr / 128))
  else if !s.dramExists space off then s
  else if kind == 1 then s.outsideWrite 1 pa 8 data.toNat
  else
    let s := s.outsideRead 1 pa 8
    { s with out := s.out ++ [.pairData (s.anyPoison pa 8) (BitVec.ofNat 64 (s.mem.readNat pa 8))] }

/-! ## CXL (R115, R354) -/

/-- HDM_ACCESS: a host reads or writes eight bytes of device memory; poisoned bytes read as a free value. -/
def State.hdmAccess (s : State) (port : Nat) (write : Bool) (addr : Nat) (data : BitVec 64) : State :=
  let pa := addr / 8 * 8
  let f := 16 * port
  if !s.portUp port || s.ctlField (.portSts port) 4 1 == 0 then s
  else if 2 ≤ paSpace pa || !s.dramExists (paSpace pa) (paOff pa) then
    let s := s.logDenied f 0 0x46 3 pa
    if write then s else { s with out := s.out ++ [.hostData f (BitVec.allOnes 64)] }
  else if write then s.outsideWrite (2 + port) pa 8 data.toNat
  else
    let s := s.outsideRead (2 + port) pa 8
    let (v, s) := if s.anyPoison pa 8 then s.takeBytes 8 else (s.mem.readNat pa 8, s)
    { s with out := s.out ++ [.hostData f (BitVec.ofNat 64 v)] }

/-- CXL_CACHE_SNOOP: kind 0 asks for the data of a line of host memory, 1 takes the line away; 2 and 3 grant a line that the
device has asked for, which the model counts as granted when it is asked (R115; DESIGN CHOICE, log entry 83). -/
def State.snoop (s : State) (port line kind : Nat) : State :=
  let l := ((3 + port) * 2 ^ 48) / 128 + line % 2 ^ 41
  if !s.portCxl port || 2 ≤ kind then s else s.giveLine l (kind == 1) (.snoop port line)

/-! ## BAR2 (R356) -/

/-- BAR2 reaches spaces 0 to 4 only. -/
def barBad (_s : State) (pa _n : Nat) : Option Nat := if 5 ≤ paSpace pa && paSpace pa ≤ 7 then some causeCopySpace else none

/-- A host's link carries its functions' requests, while the function is not under reset; in recovery only function 0
enumerates (R366, R367) (DEDUCED, log entry 33). -/
def State.hostLinked (s : State) (f : Nat) : Bool :=
  s.portUp (portOfFn f) && !s.mgmt.flr.contains f && (s.ctlField .mgtStatus 0 4 != 7 || f == 0)

/-- Places a BAR2 access of 1 to 8 bytes, or names its cause. -/
def State.barPlace (s : State) (f off n : Nat) (need : Need) : Except Nat (List Piece) × State :=
  let c := s.ctlField (.fnWin f) 8 8
  let va : BitVec 64 := sext57 (s.ctlField (.fnWin f) 16 41 * 65536) + BitVec.ofNat 64 off
  match s.enginePlace 0 c need [] barBad (pageCuts va n) with
  | .ok l t => (.ok l, t)
  | .cause k _ t => (.error k, t)
  | .missing _ cow _ t => (.error (if cow then causeCopyOnWrite else causePageMissing), t)

/-- A refused BAR2 access is logged with its cause. -/
def State.barRefused (s : State) (f off cause : Nat) : State :=
  s.logDenied f (s.ctlField (.fnWin f) 8 8) 0x46 (2 + 8 * cause) off

/-- BAR2_READ. -/
def State.barRead (s : State) (f off n : Nat) : State :=
  let abort (s : State) : State := { s with out := s.out ++ [.hostAbort f] }
  if !s.hostLinked f || n == 0 || 8 < n then s
  else if s.ctlField (.fnWin f) 0 1 == 0 then abort s
  else
    let c := s.ctlField (.fnWin f) 8 8
    match s.barPlace f off n { read := true, write := false, fetch := false, user := false } with
    | (.error k, t) => abort (t.barRefused f off k)
    | (.ok l, t) =>
      if (t.piecesPoisoned l).isSome then abort (t.barRefused f off causePoison)
      else
        let (v, _, t) := t.engineRead c l
        { t with out := t.out ++ [.hostData f (BitVec.ofNat 64 v)] }

/-- BAR2_WRITE. -/
def State.barWrite (s : State) (f off n : Nat) (data : BitVec 64) : State :=
  if !s.hostLinked f || n == 0 || 8 < n || s.ctlField (.fnWin f) 0 1 == 0 then s
  else
    let c := s.ctlField (.fnWin f) 8 8
    match s.barPlace f off n (Need.store false) with
    | (.error k, t) => t.barRefused f off k
    | (.ok l, t) => t.engineWrite { buf := bufSched, ctx := c, slot := 0x46 } (data.toNat % 2 ^ (8 * n)) l

/-! ## What a register does once it has been written (R303, R306, R317, R331, R333, R337, R349, R355, R359, R361, R371, R372,
R385, R392, R393) -/

/-- SCH_CTX_CTL: a physical function ends STATE 3, and a context that becomes enabled is tested for pairing; the paired device's bit is
free (R359; DESIGN CHOICE, log entry 88). -/
def State.ctxCtlActs (s : State) (fn c : Nat) (old w : BitVec 64) : State :=
  if s.ctlField (.ctxCtl c) 0 1 == 0 || !w.getLsbD 0 then s
  else
    let s := if s.preState c == 3 && isPhysical fn then (s.modCtx c (fun x => { x with terminated := false })).setPreState c 0 else s
    if old.getLsbD 0 then s
    else { s with free := s.free + 1 }.modCtx c (fun x => { x with paired := s.pairUp && s.ctlField (.ctxMap c) 6 1 == 1 && Config.pairPaired c s.free })

/-- SCH_CTX_PRE: KILL, then RESUME, then REQ (DESIGN CHOICE, log entry 73). -/
def State.preActs (s : State) (c : Nat) (w : BitVec 64) : State :=
  let s := if w.getLsbD 4 && s.preState c != 3 then s.terminate c causeKilled else s
  let s := if w.getLsbD 1 then s.resumeHost c else s
  if w.getLsbD 0 then s.raiseReq c (fun x => { x with reqHost := true }) else s

/-- SCH_CTX_DBG: STOP, then STEP. -/
def State.dbgActs (s : State) (c : Nat) (w : BitVec 64) : State :=
  let s := if w.getLsbD 0 then s.debugStop c else s
  if w.getLsbD 1 then s.debugStep c else s

/-- What follows a write, with the register's bits before it, the value and the bits written. -/
def State.regActs (s : State) (fn off : Nat) (old v sel : BitVec 64) : State :=
  let w := v &&& sel
  match ctlReg off with
  | some (.ctxCtl c) => s.ctxCtlActs fn c old w
  | some (.fnCtl f) => s.rehome f
  | some (.wake c) => if s.mgmt.flr.contains (s.fnOf c) then s else s.markPending c w
  | some (.pre c) => s.preActs c w
  | some (.dbg c) => s.dbgActs c w
  | some (.root c) => s.rootWritten c
  | some (.fq c) => s.headMoved c
  | some (.fqHead c) => s.headMoved c
  | some (.reply c) => s.reply c w
  | some (.ctxMap c) =>
    if s.mapTakes c v sel && s.ctxValid c then
      { s with epochs := sput (fun _ => 0#32) s.epochs (s.fnOf c) (sget (fun _ => 0#32) s.epochs (s.fnOf c) + 1) }
    else s
  | some (.ngxPort p) => if old.getLsbD 2 && s.ctlField (.ngxPort p) 2 1 == 0 then s.portFails p else s
  | some .mgtPwrcap => if s.mgmt.board = .serverModule then s.devLog 12 (BitVec.ofNat 64 (s.ctlField .mgtPwrcap 0 16)) else s
  | some (.mgtMbox f) => if w.getLsbD 63 && !old.getLsbD 62 then s.mailboxRun f else s
  | _ => s

/-- Runs what a register does besides. -/
def State.act (s : State) : Option Move → State
  | some (.written fn off old v sel) => s.regActs fn off old v sel
  | _ => s

/-! ## MSI-X tables (R356, R357) -/

/-- Where a function's MSI-X table lies: space 7 for a physical function, its BAR0 for a virtual one. -/
def msixBase (f : Nat) : Nat := if isPhysical f then 0x3F8000 else 0xF8000

/-- Stores a byte of a table; the mask bit is held inverted. -/
def State.msixByte (s : State) (f o : Nat) (b : BitVec 8) : State :=
  { s with msix := s.msix.write (1024 * f + o) (if o % 16 == 12 then b ^^^ 1 else b) }

/-- A write of a table; a vector unmasked while its pending bit is set sends its message. -/
def State.msixWrite (s : State) (f o n v : Nat) : State :=
  let s := (List.range n).foldl (fun s i => s.msixByte f (o + i) (BitVec.ofNat 8 (v / 2 ^ (8 * i)))) s
  let vec := o / 16
  if (s.msixPending.rd f).getLsbD vec && !s.msixMasked f vec then
    { s with msixPending := s.msixPending.wr f (s.msixPending.rd f &&& ~~~(1#64 <<< vec)), out := s.out ++ [.msix f vec] }
  else s

/-! ## A function's BARs (R356) -/

/-- Where an offset of a function's BAR0 and BAR4 leads in space 7. Those of a physical function show space 7, BAR0 up to 0xF_FFFF and
BAR4 beyond; the BAR0 of a virtual function shows the register groups of its contexts in ascending order, HIF_FN_WIN, its mailbox
and its MSI-X table and pending bits, which hold no offset of space 7 and keep their own. -/
def State.barReg (s : State) (f off : Nat) : Option Nat :=
  if isPhysical f then (if off < 0x400000 then some off else none)
  else if off < 0x80000 then ((s.ctxsOf f)[off / 0x1000]?).map (fun c => 0x100000 + 0x1000 * c + off % 0x1000)
  else if off < 0xF0000 then ((s.ctxsOf f)[(off - 0x80000) / 0x1000]?).map (fun c => 0x200000 + 0x1000 * c + off % 0x1000)
  else if off < 0xF0008 then some (0x303000 + 8 * f + off % 8)
  else if 0xF1000 ≤ off && off < 0xF3000 then some (0x340000 + 0x2000 * f + (off - 0xF1000))
  else if (0xF8000 ≤ off && off < 0xF8400) || (0xFC000 ≤ off && off < 0xFC008) then some off
  else none

/-- A byte of a function's MSI-X table as it reads. -/
def State.msixRead (s : State) (f o : Nat) : BitVec 8 := s.msix.read (1024 * f + o) ^^^ (if o % 16 == 12 then 1 else 0)

/-- What a host reads of n bytes, 4 or 8, at an offset of a function's BAR0 and BAR4. -/
def State.hostRead (s : State) (f off n : Nat) : State :=
  let answer (t : State) (v : Nat) : State := { t with out := t.out ++ [.hostData f (BitVec.ofNat 64 v)] }
  if !s.hostLinked f then s
  else match s.barReg f off with
    | none => answer s 0
    | some o =>
      let table := msixBase f
      if table ≤ o && o < table + 1024 then
        answer s ((List.range n).foldl (fun a i => a + (s.msixRead f (o - table + i)).toNat * 2 ^ (8 * i)) 0)
      else if table + 0x4000 ≤ o && o < table + 0x4008 then
        answer s (field (s.msixPending.rd f).toNat (8 * (o % 8)) (8 * n))
      else let (v, t) := s.regRead { fn := f, host := true, ctx := 0, slot := 0x46 } o n; answer t v

/-! ## Writes of a host -/

/-- A host writes n bytes, 4 or 8, at an offset of space 7 through a function's BAR: the register takes them, and does at once
what it does. -/
def State.hostWrite (s : State) (f off n v : Nat) : State :=
  if !s.hostLinked f then s
  else if msixBase f ≤ off && off < msixBase f + 1024 then s.msixWrite f (off - msixBase f) n v
  else if msixBase f + 0x4000 ≤ off && off < msixBase f + 0x4008 then s
  else
    let (t, m) := s.regPut { fn := f, host := true, ctx := 0, slot := 0x46 } off n v
    t.act m

/-- A host writes eight bytes at an offset of a function's BAR0 and BAR4. -/
def State.barRegWrite (s : State) (f off v : Nat) : State :=
  match s.barReg f off with
  | some o => s.hostWrite f o 8 v
  | none => s

/-- A host writes a whole register. -/
def State.hostReg (s : State) (f : Nat) (r : CtlReg) (v : BitVec 64) : State := s.hostWrite f r.off 8 v.toNat

/-- A host writes the low half of a register. -/
def State.hostLow (s : State) (f : Nat) (r : CtlReg) (v : Nat) : State := s.hostWrite f r.off 4 (v % 2 ^ 32)

/-- A host starts a mailbox command with the LEN that the register holds. -/
def State.hostCommand (s : State) (f cmd : Nat) : State :=
  s.hostReg f (.mgtMbox f) (BitVec.ofNat 64 (2 ^ 63 + s.ctlField (.mgtMbox f) 32 16 * 2 ^ 32 + cmd))

end Sys2Proof.Machine
end

