-- ==== Sys2Proof/Machine/Boundary.lean ====
section
/-! DEFINITION. Instruction boundaries: which pending event is taken before a wave issues, and waves that wait on time
(01 R37; 11 R207; 16 R273, R281; 20 R311; 22 R339, R340; 25 R393). -/

namespace Sys2Proof.Machine

/-- A stop that covers the wave keeps it from issuing: it has reached a yield, used up its debugger's step, or its forced
save has begun (R339, R340, R393). -/
def State.held (s : State) (w : Wave) : Bool :=
  s.covered w.ctx w.launch w.blk && w.mode == .user
    && (w.step == some false || (w.wait.yields && w.step != some true) || ((s.ctx w.ctx).forced && w.step != some true))

/-- A store-fault trap is pending (R281). -/
def Wave.sfDue (w : Wave) : Bool := w.mode == .user && !w.sfq.isEmpty

/-- A user timer trap is pending (R37). -/
def State.timerDue (s : State) (w : Wave) : Bool := (w.tmrPend || s.timerMatched w) && !w.tmrMask && w.mode == .user

/-- The wave stands between two instructions. -/
def Wave.between (w : Wave) : Bool := w.wait == .ready && w.answers.isEmpty

/-- Acts for a wave. -/
def State.asWave (s : State) (w : Wave) : State := { s with cur := .wave w.core w.slot }

/-- The event that R273 takes at the boundary of a wave, in its order; `none` when none is pending (DEDUCED, log entry 46). -/
def State.boundary (s : State) (w : Wave) : Option State :=
  if s.held w then some (if (s.ctx w.ctx).forced then s.setWave w.forceStop else s)
  else if !w.between then none
  else match w.poisPend with
    | some (a, lanes) => some (((s.setWave { w with poisPend := none }).asWave w).takeTrap causePoison w.pc a lanes)
    | none =>
      if w.sfDue then some ((s.asWave w).takeTrap causeStoreFault w.pc 0 0)
      else if s.timerDue w then some (s.takeTimer w)
      else none

/-- STORE_FAULT_TRAP: the trap at a boundary, when R273 comes to it. -/
def State.storeFaultTrap (s : State) (core slot : Nat) : State :=
  match s.wave? core slot with
  | some w => if w.between && w.poisPend.isNone && w.sfDue && !s.held w then (s.boundary w).getD s else s
  | none => s

/-- A sleeping wave that the timer wakes, into its handler where it has one (R37, R207). -/
def State.wakeTimer (s : State) (w : Wave) : State := s.takeTimer { w with wait := .ready, readySince := s.cyc }

/-- USER_TIMER_TRAP: the trap at a boundary, when R273 comes to it, or out of a sleep. -/
def State.userTimerTrap (s : State) (core slot : Nat) : State :=
  match s.wave? core slot with
  | none => s
  | some w =>
    if s.held w || !s.timerDue w || w.poisPend.isSome || w.sfDue then s
    else match w.wait with
      | .sleep _ => s.wakeTimer w
      | _ => if w.between then s.takeTimer w else s

/-- A sleep ends at its time, unless a stop holds the wave, which has then reached a yield (R207, R339). -/
def State.awake (s : State) (w : Wave) : Wave :=
  match w.wait with
  | .sleep t => if t ≤ s.cyc && !s.held w then { w with wait := .ready, readySince := s.cyc } else w
  | _ => w

/-- SLEEP_EXPIRY. -/
def State.sleepEnds (s : State) (core slot : Nat) : State :=
  match s.wave? core slot with
  | none => s
  | some w => s.setWave (s.awake w)

/-- Ready age from which a wave goes first (R311). -/
def agedAt : Nat := 4032

/-- WAVE_READY_AGED: the partition of an aged wave issues next. -/
def State.readyAged (s : State) (core slot : Nat) : State :=
  match s.wave? core slot with
  | some w => if w.wait == .ready && w.readySince + agedAt ≤ s.cyc then { s with agenda := .wave core slot :: s.agenda } else s
  | none => s

/-- SPINDLE_START: the first request of a cluster whose Spindle core is idle goes on with its spnrun (R310). -/
def State.spindleStart (s : State) (cl : Nat) : State :=
  match s.spindle? cl, s.spnBest cl with
  | none, some q => s.retryWave q.core q.slot (Wait.isRetry 6)
  | _, _ => s

/-- LINE_AGING_WRITEBACK: a line of a core that has been dirty for 4,096 cycles is written back (R110); UN lines have no such bound
(R113). -/
def State.lineAges (s : State) (core index : Nat) : State :=
  match (s.l1.filter (fun l => l.core == core))[index]? with
  | some l => if l.kind != .un && l.dirty != 0 && l.dirtySince + 4096 ≤ s.cyc then s.writeBackRouted l else s
  | none => s

end Sys2Proof.Machine
end

