-- ==== Sys2Proof/Machine/CtxEvents.lean ====
section
/-! DEFINITION. Events of contexts: translation registers, faults, pre-emption and the debugger (16 R281; 21 R317 to R333; 22 R338 to R349; 25 R392, R393). An event that is not due changes nothing (DESIGN CHOICE, log entry 7). -/

namespace Sys2Proof.Machine

/-- VM_CTX_ROOT_WRITE (R317): a write of VM_CTX_ROOT. -/
def execVmCtxRootWrite (fn : BitVec 5) (ctx : BitVec 8) (value : BitVec 64) (s : State) : Host.Outcome State Fault Refusal :=
  .next (s.hostReg fn.toNat (.root ctx.toNat) value)

/-- VM_CTX_REPLY (R333): a write of VM_CTX_REPLY. -/
def execVmCtxReply (fn : BitVec 5) (ctx : BitVec 8) (value : BitVec 64) (s : State) : Host.Outcome State Fault Refusal :=
  .next (s.hostReg fn.toNat (.reply ctx.toNat) value)

/-- VM_CTX_FQHEAD_WRITE (R331): a write of VM_CTX_FQHEAD. -/
def execVmCtxFqheadWrite (fn : BitVec 5) (ctx : BitVec 8) (value : BitVec 64) (s : State) : Host.Outcome State Fault Refusal :=
  .next (s.hostReg fn.toNat (.fqHead ctx.toNat) value)

/-- PAGE_WALK (R325): a walker takes a pending walk and runs it. -/
def execPageWalk (walker : BitVec 6) (s : State) : Host.Outcome State Fault Refusal :=
  .next (s.pageWalk walker.toNat)

/-- FAULT_TAG_ALLOCATION (R326): a wave waiting for a fault tag tries again. -/
def execFaultTagAllocation (core : BitVec 7) (slot : BitVec 6) (s : State) : Host.Outcome State Fault Refusal :=
  .next (s.retryWave core.toNat slot.toNat (Wait.isRetry 2))

/-- STORE_FAULT_TRAP (R281): the store-fault-pending trap is taken at a boundary. -/
def execStoreFaultTrap (core : BitVec 7) (slot : BitVec 6) (s : State) : Host.Outcome State Fault Refusal :=
  .next (s.storeFaultTrap core.toNat slot.toNat)

/-- SCH_CTX_PRE_REQ (R339): a host raises a host-held pre-emption request. -/
def execSchCtxPreReq (fn : BitVec 5) (ctx : BitVec 8) (s : State) : Host.Outcome State Fault Refusal :=
  .next (s.hostLow fn.toNat (.pre ctx.toNat) 1)

/-- SCH_CTX_PRE_RESUME (R339): a host ends a host-held suspension. -/
def execSchCtxPreResume (fn : BitVec 5) (ctx : BitVec 8) (s : State) : Host.Outcome State Fault Refusal :=
  .next (s.hostLow fn.toNat (.pre ctx.toNat) 2)

/-- SCH_CTX_PRE_KILL (R349): a host terminates a context. -/
def execSchCtxPreKill (fn : BitVec 5) (ctx : BitVec 8) (s : State) : Host.Outcome State Fault Refusal :=
  .next (s.hostLow fn.toNat (.pre ctx.toNat) 16)

/-- BLOCK_SAVE (R339): a stopped block is saved. -/
def execBlockSave (launch : BitVec 8) (block : BitVec 32) (s : State) : Host.Outcome State Fault Refusal :=
  .next (s.blockSave launch.toNat block.toNat)

/-- SUSPENSION_COMPLETE (R339): every block and ray launch of a context is saved. -/
def execSuspensionComplete (ctx : BitVec 8) (s : State) : Host.Outcome State Fault Refusal :=
  .next (s.suspensionComplete ctx.toNat)

/-- FORCED_SAVE (R340): the pre-emption deadline passes. -/
def execForcedSave (ctx : BitVec 8) (s : State) : Host.Outcome State Fault Refusal :=
  .next (s.forcedSave ctx.toNat)

/-- FORCED_SAVE_TIMEOUT (R341): a save handler has not ended 150 microseconds after the deadline. -/
def execForcedSaveTimeout (ctx : BitVec 8) (s : State) : Host.Outcome State Fault Refusal :=
  .next (s.forcedTimeout ctx.toNat)

/-- BLOCK_RESUME (R348): a saved block is placed again. -/
def execBlockResume (launch : BitVec 8) (block : BitVec 32) (s : State) : Host.Outcome State Fault Refusal :=
  .next (s.placeFor (fun r => match r.kind with
    | .resume num index => num == launch.toNat && index % 2 ^ 32 == block.toNat
    | _ => false))

/-- SCH_CTX_DBG_STOP (R392): the debugger stops a context or a block. -/
def execSchCtxDbgStop (fn : BitVec 5) (ctx : BitVec 8) (value : BitVec 64) (s : State) : Host.Outcome State Fault Refusal :=
  .next (s.hostReg fn.toNat (.dbg ctx.toNat) (value ||| 1))

/-- SCH_CTX_DBG_STEP (R393): the debugger steps stopped blocks. -/
def execSchCtxDbgStep (fn : BitVec 5) (ctx : BitVec 8) (s : State) : Host.Outcome State Fault Refusal :=
  .next (s.hostLow fn.toNat (.dbg ctx.toNat) ((s.ctlRd (.dbg ctx.toNat)).toNat % 2 ^ 32 ||| 2))

/-- ILLEGAL_INSTRUCTION (R140): an encoding that is no instruction. -/
def execIllegalInstruction (detail : BitVec 3) (s : State) : Host.Outcome State Fault Refusal :=
  if s.hasAgent then .next (s.illegal detail) else .fault .noAgent

end Sys2Proof.Machine
end

