-- ==== Sys2Proof/Machine/Float.lean ====
section
/-! DEFINITION. Floating-point and conversion instructions (10 R184 to R195). -/

namespace Sys2Proof.Machine

/-- FFMA (R186). -/
def execFfma (f : B3) (s : State) : Host.Outcome State Fault Refusal :=
  runEnc ⟨0x30, .b3 f⟩ {} (fvecMap (farith (fmaVal false false))) s

/-- FFMA_X (R186). -/
def execFfmaX (f : XA) (s : State) : Host.Outcome State Fault Refusal :=
  runEnc (xaEnc 0x30 0 f) {} (fvecMap (farith (fmaVal false false))) s

/-- FFMS (R186). -/
def execFfms (f : XF) (s : State) : Host.Outcome State Fault Refusal :=
  runEnc ⟨0x30, .ext 1 f⟩ {} (fvecMap (farith (fmaVal false true))) s

/-- FNMA (R186). -/
def execFnma (f : XF) (s : State) : Host.Outcome State Fault Refusal :=
  runEnc ⟨0x30, .ext 2 f⟩ {} (fvecMap (farith (fmaVal true false))) s

/-- FADD (R186). -/
def execFadd (f : B3) (s : State) : Host.Outcome State Fault Refusal :=
  runEnc ⟨0x31, .b3 f⟩ {} (fvecMap (farith faddVal)) s

/-- FADD_X (R186). -/
def execFaddX (f : XA) (s : State) : Host.Outcome State Fault Refusal :=
  runEnc (xaEnc 0x31 0 f) {} (fvecMap (farith faddVal)) s

/-- FSUB (R186). -/
def execFsub (f : XF) (s : State) : Host.Outcome State Fault Refusal :=
  runEnc ⟨0x31, .ext 1 f⟩ {} (fvecMap (farith fsubVal)) s

/-- FMUL (R186). -/
def execFmul (f : B3) (s : State) : Host.Outcome State Fault Refusal :=
  runEnc ⟨0x32, .b3 f⟩ {} (fvecMap (farith fmulVal)) s

/-- FMUL_X (R186). -/
def execFmulX (f : XA) (s : State) : Host.Outcome State Fault Refusal :=
  runEnc (xaEnc 0x32 0 f) {} (fvecMap (farith fmulVal)) s

/-- FMIN (R187). -/
def execFmin (f : B3) (s : State) : Host.Outcome State Fault Refusal :=
  runEnc ⟨0x33, .b3 f⟩ {} (fvecMap (fpickOp false false)) s

/-- FMIN_X (R187). -/
def execFminX (f : XA) (s : State) : Host.Outcome State Fault Refusal :=
  runEnc (xaEnc 0x33 0 f) {} (fvecMap (fpickOp false false)) s

/-- FMAX (R187). -/
def execFmax (f : XF) (s : State) : Host.Outcome State Fault Refusal :=
  runEnc ⟨0x33, .ext 1 f⟩ {} (fvecMap (fpickOp true false)) s

/-- FMINNUM (R187). -/
def execFminnum (f : XF) (s : State) : Host.Outcome State Fault Refusal :=
  runEnc ⟨0x33, .ext 2 f⟩ {} (fvecMap (fpickOp false true)) s

/-- FMAXNUM (R187). -/
def execFmaxnum (f : XF) (s : State) : Host.Outcome State Fault Refusal :=
  runEnc ⟨0x33, .ext 3 f⟩ {} (fvecMap (fpickOp true true)) s

/-- FCMP (R188). -/
def execFcmp (f : B3) (s : State) : Host.Outcome State Fault Refusal :=
  runEnc ⟨0x34, .b3 f⟩ {} (fvecTest fcmpOp) s

/-- FCMP_X (R188). -/
def execFcmpX (f : XSA) (s : State) : Host.Outcome State Fault Refusal :=
  runEnc (xsaEnc 0x34 f) {} (fvecTest fcmpOp) s

/-- FCLASS (R189). -/
def execFclass (f : B3) (s : State) : Host.Outcome State Fault Refusal :=
  runEnc ⟨0x35, .b3 f⟩ {} (vecTest fclassOp) s

/-- FCLASS_X (R189). -/
def execFclassX (f : XA) (s : State) : Host.Outcome State Fault Refusal :=
  runEnc (xaEnc 0x35 0 f) {} (vecTest fclassOp) s

/-- FRND (R190). -/
def execFrnd (f : B3) (s : State) : Host.Outcome State Fault Refusal :=
  runEnc ⟨0x36, .b3 f⟩ {} (fvecMap frndOp) s

/-- FRND_X (R190). -/
def execFrndX (f : XA) (s : State) : Host.Outcome State Fault Refusal :=
  runEnc (xaEnc 0x36 0 f) {} (fvecMap frndOp) s

/-- RCP (R191). -/
def execRcp (f : B3) (s : State) : Host.Outcome State Fault Refusal :=
  runEnc ⟨0x37, .b3 f⟩ {} (fvecMap transOp) s

/-- RCP_X (R191). -/
def execRcpX (f : XA) (s : State) : Host.Outcome State Fault Refusal :=
  runEnc (xaEnc 0x37 0 f) {} (fvecMap transOp) s

/-- RSQRT (R191). -/
def execRsqrt (f : XF) (s : State) : Host.Outcome State Fault Refusal :=
  runEnc ⟨0x37, .ext 1 f⟩ {} (fvecMap transOp) s

/-- SQRT (R191). -/
def execSqrt (f : XF) (s : State) : Host.Outcome State Fault Refusal :=
  runEnc ⟨0x37, .ext 2 f⟩ {} (fvecMap transOp) s

/-- EXP2 (R191). -/
def execExp2 (f : XF) (s : State) : Host.Outcome State Fault Refusal :=
  runEnc ⟨0x37, .ext 3 f⟩ {} (fvecMap transOp) s

/-- LOG2 (R191). -/
def execLog2 (f : XF) (s : State) : Host.Outcome State Fault Refusal :=
  runEnc ⟨0x37, .ext 4 f⟩ {} (fvecMap transOp) s

/-- SINPI (R191). -/
def execSinpi (f : XF) (s : State) : Host.Outcome State Fault Refusal :=
  runEnc ⟨0x37, .ext 5 f⟩ {} (fvecMap transOp) s

/-- COSPI (R191). -/
def execCospi (f : XF) (s : State) : Host.Outcome State Fault Refusal :=
  runEnc ⟨0x37, .ext 6 f⟩ {} (fvecMap transOp) s

/-- FCVT (R192). -/
def execFcvt (f : B3) (s : State) : Host.Outcome State Fault Refusal :=
  runEnc ⟨0x38, .b3 f⟩ {} (fvecMap fcvtOp) s

/-- FCVT_X (R192). -/
def execFcvtX (f : XA) (s : State) : Host.Outcome State Fault Refusal :=
  runEnc (xaEnc 0x38 0 f) {} (fvecMap fcvtOp) s

/-- FDOT2 (R193). -/
def execFdot2 (f : XF) (s : State) : Host.Outcome State Fault Refusal :=
  runEnc ⟨0x39, .ext 0 f⟩ {} (fvecMap fdotOp) s

/-- FDOT4 (R193). -/
def execFdot4 (f : XF) (s : State) : Host.Outcome State Fault Refusal :=
  runEnc ⟨0x39, .ext 1 f⟩ {} (fvecMap fdotOp) s

/-- FABS (R194). -/
def execFabs (f : B3) (s : State) : Host.Outcome State Fault Refusal :=
  runEnc ⟨0x3A, .b3 f⟩ {} (vecMap (signOp false)) s

/-- FABS_X (R194). -/
def execFabsX (f : XA) (s : State) : Host.Outcome State Fault Refusal :=
  runEnc (xaEnc 0x3A 0 f) {} (vecMap (signOp false)) s

/-- FNEG (R194). -/
def execFneg (f : XF) (s : State) : Host.Outcome State Fault Refusal :=
  runEnc ⟨0x3A, .ext 1 f⟩ {} (vecMap (signOp true)) s

end Sys2Proof.Machine
end

