-- ==== Sys2Proof/Machine/Flow.lean ====
section
/-! DEFINITION. Branches, calls, yield, sleep, nop and exit (11 R203 to R208). -/

namespace Sys2Proof.Machine

/-- BR (R204). -/
def execBr (f : JF) (s : State) : Host.Outcome State Fault Refusal :=
  runEnc ⟨0x60, .j f⟩ {} (branchOp always) s

/-- BR_X (R204). -/
def execBrX (f : XF) (s : State) : Host.Outcome State Fault Refusal :=
  runEnc ⟨0x60, .ext 0 f⟩ {} (branchOp always) s

/-- CALL (R205). -/
def execCall (f : JF) (s : State) : Host.Outcome State Fault Refusal :=
  runEnc ⟨0x61, .j f⟩ {} callOp s

/-- CALL_X (R205). -/
def execCallX (f : XF) (s : State) : Host.Outcome State Fault Refusal :=
  runEnc ⟨0x61, .ext 0 f⟩ {} callOp s

/-- BANY (R204). -/
def execBany (f : JF) (s : State) : Host.Outcome State Fault Refusal :=
  runEnc ⟨0x62, .j f⟩ {} (branchOp (maskCond (fun k => k != 0))) s

/-- BANY_X (R204). -/
def execBanyX (f : XF) (s : State) : Host.Outcome State Fault Refusal :=
  runEnc ⟨0x62, .ext 0 f⟩ {} (branchOp (maskCond (fun k => k != 0))) s

/-- BALL (R204). -/
def execBall (f : JF) (s : State) : Host.Outcome State Fault Refusal :=
  runEnc ⟨0x63, .j f⟩ {} (branchOp (maskCond (fun k => ~~~k == 0))) s

/-- BALL_X (R204). -/
def execBallX (f : XF) (s : State) : Host.Outcome State Fault Refusal :=
  runEnc ⟨0x63, .ext 0 f⟩ {} (branchOp (maskCond (fun k => ~~~k == 0))) s

/-- BNONE (R204). -/
def execBnone (f : JF) (s : State) : Host.Outcome State Fault Refusal :=
  runEnc ⟨0x64, .j f⟩ {} (branchOp (maskCond (fun k => k == 0))) s

/-- BNONE_X (R204). -/
def execBnoneX (f : XF) (s : State) : Host.Outcome State Fault Refusal :=
  runEnc ⟨0x64, .ext 0 f⟩ {} (branchOp (maskCond (fun k => k == 0))) s

/-- BEQ (R204). -/
def execBeq (f : XF) (s : State) : Host.Outcome State Fault Refusal :=
  runEnc ⟨0x65, .ext 0 f⟩ {} (branchOp (signedCond 0)) s

/-- BNE (R204). -/
def execBne (f : XF) (s : State) : Host.Outcome State Fault Refusal :=
  runEnc ⟨0x65, .ext 1 f⟩ {} (branchOp (signedCond 1)) s

/-- BLT (R204). -/
def execBlt (f : XF) (s : State) : Host.Outcome State Fault Refusal :=
  runEnc ⟨0x65, .ext 2 f⟩ {} (branchOp (signedCond 2)) s

/-- BLE (R204). -/
def execBle (f : XF) (s : State) : Host.Outcome State Fault Refusal :=
  runEnc ⟨0x65, .ext 3 f⟩ {} (branchOp (signedCond 3)) s

/-- BGT (R204). -/
def execBgt (f : XF) (s : State) : Host.Outcome State Fault Refusal :=
  runEnc ⟨0x65, .ext 4 f⟩ {} (branchOp (signedCond 4)) s

/-- BGE (R204). -/
def execBge (f : XF) (s : State) : Host.Outcome State Fault Refusal :=
  runEnc ⟨0x65, .ext 5 f⟩ {} (branchOp (signedCond 5)) s

/-- BLTU (R204). -/
def execBltu (f : XF) (s : State) : Host.Outcome State Fault Refusal :=
  runEnc ⟨0x65, .ext 6 f⟩ {} (branchOp (unsignedCond 2)) s

/-- BLEU (R204). -/
def execBleu (f : XF) (s : State) : Host.Outcome State Fault Refusal :=
  runEnc ⟨0x65, .ext 7 f⟩ {} (branchOp (unsignedCond 3)) s

/-- BGTU (R204). -/
def execBgtu (f : XF) (s : State) : Host.Outcome State Fault Refusal :=
  runEnc ⟨0x65, .ext 8 f⟩ {} (branchOp (unsignedCond 4)) s

/-- BGEU (R204). -/
def execBgeu (f : XF) (s : State) : Host.Outcome State Fault Refusal :=
  runEnc ⟨0x65, .ext 9 f⟩ {} (branchOp (unsignedCond 5)) s

/-- JMP (R205). -/
def execJmp (f : CF) (s : State) : Host.Outcome State Fault Refusal :=
  runEnc ⟨0x66, .c f⟩ {} jmpOp s

/-- JMP_X (R205). -/
def execJmpX (f : XF) (s : State) : Host.Outcome State Fault Refusal :=
  runEnc ⟨0x66, .ext 0 f⟩ {} jmpOp s

/-- CALLIND (R205). -/
def execCallind (f : XF) (s : State) : Host.Outcome State Fault Refusal :=
  runEnc ⟨0x66, .ext 1 f⟩ {} callindOp s

/-- RET (R205). -/
def execRet (f : CF) (s : State) : Host.Outcome State Fault Refusal :=
  runEnc ⟨0x67, .c f⟩ {} jmpOp s

/-- RET_X (R205). -/
def execRetX (f : XF) (s : State) : Host.Outcome State Fault Refusal :=
  runEnc ⟨0x67, .ext 0 f⟩ {} jmpOp s

/-- LOOPNZ (R204). -/
def execLoopnz (f : XF) (s : State) : Host.Outcome State Fault Refusal :=
  runEnc ⟨0x68, .ext 0 f⟩ {} loopOp s

/-- YIELD (R206). -/
def execYield (f : XF) (s : State) : Host.Outcome State Fault Refusal :=
  runEnc ⟨0x69, .ext 0 f⟩ {} yieldOp s

/-- SLEEP (R207). -/
def execSleep (f : CF) (s : State) : Host.Outcome State Fault Refusal :=
  runEnc ⟨0x6A, .c f⟩ {} sleepOp s

/-- SLEEP_X (R207). -/
def execSleepX (f : XF) (s : State) : Host.Outcome State Fault Refusal :=
  runEnc ⟨0x6A, .ext 0 f⟩ {} sleepOp s

/-- NOP (R208). -/
def execNop (s : State) : Host.Outcome State Fault Refusal :=
  runEnc ⟨0x6B, .n 0⟩ {} nopOp s

/-- NOP_X (R208). -/
def execNopX (s : State) : Host.Outcome State Fault Refusal :=
  runEnc ⟨0x6B, .ext 0 XF.zero⟩ {} nopOp s

/-- EXIT (R208). -/
def execExit (s : State) : Host.Outcome State Fault Refusal :=
  runEnc ⟨0x6E, .n 0⟩ {} exitOp s

/-- EXIT_X (R208). -/
def execExitX (s : State) : Host.Outcome State Fault Refusal :=
  runEnc ⟨0x6E, .ext 0 XF.zero⟩ {} exitOp s

end Sys2Proof.Machine
end

