-- ==== Sys2Proof/Machine/HostEvents.lean ====
section
/-! DEFINITION. Events of resets, host ports, peers and the pair (05 R115; 23 R353 to R371; 00 R10). An event that is not due changes nothing (DESIGN CHOICE, log entry 7). -/

namespace Sys2Proof.Machine

/-- POWER_ON (R365): power is applied. -/
def execPowerOn (s : State) : Host.Outcome State Fault Refusal :=
  .next s.coldReset

/-- WATCHDOG_EXPIRY (R365): the watchdog of Brolek expires. -/
def execWatchdogExpiry (s : State) : Host.Outcome State Fault Refusal :=
  .next (s.askWarmReset 1)

/-- FIRMWARE_ROLLBACK (R369): a new image has not reached PHASE 6 in 10 s. -/
def execFirmwareRollback (s : State) : Host.Outcome State Fault Refusal :=
  .next s.rollback

/-- PORT_RESET (R365): hot reset or link down on a host port. -/
def execPortReset (port : BitVec 1) (s : State) : Host.Outcome State Fault Refusal :=
  .next (s.portReset port.toNat)

/-- HOST_LINK_UP (R353): a host port trains. -/
def execHostLinkUp (port : BitVec 1) (speed : BitVec 4) (width : BitVec 2) (flit : BitVec 1) (cxlCache : BitVec 1) (cxlMem : BitVec 1) (s : State) : Host.Outcome State Fault Refusal :=
  .next (s.hostLinkUp port.toNat speed.toNat width.toNat flit.toNat cxlCache.toNat cxlMem.toNat)

/-- FUNCTION_LEVEL_RESET (R365): FLR of a function. -/
def execFunctionLevelReset (fn : BitVec 5) (s : State) : Host.Outcome State Fault Refusal :=
  .next (s.flr fn.toNat)

/-- FLR_COMPLETE (R366): an FLR completes. -/
def execFlrComplete (fn : BitVec 5) (s : State) : Host.Outcome State Fault Refusal :=
  .next (s.flrComplete fn.toNat)

/-- HIF_CTXMAP_WRITE (R355): a write of HIF_CTXMAP. -/
def execHifCtxmapWrite (fn : BitVec 5) (ctx : BitVec 8) (value : BitVec 64) (s : State) : Host.Outcome State Fault Refusal :=
  .next (s.hostReg fn.toNat (.ctxMap ctx.toNat) value)

/-- BAR2_READ (R356): a host reads through BAR2. -/
def execBar2Read (fn : BitVec 5) (offset : BitVec 36) (size : BitVec 4) (s : State) : Host.Outcome State Fault Refusal :=
  .next (s.barRead fn.toNat offset.toNat size.toNat)

/-- BAR2_WRITE (R356): a host writes through BAR2. -/
def execBar2Write (fn : BitVec 5) (offset : BitVec 36) (size : BitVec 4) (data : BitVec 64) (s : State) : Host.Outcome State Fault Refusal :=
  .next (s.barWrite fn.toNat offset.toNat size.toNat data)

/-- HDM_ACCESS (R354): a host access through CXL.mem. -/
def execHdmAccess (port : BitVec 1) (write : BitVec 1) (addr : BitVec 52) (data : BitVec 64) (s : State) : Host.Outcome State Fault Refusal :=
  .next (s.hdmAccess port.toNat (write == 1) addr.toNat data)

/-- PAIR_LINK_FAILURE (R360): the pair link fails. -/
def execPairLinkFailure (s : State) : Host.Outcome State Fault Refusal :=
  .next s.pairFails

/-- NGX_ID_WRITE (R361): a write of NGX_ID. -/
def execNgxIdWrite (fn : BitVec 5) (value : BitVec 64) (s : State) : Host.Outcome State Fault Refusal :=
  .next (s.hostReg fn.toNat .ngxId value)

/-- REMOTE_REQUEST (R363): a request arrives over Nguxel. -/
def execRemoteRequest (op : BitVec 3) (dest : BitVec 6) (hops : BitVec 3) (key : BitVec 16) (offset : BitVec 42) (size : BitVec 5) (data : BitVec 128) (atom : BitVec 4) (type : BitVec 5) (s : State) : Host.Outcome State Fault Refusal :=
  .next (s.remoteRequest dest.toNat hops.toNat (Remote.arriving op.toNat key.toNat offset.toNat size.toNat atom.toNat type.toNat data))

/-- NGX_PORT_DOWN (R364): a Nguxel port goes down. -/
def execNgxPortDown (port : BitVec 3) (s : State) : Host.Outcome State Fault Refusal :=
  .next (s.portFails port.toNat)

/-- NGX_PORT_UP (R361): a Nguxel port trains. -/
def execNgxPortUp (port : BitVec 3) (peer : BitVec 6) (s : State) : Host.Outcome State Fault Refusal :=
  .next (s.portTrains port.toNat peer.toNat)

/-- PAIR_LINK_REQUEST (R115): a coherent request of the paired die arrives. -/
def execPairLinkRequest (kind : BitVec 2) (addr : BitVec 44) (data : BitVec 64) (s : State) : Host.Outcome State Fault Refusal :=
  .next (s.pairRequest kind.toNat addr.toNat data)

/-- CXL_CACHE_SNOOP (R115): the directory snoops or grants a line to a host port. -/
def execCxlCacheSnoop (port : BitVec 1) (line : BitVec 45) (kind : BitVec 2) (s : State) : Host.Outcome State Fault Refusal :=
  .next (s.snoop port.toNat line.toNat kind.toNat)

/-- REGISTER_WRITE (R10): a host writes a device register without a row of its own, at an offset of the function's BAR0 and BAR4 (R356). -/
def execRegisterWrite (fn : BitVec 5) (offset : BitVec 24) (value : BitVec 64) (s : State) : Host.Outcome State Fault Refusal :=
  .next (s.barRegWrite fn.toNat (offset.toNat / 8 * 8) value.toNat)

end Sys2Proof.Machine
end

