-- ==== Sys2Proof/Machine/Integer.lean ====
section
/-! DEFINITION. Vector integer instructions (09 R171 to R183). -/

namespace Sys2Proof.Machine

/-- IADD (R174). -/
def execIadd (f : B3) (s : State) : Host.Outcome State Fault Refusal :=
  runEnc ⟨0x00, .b3 f⟩ {} (vecMap (plain (arith (fun a b _ => a + b)))) s

/-- IADD_X (R174). -/
def execIaddX (f : XA) (s : State) : Host.Outcome State Fault Refusal :=
  runEnc (xaEnc 0x00 0 f) {} (vecMap (plain (arith (fun a b _ => a + b)))) s

/-- IADDC (R174). -/
def execIaddc (f : XF) (s : State) : Host.Outcome State Fault Refusal :=
  runEnc ⟨0x00, .ext 1 f⟩ {} (carryMap false) s

/-- ISUB (R174). -/
def execIsub (f : XF) (s : State) : Host.Outcome State Fault Refusal :=
  runEnc ⟨0x00, .ext 2 f⟩ {} (vecMap (plain (arith (fun a b _ => a - b)))) s

/-- ISUBB (R174). -/
def execIsubb (f : XF) (s : State) : Host.Outcome State Fault Refusal :=
  runEnc ⟨0x00, .ext 3 f⟩ {} (carryMap true) s

/-- IMUL (R175). -/
def execImul (f : B3) (s : State) : Host.Outcome State Fault Refusal :=
  runEnc ⟨0x01, .b3 f⟩ {} (vecMap (plain (arith (fun a b _ => a * b)))) s

/-- IMUL_X (R175). -/
def execImulX (f : XA) (s : State) : Host.Outcome State Fault Refusal :=
  runEnc (xaEnc 0x01 0 f) {} (vecMap (plain (arith (fun a b _ => a * b)))) s

/-- IMULHI (R175). -/
def execImulhi (f : XF) (s : State) : Host.Outcome State Fault Refusal :=
  runEnc ⟨0x01, .ext 1 f⟩ {} (vecMap (plain (fun n a b c => highPart n a b c false))) s

/-- IMULW (R175). -/
def execImulw (f : XF) (s : State) : Host.Outcome State Fault Refusal :=
  runEnc ⟨0x01, .ext 2 f⟩ {} (vecMap (plain (fun n a b c => widening n a b c false))) s

/-- IMAD (R175). -/
def execImad (f : B3) (s : State) : Host.Outcome State Fault Refusal :=
  runEnc ⟨0x02, .b3 f⟩ {} (vecMap (plain (arith (fun a b c => a * b + c)))) s

/-- IMAD_X (R175). -/
def execImadX (f : XA) (s : State) : Host.Outcome State Fault Refusal :=
  runEnc (xaEnc 0x02 0 f) {} (vecMap (plain (arith (fun a b c => a * b + c)))) s

/-- IMADHI (R175). -/
def execImadhi (f : XF) (s : State) : Host.Outcome State Fault Refusal :=
  runEnc ⟨0x02, .ext 1 f⟩ {} (vecMap (plain (fun n a b c => highPart n a b c true))) s

/-- IMADW (R175). -/
def execImadw (f : XF) (s : State) : Host.Outcome State Fault Refusal :=
  runEnc ⟨0x02, .ext 2 f⟩ {} (vecMap (plain (fun n a b c => widening n a b c true))) s

/-- IMIN (R176). -/
def execImin (f : B3) (s : State) : Host.Outcome State Fault Refusal :=
  runEnc ⟨0x03, .b3 f⟩ {} (vecMap (plain (arith (fun a b _ => min a b)))) s

/-- IMIN_X (R176). -/
def execIminX (f : XA) (s : State) : Host.Outcome State Fault Refusal :=
  runEnc (xaEnc 0x03 0 f) {} (vecMap (plain (arith (fun a b _ => min a b)))) s

/-- IMAX (R176). -/
def execImax (f : XF) (s : State) : Host.Outcome State Fault Refusal :=
  runEnc ⟨0x03, .ext 1 f⟩ {} (vecMap (plain (arith (fun a b _ => max a b)))) s

/-- IABS (R176). -/
def execIabs (f : B3) (s : State) : Host.Outcome State Fault Refusal :=
  runEnc ⟨0x04, .b3 f⟩ {} (vecMap (plain (arith (fun _ b _ => b.natAbs)))) s

/-- IABS_X (R176). -/
def execIabsX (f : XA) (s : State) : Host.Outcome State Fault Refusal :=
  runEnc (xaEnc 0x04 0 f) {} (vecMap (plain (arith (fun _ b _ => b.natAbs)))) s

/-- INEG (R176). -/
def execIneg (f : XF) (s : State) : Host.Outcome State Fault Refusal :=
  runEnc ⟨0x04, .ext 1 f⟩ {} (vecMap (plain (arith (fun _ b _ => -b)))) s

/-- AND (R177). -/
def execAnd (f : B3) (s : State) : Host.Outcome State Fault Refusal :=
  runEnc ⟨0x05, .b3 f⟩ {} (vecMap (plain (bitwise (fun a b => a &&& b)))) s

/-- AND_X (R177). -/
def execAndX (f : XA) (s : State) : Host.Outcome State Fault Refusal :=
  runEnc (xaEnc 0x05 0 f) {} (vecMap (plain (bitwise (fun a b => a &&& b)))) s

/-- ANDN (R177). -/
def execAndn (f : XF) (s : State) : Host.Outcome State Fault Refusal :=
  runEnc ⟨0x05, .ext 1 f⟩ {} (vecMap (plain (bitwise (fun a b => a &&& ~~~b)))) s

/-- OR (R177). -/
def execOr (f : B3) (s : State) : Host.Outcome State Fault Refusal :=
  runEnc ⟨0x06, .b3 f⟩ {} (vecMap (plain (bitwise (fun a b => a ||| b)))) s

/-- OR_X (R177). -/
def execOrX (f : XA) (s : State) : Host.Outcome State Fault Refusal :=
  runEnc (xaEnc 0x06 0 f) {} (vecMap (plain (bitwise (fun a b => a ||| b)))) s

/-- ORN (R177). -/
def execOrn (f : XF) (s : State) : Host.Outcome State Fault Refusal :=
  runEnc ⟨0x06, .ext 1 f⟩ {} (vecMap (plain (bitwise (fun a b => a ||| ~~~b)))) s

/-- XOR (R177). -/
def execXor (f : B3) (s : State) : Host.Outcome State Fault Refusal :=
  runEnc ⟨0x07, .b3 f⟩ {} (vecMap (plain (bitwise (fun a b => a ^^^ b)))) s

/-- XOR_X (R177). -/
def execXorX (f : XA) (s : State) : Host.Outcome State Fault Refusal :=
  runEnc (xaEnc 0x07 0 f) {} (vecMap (plain (bitwise (fun a b => a ^^^ b)))) s

/-- XNOR (R177). -/
def execXnor (f : XF) (s : State) : Host.Outcome State Fault Refusal :=
  runEnc ⟨0x07, .ext 1 f⟩ {} (vecMap (plain (bitwise (fun a b => ~~~(a ^^^ b))))) s

/-- NOT (R177). -/
def execNot (f : XF) (s : State) : Host.Outcome State Fault Refusal :=
  runEnc ⟨0x07, .ext 2 f⟩ {} (vecMap (plain (bitwise (fun _ b => ~~~b)))) s

/-- SHL (R178). -/
def execShl (f : B3) (s : State) : Host.Outcome State Fault Refusal :=
  runEnc ⟨0x08, .b3 f⟩ {} (vecMap (plain shlOp)) s

/-- SHL_X (R178). -/
def execShlX (f : XA) (s : State) : Host.Outcome State Fault Refusal :=
  runEnc (xaEnc 0x08 0 f) {} (vecMap (plain shlOp)) s

/-- ROTL (R178). -/
def execRotl (f : XF) (s : State) : Host.Outcome State Fault Refusal :=
  runEnc ⟨0x08, .ext 1 f⟩ {} (vecMap (plain rotlOp)) s

/-- SHR (R178). -/
def execShr (f : B3) (s : State) : Host.Outcome State Fault Refusal :=
  runEnc ⟨0x09, .b3 f⟩ {} (vecMap (plain shrOp)) s

/-- SHR_X (R178). -/
def execShrX (f : XA) (s : State) : Host.Outcome State Fault Refusal :=
  runEnc (xaEnc 0x09 0 f) {} (vecMap (plain shrOp)) s

/-- ROTR (R178). -/
def execRotr (f : XF) (s : State) : Host.Outcome State Fault Refusal :=
  runEnc ⟨0x09, .ext 1 f⟩ {} (vecMap (plain rotrOp)) s

/-- FSHL (R178). -/
def execFshl (f : B3) (s : State) : Host.Outcome State Fault Refusal :=
  runEnc ⟨0x0A, .b3 f⟩ {} (vecMap (plain fshlOp)) s

/-- FSHL_X (R178). -/
def execFshlX (f : XA) (s : State) : Host.Outcome State Fault Refusal :=
  runEnc (xaEnc 0x0A 0 f) {} (vecMap (plain fshlOp)) s

/-- FSHR (R178). -/
def execFshr (f : XF) (s : State) : Host.Outcome State Fault Refusal :=
  runEnc ⟨0x0A, .ext 1 f⟩ {} (vecMap (plain fshrOp)) s

/-- BFX (R179). -/
def execBfx (f : B3) (s : State) : Host.Outcome State Fault Refusal :=
  runEnc ⟨0x0B, .b3 f⟩ {} (vecMap (plain bfxOp)) s

/-- BFX_X (R179). -/
def execBfxX (f : XA) (s : State) : Host.Outcome State Fault Refusal :=
  runEnc (xaEnc 0x0B 0 f) {} (vecMap (plain bfxOp)) s

/-- BFI (R179). -/
def execBfi (f : XF) (s : State) : Host.Outcome State Fault Refusal :=
  runEnc ⟨0x0B, .ext 1 f⟩ {} (vecMap (plain bfiOp)) s

/-- BFREV (R179). -/
def execBfrev (f : XF) (s : State) : Host.Outcome State Fault Refusal :=
  runEnc ⟨0x0B, .ext 2 f⟩ {} (vecMap (plain bfrevOp)) s

/-- POPC (R180). -/
def execPopc (f : B3) (s : State) : Host.Outcome State Fault Refusal :=
  runEnc ⟨0x0C, .b3 f⟩ {} (vecMap (plain popcOp)) s

/-- POPC_X (R180). -/
def execPopcX (f : XA) (s : State) : Host.Outcome State Fault Refusal :=
  runEnc (xaEnc 0x0C 0 f) {} (vecMap (plain popcOp)) s

/-- CLZ (R180). -/
def execClz (f : XF) (s : State) : Host.Outcome State Fault Refusal :=
  runEnc ⟨0x0C, .ext 1 f⟩ {} (vecMap (plain clzOp)) s

/-- CTZ (R180). -/
def execCtz (f : XF) (s : State) : Host.Outcome State Fault Refusal :=
  runEnc ⟨0x0C, .ext 2 f⟩ {} (vecMap (plain ctzOp)) s

/-- CLS (R180). -/
def execCls (f : XF) (s : State) : Host.Outcome State Fault Refusal :=
  runEnc ⟨0x0C, .ext 3 f⟩ {} (vecMap (plain clsOp)) s

/-- ICMP (R181). -/
def execIcmp (f : B3) (s : State) : Host.Outcome State Fault Refusal :=
  runEnc ⟨0x0D, .b3 f⟩ {} (vecTest icmpOp) s

/-- ICMP_X (R181). -/
def execIcmpX (f : XSA) (s : State) : Host.Outcome State Fault Refusal :=
  runEnc (xsaEnc 0x0D f) {} (vecTest icmpOp) s

/-- SEL (R181). -/
def execSel (f : XF) (s : State) : Host.Outcome State Fault Refusal :=
  runEnc ⟨0x0E, .ext 0 f⟩ { ownPoison := true } selMap s

/-- MOV (R177). -/
def execMov (f : B3) (s : State) : Host.Outcome State Fault Refusal :=
  runEnc ⟨0x0F, .b3 f⟩ {} (vecMap (plain (bitwise (fun _ b => b)))) s

/-- MOV_X (R177). -/
def execMovX (f : XA) (s : State) : Host.Outcome State Fault Refusal :=
  runEnc (xaEnc 0x0F 0 f) {} (vecMap (plain (bitwise (fun _ b => b)))) s

/-- ICVT (R182). -/
def execIcvt (f : B3) (s : State) : Host.Outcome State Fault Refusal :=
  runEnc ⟨0x10, .b3 f⟩ {} (vecMap (plain icvtOp)) s

/-- ICVT_X (R182). -/
def execIcvtX (f : XA) (s : State) : Host.Outcome State Fault Refusal :=
  runEnc (xaEnc 0x10 0 f) {} (vecMap (plain icvtOp)) s

/-- PRMT (R183). -/
def execPrmt (f : B3) (s : State) : Host.Outcome State Fault Refusal :=
  runEnc ⟨0x11, .b3 f⟩ {} (vecMap (plain prmtOp)) s

/-- PRMT_X (R183). -/
def execPrmtX (f : XA) (s : State) : Host.Outcome State Fault Refusal :=
  runEnc (xaEnc 0x11 0 f) {} (vecMap (plain prmtOp)) s

end Sys2Proof.Machine
end

