-- ==== Sys2Proof/Machine/LaneOps.lean ====
section
/-! DEFINITION. Cross-lane and mask-register operations (08 R164, R165; 11 R196 to R202). -/

namespace Sys2Proof.Machine

/-- Traps on marked elements that destination lanes use, else writes elements to lanes (R196). -/
def laneMoves (s : State) (w : Wave) (d regs : Nat) (used : List (Nat × Bool)) (vals : List (Nat × BitVec 64)) : Res :=
  let bad := if w.exemptPoison then [] else (used.filter (·.2)).map (·.1)
  if bad.isEmpty then .done (s.vputAll w d regs vals) else .trap s causePoisonConsumed 0 (maskOf bad)

/-- A value's element index for lane L: shfl, shflxor, shflup, shfldn (R197). -/
def shflIndex (sub L n : Nat) : Nat :=
  match sub with
  | 0 => n % 64
  | 1 => L ^^^ (n % 64)
  | 2 => if n ≤ L then L - n else L
  | _ => if L + n ≤ 63 then L + n else L

/-- The shuffles (R197). -/
def shflOp (r : Row) (n : Norm) (s : State) : Res :=
  match s.curWave with
  | none => .done s
  | some w =>
    let regs := typeRegs n.x.type.toNat
    let sa := n.x.sa.toNat
    let lanes := lanesOf (laneSet w n.x)
    let src (L : Nat) : Nat := shflIndex n.sub L (amount (s.laneOpnd w n r.sb n.x.sb L))
    let idx := poisonLanes s w (laneSet w n.x) (opndRefs r.sb .simt n n.x.sb)
    laneMoves s w n.x.d.toNat regs (lanes.map (fun L => (L, idx.getLsbD L || s.vmarked w sa (src L) regs)))
      (lanes.map (fun L => (L, s.vget w sa (src L) regs)))

/-- rdlane (R198). -/
def rdlaneOp (r : Row) (n : Norm) (s : State) : Res :=
  match s.curWave with
  | none => .done s
  | some w =>
    let regs := typeRegs n.x.type.toNat
    let j := amount (s.laneOpnd w n r.sb n.x.sb 0) % 64
    if s.sourceMarked (opndRefs r.sb .simt n n.x.sb) && !w.exemptPoison then .trap s causePoisonConsumed 0 0
    else if s.vmarked w n.x.sa.toNat j regs && !w.exemptPoison then .trap s causePoisonConsumed 0 (maskOf [j])
    else .done (s.swr n.x.d.toNat (s.vget w n.x.sa.toNat j regs))

/-- wrlane (R198). -/
def wrlaneOp (r : Row) (n : Norm) (s : State) : Res :=
  match s.curWave with
  | none => .done s
  | some w =>
    let regs := typeRegs n.x.type.toNat
    let j := amount (s.laneOpnd w n r.sb n.x.sb 0) % 64
    let hit := (laneSet w n.x).getLsbD j
    if s.sourceMarked (opndRefs r.sb .simt n n.x.sb) && !w.exemptPoison then .trap s causePoisonConsumed 0 0
    else if hit && s.smarked n.x.sa.toNat && !w.exemptPoison then .trap s causePoisonConsumed 0 (maskOf [j])
    else if hit then .done (s.vput w n.x.d.toNat j regs (w.s.rd n.x.sa.toNat))
    else .done s

/-! ## Reductions and scans (R164, R165) -/

/-- An operation on two patterns: the pattern and the flags. -/
abbrev Combine := Nat → Nat → Nat × Nat

/-- Operation 0 add, 1 min, 2 max, 3 and, 4 or, 5 xor of a type (R164). -/
def combineOf (op t mode : Nat) (ftz : Bool) : Combine := fun a b =>
  let w := typeWidth t
  if 8 ≤ t then
    let x := fin ftz t a; let y := fin ftz t b
    let nv := x.isSnan || y.isSnan
    if op == 0 then (let (v, bad) := fsum mode [x, y]; fr ftz t mode false v (bad || nv))
    else ((fmtOf t).encode (fpick (op == 2) false x y), if nv then flagNV else 0)
  else
    let x := BitVec.ofNat 64 a; let y := BitVec.ofNat 64 b
    match op with
    | 0 => ((a + b) % 2 ^ w, 0)
    | 1 => (if ival t y < ival t x then b else a, 0)
    | 2 => (if ival t x < ival t y then b else a, 0)
    | 3 => ((x &&& y).toNat, 0)
    | 4 => ((x ||| y).toNat, 0)
    | _ => ((x ^^^ y).toNat, 0)

/-- The identity of an operation (R164). -/
def identityOf (op t : Nat) : Nat :=
  let f := fmtOf t
  if 8 ≤ t then
    (match op with
     | 0 => f.signBit
     | 1 => f.encode (.inf false)
     | _ => f.encode (.inf true))
  else
    (match op with
     | 1 => fit t false (greatestOf t)
     | 2 => fit t false (leastOf t)
     | 3 => 2 ^ typeWidth t - 1
     | _ => 0)

/-- One level of the tree, each node combining a lower and a higher neighbour. -/
def nextLevel (f : Combine) : List Nat → List Nat × Nat
  | a :: b :: rest =>
    let (v, fl) := f a b
    let (vs, fls) := nextLevel f rest
    (v :: vs, fl ||| fls)
  | l => (l, 0)

/-- Levels 0 to n of the tree over a list of values, and the flags of every node. -/
def treeLevels (f : Combine) (l : List Nat) : Nat → List (List Nat) × Nat
  | 0 => ([l], 0)
  | n + 1 =>
    let (m, fl) := nextLevel f l
    let (ls, fls) := treeLevels f m n
    (l :: ls, fl ||| fls)

/-- scan_incl of R165 for lane L, from the levels down: the value and the flags of its own combinations. -/
def scanFrom (f : Combine) (levels : List (List Nat)) (count p : Nat) (acc : Option (Nat × Nat)) : Nat → Nat × Nat
  | 0 => acc.getD (0, 0)
  | j + 1 =>
    if bit count j then
      let blk := (levels.getD j []).getD (p / 2 ^ j) 0
      let acc' := match acc with
        | none => (blk, 0)
        | some (a, fl) => let (v, g) := f a blk; (v, fl ||| g)
      scanFrom f levels count (p + 2 ^ j) (some acc') j
    else scanFrom f levels count p acc j

def scanIncl (f : Combine) (levels : List (List Nat)) (L : Nat) : Nat × Nat := scanFrom f levels (L + 1) 0 none 7

/-- A value as the instruction returns it: a float passes through fin, a NaN is canonical (R160, R199). -/
def laneResult (ftz : Bool) (t v : Nat) : BitVec 64 :=
  if 8 ≤ t then BitVec.ofNat 64 ((fmtOf t).encode (fin ftz t v)) else extendPat t v

/-- The tree of a reduction or scan: the combination, its levels and their flags. -/
def treeOf (s : State) (w : Wave) (n : Norm) (op : Nat) : Combine × List (List Nat) × Nat :=
  let t := n.x.type.toNat
  let regs := typeRegs t
  let lanes := laneSet w n.x
  let f := combineOf op t n.x.rnd.toNat (ctlFtz (s.recordOf w.launch))
  let l := (List.range 64).map (fun L =>
    if lanes.getLsbD L then lowBits (s.vget w n.x.sb.toNat L regs) (typeWidth t) else identityOf op t)
  let (levels, flags) := treeLevels f l 6
  (f, levels, flags)

/-- Lanes of the lane set whose source element is marked. -/
def markedLanes (s : State) (w : Wave) (n : Norm) : List Nat :=
  (lanesOf (laneSet w n.x)).filter (fun L => s.vmarked w n.x.sb.toNat L (typeRegs n.x.type.toNat))

/-- The reductions (R199). -/
def reduceOp (_r : Row) (n : Norm) (s : State) : Res :=
  match s.curWave with
  | none => .done s
  | some w =>
    let bad := if w.exemptPoison then [] else markedLanes s w n
    if !bad.isEmpty then .trap s causePoisonConsumed 0 (maskOf bad)
    else
      let t := n.x.type.toNat
      let (_, levels, flags) := treeOf s w n n.sub
      .done ((s.swr n.x.d.toNat (laneResult (ctlFtz (s.recordOf w.launch)) t ((levels.getD 6 []).getD 0 0))).orFlags flags)

/-- The scans (R199): an exclusive one gives lane L the inclusive value of lane L - 1. -/
def scanOp (_r : Row) (n : Norm) (s : State) : Res :=
  match s.curWave with
  | none => .done s
  | some w =>
    let t := n.x.type.toNat
    let excl := 16 ≤ n.sub
    let op := n.sub % 16
    let lanes := lanesOf (laneSet w n.x)
    let (f, levels, flags) := treeOf s w n op
    let marked := markedLanes s w n
    let vals := lanes.map (fun L =>
      if excl && L == 0 then (L, identityOf op t, 0) else (L, scanIncl f levels (if excl then L - 1 else L)))
    let ftz := ctlFtz (s.recordOf w.launch)
    match laneMoves s w n.x.d.toNat (typeRegs t)
        (lanes.map (fun L => (L, marked.any (fun m => if excl then m < L else m ≤ L))))
        (vals.map (fun v => (v.1, laneResult ftz t v.2.1))) with
    | .done t => .done (t.orFlags (vals.foldl (fun a v => a ||| v.2.2) flags))
    | r => r

/-- ballot (R200). -/
def ballotOp (_r : Row) (n : Norm) (s : State) : Res :=
  match s.curWave with
  | none => .done s
  | some w =>
    let regs := typeRegs n.x.type.toNat
    let bad := if w.exemptPoison then [] else markedLanes s w n
    if !bad.isEmpty then .trap s causePoisonConsumed 0 (maskOf bad)
    else .done (s.kwr n.x.d.toNat (maskOf ((lanesOf (laneSet w n.x)).filter (fun L => s.vget w n.x.sb.toNat L regs != 0))))

/-- match (R200); lane L uses its own element and that of the lowest lane. -/
def matchOp (_r : Row) (n : Norm) (s : State) : Res :=
  match s.curWave with
  | none => .done s
  | some w =>
    let regs := typeRegs n.x.type.toNat
    let sb := n.x.sb.toNat
    let lanes := lanesOf (laneSet w n.x)
    let f := lanes.headD 0
    let bad := if w.exemptPoison then [] else lanes.filter (fun L => s.vmarked w sb L regs || s.vmarked w sb f regs)
    if !bad.isEmpty then .trap s causePoisonConsumed 0 (maskOf bad)
    else .done (s.kwr n.x.d.toNat (maskOf (lanes.filter (fun L => s.vget w sb L regs == s.vget w sb f regs))))

/-- compact and expand: pairs of a destination lane and a source lane (R201). -/
def packPairs (expand : Bool) (lanes k : BitVec 64) : List (Nat × Nat) :=
  if expand then
    let dst := lanesOf (lanes &&& k)
    dst.zip (List.range dst.length)
  else (lanesOf lanes).zip (lanesOf k)

def packOp (expand : Bool) (_r : Row) (n : Norm) (s : State) : Res :=
  match s.curWave with
  | none => .done s
  | some w =>
    let regs := typeRegs n.x.type.toNat
    let sb := n.x.sb.toNat
    let ps := packPairs expand (laneSet w n.x) (w.k.rd n.x.sa.toNat)
    laneMoves s w n.x.d.toNat regs (ps.map (fun p => (p.1, s.vmarked w sb p.2 regs))) (ps.map (fun p => (p.1, s.vget w sb p.2 regs)))

/-! ## Mask registers (R202) -/

def maskOp (f : BitVec 64 → BitVec 64 → BitVec 64) (_r : Row) (n : Norm) (s : State) : Res :=
  .done (s.kwr n.x.d.toNat (f (s.krd n.x.sa.toNat) (s.krd n.x.sb.toNat)))

/-- ktos, kpopc, kffs, kfls: a value of k[SA] to s[D]. -/
def maskToScalar (f : BitVec 64 → BitVec 64) (_r : Row) (n : Norm) (s : State) : Res :=
  .done (s.swr n.x.d.toNat (f (s.krd n.x.sa.toNat)))

def stokOp (_r : Row) (n : Norm) (s : State) : Res := .done (s.kwr n.x.d.toNat (s.srd n.x.sa.toNat))

/-- Index of the lowest, or highest, set bit; 64 for none. -/
def lowestBit (k : BitVec 64) : BitVec 64 := BitVec.ofNat 64 ((lanesOf k).headD 64)
def highestBit (k : BitVec 64) : BitVec 64 := BitVec.ofNat 64 ((lanesOf k).getLastD 64)

end Sys2Proof.Machine
end

