-- ==== Sys2Proof/Machine/Lanes.lean ====
section
/-! DEFINITION. Cross-lane and mask-register instructions (11 R196 to R202). -/

namespace Sys2Proof.Machine

/-- SHFL (R197). -/
def execShfl (f : B3) (s : State) : Host.Outcome State Fault Refusal :=
  runEnc ⟨0x40, .b3 f⟩ { ownPoison := true } shflOp s

/-- SHFL_X (R197). -/
def execShflX (f : XA) (s : State) : Host.Outcome State Fault Refusal :=
  runEnc (xaEnc 0x40 0 f) { ownPoison := true } shflOp s

/-- SHFLXOR (R197). -/
def execShflxor (f : XF) (s : State) : Host.Outcome State Fault Refusal :=
  runEnc ⟨0x40, .ext 1 f⟩ { ownPoison := true } shflOp s

/-- SHFLUP (R197). -/
def execShflup (f : XF) (s : State) : Host.Outcome State Fault Refusal :=
  runEnc ⟨0x40, .ext 2 f⟩ { ownPoison := true } shflOp s

/-- SHFLDN (R197). -/
def execShfldn (f : XF) (s : State) : Host.Outcome State Fault Refusal :=
  runEnc ⟨0x40, .ext 3 f⟩ { ownPoison := true } shflOp s

/-- RDLANE (R198). -/
def execRdlane (f : B3) (s : State) : Host.Outcome State Fault Refusal :=
  runEnc ⟨0x41, .b3 f⟩ { ownPoison := true } rdlaneOp s

/-- RDLANE_X (R198). -/
def execRdlaneX (f : XA) (s : State) : Host.Outcome State Fault Refusal :=
  runEnc (xaEnc 0x41 0 f) { ownPoison := true } rdlaneOp s

/-- WRLANE (R198). -/
def execWrlane (f : XF) (s : State) : Host.Outcome State Fault Refusal :=
  runEnc ⟨0x41, .ext 1 f⟩ { ownPoison := true } wrlaneOp s

/-- REDADD (R199). -/
def execRedadd (f : B3) (s : State) : Host.Outcome State Fault Refusal :=
  runEnc ⟨0x42, .b3 f⟩ { ownPoison := true } reduceOp s

/-- REDADD_X (R199). -/
def execRedaddX (f : XA) (s : State) : Host.Outcome State Fault Refusal :=
  runEnc (xaEnc 0x42 0 f) { ownPoison := true } reduceOp s

/-- REDMIN (R199). -/
def execRedmin (f : XF) (s : State) : Host.Outcome State Fault Refusal :=
  runEnc ⟨0x42, .ext 1 f⟩ { ownPoison := true } reduceOp s

/-- REDMAX (R199). -/
def execRedmax (f : XF) (s : State) : Host.Outcome State Fault Refusal :=
  runEnc ⟨0x42, .ext 2 f⟩ { ownPoison := true } reduceOp s

/-- REDAND (R199). -/
def execRedand (f : XF) (s : State) : Host.Outcome State Fault Refusal :=
  runEnc ⟨0x42, .ext 3 f⟩ { ownPoison := true } reduceOp s

/-- REDOR (R199). -/
def execRedor (f : XF) (s : State) : Host.Outcome State Fault Refusal :=
  runEnc ⟨0x42, .ext 4 f⟩ { ownPoison := true } reduceOp s

/-- REDXOR (R199). -/
def execRedxor (f : XF) (s : State) : Host.Outcome State Fault Refusal :=
  runEnc ⟨0x42, .ext 5 f⟩ { ownPoison := true } reduceOp s

/-- SCANADD (R199). -/
def execScanadd (f : B3) (s : State) : Host.Outcome State Fault Refusal :=
  runEnc ⟨0x43, .b3 f⟩ { ownPoison := true } scanOp s

/-- SCANADD_X (R199). -/
def execScanaddX (f : XA) (s : State) : Host.Outcome State Fault Refusal :=
  runEnc (xaEnc 0x43 0 f) { ownPoison := true } scanOp s

/-- SCANMIN (R199). -/
def execScanmin (f : XF) (s : State) : Host.Outcome State Fault Refusal :=
  runEnc ⟨0x43, .ext 1 f⟩ { ownPoison := true } scanOp s

/-- SCANMAX (R199). -/
def execScanmax (f : XF) (s : State) : Host.Outcome State Fault Refusal :=
  runEnc ⟨0x43, .ext 2 f⟩ { ownPoison := true } scanOp s

/-- SCANAND (R199). -/
def execScanand (f : XF) (s : State) : Host.Outcome State Fault Refusal :=
  runEnc ⟨0x43, .ext 3 f⟩ { ownPoison := true } scanOp s

/-- SCANOR (R199). -/
def execScanor (f : XF) (s : State) : Host.Outcome State Fault Refusal :=
  runEnc ⟨0x43, .ext 4 f⟩ { ownPoison := true } scanOp s

/-- SCANXOR (R199). -/
def execScanxor (f : XF) (s : State) : Host.Outcome State Fault Refusal :=
  runEnc ⟨0x43, .ext 5 f⟩ { ownPoison := true } scanOp s

/-- XSCANADD (R199). -/
def execXscanadd (f : XF) (s : State) : Host.Outcome State Fault Refusal :=
  runEnc ⟨0x43, .ext 16 f⟩ { ownPoison := true } scanOp s

/-- XSCANMIN (R199). -/
def execXscanmin (f : XF) (s : State) : Host.Outcome State Fault Refusal :=
  runEnc ⟨0x43, .ext 17 f⟩ { ownPoison := true } scanOp s

/-- XSCANMAX (R199). -/
def execXscanmax (f : XF) (s : State) : Host.Outcome State Fault Refusal :=
  runEnc ⟨0x43, .ext 18 f⟩ { ownPoison := true } scanOp s

/-- XSCANAND (R199). -/
def execXscanand (f : XF) (s : State) : Host.Outcome State Fault Refusal :=
  runEnc ⟨0x43, .ext 19 f⟩ { ownPoison := true } scanOp s

/-- XSCANOR (R199). -/
def execXscanor (f : XF) (s : State) : Host.Outcome State Fault Refusal :=
  runEnc ⟨0x43, .ext 20 f⟩ { ownPoison := true } scanOp s

/-- XSCANXOR (R199). -/
def execXscanxor (f : XF) (s : State) : Host.Outcome State Fault Refusal :=
  runEnc ⟨0x43, .ext 21 f⟩ { ownPoison := true } scanOp s

/-- KAND (R202). -/
def execKand (f : B3) (s : State) : Host.Outcome State Fault Refusal :=
  runEnc ⟨0x44, .b3 f⟩ {} (maskOp (fun a b => a &&& b)) s

/-- KAND_X (R202). -/
def execKandX (f : XF) (s : State) : Host.Outcome State Fault Refusal :=
  runEnc ⟨0x44, .ext 0 f⟩ {} (maskOp (fun a b => a &&& b)) s

/-- KOR (R202). -/
def execKor (f : XF) (s : State) : Host.Outcome State Fault Refusal :=
  runEnc ⟨0x44, .ext 1 f⟩ {} (maskOp (fun a b => a ||| b)) s

/-- KXOR (R202). -/
def execKxor (f : XF) (s : State) : Host.Outcome State Fault Refusal :=
  runEnc ⟨0x44, .ext 2 f⟩ {} (maskOp (fun a b => a ^^^ b)) s

/-- KANDN (R202). -/
def execKandn (f : XF) (s : State) : Host.Outcome State Fault Refusal :=
  runEnc ⟨0x44, .ext 3 f⟩ {} (maskOp (fun a b => a &&& ~~~b)) s

/-- KNOT (R202). -/
def execKnot (f : XF) (s : State) : Host.Outcome State Fault Refusal :=
  runEnc ⟨0x44, .ext 4 f⟩ {} (maskOp (fun a _ => ~~~a)) s

/-- KMOV (R202). -/
def execKmov (f : XF) (s : State) : Host.Outcome State Fault Refusal :=
  runEnc ⟨0x44, .ext 5 f⟩ {} (maskOp (fun a _ => a)) s

/-- KTOS (R202). -/
def execKtos (f : B3) (s : State) : Host.Outcome State Fault Refusal :=
  runEnc ⟨0x45, .b3 f⟩ {} (maskToScalar (fun k => k)) s

/-- KTOS_X (R202). -/
def execKtosX (f : XF) (s : State) : Host.Outcome State Fault Refusal :=
  runEnc ⟨0x45, .ext 0 f⟩ {} (maskToScalar (fun k => k)) s

/-- STOK (R202). -/
def execStok (f : XF) (s : State) : Host.Outcome State Fault Refusal :=
  runEnc ⟨0x45, .ext 1 f⟩ {} stokOp s

/-- KPOPC (R202). -/
def execKpopc (f : B3) (s : State) : Host.Outcome State Fault Refusal :=
  runEnc ⟨0x46, .b3 f⟩ {} (maskToScalar (fun k => BitVec.ofNat 64 (popcount k))) s

/-- KPOPC_X (R202). -/
def execKpopcX (f : XF) (s : State) : Host.Outcome State Fault Refusal :=
  runEnc ⟨0x46, .ext 0 f⟩ {} (maskToScalar (fun k => BitVec.ofNat 64 (popcount k))) s

/-- KFFS (R202). -/
def execKffs (f : XF) (s : State) : Host.Outcome State Fault Refusal :=
  runEnc ⟨0x46, .ext 1 f⟩ {} (maskToScalar lowestBit) s

/-- KFLS (R202). -/
def execKfls (f : XF) (s : State) : Host.Outcome State Fault Refusal :=
  runEnc ⟨0x46, .ext 2 f⟩ {} (maskToScalar highestBit) s

/-- BALLOT (R200). -/
def execBallot (f : B3) (s : State) : Host.Outcome State Fault Refusal :=
  runEnc ⟨0x47, .b3 f⟩ { ownPoison := true } ballotOp s

/-- BALLOT_X (R200). -/
def execBallotX (f : XF) (s : State) : Host.Outcome State Fault Refusal :=
  runEnc ⟨0x47, .ext 0 f⟩ { ownPoison := true } ballotOp s

/-- MATCH (R200). -/
def execVmatch (f : B3) (s : State) : Host.Outcome State Fault Refusal :=
  runEnc ⟨0x48, .b3 f⟩ { ownPoison := true } matchOp s

/-- MATCH_X (R200). -/
def execVmatchX (f : XF) (s : State) : Host.Outcome State Fault Refusal :=
  runEnc ⟨0x48, .ext 0 f⟩ { ownPoison := true } matchOp s

/-- COMPACT (R201). -/
def execCompact (f : XF) (s : State) : Host.Outcome State Fault Refusal :=
  runEnc ⟨0x49, .ext 0 f⟩ { ownPoison := true } (packOp false) s

/-- EXPAND (R201). -/
def execExpand (f : XF) (s : State) : Host.Outcome State Fault Refusal :=
  runEnc ⟨0x49, .ext 1 f⟩ { ownPoison := true } (packOp true) s

end Sys2Proof.Machine
end

