-- ==== Sys2Proof/Machine/Memory.lean ====
section
/-! DEFINITION. Memory, atomic and ordering instructions (12 R210 to R229). -/

namespace Sys2Proof.Machine

/-- LD (R213). -/
def execLd (f : MF) (s : State) : Host.Outcome State Fault Refusal :=
  runEnc ⟨0x50, .m f⟩ {} ldOp s

/-- LD_X (R213). -/
def execLdX (f : XF) (s : State) : Host.Outcome State Fault Refusal :=
  runEnc ⟨0x50, .ext 0 f⟩ {} ldOp s

/-- ST (R214). -/
def execSt (f : MF) (s : State) : Host.Outcome State Fault Refusal :=
  runEnc ⟨0x51, .m f⟩ {} stOp s

/-- ST_X (R214). -/
def execStX (f : XF) (s : State) : Host.Outcome State Fault Refusal :=
  runEnc ⟨0x51, .ext 0 f⟩ {} stOp s

/-- LDS (R213). -/
def execLds (f : MF) (s : State) : Host.Outcome State Fault Refusal :=
  runEnc ⟨0x52, .m f⟩ {} ldsOp s

/-- LDS_X (R213). -/
def execLdsX (f : XF) (s : State) : Host.Outcome State Fault Refusal :=
  runEnc ⟨0x52, .ext 0 f⟩ {} ldsOp s

/-- STS (R214). -/
def execSts (f : MF) (s : State) : Host.Outcome State Fault Refusal :=
  runEnc ⟨0x53, .m f⟩ {} stsOp s

/-- STS_X (R214). -/
def execStsX (f : XF) (s : State) : Host.Outcome State Fault Refusal :=
  runEnc ⟨0x53, .ext 0 f⟩ {} stsOp s

/-- ATOM (R217). -/
def execAtom (f : XS) (s : State) : Host.Outcome State Fault Refusal :=
  runEnc ⟨0x54, .ext f.sub f.x⟩ {} atomOp s

/-- ACQ (R221). -/
def execAcq (f : XF) (s : State) : Host.Outcome State Fault Refusal :=
  runEnc ⟨0x55, .ext 0 f⟩ {} acqOp s

/-- REL (R221). -/
def execRel (f : XF) (s : State) : Host.Outcome State Fault Refusal :=
  runEnc ⟨0x56, .ext 0 f⟩ {} relOp s

/-- REL_FRESH (R221). -/
def execRelFresh (f : XF) (s : State) : Host.Outcome State Fault Refusal :=
  runEnc ⟨0x56, .ext 1 f⟩ {} relOp s

/-- REL_ALL (R221). -/
def execRelAll (f : XF) (s : State) : Host.Outcome State Fault Refusal :=
  runEnc ⟨0x56, .ext 2 f⟩ {} relOp s

/-- FENCE (R222). -/
def execFence (f : XF) (s : State) : Host.Outcome State Fault Refusal :=
  runEnc ⟨0x57, .ext 0 f⟩ {} fenceOp s

/-- FENCE_UN (R222). -/
def execFenceUn (f : XF) (s : State) : Host.Outcome State Fault Refusal :=
  runEnc ⟨0x57, .ext 1 f⟩ {} fenceUnOp s

/-- PREF (R227). -/
def execPref (f : MF) (s : State) : Host.Outcome State Fault Refusal :=
  runEnc ⟨0x58, .m f⟩ {} prefOp s

/-- PREF_X (R227). -/
def execPrefX (f : XF) (s : State) : Host.Outcome State Fault Refusal :=
  runEnc ⟨0x58, .ext 0 f⟩ {} prefOp s

/-- EVICT (R227). -/
def execEvict (f : XF) (s : State) : Host.Outcome State Fault Refusal :=
  runEnc ⟨0x58, .ext 1 f⟩ {} evictOp s

/-- CWAIT (R228). -/
def execCwait (f : CF) (s : State) : Host.Outcome State Fault Refusal :=
  runEnc ⟨0x59, .c f⟩ {} cwaitOp s

/-- CWAIT_X (R228). -/
def execCwaitX (f : XF) (s : State) : Host.Outcome State Fault Refusal :=
  runEnc ⟨0x59, .ext 0 f⟩ {} cwaitOp s

/-- BTRANS (R226). -/
def execBtrans (f : XF) (s : State) : Host.Outcome State Fault Refusal :=
  runEnc ⟨0x5A, .ext 0 f⟩ {} btransOp s

/-- STMSK (R214). -/
def execStmsk (f : XF) (s : State) : Host.Outcome State Fault Refusal :=
  runEnc ⟨0x5B, .ext 0 f⟩ { ownPoison := true } stmskOp s

/-- XLD (R229). -/
def execXld (f : XF) (s : State) : Host.Outcome State Fault Refusal :=
  runEnc ⟨0x5C, .ext 0 f⟩ {} xldOp s

/-- XST (R229). -/
def execXst (f : XF) (s : State) : Host.Outcome State Fault Refusal :=
  runEnc ⟨0x5D, .ext 0 f⟩ {} xstOp s

/-- SIGADD (R224). -/
def execSigadd (f : XF) (s : State) : Host.Outcome State Fault Refusal :=
  runEnc ⟨0x5E, .ext 0 f⟩ {} sigaddOp s

end Sys2Proof.Machine
end

