-- ==== Sys2Proof/Machine/MgmtEvents.lean ====
section
/-! DEFINITION. Events of Brolek and the Event Recorder (22 R335, R336; 23 R369 to R372; 24 R373 to R386; 25 R388, R395). An event that is not due changes nothing (DESIGN CHOICE, log entry 7). -/

namespace Sys2Proof.Machine

/-- MACHINE_CHECK (R336): a class-10 cause arises in a unit. -/
def execMachineCheck (detail : BitVec 3) (kind : BitVec 3) (index : BitVec 7) (syndrome : BitVec 64) (s : State) : Host.Outcome State Fault Refusal :=
  .next (s.machineCheckEvent detail.toNat kind.toNat index.toNat syndrome)

/-- THERMAL_TRIP (R371): a junction lies 10 degrees above its limit. -/
def execThermalTrip (s : State) : Host.Outcome State Fault Refusal :=
  .next s.thermalTrip

/-- GOVERNOR_STEP (R371): the governor moves the core clock by 25 MHz. -/
def execGovernorStep (up : BitVec 1) (s : State) : Host.Outcome State Fault Refusal :=
  .next (s.governorStep (up == 1))

/-- MGT_PWRCAP_WRITE (R371): a write of MGT_PWRCAP. -/
def execMgtPwrcapWrite (fn : BitVec 5) (value : BitVec 64) (s : State) : Host.Outcome State Fault Refusal :=
  .next (s.hostReg fn.toNat .mgtPwrcap value)

/-- STAGE (R369): mailbox STAGE. -/
def execStage (fn : BitVec 5) (s : State) : Host.Outcome State Fault Refusal :=
  .next (s.hostCommand fn.toNat 0x0001)

/-- ACTIVATE (R369): mailbox ACTIVATE. -/
def execActivate (fn : BitVec 5) (s : State) : Host.Outcome State Fault Refusal :=
  .next (s.hostCommand fn.toNat 0x0002)

/-- RESET (R372): mailbox RESET. -/
def execReset (fn : BitVec 5) (s : State) : Host.Outcome State Fault Refusal :=
  .next (s.hostCommand fn.toNat 0x0003)

/-- POOLCFG (R372): mailbox POOLCFG. -/
def execPoolcfg (fn : BitVec 5) (s : State) : Host.Outcome State Fault Refusal :=
  .next (s.hostCommand fn.toNat 0x0004)

/-- MAILBOX_COMPLETION (R372): a mailbox command completes. -/
def execMailboxCompletion (fn : BitVec 5) (s : State) : Host.Outcome State Fault Refusal :=
  .next (s.mailboxDone fn.toNat)

/-- CAPLIST (R386): mailbox CAPLIST. -/
def execCaplist (fn : BitVec 5) (s : State) : Host.Outcome State Fault Refusal :=
  .next (s.hostCommand fn.toNat 0x0010)

/-- CAPREAD (R386): mailbox CAPREAD. -/
def execCapread (fn : BitVec 5) (s : State) : Host.Outcome State Fault Refusal :=
  .next (s.hostCommand fn.toNat 0x0011)

/-- CAPTURE (R386): mailbox CAPTURE. -/
def execCapture (fn : BitVec 5) (s : State) : Host.Outcome State Fault Refusal :=
  .next (s.hostCommand fn.toNat 0x0012)

/-- CAPCLEAR (R386): mailbox CAPCLEAR. -/
def execCapclear (fn : BitVec 5) (s : State) : Host.Outcome State Fault Refusal :=
  .next (s.hostCommand fn.toNat 0x0013)

/-- LOGREAD (R395): mailbox LOGREAD. -/
def execLogread (fn : BitVec 5) (s : State) : Host.Outcome State Fault Refusal :=
  .next (s.hostCommand fn.toNat 0x0020)

/-- GET_VERSION (R370): Brolek answers the SPDM request GET_VERSION. -/
def execGetVersion (port : BitVec 1) (s : State) : Host.Outcome State Fault Refusal :=
  .next (s.spdmRequest port.toNat 0)

/-- GET_CAPABILITIES (R370): Brolek answers the SPDM request GET_CAPABILITIES. -/
def execGetCapabilities (port : BitVec 1) (s : State) : Host.Outcome State Fault Refusal :=
  .next (s.spdmRequest port.toNat 1)

/-- NEGOTIATE_ALGORITHMS (R370): Brolek answers the SPDM request NEGOTIATE_ALGORITHMS. -/
def execNegotiateAlgorithms (port : BitVec 1) (s : State) : Host.Outcome State Fault Refusal :=
  .next (s.spdmRequest port.toNat 2)

/-- GET_DIGESTS (R370): Brolek answers the SPDM request GET_DIGESTS. -/
def execGetDigests (port : BitVec 1) (s : State) : Host.Outcome State Fault Refusal :=
  .next (s.spdmRequest port.toNat 3)

/-- GET_CERTIFICATE (R370): Brolek answers the SPDM request GET_CERTIFICATE. -/
def execGetCertificate (port : BitVec 1) (s : State) : Host.Outcome State Fault Refusal :=
  .next (s.spdmRequest port.toNat 4)

/-- CHALLENGE (R370): Brolek answers the SPDM request CHALLENGE. -/
def execChallenge (port : BitVec 1) (s : State) : Host.Outcome State Fault Refusal :=
  .next (s.spdmRequest port.toNat 5)

/-- GET_MEASUREMENTS (R370): Brolek answers the SPDM request GET_MEASUREMENTS. -/
def execGetMeasurements (port : BitVec 1) (s : State) : Host.Outcome State Fault Refusal :=
  .next (s.spdmRequest port.toNat 6)

/-- TIME_SYNC (R376): a buffer writes its time-sync record. -/
def execTimeSync (buffer : BitVec 8) (s : State) : Host.Outcome State Fault Refusal :=
  .next (s.timeSync buffer.toNat)

/-- LOSS_RECORD (R373): a buffer writes its loss record. -/
def execLossRecord (buffer : BitVec 8) (s : State) : Host.Outcome State Fault Refusal :=
  .next (s.lossRecord buffer.toNat)

/-- FREEZE_ARRIVAL (R379): a FREEZE reaches a buffer. -/
def execFreezeArrival (buffer : BitVec 8) (s : State) : Host.Outcome State Fault Refusal :=
  .next (s.freezeArrival buffer.toNat)

/-- FREEZE_WINDOW_CLOSE (R379): the freeze window of a buffer closes. -/
def execFreezeWindowClose (buffer : BitVec 8) (s : State) : Host.Outcome State Fault Refusal :=
  .next (s.windowClose buffer.toNat)

/-- PAIR_FREEZE_MESSAGE (R380): a FREEZE of the paired die arrives. -/
def execPairFreezeMessage (cause : BitVec 9) (s : State) : Host.Outcome State Fault Refusal :=
  .next (s.pairFreeze cause.toNat)

/-- CAPSULE_STORED (R382): a capsule is written into the Capsule Store. -/
def execCapsuleStored (s : State) : Host.Outcome State Fault Refusal :=
  .next s.capsuleStored

/-- CAPSULE_FLASH_COPY (R382): a capsule master is copied to flash. -/
def execCapsuleFlashCopy (s : State) : Host.Outcome State Fault Refusal :=
  .next s.flashCopy

/-- EVR_CTL_LOCK (R378): LOCK is set in EVR_CTL. -/
def execEvrCtlLock (fn : BitVec 5) (s : State) : Host.Outcome State Fault Refusal :=
  .next (s.hostLow fn.toNat .evrCtl ((s.ctlRd .evrCtl).toNat % 2 ^ 32 ||| 128))

/-- PATROL_SCRUB_READ (R388): the scrubber reads a granule. -/
def execPatrolScrubRead (granule : BitVec 47) (finding : BitVec 2) (s : State) : Host.Outcome State Fault Refusal :=
  .next (s.scrubRead granule.toNat finding.toNat)

end Sys2Proof.Machine
end

