-- ==== Sys2Proof/Machine/Ray.lean ====
section
/-! DEFINITION. Ray instructions (14 R247 to R256). -/

namespace Sys2Proof.Machine

/-- REMIT (R249). -/
def execRemit (f : XF) (s : State) : Host.Outcome State Fault Refusal :=
  runEnc ⟨0x78, .ext 0 f⟩ { ownPoison := true } remitOp s

/-- RCONT (R250). -/
def execRcont (f : XF) (s : State) : Host.Outcome State Fault Refusal :=
  runEnc ⟨0x78, .ext 1 f⟩ { ownPoison := true } rcontOp s

/-- RRETIRE (R250). -/
def execRretire (f : XF) (s : State) : Host.Outcome State Fault Refusal :=
  runEnc ⟨0x78, .ext 2 f⟩ {} rretireOp s

/-- RACC (R252). -/
def execRacc (f : XF) (s : State) : Host.Outcome State Fault Refusal :=
  runEnc ⟨0x78, .ext 3 f⟩ {} raccOp s

/-- EPEND (R253). -/
def execEpend (s : State) : Host.Outcome State Fault Refusal :=
  runEnc ⟨0x78, .ext 4 XF.zero⟩ {} ependOp s

/-- RCELL (R254). -/
def execRcell (f : XF) (s : State) : Host.Outcome State Fault Refusal :=
  runEnc ⟨0x78, .ext 5 f⟩ {} rcellOp s

/-- RDIRCLS (R254). -/
def execRdircls (f : XF) (s : State) : Host.Outcome State Fault Refusal :=
  runEnc ⟨0x78, .ext 6 f⟩ {} rdirclsOp s

/-- RHIT (R255). -/
def execRhit (f : XF) (s : State) : Host.Outcome State Fault Refusal :=
  runEnc ⟨0x78, .ext 7 f⟩ {} rhitOp s

/-- RINST (R255). -/
def execRinst (f : XF) (s : State) : Host.Outcome State Fault Refusal :=
  runEnc ⟨0x78, .ext 8 f⟩ {} rinstOp s

/-- RXFORM (R255). -/
def execRxform (f : XF) (s : State) : Host.Outcome State Fault Refusal :=
  runEnc ⟨0x78, .ext 9 f⟩ {} rxformOp s

end Sys2Proof.Machine
end

