-- ==== Sys2Proof/Machine/Scalar.lean ====
section
/-! DEFINITION. Scalar instructions (09 R181). -/

namespace Sys2Proof.Machine

/-- SADD (R181). -/
def execSadd (f : B3) (s : State) : Host.Outcome State Fault Refusal :=
  runEnc ⟨0x18, .b3 f⟩ {} (scalMap (arith (fun a b _ => a + b))) s

/-- SADD_X (R181). -/
def execSaddX (f : XA) (s : State) : Host.Outcome State Fault Refusal :=
  runEnc (xaEnc 0x18 0 f) {} (scalMap (arith (fun a b _ => a + b))) s

/-- SSUB (R181). -/
def execSsub (f : XF) (s : State) : Host.Outcome State Fault Refusal :=
  runEnc ⟨0x18, .ext 1 f⟩ {} (scalMap (arith (fun a b _ => a - b))) s

/-- SMUL (R181). -/
def execSmul (f : B3) (s : State) : Host.Outcome State Fault Refusal :=
  runEnc ⟨0x19, .b3 f⟩ {} (scalMap (arith (fun a b _ => a * b))) s

/-- SMUL_X (R181). -/
def execSmulX (f : XA) (s : State) : Host.Outcome State Fault Refusal :=
  runEnc (xaEnc 0x19 0 f) {} (scalMap (arith (fun a b _ => a * b))) s

/-- SMULHI (R181). -/
def execSmulhi (f : XF) (s : State) : Host.Outcome State Fault Refusal :=
  runEnc ⟨0x19, .ext 1 f⟩ {} (scalMap (fun n a b c => highPart n a b c false)) s

/-- SAND (R181). -/
def execSand (f : B3) (s : State) : Host.Outcome State Fault Refusal :=
  runEnc ⟨0x1A, .b3 f⟩ {} (scalMap (bitwise (fun a b => a &&& b))) s

/-- SAND_X (R181). -/
def execSandX (f : XA) (s : State) : Host.Outcome State Fault Refusal :=
  runEnc (xaEnc 0x1A 0 f) {} (scalMap (bitwise (fun a b => a &&& b))) s

/-- SANDN (R181). -/
def execSandn (f : XF) (s : State) : Host.Outcome State Fault Refusal :=
  runEnc ⟨0x1A, .ext 1 f⟩ {} (scalMap (bitwise (fun a b => a &&& ~~~b))) s

/-- SOR (R181). -/
def execSor (f : B3) (s : State) : Host.Outcome State Fault Refusal :=
  runEnc ⟨0x1B, .b3 f⟩ {} (scalMap (bitwise (fun a b => a ||| b))) s

/-- SOR_X (R181). -/
def execSorX (f : XA) (s : State) : Host.Outcome State Fault Refusal :=
  runEnc (xaEnc 0x1B 0 f) {} (scalMap (bitwise (fun a b => a ||| b))) s

/-- SXOR (R181). -/
def execSxor (f : B3) (s : State) : Host.Outcome State Fault Refusal :=
  runEnc ⟨0x1C, .b3 f⟩ {} (scalMap (bitwise (fun a b => a ^^^ b))) s

/-- SXOR_X (R181). -/
def execSxorX (f : XA) (s : State) : Host.Outcome State Fault Refusal :=
  runEnc (xaEnc 0x1C 0 f) {} (scalMap (bitwise (fun a b => a ^^^ b))) s

/-- SNOT (R181). -/
def execSnot (f : XF) (s : State) : Host.Outcome State Fault Refusal :=
  runEnc ⟨0x1C, .ext 1 f⟩ {} (scalMap (bitwise (fun _ b => ~~~b))) s

/-- SSHL (R181). -/
def execSshl (f : B3) (s : State) : Host.Outcome State Fault Refusal :=
  runEnc ⟨0x1D, .b3 f⟩ {} (scalMap shlOp) s

/-- SSHL_X (R181). -/
def execSshlX (f : XA) (s : State) : Host.Outcome State Fault Refusal :=
  runEnc (xaEnc 0x1D 0 f) {} (scalMap shlOp) s

/-- SROTL (R181). -/
def execSrotl (f : XF) (s : State) : Host.Outcome State Fault Refusal :=
  runEnc ⟨0x1D, .ext 1 f⟩ {} (scalMap rotlOp) s

/-- SSHR (R181). -/
def execSshr (f : B3) (s : State) : Host.Outcome State Fault Refusal :=
  runEnc ⟨0x1E, .b3 f⟩ {} (scalMap shrOp) s

/-- SSHR_X (R181). -/
def execSshrX (f : XA) (s : State) : Host.Outcome State Fault Refusal :=
  runEnc (xaEnc 0x1E 0 f) {} (scalMap shrOp) s

/-- SROTR (R181). -/
def execSrotr (f : XF) (s : State) : Host.Outcome State Fault Refusal :=
  runEnc ⟨0x1E, .ext 1 f⟩ {} (scalMap rotrOp) s

/-- SBFX (R181). -/
def execSbfx (f : B3) (s : State) : Host.Outcome State Fault Refusal :=
  runEnc ⟨0x1F, .b3 f⟩ {} (scalMap bfxOp) s

/-- SBFX_X (R181). -/
def execSbfxX (f : XA) (s : State) : Host.Outcome State Fault Refusal :=
  runEnc (xaEnc 0x1F 0 f) {} (scalMap bfxOp) s

/-- SBFI (R181). -/
def execSbfi (f : XF) (s : State) : Host.Outcome State Fault Refusal :=
  runEnc ⟨0x1F, .ext 1 f⟩ {} (scalMap bfiOp) s

/-- SPOPC (R181). -/
def execSpopc (f : B3) (s : State) : Host.Outcome State Fault Refusal :=
  runEnc ⟨0x20, .b3 f⟩ {} (scalMap popcOp) s

/-- SPOPC_X (R181). -/
def execSpopcX (f : XA) (s : State) : Host.Outcome State Fault Refusal :=
  runEnc (xaEnc 0x20 0 f) {} (scalMap popcOp) s

/-- SCLZ (R181). -/
def execSclz (f : XF) (s : State) : Host.Outcome State Fault Refusal :=
  runEnc ⟨0x20, .ext 1 f⟩ {} (scalMap clzOp) s

/-- SCTZ (R181). -/
def execSctz (f : XF) (s : State) : Host.Outcome State Fault Refusal :=
  runEnc ⟨0x20, .ext 2 f⟩ {} (scalMap ctzOp) s

/-- SMIN (R181). -/
def execSmin (f : B3) (s : State) : Host.Outcome State Fault Refusal :=
  runEnc ⟨0x21, .b3 f⟩ {} (scalMap (arith (fun a b _ => min a b))) s

/-- SMIN_X (R181). -/
def execSminX (f : XA) (s : State) : Host.Outcome State Fault Refusal :=
  runEnc (xaEnc 0x21 0 f) {} (scalMap (arith (fun a b _ => min a b))) s

/-- SMAX (R181). -/
def execSmax (f : XF) (s : State) : Host.Outcome State Fault Refusal :=
  runEnc ⟨0x21, .ext 1 f⟩ {} (scalMap (arith (fun a b _ => max a b))) s

/-- SMOV (R181). -/
def execSmov (f : B3) (s : State) : Host.Outcome State Fault Refusal :=
  runEnc ⟨0x22, .b3 f⟩ {} (scalMap (bitwise (fun _ b => b))) s

/-- SMOV_X (R181). -/
def execSmovX (f : XA) (s : State) : Host.Outcome State Fault Refusal :=
  runEnc (xaEnc 0x22 0 f) {} (scalMap (bitwise (fun _ b => b))) s

/-- SMOVI (R181). -/
def execSmovi (f : CF) (s : State) : Host.Outcome State Fault Refusal :=
  runEnc ⟨0x23, .c f⟩ {} (scalMap smoviOp) s

/-- SMOVI_X (R181). -/
def execSmoviX (f : XF) (s : State) : Host.Outcome State Fault Refusal :=
  runEnc ⟨0x23, .ext 0 f⟩ {} (scalMap smoviOp) s

/-- SCMP (R181). -/
def execScmp (f : XS) (s : State) : Host.Outcome State Fault Refusal :=
  runEnc ⟨0x24, .ext f.sub f.x⟩ {} (scalMap scmpOp) s

end Sys2Proof.Machine
end

