-- ==== Sys2Proof/Machine/Spindles.lean ====
section
/-! DEFINITION. Matrix instructions of the Spindle stream (15 R261 to R269). -/

namespace Sys2Proof.Machine

/-- OCLAIM (R262). -/
def execOclaim (f : XF) (s : State) : Host.Outcome State Fault Refusal :=
  runEnc ⟨0x79, .ext 0 f⟩ {} oclaimOp s

/-- OREL (R262). -/
def execOrel (f : XF) (s : State) : Host.Outcome State Fault Refusal :=
  runEnc ⟨0x79, .ext 1 f⟩ {} orelOp s

/-- OWAIT (R262). -/
def execOwait (f : XF) (s : State) : Host.Outcome State Fault Refusal :=
  runEnc ⟨0x79, .ext 2 f⟩ {} owaitOp s

/-- MMA (R263). -/
def execMma (f : XF) (s : State) : Host.Outcome State Fault Refusal :=
  runEnc ⟨0x7A, .ext 0 f⟩ {} mmaOp s

/-- MMASP (R264). -/
def execMmasp (f : XF) (s : State) : Host.Outcome State Fault Refusal :=
  runEnc ⟨0x7A, .ext 1 f⟩ {} mmaOp s

/-- MMAG (R265). -/
def execMmag (f : XF) (s : State) : Host.Outcome State Fault Refusal :=
  runEnc ⟨0x7A, .ext 2 f⟩ {} mmaOp s

/-- MMAGSP (R265). -/
def execMmagsp (f : XF) (s : State) : Host.Outcome State Fault Refusal :=
  runEnc ⟨0x7A, .ext 3 f⟩ {} mmaOp s

/-- ACLR (R266). -/
def execAclr (f : XF) (s : State) : Host.Outcome State Fault Refusal :=
  runEnc ⟨0x7B, .ext 0 f⟩ {} aclrOp s

/-- ASCALE (R266). -/
def execAscale (f : XF) (s : State) : Host.Outcome State Fault Refusal :=
  runEnc ⟨0x7B, .ext 1 f⟩ {} ascaleOp s

/-- ADRAIN (R267). -/
def execAdrain (f : XF) (s : State) : Host.Outcome State Fault Refusal :=
  runEnc ⟨0x7B, .ext 2 f⟩ {} adrainOp s

/-- ADRAING (R267). -/
def execAdraing (f : XF) (s : State) : Host.Outcome State Fault Refusal :=
  runEnc ⟨0x7B, .ext 3 f⟩ {} adrainOp s

/-- BATCOM (R269). -/
def execBatcom (s : State) : Host.Outcome State Fault Refusal :=
  runEnc ⟨0x7C, .ext 0 XF.zero⟩ {} batcomOp s

/-- BATWAIT (R269). -/
def execBatwait (f : XF) (s : State) : Host.Outcome State Fault Refusal :=
  runEnc ⟨0x7C, .ext 1 f⟩ {} batwaitOp s

end Sys2Proof.Machine
end

