-- ==== Sys2Proof/Machine/Sync.lean ====
section
/-! DEFINITION. Synchronisation, Porter, task and launch instructions (13 R231 to R245), and the slot store (12 R225). -/

namespace Sys2Proof.Machine

/-- OSTORE (R225). -/
def execOstore (f : XF) (s : State) : Host.Outcome State Fault Refusal :=
  runEnc ⟨0x5F, .ext 0 f⟩ {} ostoreOp s

/-- BAR (R233). -/
def execBar (f : CF) (s : State) : Host.Outcome State Fault Refusal :=
  runEnc ⟨0x70, .c f⟩ {} barOp s

/-- BAR_X (R233). -/
def execBarX (f : XF) (s : State) : Host.Outcome State Fault Refusal :=
  runEnc ⟨0x70, .ext 0 f⟩ {} barOp s

/-- BARARR (R233). -/
def execBararr (f : XF) (s : State) : Host.Outcome State Fault Refusal :=
  runEnc ⟨0x70, .ext 1 f⟩ {} barOp s

/-- BARWAIT (R233). -/
def execBarwait (f : XF) (s : State) : Host.Outcome State Fault Refusal :=
  runEnc ⟨0x70, .ext 2 f⟩ {} barOp s

/-- BBARR (R234). -/
def execBbarr (f : XF) (s : State) : Host.Outcome State Fault Refusal :=
  runEnc ⟨0x71, .ext 0 f⟩ {} bbOp s

/-- BBWAIT (R234). -/
def execBbwait (f : XF) (s : State) : Host.Outcome State Fault Refusal :=
  runEnc ⟨0x71, .ext 1 f⟩ {} bbOp s

/-- TLINC (R236). -/
def execTlinc (f : XF) (s : State) : Host.Outcome State Fault Refusal :=
  runEnc ⟨0x72, .ext 0 f⟩ {} timelineOp s

/-- TLSET (R236). -/
def execTlset (f : XF) (s : State) : Host.Outcome State Fault Refusal :=
  runEnc ⟨0x72, .ext 1 f⟩ {} timelineOp s

/-- TLWAIT (R236). -/
def execTlwait (f : XF) (s : State) : Host.Outcome State Fault Refusal :=
  runEnc ⟨0x72, .ext 2 f⟩ {} timelineOp s

/-- CP (R237). -/
def execCp (f : XF) (s : State) : Host.Outcome State Fault Refusal :=
  runEnc ⟨0x73, .ext 0 f⟩ { ownPoison := true } cpOp s

/-- CPRED (R239). -/
def execCpred (f : XF) (s : State) : Host.Outcome State Fault Refusal :=
  runEnc ⟨0x73, .ext 1 f⟩ { ownPoison := true } cpOp s

/-- TWAIT (R241). -/
def execTwait (f : CF) (s : State) : Host.Outcome State Fault Refusal :=
  runEnc ⟨0x74, .c f⟩ {} twaitOp s

/-- TWAIT_X (R241). -/
def execTwaitX (f : XF) (s : State) : Host.Outcome State Fault Refusal :=
  runEnc ⟨0x74, .ext 0 f⟩ {} twaitOp s

/-- SPAWN (R242). -/
def execSpawn (f : XF) (s : State) : Host.Outcome State Fault Refusal :=
  runEnc ⟨0x75, .ext 0 f⟩ {} spawnOp s

/-- LAUNCH (R243). -/
def execLaunch (f : XF) (s : State) : Host.Outcome State Fault Refusal :=
  runEnc ⟨0x75, .ext 1 f⟩ {} launchOp s

/-- SPNRUN (R244). -/
def execSpnrun (f : XF) (s : State) : Host.Outcome State Fault Refusal :=
  runEnc ⟨0x75, .ext 2 f⟩ {} spnrunOp s

/-- REGSURRENDER (R245). -/
def execRegsurrender (f : CF) (s : State) : Host.Outcome State Fault Refusal :=
  runEnc ⟨0x76, .c f⟩ {} regsurrenderOp s

/-- REGSURRENDER_X (R245). -/
def execRegsurrenderX (f : XF) (s : State) : Host.Outcome State Fault Refusal :=
  runEnc ⟨0x76, .ext 0 f⟩ {} regsurrenderOp s

/-- REGCLAIM (R245). -/
def execRegclaim (f : CF) (s : State) : Host.Outcome State Fault Refusal :=
  runEnc ⟨0x77, .c f⟩ {} regclaimOp s

/-- REGCLAIM_X (R245). -/
def execRegclaimX (f : XF) (s : State) : Host.Outcome State Fault Refusal :=
  runEnc ⟨0x77, .ext 0 f⟩ {} regclaimOp s

end Sys2Proof.Machine
end

