-- ==== Sys2Proof/Machine/SystemOps.lean ====
section
/-! DEFINITION. Traps and returns, special registers, the timer comparator, invalidations, store faults, marks and samples
(16 R271 to R285). -/

namespace Sys2Proof.Machine

/-! ## Traps and returns (R272, R274) -/

/-- trap: the software-trap cause, whose %taddr is the code and whose %tepc names the next instruction. -/
def trapOp (_r : Row) (n : Norm) (s : State) : Res := .trapNext s causeSoftwareTrap (n.x.disp.setWidth 64) 0

/-- trapret: a jump to %tepc, after which a stop that has waited for user mode takes effect (R131, R274, R340). A save or restore handler's return waits until the accesses that the handler issued have completed (DEDUCED, log entry 55). -/
def trapretOp (_r : Row) (_n : Norm) (s : State) : Res :=
  match s.curWave with
  | some w =>
    if w.handler = .trap then goReg s s.trapReturn.stopReturned w.tepc
    else if !w.flight.isEmpty then .wait s (.retry 10 false)
    else
      let t := s.handlerReturn w
      .wait t ((t.wave? w.core w.slot).elim .ready (·.wait))
  | none => goReg s s.trapReturn.stopReturned (s.curSpindle.elim 0 (·.tepc))

/-- utret: a jump to %uret that unmasks user timer traps. -/
def utretOp (_r : Row) (_n : Norm) (s : State) : Res :=
  match s.curWave with
  | some w => goReg s (s.modCurWave (fun w => { w with tmrMask := false })) w.uret
  | none => .done s

/-! ## Special registers (R275, R276) -/

/-- Registers marked S: %tepc, %tcause, %taddr, %tlanes. -/
def specialPriv (k : Nat) : Bool := 0x061 ≤ k && k ≤ 0x064

/-- Registers with a field that software writes. -/
def specialWritable (k : Nat) : Bool :=
  [0x001, 0x002, 0x003, 0x061, 0x062, 0x063, 0x064, 0x082, 0x083, 0x084].contains k

/-- %crd j of a wave (R20): %crd0 is the lowest lane of k0 (DEDUCED, log entry 65). -/
def State.crd (s : State) (w : Wave) (j : Nat) : Nat :=
  if j == 0 then (lanesOf (w.k.rd 0)).headD 0
  else if w.kind = .task || w.kind = .episode then 0
  else coordinate (s.recordOf w.launch) w.wid w.block j

/-- The cause that %ucause and %tcause hold, in bits [8:0]. -/
def causeBits (v : BitVec 64) : BitVec 64 := v &&& 0x1FF

/-- %preq: LEFT and REQ. -/
def State.preqReg (s : State) (c : Nat) : BitVec 64 :=
  BitVec.ofNat 64 (s.leftOf c s.agentReq % 2 ^ 32 * 2 ^ 32 + (if s.agentReq then 1 else 0))

/-- Reads a special register of a wave. %scrbase of a block without scratchpad is a free value (DESIGN CHOICE, log entry 8). -/
def State.specialWave (s : State) (w : Wave) (k : Nat) : BitVec 64 × State :=
  let n (v : Nat) : BitVec 64 × State := (BitVec.ofNat 64 v, s)
  if 0x010 ≤ k && k < 0x018 then n (s.crd w (k - 0x010))
  else if 0x018 ≤ k && k < 0x020 then (w.ws.extractLsb' (64 * (k - 0x018)) 64, s)
  else if 0x020 ≤ k && k < 0x040 then n (w.blocks.getD (k - 0x020) 0xFFFFFFFF)
  else if 0x048 ≤ k && k < 0x050 then ((w.token (k - 0x048)).word, s)
  else match k with
  | 0x000 => (s.clk, s)
  | 0x001 => (w.fflags, s)
  | 0x002 => (w.uret, s)
  | 0x003 => (causeBits w.ucause, s)
  | 0x004 => (w.tmrcmp, s)
  | 0x005 => (s.preqReg w.ctx, s)
  | 0x006 => n (if w.wsat then 1 else 0)
  | 0x007 => n w.wid
  | 0x008 => n w.blk
  | 0x040 => match s.block? w.launch w.block with
    | some b => if b.scrSize == 0 then s.takeWord else n b.scrBase
    | none => s.takeWord
  | 0x041 => n ((s.block? w.launch w.block).elim 0 (·.scrSize))
  | 0x050 => (w.rdisp, s)
  | 0x051 => (w.rems, s)
  | 0x058 => n w.sfq.length
  | 0x060 => n (if w.mode = .supervisor then 1 else 0)
  | 0x061 => (w.tepc, s)
  | 0x062 => (causeBits w.tcause, s)
  | 0x063 => (w.taddr, s)
  | 0x064 => (w.tlanes, s)
  | _ => n 0

/-- Word index of the data scratch that %spdsd reaches (R259, R260). -/
def Spindle.dsWord (p : Spindle) : Nat := field p.dsa.toNat 3 11

/-- An access through %spdsd advances the port address. -/
def Spindle.dsNext (p : Spindle) : Spindle := { p with dsa := BitVec.ofNat 64 ((p.dsWord + 1) % 2048 * 8) }

/-- Reads a special register of a Spindle program. -/
def State.specialSpindle (s : State) (p : Spindle) (k : Nat) : BitVec 64 × State :=
  match k with
  | 0x000 => (s.clk, s)
  | 0x005 => (s.preqReg p.ctx, s)
  | 0x060 => (if p.mode = .supervisor then 1 else 0, s)
  | 0x061 => (p.tepc, s)
  | 0x062 => (causeBits p.tcause, s)
  | 0x063 => (p.taddr, s)
  | 0x080 => (p.bcom, s)
  | 0x081 => (p.bdone, s)
  | 0x082 => (p.flags, s)
  | 0x083 => (p.dsa, s)
  | 0x084 => (BitVec.ofNat 64 (p.scratch.readNat (8 * p.dsWord) 8), s.setSpindle p.dsNext)
  | 0x085 => (p.stop, s)
  | 0x086 => (p.fault, s)
  | _ => (0, s)

def State.special (s : State) (k : Nat) : BitVec 64 × State :=
  match s.curWave, s.curSpindle with
  | some w, _ => s.specialWave w k
  | _, some p => s.specialSpindle p k
  | _, _ => (0, s)

/-- Writes a special register, field by field under the access codes of R10. -/
def Wave.putSpecial (w : Wave) (k : Nat) (v : BitVec 64) : Wave :=
  match k with
  | 0x001 => { w with fflags := v &&& 0x1F }
  | 0x002 => { w with uret := v }
  | 0x003 => { w with ucause := causeBits v }
  | 0x061 => { w with tepc := v }
  | 0x062 => { w with tcause := causeBits v }
  | 0x063 => { w with taddr := v }
  | 0x064 => { w with tlanes := v }
  | _ => w

def Spindle.putSpecial (p : Spindle) (k : Nat) (v : BitVec 64) : Spindle :=
  match k with
  | 0x061 => { p with tepc := v }
  | 0x062 => { p with tcause := causeBits v }
  | 0x063 => { p with taddr := v }
  | 0x082 => { p with flags := v &&& 0x3F }
  | 0x083 => { p with dsa := v &&& 0x3FF8 }
  | 0x084 => { p with scratch := p.scratch.writeNat (8 * p.dsWord) 8 v.toNat }.dsNext
  | _ => p

def rdsrOp (_r : Row) (n : Norm) (s : State) : Res :=
  let k := n.x.disp.toNat
  if specialPriv k && s.curMode == .user then .trap s causePrivilege 0 0
  else
    let (v, s) := s.special k
    .done (s.swr n.x.d.toNat v)

/-- wrsr (R275, R276; DEDUCED, log entry 81). -/
def wrsrOp (_r : Row) (n : Norm) (s : State) : Res :=
  let k := n.x.disp.toNat
  if specialPriv k && s.curMode == .user then .trap s causePrivilege 0 0
  else if !s.inHandler && s.smarked n.x.d.toNat then .trap s causePoisonConsumed 0 0
  else if !specialWritable k then .trap s causeIllegalOperand 0 0
  else
    let v := s.srd n.x.d.toNat
    .done ((s.modCurWave (fun w => w.putSpecial k v)).modCurSpindle (fun p => p.putSpecial k v))

/-! ## The timer comparator (R277) -/

/-- The comparator that a value sets. -/
def timerValue (clk v : BitVec 64) : BitVec 64 := if v == 0 then 0 else if clk + v == 0 then 1 else clk + v

/-- tmrset (R277; DEDUCED, log entry 47). -/
def tmrsetOp (r : Row) (n : Norm) (s : State) : Res :=
  let v := s.scalOpnd n r.sa n.x.sa
  .done (s.modCurWave (fun w => { w with tmrcmp := timerValue s.clk v, tmrPend := false }))

/-! ## Invalidations (R279, R280) -/

/-- A range widened to what any page or CONTIG group reaches: 2^39 bytes hold the largest of both (R320, R321). -/
def wideRange (lo hi : Nat) : Nat × Nat := (lo / 2 ^ 39 * 2 ^ 39, (hi + 2 ^ 39 - 1) / 2 ^ 39 * 2 ^ 39)

/-- An access in flight of the context, with an address in the range, has not completed. -/
def State.usesRange (s : State) (c lo hi : Nat) (whole : Bool) : Bool :=
  let meets (e : Elem) : Bool := match e.va with
    | some a => whole || (a % 2 ^ 57 < hi && lo < a % 2 ^ 57 + e.bytes)
    | none => false
  s.waves.any (fun w => w.ctx == c && w.flight.any (fun a => !a.done && a.elems.any meets))

/-- tlbinv: the translations are dropped at its issue, and it waits for the accesses in flight that may have used one (DEDUCED, log entry 56). -/
def tlbinvOp (_r : Row) (n : Norm) (s : State) : Res :=
  let a := s.srd n.x.sa.toNat
  let count := s.srd n.x.sb.toNat
  if 2 ^ 32 ≤ count.toNat then .trap s causeIllegalOperand 0 0
  else if !canonical a then .trap s causeNoncanonical a 0
  else
    let c := s.curCtx
    let lo := a.toNat % 2 ^ 57 / 4096 * 4096
    let hi := lo + 4096 * count.toNat
    let t := s.tlbDrop c (if count == 0 then none else some (lo, hi)) false
    let (from_, to_) := wideRange lo hi
    if t.usesRange c from_ to_ (count == 0) then .wait t (.retry 6 false) else .done t

def hdlinvOp (_r : Row) (_n : Norm) (s : State) : Res :=
  .done { s with descs := s.descs.filter (fun d => d.1 != s.curCtx) }

/-! ## Store faults (R282, R283) -/

/-- Writes the four words of a record to s[D] to s[D+3]. -/
def State.putRecord4 (s : State) (d : Nat) (r : BitVec 256) : State :=
  (List.range 4).foldl (fun s i => s.swr (d + i) (r.extractLsb' (64 * i) 64)) s

def sfpopOp (_r : Row) (n : Norm) (s : State) : Res :=
  match s.curWave with
  | some w => .done ((s.modCurWave (fun w => { w with sfq := w.sfq.tail })).putRecord4 n.x.d.toNat (w.sfq.headD 0))
  | none => .done s

/-- stdrain: a wave waits for its stores and remote accesses, and then traps when a store fault is queued; a Spindle
program waits for its drains. -/
def stdrainOp (_r : Row) (_n : Norm) (s : State) : Res :=
  match s.curWave, s.curSpindle with
  | some w, _ =>
    if w.counter 2 != 0 || w.counter 4 != 0 then .wait s (.retry 6 true)
    else if !w.sfq.isEmpty then .trap s causeStoreFault 0 0
    else .done s
  | _, some p => if p.ops.any (fun o => o.drain.isSome) then .wait (s.modCurSpindle (fun p => { p with live := 0 })) (.retry 6 true) else .done s
  | _, _ => .done s

/-! ## Marks and samples (R284, R285) -/

def evmarkOp (_r : Row) (n : Norm) (s : State) : Res :=
  let v := s.srd n.x.sa.toNat
  let d := n.x.disp.toNat
  match s.curWave, s.curSpindle with
  | some w, _ => .done (s.logWave w 0x1F d v)
  | _, some p => .done (s.logSpindle p 0x1F d v)
  | _, _ => .done s

def sampleOp (_r : Row) (n : Norm) (s : State) : Res :=
  match s.curWave with
  | some w =>
    .done ((s.modCurWave (fun w => { w with sampleMark := true, sampleRec := none })).putRecord4 n.x.d.toNat (w.sampleRec.getD 0))
  | none => .done s

end Sys2Proof.Machine
end

