-- ==== Sys2Proof/Machine/System.lean ====
section
/-! DEFINITION. System, trap and debug instructions (16 R271 to R285). -/

namespace Sys2Proof.Machine

/-- TRAP (R272). -/
def execTrap (f : CF) (s : State) : Host.Outcome State Fault Refusal :=
  runEnc ⟨0x6C, .c f⟩ {} trapOp s

/-- TRAP_X (R272). -/
def execTrapX (f : XF) (s : State) : Host.Outcome State Fault Refusal :=
  runEnc ⟨0x6C, .ext 0 f⟩ {} trapOp s

/-- TRAPRET (R274). -/
def execTrapret (s : State) : Host.Outcome State Fault Refusal :=
  runEnc ⟨0x6D, .n 0⟩ { priv := true } trapretOp s

/-- TRAPRET_X (R274). -/
def execTrapretX (s : State) : Host.Outcome State Fault Refusal :=
  runEnc ⟨0x6D, .ext 0 XF.zero⟩ { priv := true } trapretOp s

/-- RDSR (R275). -/
def execRdsr (f : CF) (s : State) : Host.Outcome State Fault Refusal :=
  runEnc ⟨0x7D, .c f⟩ {} rdsrOp s

/-- RDSR_X (R275). -/
def execRdsrX (f : XF) (s : State) : Host.Outcome State Fault Refusal :=
  runEnc ⟨0x7D, .ext 0 f⟩ {} rdsrOp s

/-- WRSR (R275). -/
def execWrsr (f : XF) (s : State) : Host.Outcome State Fault Refusal :=
  runEnc ⟨0x7D, .ext 1 f⟩ { ownPoison := true } wrsrOp s

/-- TMRSET (R277). -/
def execTmrset (f : XF) (s : State) : Host.Outcome State Fault Refusal :=
  runEnc ⟨0x7E, .ext 0 f⟩ {} tmrsetOp s

/-- TLBINV (R279). -/
def execTlbinv (f : XF) (s : State) : Host.Outcome State Fault Refusal :=
  runEnc ⟨0x7E, .ext 1 f⟩ { priv := true } tlbinvOp s

/-- HDLINV (R280). -/
def execHdlinv (s : State) : Host.Outcome State Fault Refusal :=
  runEnc ⟨0x7E, .ext 2 XF.zero⟩ {} hdlinvOp s

/-- STDRAIN (R283). -/
def execStdrain (s : State) : Host.Outcome State Fault Refusal :=
  runEnc ⟨0x7E, .ext 3 XF.zero⟩ {} stdrainOp s

/-- SFPOP (R282). -/
def execSfpop (f : XF) (s : State) : Host.Outcome State Fault Refusal :=
  runEnc ⟨0x7E, .ext 4 f⟩ {} sfpopOp s

/-- EVMARK (R284). -/
def execEvmark (f : XF) (s : State) : Host.Outcome State Fault Refusal :=
  runEnc ⟨0x7E, .ext 5 f⟩ {} evmarkOp s

/-- SAMPLE (R285). -/
def execSample (f : XF) (s : State) : Host.Outcome State Fault Refusal :=
  runEnc ⟨0x7E, .ext 6 f⟩ {} sampleOp s

/-- UTRET (R274). -/
def execUtret (s : State) : Host.Outcome State Fault Refusal :=
  runEnc ⟨0x7E, .ext 7 XF.zero⟩ {} utretOp s

end Sys2Proof.Machine
end

