-- ==== Sys2Proof/Machine/WorkEvents.lean ====
section
/-! DEFINITION. Events of work: placement, waves, tasks, rays, Spindle programs, accesses and caches (01 R25 to R37; 02 R40 to R60; 04 R96; 05 R110; 11 R207; 12 R249; 15 R261; 20 R306 to R316). An event that is not due changes nothing (DESIGN CHOICE, log entry 7). -/

namespace Sys2Proof.Machine

/-- BLOCK_PLACEMENT (R27): the distributor places the next block or co-resident unit of an active launch. -/
def execBlockPlacement (launch : BitVec 8) (s : State) : Host.Outcome State Fault Refusal :=
  .next (s.placeFor (fun r => r.kind == .block launch.toNat))

/-- WAVE_EXIT_COMPLETE (R25): an exiting wave finishes. -/
def execWaveExitComplete (core : BitVec 7) (slot : BitVec 6) (s : State) : Host.Outcome State Fault Refusal :=
  .next ((s.finishWave core.toNat slot.toNat).settleEnds)

/-- TASK_DISPATCH (R32): a task pool places its first task. -/
def execTaskDispatch (launch : BitVec 8) (s : State) : Host.Outcome State Fault Refusal :=
  .next (s.placeFor (fun r => r.kind == .task launch.toNat))

/-- TASK_PRIORITY_AGING (R32): tasks queued for 65,536 cycles rank as PRIO 15. -/
def execTaskPriorityAging (launch : BitVec 8) (s : State) : Host.Outcome State Fault Refusal :=
  .next (s.ageTasks launch.toNat)

/-- REGCLAIM_GRANT (R35): a block grants its oldest waiting regclaim. -/
def execRegclaimGrant (launch : BitVec 8) (block : BitVec 32) (s : State) : Host.Outcome State Fault Refusal :=
  .next (s.grantClaim launch.toNat block.toNat)

/-- USER_TIMER_TRAP (R37): a matched timer comparator traps at a boundary. -/
def execUserTimerTrap (core : BitVec 7) (slot : BitVec 6) (s : State) : Host.Outcome State Fault Refusal :=
  .next (s.userTimerTrap core.toNat slot.toNat)

/-- RAY_LAUNCH_ACTIVATION (R40): a ray launch waiting at its queue head becomes active. -/
def execRayLaunchActivation (ctx : BitVec 8) (queue : BitVec 6) (s : State) : Host.Outcome State Fault Refusal :=
  .next (s.rayActivation ctx.toNat queue.toNat)

/-- REMIT_RESUME (R46): a generation wave waiting in remit tests the occupancy again. -/
def execRemitResume (core : BitVec 7) (slot : BitVec 6) (s : State) : Host.Outcome State Fault Refusal :=
  .next (s.retryWave core.toNat slot.toNat (Wait.isRetry 8))

/-- STALL_AGE_EXPIRY (R49): a stall passes its age limit. -/
def execStallAgeExpiry (quarter : BitVec 2) (stall : BitVec 13) (s : State) : Host.Outcome State Fault Refusal :=
  .next (s.markStall quarter.toNat stall.toNat 1)

/-- STALL_OVERDUE (R49): a stall passes twice its age limit. -/
def execStallOverdue (quarter : BitVec 2) (stall : BitVec 13) (s : State) : Host.Outcome State Fault Refusal :=
  .next (s.markStall quarter.toNat stall.toNat 2)

/-- CRIER_EMISSION (R49): the Crier of a quarter emits from an eligible stall. -/
def execCrierEmission (quarter : BitVec 2) (s : State) : Host.Outcome State Fault Refusal :=
  .next (s.crierEmission quarter.toNat)

/-- TRAVERSAL_BATCH_START (R50): a waiting traversal batch enters a Traversal Unit. -/
def execTraversalBatchStart (quarter : BitVec 2) (unit : BitVec 7) (s : State) : Host.Outcome State Fault Refusal :=
  .next (s.batchStart quarter.toNat unit.toNat)

/-- TRACE_COMPLETION (R57): the trace of a ray ends. -/
def execTraceCompletion (launchSlot : BitVec 3) (ray : BitVec 32) (s : State) : Host.Outcome State Fault Refusal :=
  .next (s.traceCompletion launchSlot.toNat ray.toNat)

/-- EPISODE_PLACEMENT (R310): an episode emission is placed. -/
def execEpisodePlacement (quarter : BitVec 2) (s : State) : Host.Outcome State Fault Refusal :=
  .next (s.placeFor (fun r => match r.kind with
    | .episode e => e.quarter == quarter.toNat
    | _ => false))

/-- COLD_POOL_RECLAIM (R347): the cold allocation of a suspended ray launch is reclaimed. -/
def execColdPoolReclaim (launch : BitVec 8) (s : State) : Host.Outcome State Fault Refusal :=
  .next (s.coldReclaim launch.toNat)

/-- SPINDLE_START (R310): a waiting spnrun request starts on an idle Spindle core. -/
def execSpindleStart (cluster : BitVec 5) (s : State) : Host.Outcome State Fault Refusal :=
  .next (s.spindleStart cluster.toNat)

/-- SLOT_WRITE_RETRY (R71): a wave waiting on a slot write tries it again. -/
def execSlotWriteRetry (core : BitVec 7) (slot : BitVec 6) (s : State) : Host.Outcome State Fault Refusal :=
  .next (s.retryWave core.toNat slot.toNat (Wait.isRetry 8))

/-- ACCESS_COMPLETION (R96): an access in flight is performed and completes. -/
def execAccessCompletion (core : BitVec 7) (slot : BitVec 6) (index : BitVec 16) (s : State) : Host.Outcome State Fault Refusal :=
  .next (s.accessCompletes core.toNat slot.toNat index.toNat)

/-- LINE_AGING_WRITEBACK (R110): a line dirty for 4,096 cycles is written back. -/
def execLineAgingWriteback (core : BitVec 7) (line : BitVec 16) (s : State) : Host.Outcome State Fault Refusal :=
  .next (s.lineAges core.toNat line.toNat)

/-- SLEEP_EXPIRY (R207): the sleep of a wave ends. -/
def execSleepExpiry (core : BitVec 7) (slot : BitVec 6) (s : State) : Host.Outcome State Fault Refusal :=
  .next (s.sleepEnds core.toNat slot.toNat)

/-- SCH_WAKE (R306): a wake write marks queues pending. -/
def execSchWake (fn : BitVec 5) (ctx : BitVec 8) (mask : BitVec 64) (s : State) : Host.Outcome State Fault Refusal :=
  .next (s.hostReg fn.toNat (.wake ctx.toNat) mask)

/-- QUEUE_SCAN (R306): a pending queue is scanned. -/
def execQueueScan (ctx : BitVec 8) (queue : BitVec 6) (s : State) : Host.Outcome State Fault Refusal :=
  .next (s.queueScan ctx.toNat queue.toNat)

/-- LAUNCH_TAKE (R307): the device takes the record that its order of service names. -/
def execLaunchTake (s : State) : Host.Outcome State Fault Refusal :=
  .next s.launchTake

/-- PLACEMENT_RESERVATION (R309): a request that has waited 65,536 cycles reserves its cores. -/
def execPlacementReservation (launch : BitVec 8) (s : State) : Host.Outcome State Fault Refusal :=
  .next (s.placementReservation launch.toNat)

/-- WAVE_READY_AGED (R311): a ready wave has aged. -/
def execWaveReadyAged (core : BitVec 7) (slot : BitVec 6) (s : State) : Host.Outcome State Fault Refusal :=
  .next (s.readyAged core.toNat slot.toNat)

/-- WAITER_SLOT_GRANT (R313): a free waiter slot goes to the oldest request that may have it. -/
def execWaiterSlotGrant (s : State) : Host.Outcome State Fault Refusal :=
  .next s.grantWaiter

/-- TLWAIT_RELEASE (R236): a waiter slot releases its wave. -/
def execTlwaitRelease (waiter : BitVec 10) (s : State) : Host.Outcome State Fault Refusal :=
  .next (s.pollWaiter waiter.toNat)

/-- WAITER_SLOT_POLL (R313): a slot re-reads VALUE behind a host port without CXL.cache. -/
def execWaiterSlotPoll (waiter : BitVec 10) (s : State) : Host.Outcome State Fault Refusal :=
  .next (s.pollWaiter waiter.toNat)

/-- QUANTUM_EXPIRY (R315): the time slice of the serving function ends. -/
def execQuantumExpiry (cluster : BitVec 5) (s : State) : Host.Outcome State Fault Refusal :=
  .next (s.quantumExpiry cluster.toNat)

/-- URGENT_PREEMPTION (R316): an urgent launch raises pre-emption requests. -/
def execUrgentPreemption (launch : BitVec 8) (s : State) : Host.Outcome State Fault Refusal :=
  .next (s.urgentPreemption launch.toNat)

end Sys2Proof.Machine
end

