-- ==== Sys2Proof/Machine/Dispatch.lean ====
section
/-! DEFINITION. One arm for each constructor of Instr. -/

namespace Sys2Proof.Machine

/-- What executing an instruction, or an event coming about, does (the rows of the opcode table). -/
def exec (i : Instr) (s : State) : Host.Outcome State Fault Refusal :=
  match i with
  | .iadd f => Sys2Proof.Machine.execIadd f s
  | .iaddX f => Sys2Proof.Machine.execIaddX f s
  | .iaddc f => Sys2Proof.Machine.execIaddc f s
  | .isub f => Sys2Proof.Machine.execIsub f s
  | .isubb f => Sys2Proof.Machine.execIsubb f s
  | .imul f => Sys2Proof.Machine.execImul f s
  | .imulX f => Sys2Proof.Machine.execImulX f s
  | .imulhi f => Sys2Proof.Machine.execImulhi f s
  | .imulw f => Sys2Proof.Machine.execImulw f s
  | .imad f => Sys2Proof.Machine.execImad f s
  | .imadX f => Sys2Proof.Machine.execImadX f s
  | .imadhi f => Sys2Proof.Machine.execImadhi f s
  | .imadw f => Sys2Proof.Machine.execImadw f s
  | .imin f => Sys2Proof.Machine.execImin f s
  | .iminX f => Sys2Proof.Machine.execIminX f s
  | .imax f => Sys2Proof.Machine.execImax f s
  | .iabs f => Sys2Proof.Machine.execIabs f s
  | .iabsX f => Sys2Proof.Machine.execIabsX f s
  | .ineg f => Sys2Proof.Machine.execIneg f s
  | .and f => Sys2Proof.Machine.execAnd f s
  | .andX f => Sys2Proof.Machine.execAndX f s
  | .andn f => Sys2Proof.Machine.execAndn f s
  | .or f => Sys2Proof.Machine.execOr f s
  | .orX f => Sys2Proof.Machine.execOrX f s
  | .orn f => Sys2Proof.Machine.execOrn f s
  | .xor f => Sys2Proof.Machine.execXor f s
  | .xorX f => Sys2Proof.Machine.execXorX f s
  | .xnor f => Sys2Proof.Machine.execXnor f s
  | .not f => Sys2Proof.Machine.execNot f s
  | .shl f => Sys2Proof.Machine.execShl f s
  | .shlX f => Sys2Proof.Machine.execShlX f s
  | .rotl f => Sys2Proof.Machine.execRotl f s
  | .shr f => Sys2Proof.Machine.execShr f s
  | .shrX f => Sys2Proof.Machine.execShrX f s
  | .rotr f => Sys2Proof.Machine.execRotr f s
  | .fshl f => Sys2Proof.Machine.execFshl f s
  | .fshlX f => Sys2Proof.Machine.execFshlX f s
  | .fshr f => Sys2Proof.Machine.execFshr f s
  | .bfx f => Sys2Proof.Machine.execBfx f s
  | .bfxX f => Sys2Proof.Machine.execBfxX f s
  | .bfi f => Sys2Proof.Machine.execBfi f s
  | .bfrev f => Sys2Proof.Machine.execBfrev f s
  | .popc f => Sys2Proof.Machine.execPopc f s
  | .popcX f => Sys2Proof.Machine.execPopcX f s
  | .clz f => Sys2Proof.Machine.execClz f s
  | .ctz f => Sys2Proof.Machine.execCtz f s
  | .cls f => Sys2Proof.Machine.execCls f s
  | .icmp f => Sys2Proof.Machine.execIcmp f s
  | .icmpX f => Sys2Proof.Machine.execIcmpX f s
  | .sel f => Sys2Proof.Machine.execSel f s
  | .mov f => Sys2Proof.Machine.execMov f s
  | .movX f => Sys2Proof.Machine.execMovX f s
  | .icvt f => Sys2Proof.Machine.execIcvt f s
  | .icvtX f => Sys2Proof.Machine.execIcvtX f s
  | .prmt f => Sys2Proof.Machine.execPrmt f s
  | .prmtX f => Sys2Proof.Machine.execPrmtX f s
  | .sadd f => Sys2Proof.Machine.execSadd f s
  | .saddX f => Sys2Proof.Machine.execSaddX f s
  | .ssub f => Sys2Proof.Machine.execSsub f s
  | .smul f => Sys2Proof.Machine.execSmul f s
  | .smulX f => Sys2Proof.Machine.execSmulX f s
  | .smulhi f => Sys2Proof.Machine.execSmulhi f s
  | .sand f => Sys2Proof.Machine.execSand f s
  | .sandX f => Sys2Proof.Machine.execSandX f s
  | .sandn f => Sys2Proof.Machine.execSandn f s
  | .sor f => Sys2Proof.Machine.execSor f s
  | .sorX f => Sys2Proof.Machine.execSorX f s
  | .sxor f => Sys2Proof.Machine.execSxor f s
  | .sxorX f => Sys2Proof.Machine.execSxorX f s
  | .snot f => Sys2Proof.Machine.execSnot f s
  | .sshl f => Sys2Proof.Machine.execSshl f s
  | .sshlX f => Sys2Proof.Machine.execSshlX f s
  | .srotl f => Sys2Proof.Machine.execSrotl f s
  | .sshr f => Sys2Proof.Machine.execSshr f s
  | .sshrX f => Sys2Proof.Machine.execSshrX f s
  | .srotr f => Sys2Proof.Machine.execSrotr f s
  | .sbfx f => Sys2Proof.Machine.execSbfx f s
  | .sbfxX f => Sys2Proof.Machine.execSbfxX f s
  | .sbfi f => Sys2Proof.Machine.execSbfi f s
  | .spopc f => Sys2Proof.Machine.execSpopc f s
  | .spopcX f => Sys2Proof.Machine.execSpopcX f s
  | .sclz f => Sys2Proof.Machine.execSclz f s
  | .sctz f => Sys2Proof.Machine.execSctz f s
  | .smin f => Sys2Proof.Machine.execSmin f s
  | .sminX f => Sys2Proof.Machine.execSminX f s
  | .smax f => Sys2Proof.Machine.execSmax f s
  | .smov f => Sys2Proof.Machine.execSmov f s
  | .smovX f => Sys2Proof.Machine.execSmovX f s
  | .smovi f => Sys2Proof.Machine.execSmovi f s
  | .smoviX f => Sys2Proof.Machine.execSmoviX f s
  | .scmp f => Sys2Proof.Machine.execScmp f s
  | .ffma f => Sys2Proof.Machine.execFfma f s
  | .ffmaX f => Sys2Proof.Machine.execFfmaX f s
  | .ffms f => Sys2Proof.Machine.execFfms f s
  | .fnma f => Sys2Proof.Machine.execFnma f s
  | .fadd f => Sys2Proof.Machine.execFadd f s
  | .faddX f => Sys2Proof.Machine.execFaddX f s
  | .fsub f => Sys2Proof.Machine.execFsub f s
  | .fmul f => Sys2Proof.Machine.execFmul f s
  | .fmulX f => Sys2Proof.Machine.execFmulX f s
  | .fmin f => Sys2Proof.Machine.execFmin f s
  | .fminX f => Sys2Proof.Machine.execFminX f s
  | .fmax f => Sys2Proof.Machine.execFmax f s
  | .fminnum f => Sys2Proof.Machine.execFminnum f s
  | .fmaxnum f => Sys2Proof.Machine.execFmaxnum f s
  | .fcmp f => Sys2Proof.Machine.execFcmp f s
  | .fcmpX f => Sys2Proof.Machine.execFcmpX f s
  | .fclass f => Sys2Proof.Machine.execFclass f s
  | .fclassX f => Sys2Proof.Machine.execFclassX f s
  | .frnd f => Sys2Proof.Machine.execFrnd f s
  | .frndX f => Sys2Proof.Machine.execFrndX f s
  | .rcp f => Sys2Proof.Machine.execRcp f s
  | .rcpX f => Sys2Proof.Machine.execRcpX f s
  | .rsqrt f => Sys2Proof.Machine.execRsqrt f s
  | .sqrt f => Sys2Proof.Machine.execSqrt f s
  | .exp2 f => Sys2Proof.Machine.execExp2 f s
  | .log2 f => Sys2Proof.Machine.execLog2 f s
  | .sinpi f => Sys2Proof.Machine.execSinpi f s
  | .cospi f => Sys2Proof.Machine.execCospi f s
  | .fcvt f => Sys2Proof.Machine.execFcvt f s
  | .fcvtX f => Sys2Proof.Machine.execFcvtX f s
  | .fdot2 f => Sys2Proof.Machine.execFdot2 f s
  | .fdot4 f => Sys2Proof.Machine.execFdot4 f s
  | .fabs f => Sys2Proof.Machine.execFabs f s
  | .fabsX f => Sys2Proof.Machine.execFabsX f s
  | .fneg f => Sys2Proof.Machine.execFneg f s
  | .shfl f => Sys2Proof.Machine.execShfl f s
  | .shflX f => Sys2Proof.Machine.execShflX f s
  | .shflxor f => Sys2Proof.Machine.execShflxor f s
  | .shflup f => Sys2Proof.Machine.execShflup f s
  | .shfldn f => Sys2Proof.Machine.execShfldn f s
  | .rdlane f => Sys2Proof.Machine.execRdlane f s
  | .rdlaneX f => Sys2Proof.Machine.execRdlaneX f s
  | .wrlane f => Sys2Proof.Machine.execWrlane f s
  | .redadd f => Sys2Proof.Machine.execRedadd f s
  | .redaddX f => Sys2Proof.Machine.execRedaddX f s
  | .redmin f => Sys2Proof.Machine.execRedmin f s
  | .redmax f => Sys2Proof.Machine.execRedmax f s
  | .redand f => Sys2Proof.Machine.execRedand f s
  | .redor f => Sys2Proof.Machine.execRedor f s
  | .redxor f => Sys2Proof.Machine.execRedxor f s
  | .scanadd f => Sys2Proof.Machine.execScanadd f s
  | .scanaddX f => Sys2Proof.Machine.execScanaddX f s
  | .scanmin f => Sys2Proof.Machine.execScanmin f s
  | .scanmax f => Sys2Proof.Machine.execScanmax f s
  | .scanand f => Sys2Proof.Machine.execScanand f s
  | .scanor f => Sys2Proof.Machine.execScanor f s
  | .scanxor f => Sys2Proof.Machine.execScanxor f s
  | .xscanadd f => Sys2Proof.Machine.execXscanadd f s
  | .xscanmin f => Sys2Proof.Machine.execXscanmin f s
  | .xscanmax f => Sys2Proof.Machine.execXscanmax f s
  | .xscanand f => Sys2Proof.Machine.execXscanand f s
  | .xscanor f => Sys2Proof.Machine.execXscanor f s
  | .xscanxor f => Sys2Proof.Machine.execXscanxor f s
  | .kand f => Sys2Proof.Machine.execKand f s
  | .kandX f => Sys2Proof.Machine.execKandX f s
  | .kor f => Sys2Proof.Machine.execKor f s
  | .kxor f => Sys2Proof.Machine.execKxor f s
  | .kandn f => Sys2Proof.Machine.execKandn f s
  | .knot f => Sys2Proof.Machine.execKnot f s
  | .kmov f => Sys2Proof.Machine.execKmov f s
  | .ktos f => Sys2Proof.Machine.execKtos f s
  | .ktosX f => Sys2Proof.Machine.execKtosX f s
  | .stok f => Sys2Proof.Machine.execStok f s
  | .kpopc f => Sys2Proof.Machine.execKpopc f s
  | .kpopcX f => Sys2Proof.Machine.execKpopcX f s
  | .kffs f => Sys2Proof.Machine.execKffs f s
  | .kfls f => Sys2Proof.Machine.execKfls f s
  | .ballot f => Sys2Proof.Machine.execBallot f s
  | .ballotX f => Sys2Proof.Machine.execBallotX f s
  | .vmatch f => Sys2Proof.Machine.execVmatch f s
  | .vmatchX f => Sys2Proof.Machine.execVmatchX f s
  | .compact f => Sys2Proof.Machine.execCompact f s
  | .expand f => Sys2Proof.Machine.execExpand f s
  | .ld f => Sys2Proof.Machine.execLd f s
  | .ldX f => Sys2Proof.Machine.execLdX f s
  | .st f => Sys2Proof.Machine.execSt f s
  | .stX f => Sys2Proof.Machine.execStX f s
  | .lds f => Sys2Proof.Machine.execLds f s
  | .ldsX f => Sys2Proof.Machine.execLdsX f s
  | .sts f => Sys2Proof.Machine.execSts f s
  | .stsX f => Sys2Proof.Machine.execStsX f s
  | .atom f => Sys2Proof.Machine.execAtom f s
  | .acq f => Sys2Proof.Machine.execAcq f s
  | .rel f => Sys2Proof.Machine.execRel f s
  | .relFresh f => Sys2Proof.Machine.execRelFresh f s
  | .relAll f => Sys2Proof.Machine.execRelAll f s
  | .fence f => Sys2Proof.Machine.execFence f s
  | .fenceUn f => Sys2Proof.Machine.execFenceUn f s
  | .pref f => Sys2Proof.Machine.execPref f s
  | .prefX f => Sys2Proof.Machine.execPrefX f s
  | .evict f => Sys2Proof.Machine.execEvict f s
  | .cwait f => Sys2Proof.Machine.execCwait f s
  | .cwaitX f => Sys2Proof.Machine.execCwaitX f s
  | .btrans f => Sys2Proof.Machine.execBtrans f s
  | .stmsk f => Sys2Proof.Machine.execStmsk f s
  | .xld f => Sys2Proof.Machine.execXld f s
  | .xst f => Sys2Proof.Machine.execXst f s
  | .sigadd f => Sys2Proof.Machine.execSigadd f s
  | .ostore f => Sys2Proof.Machine.execOstore f s
  | .br f => Sys2Proof.Machine.execBr f s
  | .brX f => Sys2Proof.Machine.execBrX f s
  | .call f => Sys2Proof.Machine.execCall f s
  | .callX f => Sys2Proof.Machine.execCallX f s
  | .bany f => Sys2Proof.Machine.execBany f s
  | .banyX f => Sys2Proof.Machine.execBanyX f s
  | .ball f => Sys2Proof.Machine.execBall f s
  | .ballX f => Sys2Proof.Machine.execBallX f s
  | .bnone f => Sys2Proof.Machine.execBnone f s
  | .bnoneX f => Sys2Proof.Machine.execBnoneX f s
  | .beq f => Sys2Proof.Machine.execBeq f s
  | .bne f => Sys2Proof.Machine.execBne f s
  | .blt f => Sys2Proof.Machine.execBlt f s
  | .ble f => Sys2Proof.Machine.execBle f s
  | .bgt f => Sys2Proof.Machine.execBgt f s
  | .bge f => Sys2Proof.Machine.execBge f s
  | .bltu f => Sys2Proof.Machine.execBltu f s
  | .bleu f => Sys2Proof.Machine.execBleu f s
  | .bgtu f => Sys2Proof.Machine.execBgtu f s
  | .bgeu f => Sys2Proof.Machine.execBgeu f s
  | .jmp f => Sys2Proof.Machine.execJmp f s
  | .jmpX f => Sys2Proof.Machine.execJmpX f s
  | .callind f => Sys2Proof.Machine.execCallind f s
  | .ret f => Sys2Proof.Machine.execRet f s
  | .retX f => Sys2Proof.Machine.execRetX f s
  | .loopnz f => Sys2Proof.Machine.execLoopnz f s
  | .yield f => Sys2Proof.Machine.execYield f s
  | .sleep f => Sys2Proof.Machine.execSleep f s
  | .sleepX f => Sys2Proof.Machine.execSleepX f s
  | .nop => Sys2Proof.Machine.execNop s
  | .nopX => Sys2Proof.Machine.execNopX s
  | .trap f => Sys2Proof.Machine.execTrap f s
  | .trapX f => Sys2Proof.Machine.execTrapX f s
  | .trapret => Sys2Proof.Machine.execTrapret s
  | .trapretX => Sys2Proof.Machine.execTrapretX s
  | .exit => Sys2Proof.Machine.execExit s
  | .exitX => Sys2Proof.Machine.execExitX s
  | .bar f => Sys2Proof.Machine.execBar f s
  | .barX f => Sys2Proof.Machine.execBarX f s
  | .bararr f => Sys2Proof.Machine.execBararr f s
  | .barwait f => Sys2Proof.Machine.execBarwait f s
  | .bbarr f => Sys2Proof.Machine.execBbarr f s
  | .bbwait f => Sys2Proof.Machine.execBbwait f s
  | .tlinc f => Sys2Proof.Machine.execTlinc f s
  | .tlset f => Sys2Proof.Machine.execTlset f s
  | .tlwait f => Sys2Proof.Machine.execTlwait f s
  | .cp f => Sys2Proof.Machine.execCp f s
  | .cpred f => Sys2Proof.Machine.execCpred f s
  | .twait f => Sys2Proof.Machine.execTwait f s
  | .twaitX f => Sys2Proof.Machine.execTwaitX f s
  | .spawn f => Sys2Proof.Machine.execSpawn f s
  | .launch f => Sys2Proof.Machine.execLaunch f s
  | .spnrun f => Sys2Proof.Machine.execSpnrun f s
  | .regsurrender f => Sys2Proof.Machine.execRegsurrender f s
  | .regsurrenderX f => Sys2Proof.Machine.execRegsurrenderX f s
  | .regclaim f => Sys2Proof.Machine.execRegclaim f s
  | .regclaimX f => Sys2Proof.Machine.execRegclaimX f s
  | .remit f => Sys2Proof.Machine.execRemit f s
  | .rcont f => Sys2Proof.Machine.execRcont f s
  | .rretire f => Sys2Proof.Machine.execRretire f s
  | .racc f => Sys2Proof.Machine.execRacc f s
  | .epend => Sys2Proof.Machine.execEpend s
  | .rcell f => Sys2Proof.Machine.execRcell f s
  | .rdircls f => Sys2Proof.Machine.execRdircls f s
  | .rhit f => Sys2Proof.Machine.execRhit f s
  | .rinst f => Sys2Proof.Machine.execRinst f s
  | .rxform f => Sys2Proof.Machine.execRxform f s
  | .oclaim f => Sys2Proof.Machine.execOclaim f s
  | .orel f => Sys2Proof.Machine.execOrel f s
  | .owait f => Sys2Proof.Machine.execOwait f s
  | .mma f => Sys2Proof.Machine.execMma f s
  | .mmasp f => Sys2Proof.Machine.execMmasp f s
  | .mmag f => Sys2Proof.Machine.execMmag f s
  | .mmagsp f => Sys2Proof.Machine.execMmagsp f s
  | .aclr f => Sys2Proof.Machine.execAclr f s
  | .ascale f => Sys2Proof.Machine.execAscale f s
  | .adrain f => Sys2Proof.Machine.execAdrain f s
  | .adraing f => Sys2Proof.Machine.execAdraing f s
  | .batcom => Sys2Proof.Machine.execBatcom s
  | .batwait f => Sys2Proof.Machine.execBatwait f s
  | .rdsr f => Sys2Proof.Machine.execRdsr f s
  | .rdsrX f => Sys2Proof.Machine.execRdsrX f s
  | .wrsr f => Sys2Proof.Machine.execWrsr f s
  | .tmrset f => Sys2Proof.Machine.execTmrset f s
  | .tlbinv f => Sys2Proof.Machine.execTlbinv f s
  | .hdlinv => Sys2Proof.Machine.execHdlinv s
  | .stdrain => Sys2Proof.Machine.execStdrain s
  | .sfpop f => Sys2Proof.Machine.execSfpop f s
  | .evmark f => Sys2Proof.Machine.execEvmark f s
  | .sample f => Sys2Proof.Machine.execSample f s
  | .utret => Sys2Proof.Machine.execUtret s
  | .blockPlacement launch => Sys2Proof.Machine.execBlockPlacement launch s
  | .waveExitComplete core slot => Sys2Proof.Machine.execWaveExitComplete core slot s
  | .taskDispatch launch => Sys2Proof.Machine.execTaskDispatch launch s
  | .taskPriorityAging launch => Sys2Proof.Machine.execTaskPriorityAging launch s
  | .regclaimGrant launch block => Sys2Proof.Machine.execRegclaimGrant launch block s
  | .userTimerTrap core slot => Sys2Proof.Machine.execUserTimerTrap core slot s
  | .rayLaunchActivation ctx queue => Sys2Proof.Machine.execRayLaunchActivation ctx queue s
  | .remitResume core slot => Sys2Proof.Machine.execRemitResume core slot s
  | .stallAgeExpiry quarter stall => Sys2Proof.Machine.execStallAgeExpiry quarter stall s
  | .stallOverdue quarter stall => Sys2Proof.Machine.execStallOverdue quarter stall s
  | .crierEmission quarter => Sys2Proof.Machine.execCrierEmission quarter s
  | .traversalBatchStart quarter unit => Sys2Proof.Machine.execTraversalBatchStart quarter unit s
  | .traceCompletion launchSlot ray => Sys2Proof.Machine.execTraceCompletion launchSlot ray s
  | .episodePlacement quarter => Sys2Proof.Machine.execEpisodePlacement quarter s
  | .coldPoolReclaim launch => Sys2Proof.Machine.execColdPoolReclaim launch s
  | .spindleStart cluster => Sys2Proof.Machine.execSpindleStart cluster s
  | .matrixOpIssue cluster => Sys2Proof.Machine.execMatrixOpIssue cluster s
  | .slotReadFinish cluster oslot => Sys2Proof.Machine.execSlotReadFinish cluster oslot s
  | .matrixOpComplete cluster => Sys2Proof.Machine.execMatrixOpComplete cluster s
  | .slotWriteRetry core slot => Sys2Proof.Machine.execSlotWriteRetry core slot s
  | .drainIssue cluster => Sys2Proof.Machine.execDrainIssue cluster s
  | .drainComplete cluster => Sys2Proof.Machine.execDrainComplete cluster s
  | .drainFault cluster => Sys2Proof.Machine.execDrainFault cluster s
  | .accessCompletion core slot index => Sys2Proof.Machine.execAccessCompletion core slot index s
  | .lineAgingWriteback core line => Sys2Proof.Machine.execLineAgingWriteback core line s
  | .copyStart core slot token => Sys2Proof.Machine.execCopyStart core slot token s
  | .copyEnd core slot token => Sys2Proof.Machine.execCopyEnd core slot token s
  | .copyFault core slot token => Sys2Proof.Machine.execCopyFault core slot token s
  | .sleepExpiry core slot => Sys2Proof.Machine.execSleepExpiry core slot s
  | .schWake fn ctx mask => Sys2Proof.Machine.execSchWake fn ctx mask s
  | .queueScan ctx queue => Sys2Proof.Machine.execQueueScan ctx queue s
  | .launchTake => Sys2Proof.Machine.execLaunchTake s
  | .placementReservation launch => Sys2Proof.Machine.execPlacementReservation launch s
  | .waveReadyAged core slot => Sys2Proof.Machine.execWaveReadyAged core slot s
  | .waiterSlotGrant => Sys2Proof.Machine.execWaiterSlotGrant s
  | .tlwaitRelease waiter => Sys2Proof.Machine.execTlwaitRelease waiter s
  | .waiterSlotPoll waiter => Sys2Proof.Machine.execWaiterSlotPoll waiter s
  | .quantumExpiry cluster => Sys2Proof.Machine.execQuantumExpiry cluster s
  | .urgentPreemption launch => Sys2Proof.Machine.execUrgentPreemption launch s
  | .vmCtxRootWrite fn ctx value => Sys2Proof.Machine.execVmCtxRootWrite fn ctx value s
  | .vmCtxReply fn ctx value => Sys2Proof.Machine.execVmCtxReply fn ctx value s
  | .vmCtxFqheadWrite fn ctx value => Sys2Proof.Machine.execVmCtxFqheadWrite fn ctx value s
  | .pageWalk walker => Sys2Proof.Machine.execPageWalk walker s
  | .faultTagAllocation core slot => Sys2Proof.Machine.execFaultTagAllocation core slot s
  | .storeFaultTrap core slot => Sys2Proof.Machine.execStoreFaultTrap core slot s
  | .schCtxPreReq fn ctx => Sys2Proof.Machine.execSchCtxPreReq fn ctx s
  | .schCtxPreResume fn ctx => Sys2Proof.Machine.execSchCtxPreResume fn ctx s
  | .schCtxPreKill fn ctx => Sys2Proof.Machine.execSchCtxPreKill fn ctx s
  | .blockSave launch block => Sys2Proof.Machine.execBlockSave launch block s
  | .suspensionComplete ctx => Sys2Proof.Machine.execSuspensionComplete ctx s
  | .forcedSave ctx => Sys2Proof.Machine.execForcedSave ctx s
  | .forcedSaveTimeout ctx => Sys2Proof.Machine.execForcedSaveTimeout ctx s
  | .blockResume launch block => Sys2Proof.Machine.execBlockResume launch block s
  | .schCtxDbgStop fn ctx value => Sys2Proof.Machine.execSchCtxDbgStop fn ctx value s
  | .schCtxDbgStep fn ctx => Sys2Proof.Machine.execSchCtxDbgStep fn ctx s
  | .powerOn => Sys2Proof.Machine.execPowerOn s
  | .watchdogExpiry => Sys2Proof.Machine.execWatchdogExpiry s
  | .firmwareRollback => Sys2Proof.Machine.execFirmwareRollback s
  | .portReset port => Sys2Proof.Machine.execPortReset port s
  | .hostLinkUp port speed width flit cxlCache cxlMem => Sys2Proof.Machine.execHostLinkUp port speed width flit cxlCache cxlMem s
  | .functionLevelReset fn => Sys2Proof.Machine.execFunctionLevelReset fn s
  | .flrComplete fn => Sys2Proof.Machine.execFlrComplete fn s
  | .hifCtxmapWrite fn ctx value => Sys2Proof.Machine.execHifCtxmapWrite fn ctx value s
  | .bar2Read fn offset size => Sys2Proof.Machine.execBar2Read fn offset size s
  | .bar2Write fn offset size data => Sys2Proof.Machine.execBar2Write fn offset size data s
  | .hdmAccess port write addr data => Sys2Proof.Machine.execHdmAccess port write addr data s
  | .pairLinkFailure => Sys2Proof.Machine.execPairLinkFailure s
  | .ngxIdWrite fn value => Sys2Proof.Machine.execNgxIdWrite fn value s
  | .remoteRequest op dest hops key offset size data atom type => Sys2Proof.Machine.execRemoteRequest op dest hops key offset size data atom type s
  | .ngxPortDown port => Sys2Proof.Machine.execNgxPortDown port s
  | .machineCheck detail kind index syndrome => Sys2Proof.Machine.execMachineCheck detail kind index syndrome s
  | .thermalTrip => Sys2Proof.Machine.execThermalTrip s
  | .governorStep up => Sys2Proof.Machine.execGovernorStep up s
  | .mgtPwrcapWrite fn value => Sys2Proof.Machine.execMgtPwrcapWrite fn value s
  | .stage fn => Sys2Proof.Machine.execStage fn s
  | .activate fn => Sys2Proof.Machine.execActivate fn s
  | .reset fn => Sys2Proof.Machine.execReset fn s
  | .poolcfg fn => Sys2Proof.Machine.execPoolcfg fn s
  | .mailboxCompletion fn => Sys2Proof.Machine.execMailboxCompletion fn s
  | .caplist fn => Sys2Proof.Machine.execCaplist fn s
  | .capread fn => Sys2Proof.Machine.execCapread fn s
  | .capture fn => Sys2Proof.Machine.execCapture fn s
  | .capclear fn => Sys2Proof.Machine.execCapclear fn s
  | .logread fn => Sys2Proof.Machine.execLogread fn s
  | .getVersion port => Sys2Proof.Machine.execGetVersion port s
  | .getCapabilities port => Sys2Proof.Machine.execGetCapabilities port s
  | .negotiateAlgorithms port => Sys2Proof.Machine.execNegotiateAlgorithms port s
  | .getDigests port => Sys2Proof.Machine.execGetDigests port s
  | .getCertificate port => Sys2Proof.Machine.execGetCertificate port s
  | .challenge port => Sys2Proof.Machine.execChallenge port s
  | .getMeasurements port => Sys2Proof.Machine.execGetMeasurements port s
  | .timeSync buffer => Sys2Proof.Machine.execTimeSync buffer s
  | .lossRecord buffer => Sys2Proof.Machine.execLossRecord buffer s
  | .freezeArrival buffer => Sys2Proof.Machine.execFreezeArrival buffer s
  | .freezeWindowClose buffer => Sys2Proof.Machine.execFreezeWindowClose buffer s
  | .pairFreezeMessage cause => Sys2Proof.Machine.execPairFreezeMessage cause s
  | .capsuleStored => Sys2Proof.Machine.execCapsuleStored s
  | .capsuleFlashCopy => Sys2Proof.Machine.execCapsuleFlashCopy s
  | .evrCtlLock fn => Sys2Proof.Machine.execEvrCtlLock fn s
  | .patrolScrubRead granule finding => Sys2Proof.Machine.execPatrolScrubRead granule finding s
  | .registerWrite fn offset value => Sys2Proof.Machine.execRegisterWrite fn offset value s
  | .illegalInstruction detail => Sys2Proof.Machine.execIllegalInstruction detail s
  | .ngxPortUp port peer => Sys2Proof.Machine.execNgxPortUp port peer s
  | .pairLinkRequest kind addr data => Sys2Proof.Machine.execPairLinkRequest kind addr data s
  | .cxlCacheSnoop port line kind => Sys2Proof.Machine.execCxlCacheSnoop port line kind s

end Sys2Proof.Machine
end

