-- ==== Sys2Proof/Machine/Policy.lean ====
section
/-! DEFINITION. Which unit acts when no move is listed, and how a wave's cycle is counted: the model's own schedule, one of
those that the spec's rules allow (01 R38; 20 R311, R312; 25 R389; DESIGN CHOICE, log entry 7). -/

namespace Sys2Proof.Machine

/-! ## Agents that may issue (R311) -/

/-- A wave or program with this wait may try to issue. -/
def Wait.issues (now : Nat) : Wait → Bool
  | .ready => true
  | .retry _ _ => true
  | .barrier _ _ _ => true
  | .timeline _ _ => true
  | .claim _ => true
  | .sleep t => t ≤ now
  | _ => false

/-- The wait that an instruction finds when it issues: a past sleep and a wait for a retry are over. -/
def Wait.entered : Wait → Wait
  | .retry _ _ => .ready
  | .sleep _ => .ready
  | w => w

/-- A stop keeps a Spindle program from issuing. -/
def State.heldSpindle (s : State) (p : Spindle) : Bool :=
  s.covered p.ctx p.launch p.block && p.mode == .user
    && (p.step == some false || (p.stopped && p.step != some true) || ((s.ctx p.ctx).forced && p.step != some true))

def State.mayIssue (s : State) (w : Wave) : Bool := w.wait.issues s.cyc && !s.held w
def State.mayIssueSpindle (s : State) (p : Spindle) : Bool := p.wait.issues s.cyc && !s.heldSpindle p

/-- Wave b of a partition goes before wave a (R311): aged waves first, the greatest age; then the highest priority, the
earliest placed, the lower slot. -/
def State.goesBefore (s : State) (b a : Wave) : Bool :=
  let age (w : Wave) : Nat := if w.wait == .ready then s.cyc - w.readySince else 0
  if agedAt ≤ age b || agedAt ≤ age a then age a < age b
  else a.prio < b.prio || (a.prio == b.prio && (b.placed < a.placed || (b.placed == a.placed && b.slot < a.slot)))

/-- The agent whose turn it is: the turn passes round the die's waves and programs (DESIGN CHOICE, log entry 7). -/
def State.nextAgent (s : State) : Option Move :=
  let ws := s.waves.filter s.mayIssue
  let ps := s.spindles.filter s.mayIssueSpindle
  let n := ws.length + ps.length
  let i := s.cyc / 2 % n
  match ws[i]? with
  | some w => some (.wave w.core w.slot)
  | none => (ps[i - ws.length]?).map (fun p => .spindle p.cluster)

/-! ## Stall reasons (R312, R389) -/

/-- The reason code of a wave that does not issue; 14 for one that could. A wave that has ended its work and waits for its
accesses reports none (DEDUCED, log entry 45). Fetch, operand collection and the pipes take no time here, so that codes 4, 12 and
13 have no cycle of their own (log entry 9). -/
def State.stallCode (s : State) (w : Wave) : Option Nat :=
  if s.held w then some 1
  else match w.wait with
    | .ready => some 14
    | .retry r _ => some r
    | .sleep _ => some 7
    | .parked _ => some 2
    | .barrier _ _ _ => some 5
    | .timeline _ _ => some (if s.waiters.any (fun t => t.core == w.core && t.slot == w.slot && t.index.isNone) then 8 else 6)
    | .claim _ => some 6
    | .exiting _ => none
    | .ended _ => none
    | .stopped _ => some 1
    | .restored => some 1

/-- The code that a cycle counts for a wave: what its turn in the cycle did, else its reason. -/
def State.cycleCode (s : State) (w : Wave) : Option Nat :=
  match s.turn with
  | some (c, k, code) => if c == w.core && k == w.slot then some code else s.stallCode w
  | none => s.stallCode w

/-- Counts cycles of a resident wave. -/
def State.countWave (s : State) (n : Nat) (w : Wave) : State :=
  match s.cycleCode w with
  | some r => s.bumpCtx w.ctx r n
  | none => s

/-! ## What follows a move -/

/-- What has become due within the step: terminations, ends, the ends of saves and restores, ray launches that come back. -/
def State.sweep (s : State) : State :=
  let s := s.settleTerminations.settleEnds
  let s := s.blocks.foldl (fun s b => (match s.block? b.launch b.index with
    | some c => match c.phase with
      | .running => s
      | .saving _ => s.finishSave c
      | .restoring _ => s.restoreRelease c
    | none => s)) s
  s.launches.foldl (fun s l => if l.suspended then s.resumeRays l else s) s

/-- Time passes: n cycles, and as many ticks of %clk (DESIGN CHOICE, log entry 9). -/
def State.advance (s : State) (n : Nat) : State :=
  let s := s.waves.foldl (fun s w => s.countWave n w) s
  { s with clk := s.clk + BitVec.ofNat 64 n, cyc := s.cyc + n }

/-- The end of a step. -/
def State.after (s : State) : State := s.sweep.advance 1

/-! ## Events that come about of themselves -/

def bv (w n : Nat) : BitVec w := BitVec.ofNat w n

/-- Events of a wave that may be due. -/
noncomputable def waveEvents (w : Wave) : List Instr :=
  let c := bv 7 w.core
  let k := bv 6 w.slot
  (List.range w.flight.length).map (fun i => .accessCompletion c k (bv 16 i))
    ++ (match w.wait with
      | .exiting _ => [.waveExitComplete c k]
      | .ended _ => [.waveExitComplete c k]
      | .sleep _ => [.userTimerTrap c k]
      | _ => [])
    ++ (w.tok.filter (fun t => t.2.copy.isSome)).flatMap (fun t =>
      [.copyStart c k (bv 3 t.1), .copyFault c k (bv 3 t.1), .copyEnd c k (bv 3 t.1)])

/-- Events of a Spindle program. -/
noncomputable def spindleEvents (p : Spindle) : List Instr :=
  let c := bv 5 p.cluster
  (match p.ops with
    | [] => []
    | o :: _ => o.reads.map (fun i => .slotReadFinish c (bv 6 i)))
    ++ (if p.ops.isEmpty then [] else [.drainFault c, .drainComplete c, .matrixOpComplete c])

/-- Events of a context. -/
noncomputable def State.ctxEvents (s : State) (c : Nat) : List Instr :=
  let x := s.ctx c
  (if s.ctxRuns c then ((List.range 64).filter (fun q => x.pending.getLsbD q)).map (fun q => .queueScan (bv 8 c) (bv 6 q)) else [])
    ++ (if s.preReq c || x.reqDebug then
      (s.blocks.filter (fun b => b.ctx == c)).map (fun b => .blockSave (bv 8 b.launch) (bv 32 b.index))
        ++ [.suspensionComplete (bv 8 c)] ++ (if x.forced then [.forcedSaveTimeout (bv 8 c)] else [.forcedSave (bv 8 c)])
      else [])

/-- Events of a launch. -/
noncomputable def State.launchEvents (s : State) (l : Launch) : List Instr :=
  let n := bv 8 l.num
  (s.blocks.filter (fun b => b.launch == l.num && !b.claims.isEmpty)).map (fun b => .regclaimGrant n (bv 32 b.index))
    ++ (if l.kind == 2 then [.taskDispatch n] else [.blockPlacement n])
    ++ (l.saved.map (fun b => .blockResume n (bv 32 b.index)))
    ++ (if s.urgent l then [.urgentPreemption n] else []) ++ [.placementReservation n] ++ (if l.kind == 2 then [.taskPriorityAging n] else [])

/-- Events of rays. -/
noncomputable def State.rayEvents (s : State) : List Instr :=
  s.stalls.flatMap (fun t => [.stallAgeExpiry (bv 2 t.quarter) (bv 13 t.index), .stallOverdue (bv 2 t.quarter) (bv 13 t.index)])
    ++ (if s.stalls.isEmpty then [] else (List.range 4).map (fun q => .crierEmission (bv 2 q)))
    ++ (s.emissions.map (fun e => .episodePlacement (bv 2 e.quarter)))
    ++ (s.batches.flatMap (fun b => match b.unit with
      | none => (List.range 32).map (fun u => .traversalBatchStart (bv 2 b.quarter) (bv 7 (32 * b.quarter + u)))
      | some _ =>
        match (s.launch? b.launch).bind (·.ray) with
        | some rl => b.rays.map (fun r => .traceCompletion (bv 3 rl.slot) (bv 32 r))
        | none => []))

/-- Lines that have been dirty for 4,096 cycles, and buffers whose time-sync record is due. -/
noncomputable def State.timedEvents (s : State) : List Instr :=
  (List.range 128).flatMap (fun c =>
    (((s.l1.filter (fun l => l.core == c)).zipIdx).filter (fun p => p.1.kind != .un && p.1.dirty != 0 && p.1.dirtySince + 4096 ≤ s.cyc)).map (fun p =>
      .lineAgingWriteback (bv 7 c) (bv 16 p.2)))
    ++ ((List.range bufCount).filter s.syncDue).map (fun b => .timeSync (bv 8 b))

/-- Events of the recorder and of Brolek. -/
noncomputable def State.mgmtEvents (s : State) : List Instr :=
  (s.mgmt.running.map (fun e => .mailboxCompletion (bv 5 e.1)))
    ++ (if s.freezes.isEmpty then [] else
      (List.range bufCount).map (fun b => .freezeArrival (bv 8 b)) ++ (List.range bufCount).map (fun b => .freezeWindowClose (bv 8 b))
        ++ [.capsuleStored])
    ++ (if s.capsules.any (fun c => !c.inFlash) then [.capsuleFlashCopy] else [])
    ++ ((s.bufs.filter (fun b => b.2.dropped != 0)).map (fun b => .lossRecord (bv 8 b.1)))
    ++ (s.mgmt.flr.map (fun f => .flrComplete (bv 5 f)))

/-- The events that the schedule tries, in order. -/
noncomputable def State.candidates (s : State) : List Instr :=
  s.waves.flatMap waveEvents ++ s.spindles.flatMap spindleEvents
    ++ (s.waiters.filter (fun t => t.index.isNone)).map (fun _ => .waiterSlotGrant)
    ++ (s.ctxs.map (·.1)).flatMap s.ctxEvents ++ s.launches.flatMap s.launchEvents ++ s.rayEvents
    ++ (if s.nextService.isSome then [.launchTake] else [])
    ++ (if s.walks.isEmpty then [] else (List.range 64).map (fun i => .pageWalk (bv 6 i)))
    ++ ((s.serving.map (fun e => .quantumExpiry (bv 5 e.1)))) ++ s.timedEvents ++ s.mgmtEvents

end Sys2Proof.Machine
end

