-- ==== Sys2Proof/Machine/Run.lean ====
section
/-! DEFINITION. One move of the die: an agent issues (the boundary tests, the fetch, the decoded instruction), an event comes
about, or an outside agent acts (01 R14; 06 R131, R140; 16 R273; 20 R311; DESIGN CHOICE, log entry 7). -/

namespace Sys2Proof.Machine

/-! ## An agent issues -/

/-- The work of fetched words: the instruction they decode to, or the cause of R140. -/
noncomputable def runWords (s : State) (ws : List W32) : Host.Outcome State Fault Refusal :=
  match decode s.stream ws with
  | .ok i => exec i s
  | .illegal d => exec (.illegalInstruction d) s

/-- Fetches and executes the instruction at the agent's program counter. -/
noncomputable def runNext (s : State) : Host.Outcome State Fault Refusal :=
  match s.fetch with
  | (.got ws, t) => runWords t ws
  | (.ends r, t) => .next (t.finish 1 r)

/-- The state in which a wave's instruction issues. -/
def State.waveTurn (s : State) (w : Wave) : State :=
  { s.setWave { w with wait := w.wait.entered, readySince := s.cyc } with cur := .wave w.core w.slot }

/-- The state in which a Spindle program's instruction issues. -/
def State.spindleTurn (s : State) (p : Spindle) : State :=
  { s.setSpindle { p with wait := p.wait.entered } with cur := .spindle p.cluster }

/-- A wave has issued in its turn: it goes on, or has entered a wait in which its instruction is done (R312). -/
def State.hasIssued (s : State) (w : Wave) : Bool :=
  match s.wave? w.core w.slot with
  | none => true
  | some v => match v.wait with
    | .ready => true
    | .sleep _ => true
    | .stopped _ => true
    | .exiting _ => true
    | .barrier _ _ _ => (match w.wait with
      | .barrier _ _ _ => false
      | _ => true)
    | _ => false

/-- The cycle of a wave's turn counts as its issue, or under the reason that it meets. -/
def State.markIssue (s : State) (w : Wave) : State :=
  { s with turn := if s.hasIssued w then some (w.core, w.slot, 0) else none }

/-- What follows a wave's turn. -/
def markOutcome (w : Wave) : Host.Outcome State Fault Refusal → Host.Outcome State Fault Refusal
  | .next t => .next (t.markIssue w)
  | o => o

/-- A wave's turn: an event at its boundary, whose delivery is the reason that its cycle counts under, or its next instruction. -/
noncomputable def State.issueWave (s : State) (core slot : Nat) : Host.Outcome State Fault Refusal :=
  match s.wave? core slot with
  | none => .next s
  | some v =>
    let w := s.awake v
    match s.boundary w with
    | some t => .next { t with turn := some (core, slot, 3) }
    | none => if w.wait.issues s.cyc then markOutcome w (runNext (s.waveTurn w)) else .next s

/-- A wave is ready: its next instruction would issue (R311). -/
noncomputable def State.isReady (s : State) (w : Wave) : Bool :=
  s.mayIssue w && (match s.issueWave w.core w.slot with
    | .next t => t.turn == some (w.core, w.slot, 0)
    | _ => true)

/-- The other waves of a wave's partition. -/
def State.fellows (s : State) (w : Wave) : List Wave :=
  s.waves.filter (fun v => v.core == w.core && v.partition == w.partition && v.slot != w.slot)

/-- The wave that takes a wave's turn: choose of R311 among the ready waves of its partition, when it is ready itself. -/
noncomputable def State.chosenFor (s : State) (w : Wave) : Wave :=
  if (s.fellows w).isEmpty || !s.isReady w then w
  else ((s.fellows w).filter s.isReady).foldl (fun a b => if s.goesBefore b a then b else a) w

/-- A wave that its partition does not choose is ready from now on. -/
def State.passedOver (s : State) (w : Wave) : State :=
  match w.wait with
  | .retry _ _ => s.setWave { w with wait := .ready, readySince := s.cyc }
  | _ => s

/-- A turn of a wave's partition (R311). -/
noncomputable def State.waveMove (s : State) (core slot : Nat) : Host.Outcome State Fault Refusal :=
  match s.wave? core slot with
  | none => .next s
  | some w =>
    let v := s.chosenFor w
    (if v.slot == w.slot then s else s.passedOver w).issueWave v.core v.slot

/-- A Spindle program's turn. -/
noncomputable def State.issueSpindle (s : State) (cl : Nat) : Host.Outcome State Fault Refusal :=
  match s.spindle? cl with
  | none => .next s
  | some p =>
    if s.heldSpindle p then .next (if (s.ctx p.ctx).forced then s.setSpindle p.forceStop else s)
    else if p.wait.issues s.cyc then runNext (s.spindleTurn p) else .next s

/-! ## Moves -/

/-- An event of the table that comes about; an instruction row is no event. -/
noncomputable def State.runEvent (s : State) (i : Instr) : State :=
  match exec i { s with cur := .none } with
  | .next t => t
  | _ => s

/-- Runs a move. -/
noncomputable def State.runMove (s : State) : Move → Host.Outcome State Fault Refusal
  | .event i => .next (s.runEvent i)
  | .wave c k => s.waveMove c k
  | .slotWrite c k => s.issueWave c k
  | .spindle cl => s.issueSpindle cl
  | .tick n => .next (s.advance n)
  | .evict core index =>
    .next (match (s.l1.filter (fun l => l.core == core))[index]? with
      | some l => s.evictLine l
      | none => s)
  | .dropTlb index => .next { s with tlb := s.tlb.eraseIdx index }
  | .dropTable index => .next { s with tables := s.tables.eraseIdx index }
  | .group index => .next (s.tlbGroup index)
  | .dropCode c => .next { s with code := s.code.filter (fun e => e.1 != c) }
  | .dropDesc c => .next { s with descs := s.descs.filter (fun e => e.1 != c) }
  | .dropTreelet index => .next { s with tlc := s.tlc.eraseIdx index }
  | .perform core slot index elem => .next (s.performOne core slot index elem)
  | .peerAnswer core slot index poison => .next (s.peerAnswer core slot index poison)
  | .copyStep core slot token bytes => .next (s.copyAdvance core slot token bytes)
  | .drainStep cl bytes => .next (s.drainAdvance cl bytes)
  | .miss w => .next { s with walks := s.walks ++ [w] }
  | .reload core slot => .next (s.reload core slot)
  | .eccError granule ue => .next (s.memoryError granule ue)
  | .poolError launchSlot ray => .next (s.poolError launchSlot ray)
  | .written fn off old v sel => .next (s.regActs fn off old v sel)
  | .sensors hot power => .next (s.sensors hot power)
  | .hostRead fn off n => .next (s.hostRead fn off n)
  | .startFails => .next s.startFails
  | .mctp i => .next (s.spdmRequest 2 i)

/-- The first event of the schedule that is due. -/
noncomputable def State.nextEvent (s : State) : Option State :=
  let t := { s with cur := .none }
  (s.candidates.map t.runEvent).find? (fun u => u != t)

/-- The move that the model chooses when none is listed: start-up first; then agents and events in turn; else time passes. -/
noncomputable def State.ownMove (s : State) : Host.Outcome State Fault Refusal :=
  let s := { s with cur := .none, turn := none }
  let agent (other : Host.Outcome State Fault Refusal) : Host.Outcome State Fault Refusal :=
    match s.nextAgent with
    | some m => s.runMove m
    | none => other
  let event (other : Host.Outcome State Fault Refusal) : Host.Outcome State Fault Refusal :=
    match s.nextEvent with
    | some t => .next t
    | none => other
  if s.mgmt.boot != 0 then .next s.bootStep
  else if s.cyc % 2 == 0 then agent (event (.next s)) else event (agent (.next s))

/-- The move of a step: the first one listed, else the model's own. -/
noncomputable def State.move (s : State) : Host.Outcome State Fault Refusal :=
  match s.agenda with
  | m :: rest => { s with agenda := rest, cur := .none, turn := none }.runMove m
  | [] => s.ownMove

/-- A step: a move, what follows it, and one cycle. -/
noncomputable def runStep (s : State) : Host.Outcome State Fault Refusal :=
  match s.move with
  | .next t => .next t.after
  | .fault f => .fault f
  | .refused r => .refused r

end Sys2Proof.Machine
end

