-- ==== Sys2Proof/Machine/Step.lean ====
section
/-! DEFINITION. One step of the die. -/

namespace Sys2Proof.Machine

/-- One step. -/
noncomputable def step (s : State) : Host.Outcome State Fault Refusal := runStep s

/-- Where `withFetchWord` puts the instruction: a page of GDDR-7 mapped at its own address in context 0. -/
def probePc : BitVec 64 := 0x10000#64

/-- A compute launch of one wave with one lane, 32 register blocks, 32 barrier slots and 32 KiB of scratchpad (R23). -/
def probeRecord : BitVec 512 :=
  BitVec.ofNat 512 (32 * 2 ^ 16 + 8 * 2 ^ 24 + 32 * 2 ^ 32 + 0x10000 * 2 ^ 64 + 0x100 * 2 ^ 256)

/-- A cached translation of the first 1 GiB of context 0, every access permitted. -/
def probeTlb : TlbEntry :=
  { unit_ := 0, contig := 0, ctx := 0, va := 0, size := 2 ^ 30, frame := 0, ord := .rc, r := true, w := true, x := true, u := true, d := true, g := false }

/-- A state whose very next step fetches and runs the instruction of bits w: its words at `probePc`, and a wave, or for a
Spindle-only word a Spindle program, of a running launch at that address (DESIGN CHOICE, log entry 7). -/
noncomputable def State.withFetchWord (s : State) (nbits w : Nat) : State :=
  let v := w % 2 ^ nbits
  let st := tableStream v
  let wave := Wave.enter 0 0 0 0 0 0 0 0 .compute 0 0 probePc 1#64 (entryRegs 0 0 0) (List.range 32)
  { s with mem := s.mem.writeNat probePc.toNat 20 v,
           code := [], tlb := [probeTlb], turn := none,
           launches := [{ Launch.enter 0 0 0 0 0 0 0 probeRecord 0 with next := 1 }],
           blocks := [Block.enter 0 0 0 0 1 (2 ^ 20 - 32768) 32768 32],
           waves := [wave],
           spindles := if st = .spindle then [Spindle.enter 0 0 0 0 0 0 probePc 0] else [],
           cur := if st = .spindle then .spindle 0 else .wave 0 0,
           agenda := [if st = .spindle then .spindle 0 else .wave 0 0] }

end Sys2Proof.Machine
end

