-- ==== Sys2Proof/Safety.lean ====
section
/-! DEFINITION. The terms of the claims: safe steps, instructions that pass every check before their work, and the state in
which an instruction has completed. -/

namespace Sys2Proof.Machine

/-- A step from a state is safe when it answers a next state: neither a fault nor a refusal. -/
def State.Safe (s : State) : Prop := ∃ t, step s = .next t

/-- The state's memories have their canonical form: addresses strictly rising, and no entry equal to what an unlisted address
reads as. -/
def State.Canonical (s : State) : Prop :=
  s.mem.wf = true ∧ s.cs.wf = true ∧ s.om.wf = true ∧ s.mbox.wf = true ∧ s.msix.wf = true

/-- What a step answers when its move answers `o`: the end of a step follows a next state. -/
def answerOf (o : Host.Outcome State Fault Refusal) : Host.Outcome State Fault Refusal :=
  match o with
  | .next t => .next t.after
  | .fault f => .fault f
  | .refused r => .refused r

/-! ## Checks before an instruction's work -/

/-- Instructions that require supervisor mode whatever they name (R271). -/
def privileged : Instr → Bool
  | .trapret => true
  | .trapretX => true
  | .tlbinv _ => true
  | _ => false

/-- Instructions whose rows say themselves which sources a poison mark is met in (R181, R196 to R201, R248, R275). -/
def ownPoison : Instr → Bool
  | .sel _ => true
  | .shfl _ => true
  | .shflX _ => true
  | .shflxor _ => true
  | .shflup _ => true
  | .shfldn _ => true
  | .rdlane _ => true
  | .rdlaneX _ => true
  | .wrlane _ => true
  | .redadd _ => true
  | .redaddX _ => true
  | .redmin _ => true
  | .redmax _ => true
  | .redand _ => true
  | .redor _ => true
  | .redxor _ => true
  | .scanadd _ => true
  | .scanaddX _ => true
  | .scanmin _ => true
  | .scanmax _ => true
  | .scanand _ => true
  | .scanor _ => true
  | .scanxor _ => true
  | .xscanadd _ => true
  | .xscanmin _ => true
  | .xscanmax _ => true
  | .xscanand _ => true
  | .xscanor _ => true
  | .xscanxor _ => true
  | .ballot _ => true
  | .ballotX _ => true
  | .vmatch _ => true
  | .vmatchX _ => true
  | .compact _ => true
  | .expand _ => true
  | .remit _ => true
  | .rcont _ => true
  | .wrsr _ => true
  | .stmsk _ => true
  | .cp _ => true
  | .cpred _ => true
  | _ => false

/-- The instruction passes the checks that come before its work: an agent runs it; the encoding is one of its stream
(R140); the mode (R271), the register blocks (R24), the scoreboard (R108) and poison (R128) let it. `r` is its encoding row,
`n` its fields. -/
structure Admitted (i : Instr) (s : State) (r : Row) (n : Norm) : Prop where
  agent : s.hasAgent = true
  legal : ∃ e mj, i.toEnc = some e ∧ e.check s.stream = none ∧ majorOf e.maj.toNat = some mj ∧ n = e.norm mj ∧ mj.row n.sub = some r
  mode : privileged i = true → s.curMode = .supervisor
  range : ∀ w, s.curWave = some w → outOfRange w (rowRefs r s.stream n) = false
  ready : ∀ w, s.curWave = some w → hazard w (rowRefs r s.stream n) = none
  clean : ownPoison i = false → s.poisonCheck r.mask (rowSources r s.stream n) n.x = none

/-- It passes those checks, and the address after it is canonical, so that falling through raises nothing (R131). -/
structure Issues (i : Instr) (s : State) (r : Row) (n : Norm) : Prop extends Admitted i s r n where
  next : canonical (s.nextPc n.words) = true

/-! ## A completed instruction -/

/-- A wave that goes on at an address after an instruction of its own: its wait and the replies held for it are over. -/
def Wave.completed (w : Wave) (pc : BitVec 64) : Wave :=
  { w with pc := pc, answers := [], holds := none, latched := none, step := w.step.map (fun _ => false), wait := w.wait.past }

def Spindle.completed (p : Spindle) (pc : BitVec 64) : Spindle :=
  { p with pc := pc, answers := [], holds := none, step := p.step.map (fun _ => false), wait := p.wait.past }

/-- A state in which the agent of the instruction has changed and gone on at an address, and nothing else has. -/
def State.complete (s : State) (pc : BitVec 64) (fw : Wave → Wave) (fp : Spindle → Spindle) : State :=
  (s.modCurWave (fun w => (fw w).completed pc)).modCurSpindle (fun p => (fp p).completed pc)

/-- Registers that an element of a destination fills: two for a 64-bit value. -/
def widthOf (regs : Nat) : Nat := if regs = 2 then 2 else 1

/-- Lanes of a vector register, or of a pair, hold new values; the wave has changed as `fw` says and goes on at an address; every
other byte, mark and piece of state is as before. -/
structure LanesWritten (s t : State) (w : Wave) (d regs : Nat) (lanes : BitVec 64) (val : Nat → BitVec 64) (fw : Wave → Wave)
    (pc : BitVec 64) : Prop where
  value : ∀ L, lanes.getLsbD L = true → t.vget w d L regs = if regs = 2 then val L else ((val L).setWidth 32).setWidth 64
  bytes : ∀ a, (∀ L i, lanes.getLsbD L = true → i < widthOf regs → ¬ (w.vaddr (d + i) L ≤ a ∧ a < w.vaddr (d + i) L + 4)) →
    t.cs.read a = s.cs.read a
  marks : ∀ a, a ∈ t.csMark ↔ a ∈ s.csMark ∧ (w.exemptPoison = true ∨
    ∀ L i, lanes.getLsbD L = true → i < widthOf regs → a ≠ w.vaddr (d + i) L / 4)
  memory : ∀ a, t.mem.read a = s.mem.read a
  others : t = { s.complete pc fw (fun p => p) with cs := t.cs, csMark := t.csMark }

/-- A wave that takes sticky flags (R161). -/
def Wave.flagged (w : Wave) (f : Nat) : Wave := { w with fflags := w.fflags ||| BitVec.ofNat 64 f }
def Spindle.flagged (p : Spindle) (f : Nat) : Spindle := { p with flags := p.flags ||| BitVec.ofNat 64 f }

/-- Flags of the lanes of a set. -/
def flagsOver (lanes : BitVec 64) (f : Nat → Nat) : Nat := (lanesOf lanes).foldl (fun a L => a ||| f L) 0

/-- The sources of lane L. -/
def State.srcA (s : State) (w : Wave) (r : Row) (n : Norm) (L : Nat) : BitVec 64 := s.laneOpnd w n (r.opnds n.accum).2.1 n.x.sa L
def State.srcB (s : State) (w : Wave) (r : Row) (n : Norm) (L : Nat) : BitVec 64 := s.laneOpnd w n (r.opnds n.accum).2.2.1 n.x.sb L
def State.srcC (s : State) (w : Wave) (r : Row) (n : Norm) (L : Nat) : BitVec 64 := s.laneOpnd w n (r.opnds n.accum).2.2.2 n.x.sc L

/-- Scalar register n takes a value, and loses its mark (R128), but in a save or restore handler (R338). -/
def Wave.withS (w : Wave) (n : Nat) (v : BitVec 64) : Wave := { w with s := w.s.wr n v, sMark := w.cleared n w.sMark }
def Spindle.withX (p : Spindle) (n : Nat) (v : BitVec 64) : Spindle := { p with x := p.x.wr n v, xMark := setDel n p.xMark }
def Wave.withK (w : Wave) (n : Nat) (v : BitVec 64) : Wave := { w with k := w.k.wr n v }

/-- A 64-bit mask whose bit L is `p L`. -/
def IsMask (m : BitVec 64) (p : Nat → Bool) : Prop := ∀ L, L < 64 → m.getLsbD L = p L

/-! ## Accesses put in flight -/

/-- An element that SO order holds back (R111). -/
def Elem.strong (e : Elem) : Bool := e.kind == .so && paSpace e.pa ≤ 4

/-- A wave has room for an instruction's elements: no counter they use stands at 63, the store path among them when it makes
store-fault records, no SO access of the wave is in flight when one of them is SO, and none of them lies in registers that an access
in flight still fills (R90, R97, R111). -/
structure Room (w : Wave) (path : Elem → Nat) (es : List Elem) (records : Bool) : Prop where
  counters : ∀ e ∈ es, w.counter (path e) < 63
  stores : records = true → w.counter 2 < 63
  order : (∃ e ∈ es, e.strong = true) → ∀ a ∈ w.flight, ∀ e ∈ a.elems, e.strong = false
  apart : ∀ e ∈ es, ∀ a ∈ w.flight, a.fills w e = false

/-- Register words that an access fills, as Core Store words. -/
def Dest.words (w : Wave) (lanes : BitVec 64) : Dest → List Nat
  | .vec reg bytes _ => (lanesOf lanes).flatMap (fun L => (List.range ((bytes + 3) / 4)).map (fun i => w.vaddr (reg + i) L / 4))
  | _ => []

/-- The elements of an instruction are in flight, one access for each path, from a state `t` to a state `u`; the wave is past
the instruction; no byte of memory and no register has changed yet; the marks of the destination are gone (R96, R97, R128). -/
structure InFlight (path : Elem → Nat) (t u : State) (w : Wave) (es : List Elem) (dest : Dest) (lanes : BitVec 64)
    (faults : List SfRec) (seq : BitVec 32) (pc : BitVec 64) : Prop where
  agent : ∃ (accs : List Access) (mark : Bool),
    u = { t.complete pc (fun v => { v with
            flight := w.flight ++ accs, nextAcc := w.nextAcc + accs.length, stseq := seq,
            ws := (es.filter t.signs).foldl (fun g e => sigAdd e.line g) w.ws, sampleMark := mark,
            sMark := match dest with
              | .scal reg _ _ => w.cleared reg w.sMark
              | _ => v.sMark }) (fun p => p) with csMark := u.csMark, routes := (t.keepRoutes es).routes } ∧
    (∀ a ∈ accs, a.elems = (es.filter (fun e => path e == a.path)).map t.sent ∧ a.dest = dest ∧ a.lanes = lanes ∧ a.done = false ∧
      a.faults = (if a.path = 2 then faults else []) ∧ a.pc = w.pc ∧ a.seq = seq) ∧
    (∀ e ∈ es, path e < 6 → ∃ a ∈ accs, t.sent e ∈ a.elems) ∧ (faults ≠ [] → ∃ a ∈ accs, a.faults = faults) ∧ (accs.map (·.path)).Nodup
  marks : ∀ k, k ∈ u.csMark ↔ k ∈ t.csMark ∧ (w.exemptPoison = true ∨ k ∉ dest.words w lanes)

/-- An instruction that passes the checks of R212, and has room, completes with its elements in flight. -/
def AccessIssues (i : Instr) (s : State) (w : Wave) (n : Norm) (f : AccForm) (scratch : Bool) (reqs : List Req) (scope : Nat)
    (dest : Dest) (lanes : BitVec 64) (records : Bool) (seq : BitVec 32) : Prop :=
  ∀ (l : List (Req × List Part)) (sf : List (Nat × BitVec 64 × BitVec 64)) (t : State),
    s.check w f n.x scratch reqs = .ok l sf t →
    let es := elemsOf scratch scope l
    let faults := if records then sfRecords w seq sf else []
    Room w (fun e => e.path w.core) es (!faults.isEmpty) →
    ∃ u, exec i s = .next u ∧ InFlight (fun e => e.path w.core) t u w es dest lanes faults seq (s.nextPc n.words)

/-! ## The shapes of instructions -/

/-- What the instructions of one shape share, and what tells them apart. -/
inductive Shape where
  /-- A vector integer instruction: the value it gives a lane (R174 to R183). -/
  | vectorInt (f : Norm → BitVec 64 → BitVec 64 → BitVec 64 → BitVec 64)
  /-- A vector floating-point instruction: the value and flags it gives a lane; the Bool is FTZ (R186 to R194). -/
  | vectorFloat (f : Bool → Norm → BitVec 64 → BitVec 64 → BitVec 64 → BitVec 64 × Nat)
  /-- A compare or class test: the outcome and flags of a lane (R181, R188, R189). -/
  | vectorTest (f : Bool → Norm → BitVec 64 → BitVec 64 → Bool × Nat)
  /-- A scalar instruction: its value (R174 to R183). -/
  | scalar (f : Norm → BitVec 64 → BitVec 64 → BitVec 64 → BitVec 64)
  /-- An instruction on mask registers: its value (R202). -/
  | mask (f : BitVec 64 → BitVec 64 → BitVec 64)
  /-- The value that an instruction takes from a mask register into a scalar one (R202). -/
  | maskValue (f : BitVec 64 → BitVec 64)
  /-- A branch: its condition (R204). -/
  | branch (f : Norm → State → Bool)
  /-- iaddc, or isubb for true (R174). -/
  | carry (f : Bool)
  /-- compact, or expand for true (R201). -/
  | pack (f : Bool)
  /-- The shuffles (R197). -/
  | shuffle
  /-- rdlane (R198). -/
  | rdlane
  /-- The reductions (R199). -/
  | reduction
  /-- The scans (R199). -/
  | scan
  /-- ballot (R200). -/
  | ballot
  /-- match (R200). -/
  | matching
  /-- call (R205). -/
  | call
  /-- jmp, ret (R205). -/
  | jump
  /-- nop (R207). -/
  | nop
  /-- sleep (R207). -/
  | sleep
  /-- exit (R208). -/
  | exit
  /-- ld (R213). -/
  | load
  /-- lds (R213). -/
  | scalarLoad
  /-- st (R214). -/
  | store
  /-- sts (R214). -/
  | scalarStore
  /-- The releases (R221). -/
  | release
  /-- pref (R227). -/
  | prefetch
  /-- cwait (R228). -/
  | countWait
  /-- bar, bararr, barwait (R233). -/
  | barrier
  /-- bbarr, bbwait (R234). -/
  | byteBarrier
  /-- tlinc, tlset, tlwait (R236). -/
  | timeline
  /-- cp, cpred (R237). -/
  | copy
  /-- twait (R241). -/
  | tokenWait
  /-- regsurrender (R245). -/
  | surrender
  /-- regclaim (R245). -/
  | claim
  /-- trap (R272). -/
  | trap
  /-- trapret (R274). -/
  | trapReturn
  /-- rdsr (R275). -/
  | readSpecial
  /-- mma, mmasp, mmag, mmagsp (R263 to R265). -/
  | mma
  /-- adrain, adraing (R267). -/
  | drain
  /-- An instruction that shares its shape with no other mnemonic, or an event. -/
  | other

/-- The shape of each instruction. -/
def shape : Instr → Shape
  | .ffma _ => .vectorFloat (farith (fmaVal false false))
  | .ffmaX _ => .vectorFloat (farith (fmaVal false false))
  | .ffms _ => .vectorFloat (farith (fmaVal false true))
  | .fnma _ => .vectorFloat (farith (fmaVal true false))
  | .fadd _ => .vectorFloat (farith faddVal)
  | .faddX _ => .vectorFloat (farith faddVal)
  | .fsub _ => .vectorFloat (farith fsubVal)
  | .fmul _ => .vectorFloat (farith fmulVal)
  | .fmulX _ => .vectorFloat (farith fmulVal)
  | .fmin _ => .vectorFloat (fpickOp false false)
  | .fminX _ => .vectorFloat (fpickOp false false)
  | .fmax _ => .vectorFloat (fpickOp true false)
  | .fminnum _ => .vectorFloat (fpickOp false true)
  | .fmaxnum _ => .vectorFloat (fpickOp true true)
  | .fcmp _ => .vectorTest fcmpOp
  | .fcmpX _ => .vectorTest fcmpOp
  | .fclass _ => .vectorTest (fun _ => fclassOp)
  | .fclassX _ => .vectorTest (fun _ => fclassOp)
  | .frnd _ => .vectorFloat frndOp
  | .frndX _ => .vectorFloat frndOp
  | .rcp _ => .vectorFloat transOp
  | .rcpX _ => .vectorFloat transOp
  | .rsqrt _ => .vectorFloat transOp
  | .sqrt _ => .vectorFloat transOp
  | .exp2 _ => .vectorFloat transOp
  | .log2 _ => .vectorFloat transOp
  | .sinpi _ => .vectorFloat transOp
  | .cospi _ => .vectorFloat transOp
  | .fcvt _ => .vectorFloat fcvtOp
  | .fcvtX _ => .vectorFloat fcvtOp
  | .fdot2 _ => .vectorFloat fdotOp
  | .fdot4 _ => .vectorFloat fdotOp
  | .fabs _ => .vectorFloat (fun _ => signOp false)
  | .fabsX _ => .vectorFloat (fun _ => signOp false)
  | .fneg _ => .vectorFloat (fun _ => signOp true)
  | .br _ => .branch always
  | .brX _ => .branch always
  | .call _ => .call
  | .callX _ => .call
  | .bany _ => .branch (maskCond (fun k => k != 0))
  | .banyX _ => .branch (maskCond (fun k => k != 0))
  | .ball _ => .branch (maskCond (fun k => ~~~k == 0))
  | .ballX _ => .branch (maskCond (fun k => ~~~k == 0))
  | .bnone _ => .branch (maskCond (fun k => k == 0))
  | .bnoneX _ => .branch (maskCond (fun k => k == 0))
  | .beq _ => .branch (signedCond 0)
  | .bne _ => .branch (signedCond 1)
  | .blt _ => .branch (signedCond 2)
  | .ble _ => .branch (signedCond 3)
  | .bgt _ => .branch (signedCond 4)
  | .bge _ => .branch (signedCond 5)
  | .bltu _ => .branch (unsignedCond 2)
  | .bleu _ => .branch (unsignedCond 3)
  | .bgtu _ => .branch (unsignedCond 4)
  | .bgeu _ => .branch (unsignedCond 5)
  | .jmp _ => .jump
  | .jmpX _ => .jump
  | .ret _ => .jump
  | .retX _ => .jump
  | .sleep _ => .sleep
  | .sleepX _ => .sleep
  | .nop => .nop
  | .nopX => .nop
  | .exit => .exit
  | .exitX => .exit
  | .iadd _ => .vectorInt (arith (fun a b _ => a + b))
  | .iaddX _ => .vectorInt (arith (fun a b _ => a + b))
  | .iaddc _ => .carry false
  | .isub _ => .vectorInt (arith (fun a b _ => a - b))
  | .isubb _ => .carry true
  | .imul _ => .vectorInt (arith (fun a b _ => a * b))
  | .imulX _ => .vectorInt (arith (fun a b _ => a * b))
  | .imulhi _ => .vectorInt (fun n a b c => highPart n a b c false)
  | .imulw _ => .vectorInt (fun n a b c => widening n a b c false)
  | .imad _ => .vectorInt (arith (fun a b c => a * b + c))
  | .imadX _ => .vectorInt (arith (fun a b c => a * b + c))
  | .imadhi _ => .vectorInt (fun n a b c => highPart n a b c true)
  | .imadw _ => .vectorInt (fun n a b c => widening n a b c true)
  | .imin _ => .vectorInt (arith (fun a b _ => min a b))
  | .iminX _ => .vectorInt (arith (fun a b _ => min a b))
  | .imax _ => .vectorInt (arith (fun a b _ => max a b))
  | .iabs _ => .vectorInt (arith (fun _ b _ => b.natAbs))
  | .iabsX _ => .vectorInt (arith (fun _ b _ => b.natAbs))
  | .ineg _ => .vectorInt (arith (fun _ b _ => -b))
  | .and _ => .vectorInt (bitwise (fun a b => a &&& b))
  | .andX _ => .vectorInt (bitwise (fun a b => a &&& b))
  | .andn _ => .vectorInt (bitwise (fun a b => a &&& ~~~b))
  | .or _ => .vectorInt (bitwise (fun a b => a ||| b))
  | .orX _ => .vectorInt (bitwise (fun a b => a ||| b))
  | .orn _ => .vectorInt (bitwise (fun a b => a ||| ~~~b))
  | .xor _ => .vectorInt (bitwise (fun a b => a ^^^ b))
  | .xorX _ => .vectorInt (bitwise (fun a b => a ^^^ b))
  | .xnor _ => .vectorInt (bitwise (fun a b => ~~~(a ^^^ b)))
  | .not _ => .vectorInt (bitwise (fun _ b => ~~~b))
  | .shl _ => .vectorInt shlOp
  | .shlX _ => .vectorInt shlOp
  | .rotl _ => .vectorInt rotlOp
  | .shr _ => .vectorInt shrOp
  | .shrX _ => .vectorInt shrOp
  | .rotr _ => .vectorInt rotrOp
  | .fshl _ => .vectorInt fshlOp
  | .fshlX _ => .vectorInt fshlOp
  | .fshr _ => .vectorInt fshrOp
  | .bfx _ => .vectorInt bfxOp
  | .bfxX _ => .vectorInt bfxOp
  | .bfi _ => .vectorInt bfiOp
  | .bfrev _ => .vectorInt bfrevOp
  | .popc _ => .vectorInt popcOp
  | .popcX _ => .vectorInt popcOp
  | .clz _ => .vectorInt clzOp
  | .ctz _ => .vectorInt ctzOp
  | .cls _ => .vectorInt clsOp
  | .icmp _ => .vectorTest (fun _ => icmpOp)
  | .icmpX _ => .vectorTest (fun _ => icmpOp)
  | .mov _ => .vectorInt (bitwise (fun _ b => b))
  | .movX _ => .vectorInt (bitwise (fun _ b => b))
  | .icvt _ => .vectorInt icvtOp
  | .icvtX _ => .vectorInt icvtOp
  | .prmt _ => .vectorInt prmtOp
  | .prmtX _ => .vectorInt prmtOp
  | .shfl _ => .shuffle
  | .shflX _ => .shuffle
  | .shflxor _ => .shuffle
  | .shflup _ => .shuffle
  | .shfldn _ => .shuffle
  | .rdlane _ => .rdlane
  | .rdlaneX _ => .rdlane
  | .redadd _ => .reduction
  | .redaddX _ => .reduction
  | .redmin _ => .reduction
  | .redmax _ => .reduction
  | .redand _ => .reduction
  | .redor _ => .reduction
  | .redxor _ => .reduction
  | .scanadd _ => .scan
  | .scanaddX _ => .scan
  | .scanmin _ => .scan
  | .scanmax _ => .scan
  | .scanand _ => .scan
  | .scanor _ => .scan
  | .scanxor _ => .scan
  | .xscanadd _ => .scan
  | .xscanmin _ => .scan
  | .xscanmax _ => .scan
  | .xscanand _ => .scan
  | .xscanor _ => .scan
  | .xscanxor _ => .scan
  | .kand _ => .mask (fun a b => a &&& b)
  | .kandX _ => .mask (fun a b => a &&& b)
  | .kor _ => .mask (fun a b => a ||| b)
  | .kxor _ => .mask (fun a b => a ^^^ b)
  | .kandn _ => .mask (fun a b => a &&& ~~~b)
  | .knot _ => .mask (fun a _ => ~~~a)
  | .kmov _ => .mask (fun a _ => a)
  | .ktos _ => .maskValue (fun k => k)
  | .ktosX _ => .maskValue (fun k => k)
  | .kpopc _ => .maskValue (fun k => BitVec.ofNat 64 (popcount k))
  | .kpopcX _ => .maskValue (fun k => BitVec.ofNat 64 (popcount k))
  | .kffs _ => .maskValue lowestBit
  | .kfls _ => .maskValue highestBit
  | .ballot _ => .ballot
  | .ballotX _ => .ballot
  | .vmatch _ => .matching
  | .vmatchX _ => .matching
  | .compact _ => .pack false
  | .expand _ => .pack true
  | .ld _ => .load
  | .ldX _ => .load
  | .st _ => .store
  | .stX _ => .store
  | .lds _ => .scalarLoad
  | .ldsX _ => .scalarLoad
  | .sts _ => .scalarStore
  | .stsX _ => .scalarStore
  | .rel _ => .release
  | .relFresh _ => .release
  | .relAll _ => .release
  | .pref _ => .prefetch
  | .prefX _ => .prefetch
  | .cwait _ => .countWait
  | .cwaitX _ => .countWait
  | .sadd _ => .scalar (arith (fun a b _ => a + b))
  | .saddX _ => .scalar (arith (fun a b _ => a + b))
  | .ssub _ => .scalar (arith (fun a b _ => a - b))
  | .smul _ => .scalar (arith (fun a b _ => a * b))
  | .smulX _ => .scalar (arith (fun a b _ => a * b))
  | .smulhi _ => .scalar (fun n a b c => highPart n a b c false)
  | .sand _ => .scalar (bitwise (fun a b => a &&& b))
  | .sandX _ => .scalar (bitwise (fun a b => a &&& b))
  | .sandn _ => .scalar (bitwise (fun a b => a &&& ~~~b))
  | .sor _ => .scalar (bitwise (fun a b => a ||| b))
  | .sorX _ => .scalar (bitwise (fun a b => a ||| b))
  | .sxor _ => .scalar (bitwise (fun a b => a ^^^ b))
  | .sxorX _ => .scalar (bitwise (fun a b => a ^^^ b))
  | .snot _ => .scalar (bitwise (fun _ b => ~~~b))
  | .sshl _ => .scalar shlOp
  | .sshlX _ => .scalar shlOp
  | .srotl _ => .scalar rotlOp
  | .sshr _ => .scalar shrOp
  | .sshrX _ => .scalar shrOp
  | .srotr _ => .scalar rotrOp
  | .sbfx _ => .scalar bfxOp
  | .sbfxX _ => .scalar bfxOp
  | .sbfi _ => .scalar bfiOp
  | .spopc _ => .scalar popcOp
  | .spopcX _ => .scalar popcOp
  | .sclz _ => .scalar clzOp
  | .sctz _ => .scalar ctzOp
  | .smin _ => .scalar (arith (fun a b _ => min a b))
  | .sminX _ => .scalar (arith (fun a b _ => min a b))
  | .smax _ => .scalar (arith (fun a b _ => max a b))
  | .smov _ => .scalar (bitwise (fun _ b => b))
  | .smovX _ => .scalar (bitwise (fun _ b => b))
  | .smovi _ => .scalar smoviOp
  | .smoviX _ => .scalar smoviOp
  | .scmp _ => .scalar scmpOp
  | .mma _ => .mma
  | .mmasp _ => .mma
  | .mmag _ => .mma
  | .mmagsp _ => .mma
  | .adrain _ => .drain
  | .adraing _ => .drain
  | .bar _ => .barrier
  | .barX _ => .barrier
  | .bararr _ => .barrier
  | .barwait _ => .barrier
  | .bbarr _ => .byteBarrier
  | .bbwait _ => .byteBarrier
  | .tlinc _ => .timeline
  | .tlset _ => .timeline
  | .tlwait _ => .timeline
  | .cp _ => .copy
  | .cpred _ => .copy
  | .twait _ => .tokenWait
  | .twaitX _ => .tokenWait
  | .regsurrender _ => .surrender
  | .regsurrenderX _ => .surrender
  | .regclaim _ => .claim
  | .regclaimX _ => .claim
  | .trap _ => .trap
  | .trapX _ => .trap
  | .trapret => .trapReturn
  | .trapretX => .trapReturn
  | .rdsr _ => .readSpecial
  | .rdsrX _ => .readSpecial
  | _ => .other

/-! ## Events -/

/-- A mailbox register's value that starts a command with the length it holds: GO, LEN, CMD (R372). -/
def State.mailboxWord (s : State) (f cmd : Nat) : Nat :=
  (BitVec.ofNat 64 (2 ^ 63 + s.ctlField (.mgtMbox f) 32 16 * 2 ^ 32 + cmd)).toNat

/-- The register write by which a host brings an event about: function, register, bytes (4 or 8), value. -/
def hostRow (s : State) : Instr → Option (Nat × CtlReg × Nat × Nat)
  | .schWake fn ctx mask => some (fn.toNat, .wake ctx.toNat, 8, mask.toNat)
  | .vmCtxRootWrite fn ctx v => some (fn.toNat, .root ctx.toNat, 8, v.toNat)
  | .vmCtxReply fn ctx v => some (fn.toNat, .reply ctx.toNat, 8, v.toNat)
  | .vmCtxFqheadWrite fn ctx v => some (fn.toNat, .fqHead ctx.toNat, 8, v.toNat)
  | .schCtxPreReq fn ctx => some (fn.toNat, .pre ctx.toNat, 4, 1)
  | .schCtxPreResume fn ctx => some (fn.toNat, .pre ctx.toNat, 4, 2)
  | .schCtxPreKill fn ctx => some (fn.toNat, .pre ctx.toNat, 4, 16)
  | .schCtxDbgStop fn ctx v => some (fn.toNat, .dbg ctx.toNat, 8, (v ||| 1).toNat)
  | .schCtxDbgStep fn ctx => some (fn.toNat, .dbg ctx.toNat, 4, ((s.ctlRd (.dbg ctx.toNat)).toNat % 2 ^ 32 ||| 2) % 2 ^ 32)
  | .hifCtxmapWrite fn ctx v => some (fn.toNat, .ctxMap ctx.toNat, 8, v.toNat)
  | .ngxIdWrite fn v => some (fn.toNat, .ngxId, 8, v.toNat)
  | .mgtPwrcapWrite fn v => some (fn.toNat, .mgtPwrcap, 8, v.toNat)
  | .evrCtlLock fn => some (fn.toNat, .evrCtl, 4, ((s.ctlRd .evrCtl).toNat % 2 ^ 32 ||| 128) % 2 ^ 32)
  | .stage fn => some (fn.toNat, .mgtMbox fn.toNat, 8, s.mailboxWord fn.toNat 0x0001)
  | .activate fn => some (fn.toNat, .mgtMbox fn.toNat, 8, s.mailboxWord fn.toNat 0x0002)
  | .reset fn => some (fn.toNat, .mgtMbox fn.toNat, 8, s.mailboxWord fn.toNat 0x0003)
  | .poolcfg fn => some (fn.toNat, .mgtMbox fn.toNat, 8, s.mailboxWord fn.toNat 0x0004)
  | .caplist fn => some (fn.toNat, .mgtMbox fn.toNat, 8, s.mailboxWord fn.toNat 0x0010)
  | .capread fn => some (fn.toNat, .mgtMbox fn.toNat, 8, s.mailboxWord fn.toNat 0x0011)
  | .capture fn => some (fn.toNat, .mgtMbox fn.toNat, 8, s.mailboxWord fn.toNat 0x0012)
  | .capclear fn => some (fn.toNat, .mgtMbox fn.toNat, 8, s.mailboxWord fn.toNat 0x0013)
  | .logread fn => some (fn.toNat, .mgtMbox fn.toNat, 8, s.mailboxWord fn.toNat 0x0020)
  | _ => none

end Sys2Proof.Machine
end

