-- ==== Sys2Proof/Certificates/Slice0/Obligations.lean ====
section
/-! DEFINITION. The statements about the model. Each says which rules of the spec it rests on. -/

open Sys2Proof Sys2Proof.Machine

/-- Each of the 54 vector integer instructions, when it issues, answers a next state in which every lane of the lane set holds the
value of its operation on that lane's sources, as they were before any lane was written; every other byte of the Core Stores,
every byte of memory and all other state is as before. (09_instr_integer.md R171, 09_instr_integer.md R174,
09_instr_integer.md R175, 09_instr_integer.md R177, 09_instr_integer.md R178) -/
def Obligations.VectorIntegerLanes : Prop :=
  ∀ (i : Instr) (f : Norm → BitVec 64 → BitVec 64 → BitVec 64 → BitVec 64) (s : State) (w : Wave) (r : Row) (n : Norm),
    shape i = .vectorInt f → Issues i s r n → s.curWave = some w →
    ∃ t, exec i s = .next t ∧
      LanesWritten s t w n.x.d.toNat (destRegs (r.opnds n.accum).1 n) (laneSet w n.x)
        (fun L => f n (s.srcA w r n L) (s.srcB w r n L) (s.srcC w r n L)) (fun v => v) (s.nextPc n.words)

/-- Each of the 28 vector floating-point instructions, when it issues, answers a next state in which every lane of the lane set
holds the value of its operation under the FTZ bit of the launch, %fflags has taken the flags of those lanes, and all other
bytes and state are as before. (10_instr_float.md R184, 10_instr_float.md R185, 10_instr_float.md R186, 08_number_formats.md
R161) -/
def Obligations.VectorFloatLanes : Prop :=
  ∀ (i : Instr) (f : Bool → Norm → BitVec 64 → BitVec 64 → BitVec 64 → BitVec 64 × Nat) (s : State) (w : Wave) (r : Row) (n : Norm),
    shape i = .vectorFloat f → Issues i s r n → s.curWave = some w →
    ∃ t, exec i s = .next t ∧
      let g (L : Nat) : BitVec 64 × Nat :=
        f (ctlFtz (s.recordOf w.launch)) n (s.srcA w r n L) (s.srcB w r n L) (s.srcC w r n L)
      LanesWritten s t w n.x.d.toNat (destRegs (r.opnds n.accum).1 n) (laneSet w n.x) (fun L => (g L).1)
        (fun v => v.flagged (flagsOver (laneSet w n.x) (fun L => (g L).2))) (s.nextPc n.words)

/-- iaddc and isubb, when they issue, answer a next state in which each lane of the lane set holds the low bits of a + b + c or a
- b - c, where c is the lane's bit of k[SC]; that bit becomes the carry or borrow, and the bits of lanes outside the lane set
are unchanged. (09_instr_integer.md R174) -/
def Obligations.CarryLanes : Prop :=
  ∀ (i : Instr) (sub : Bool) (s : State) (w : Wave) (r : Row) (n : Norm),
    shape i = .carry sub → Issues i s r n → s.curWave = some w →
    let k := w.k.rd n.x.sc.toNat
    let y (L : Nat) : Int :=
      let a := ival n.x.type.toNat (s.srcA w r n L)
      let b := ival n.x.type.toNat (s.srcB w r n L)
      let c : Int := if k.getLsbD L then 1 else 0
      if sub then a - b - c else a + b + c
    ∃ t m, exec i s = .next t ∧
      LanesWritten s t w n.x.d.toNat (typeRegs n.x.type.toNat) (laneSet w n.x)
        (fun L => extendPat n.x.type.toNat (fit n.x.type.toNat false (y L))) (fun v => v.withK n.x.sc.toNat m) (s.nextPc n.words) ∧
      IsMask m (fun L => if (laneSet w n.x).getLsbD L then decide (y L < 0 ∨ 2 ^ typeWidth n.x.type.toNat ≤ y L) else k.getLsbD L)

/-- Each of the 35 scalar integer instructions, on a wave or on a Spindle program, when it issues answers the next state in which
s[D] (x[D]) holds the value of its operation on the sources, its poison mark is gone, the agent goes on at the next
instruction, and nothing else has changed: no byte of memory, no flag, no other register. (09_instr_integer.md R181,
15_instr_spindle.md R258) -/
def Obligations.ScalarResults : Prop :=
  ∀ (i : Instr) (f : Norm → BitVec 64 → BitVec 64 → BitVec 64 → BitVec 64) (s : State) (r : Row) (n : Norm),
    shape i = .scalar f → Issues i s r n →
    let v := f n (s.scalOpnd n (r.opnds n.accum).2.1 n.x.sa) (s.scalOpnd n (r.opnds n.accum).2.2.1 n.x.sb)
      (s.scalOpnd n (r.opnds n.accum).2.2.2 n.x.sc)
    exec i s = .next (s.complete (s.nextPc n.words) (fun w => w.withS n.x.d.toNat v) (fun p => p.withX n.x.d.toNat v))

/-- icmp, fcmp and fclass, when they issue, answer the next state in which bit L of k[D] is 1 exactly when lane L is in the lane
set and the test holds there, %fflags has taken the flags of those lanes, and nothing else has changed. (09_instr_integer.md
R181, 10_instr_float.md R188, 10_instr_float.md R189) -/
def Obligations.CompareMasks : Prop :=
  ∀ (i : Instr) (f : Bool → Norm → BitVec 64 → BitVec 64 → Bool × Nat) (s : State) (w : Wave) (r : Row) (n : Norm),
    shape i = .vectorTest f → Issues i s r n → s.curWave = some w →
    let g (L : Nat) : Bool × Nat := f (ctlFtz (s.recordOf w.launch)) n (s.srcA w r n L) (s.srcB w r n L)
    ∃ m, IsMask m (fun L => (laneSet w n.x).getLsbD L && (g L).1) ∧
      exec i s = .next (s.complete (s.nextPc n.words)
        (fun v => (v.withK n.x.d.toNat m).flagged (flagsOver (laneSet w n.x) (fun L => (g L).2))) (fun p => p))

/-- sel, when it issues and no source that a lane selects is marked as poisoned, answers a next state in which each lane of the
lane set holds SB where its bit of k[SA] is 1 and the last source elsewhere, and all other bytes and state are as before.
(09_instr_integer.md R181, 09_instr_integer.md R171) -/
def Obligations.SelectLanes : Prop :=
  ∀ (f : XF) (s : State) (w : Wave) (r : Row) (n : Norm),
    Issues (.sel f) s r n → s.curWave = some w →
    let k := w.k.rd n.x.sa.toNat
    poisonLanes s w (laneSet w n.x &&& k) (opndRefs r.sb .simt n n.x.sb) = 0 →
    poisonLanes s w (laneSet w n.x &&& ~~~k) (opndRefs r.sc .simt n n.x.sc) = 0 →
    ∃ t, exec (.sel f) s = .next t ∧
      LanesWritten s t w n.x.d.toNat 1 (laneSet w n.x) (fun L => if k.getLsbD L then s.srcB w r n L else s.srcC w r n L)
        (fun v => v) (s.nextPc n.words)

/-- shfl, shflxor, shflup and shfldn, when they issue and no index or element that a lane uses is marked as poisoned, answer a
next state in which each lane L of the lane set holds the element of SA of lane j: n mod 64, L xor (n mod 64), L - n if n <= L
else L, and L + n if L + n <= 63 else L; all other bytes and state are as before. (11_instr_lanes_control.md R197,
11_instr_lanes_control.md R196) -/
def Obligations.ShuffleLanes : Prop :=
  ∀ (i : Instr) (s : State) (w : Wave) (r : Row) (n : Norm),
    shape i = .shuffle → Issues i s r n → s.curWave = some w →
    let k (L : Nat) : Nat := (s.laneOpnd w n r.sb n.x.sb L).toNat % 2 ^ 32
    let j (L : Nat) : Nat := match n.sub with
      | 0 => k L % 64
      | 1 => L ^^^ (k L % 64)
      | 2 => if k L ≤ L then L - k L else L
      | _ => if L + k L ≤ 63 then L + k L else L
    let regs := typeRegs n.x.type.toNat
    (∀ L, (laneSet w n.x).getLsbD L = true → s.vmarked w n.x.sa.toNat (j L) regs = false) →
    poisonLanes s w (laneSet w n.x) (opndRefs r.sb .simt n n.x.sb) = 0 →
    ∃ t, exec i s = .next t ∧
      LanesWritten s t w n.x.d.toNat regs (laneSet w n.x) (fun L => s.vget w n.x.sa.toNat (j L) regs) (fun v => v) (s.nextPc n.words)

/-- Writing values to distinct lanes of a vector register leaves each of those elements holding its value and every other byte of
the Core Stores as it was; the Core Store memory stays in canonical form, and nothing else of the state changes but poison
marks. (04_memory_as_seen.md R88, 04_memory_as_seen.md R89, 05_consistency.md R128) -/
def Obligations.LaneWritesReadBack : Prop :=
  ∀ (s : State) (w : Wave) (d regs : Nat) (vals : List (Nat × BitVec 64)),
    (vals.map (·.1)).Nodup → (∀ p ∈ vals, p.1 < 64) →
    let t := s.vputAll w d regs vals
    (∀ p ∈ vals, t.vget w d p.1 regs = if regs = 2 then p.2 else (p.2.setWidth 32).setWidth 64) ∧
    (∀ a, (∀ p ∈ vals, ∀ i, i < widthOf regs → ¬ (w.vaddr (d + i) p.1 ≤ a ∧ a < w.vaddr (d + i) p.1 + 4)) → t.cs.read a = s.cs.read a) ∧
    (s.cs.wf = true → t.cs.wf = true) ∧ t = { s with cs := t.cs, csMark := t.csMark }

/-- compact, when it issues and no moved element is marked, writes SB of the i-th lane of k[SA] to the i-th lane of the lane set,
as far as both go; expand writes SB of lane i to the i-th lane of the lane set that k[SA] selects; nothing else changes but
the wave's address. (11_instr_lanes_control.md R201) -/
def Obligations.PackLanes : Prop :=
  ∀ (i : Instr) (expand : Bool) (s : State) (w : Wave) (r : Row) (n : Norm),
    shape i = .pack expand → Issues i s r n → s.curWave = some w →
    let lanes := laneSet w n.x
    let k := w.k.rd n.x.sa.toNat
    let regs := typeRegs n.x.type.toNat
    let moves : List (Nat × Nat) :=
      if expand then (lanesOf (lanes &&& k)).zip (List.range (lanesOf (lanes &&& k)).length) else (lanesOf lanes).zip (lanesOf k)
    (∀ p ∈ moves, s.vmarked w n.x.sb.toNat p.2 regs = false) →
    exec i s = .next ((s.vputAll w n.x.d.toNat regs (moves.map (fun p => (p.1, s.vget w n.x.sb.toNat p.2 regs)))).complete
      (s.nextPc n.words) (fun v => v) (fun p => p))

/-- rdlane, when it issues and neither its index nor the element is marked, writes element j of SA to s[D], whatever the lane set;
wrlane, likewise, writes s[SA] to element j of D if lane j is in the lane set, and otherwise nothing; j is the last source mod
64. (11_instr_lanes_control.md R198) -/
def Obligations.ReadAndWriteLane : Prop :=
  (∀ (i : Instr) (s : State) (w : Wave) (r : Row) (n : Norm),
    shape i = .rdlane → Issues i s r n → s.curWave = some w →
    let j := (s.laneOpnd w n r.sb n.x.sb 0).toNat % 2 ^ 32 % 64
    let regs := typeRegs n.x.type.toNat
    s.sourceMarked (opndRefs r.sb .simt n n.x.sb) = false → s.vmarked w n.x.sa.toNat j regs = false →
    exec i s = .next (s.complete (s.nextPc n.words) (fun v => v.withS n.x.d.toNat (s.vget w n.x.sa.toNat j regs)) (fun p => p))) ∧
  (∀ (f : XF) (s : State) (w : Wave) (r : Row) (n : Norm),
    Issues (.wrlane f) s r n → s.curWave = some w →
    let j := (s.laneOpnd w n r.sb n.x.sb 0).toNat % 2 ^ 32 % 64
    s.sourceMarked (opndRefs r.sb .simt n n.x.sb) = false → s.smarked n.x.sa.toNat = false →
    ∃ t, exec (.wrlane f) s = .next t ∧
      LanesWritten s t w n.x.d.toNat (typeRegs n.x.type.toNat) (laneSet w n.x &&& 1#64 <<< j) (fun _ => w.s.rd n.x.sa.toNat)
        (fun v => v) (s.nextPc n.words))

/-- Each reduction, when it issues and no element of the lane set is marked, writes to s[D] the value at the root of the tree of
R164 over SB, a lane outside the lane set counting as the identity, and takes the flags of the tree's nodes; nothing else
changes. (11_instr_lanes_control.md R199, 08_number_formats.md R164) -/
def Obligations.ReductionResults : Prop :=
  ∀ (i : Instr) (s : State) (w : Wave) (r : Row) (n : Norm),
    shape i = .reduction → Issues i s r n → s.curWave = some w →
    (∀ L, (laneSet w n.x).getLsbD L = true → s.vmarked w n.x.sb.toNat L (typeRegs n.x.type.toNat) = false) →
    let tree := treeOf s w n n.sub
    exec i s = .next (s.complete (s.nextPc n.words)
      (fun v => (v.withS n.x.d.toNat
        (laneResult (ctlFtz (s.recordOf w.launch)) n.x.type.toNat ((tree.2.1.getD 6 []).getD 0 0))).flagged tree.2.2) (fun p => p))

/-- On an integer type, the tree of R164 gives the same value as folding the operation over the elements of the lanes of the lane
set: the sum modulo 2^w, the least, the greatest, the bitwise and, or, exclusive or; with no lane it is the identity, and no
flag is set. (08_number_formats.md R164, 11_instr_lanes_control.md R199) -/
def Obligations.IntegerReductionsFold : Prop :=
  ∀ (s : State) (w : Wave) (n : Norm) (op : Nat),
    let t := n.x.type.toNat
    t < 8 → op < 6 →
    let wd := typeWidth t
    let elem (L : Nat) : Nat := lowBits (s.vget w n.x.sb.toNat L (typeRegs t)) wd
    let value (p : Nat) : Int := ival t (BitVec.ofNat 64 p)
    let comb (a b : Nat) : Nat := match op with
      | 0 => (a + b) % 2 ^ wd
      | 1 => if value b < value a then b else a
      | 2 => if value a < value b then b else a
      | 3 => a &&& b
      | 4 => a ||| b
      | _ => a ^^^ b
    let tree := treeOf s w n op
    (tree.2.1.getD 6 []).getD 0 0 = ((lanesOf (laneSet w n.x)).map elem).foldr comb (identityOf op t) ∧ tree.2.2 = 0

/-- Each scan, when it issues and no element of the lane set is marked, writes to each lane L of the lane set the value of R165
over the lanes up to L, or below L for an exclusive scan (the identity in lane 0), and takes the flags of the tree and of the
combinations of the written lanes; nothing else changes. (11_instr_lanes_control.md R199, 08_number_formats.md R165) -/
def Obligations.ScanResults : Prop :=
  ∀ (i : Instr) (s : State) (w : Wave) (r : Row) (n : Norm),
    shape i = .scan → Issues i s r n → s.curWave = some w →
    (∀ L, (laneSet w n.x).getLsbD L = true → s.vmarked w n.x.sb.toNat L (typeRegs n.x.type.toNat) = false) →
    let t := n.x.type.toNat
    let tree := treeOf s w n (n.sub % 16)
    let val (L : Nat) : Nat × Nat :=
      if 16 ≤ n.sub then (if L = 0 then (identityOf (n.sub % 16) t, 0) else scanIncl tree.1 tree.2.1 (L - 1))
      else scanIncl tree.1 tree.2.1 L
    ∃ u, exec i s = .next u ∧
      LanesWritten s u w n.x.d.toNat (typeRegs t) (laneSet w n.x) (fun L => laneResult (ctlFtz (s.recordOf w.launch)) t (val L).1)
        (fun v => v.flagged (tree.2.2 ||| flagsOver (laneSet w n.x) (fun L => (val L).2))) (s.nextPc n.words)

/-- ballot writes bit L of k[D] as 1 exactly when L is in the lane set and SB[L] is not zero; match, as 1 exactly when L is in the
lane set and SB[L] equals SB of the lowest lane of the lane set; both when they issue with no element of the lane set marked,
and nothing else changes. (R200) -/
def Obligations.BallotAndMatch : Prop :=
  ∀ (i : Instr) (s : State) (w : Wave) (r : Row) (n : Norm),
    Issues i s r n → s.curWave = some w →
    (∀ L, (laneSet w n.x).getLsbD L = true → s.vmarked w n.x.sb.toNat L (typeRegs n.x.type.toNat) = false) →
    let e (L : Nat) : BitVec 64 := s.vget w n.x.sb.toNat L (typeRegs n.x.type.toNat)
    (shape i = .ballot → ∃ m, IsMask m (fun L => (laneSet w n.x).getLsbD L && e L != 0) ∧
      exec i s = .next (s.complete (s.nextPc n.words) (fun v => v.withK n.x.d.toNat m) (fun p => p))) ∧
    (shape i = .matching → ∃ m, IsMask m (fun L => (laneSet w n.x).getLsbD L && e L == e ((lanesOf (laneSet w n.x)).headD 0)) ∧
      exec i s = .next (s.complete (s.nextPc n.words) (fun v => v.withK n.x.d.toNat m) (fun p => p)))

/-- kand, kor, kxor, kandn, knot and kmov write k[D]; ktos, kpopc, kffs and kfls write s[D]; stok writes k[D] from s[SA]: each
reads its sources before it writes, and changes nothing else. (11_instr_lanes_control.md R202) -/
def Obligations.MaskRegisterResults : Prop :=
  ∀ (i : Instr) (s : State) (r : Row) (n : Norm), Issues i s r n →
    (∀ f, shape i = .mask f → exec i s = .next (s.complete (s.nextPc n.words)
      (fun v => v.withK n.x.d.toNat (f (s.krd n.x.sa.toNat) (s.krd n.x.sb.toNat))) (fun p => p))) ∧
    (∀ f, shape i = .maskValue f → exec i s = .next (s.complete (s.nextPc n.words)
      (fun v => v.withS n.x.d.toNat (f (s.krd n.x.sa.toNat))) (fun p => p.withX n.x.d.toNat (f (s.krd n.x.sa.toNat))))) ∧
    ((∃ x, i = .stok x) → exec i s = .next (s.complete (s.nextPc n.words)
      (fun v => v.withK n.x.d.toNat (s.srd n.x.sa.toNat)) (fun p => p)))

/-- Each of the 18 branches changes nothing but the program counter: to its own address plus 4 x OFF where its condition holds (a
target out of the canonical range raises address-noncanonical at the instruction instead), and to the next instruction where
it does not. (11_instr_lanes_control.md R203, 11_instr_lanes_control.md R204) -/
def Obligations.Branches : Prop :=
  ∀ (i : Instr) (c : Norm → State → Bool) (s : State) (r : Row) (n : Norm),
    shape i = .branch c → Admitted i s r n →
    let target := s.curPc + (n.x.disp ++ n.x.szsp ++ n.x.osel).signExtend 64 * 4
    (c n s = true → canonical target = true → exec i s = .next (s.complete target (fun w => w) (fun p => p))) ∧
    (c n s = true → canonical target = false → exec i s = .next (s.takeTrap causeNoncanonical s.curPc target 0).settle) ∧
    (c n s = false → canonical (s.nextPc n.words) = true → exec i s = .next (s.complete (s.nextPc n.words) (fun w => w) (fun p => p)))

/-- loopnz writes s[SA] - 1 and is taken when that is not 0; call writes the address after itself to s127 (x31 on a Spindle
program) and goes to its relative target; callind reads s[REG] first, links and goes there; jmp and ret go to s[REG] and write
nothing; targets here are canonical and, from a register, aligned to 4. (11_instr_lanes_control.md R203,
11_instr_lanes_control.md R204, 11_instr_lanes_control.md R205) -/
def Obligations.LoopsCallsAndJumps : Prop :=
  ∀ (i : Instr) (s : State) (r : Row) (n : Norm), Admitted i s r n →
    let target := s.curPc + (n.x.disp ++ n.x.szsp ++ n.x.osel).signExtend 64 * 4
    let reg := s.srd n.x.d.toNat
    let link := s.nextPc n.words
    let v := s.srd n.x.sa.toNat - 1
    ((∃ x, i = .loopnz x) → v ≠ 0 → canonical target = true →
      exec i s = .next (s.complete target (fun w => w.withS n.x.sa.toNat v) (fun p => p.withX n.x.sa.toNat v))) ∧
    ((∃ x, i = .loopnz x) → v = 0 → canonical link = true →
      exec i s = .next (s.complete link (fun w => w.withS n.x.sa.toNat v) (fun p => p.withX n.x.sa.toNat v))) ∧
    (shape i = .call → canonical target = true →
      exec i s = .next (s.complete target (fun w => w.withS 127 link) (fun p => p.withX 31 link))) ∧
    ((∃ x, i = .callind x) → canonical reg = true → reg % 4 = 0 →
      exec i s = .next (s.complete reg (fun w => w.withS 127 link) (fun p => p.withX 31 link))) ∧
    (shape i = .jump → canonical reg = true → reg % 4 = 0 → exec i s = .next (s.complete reg (fun w => w) (fun p => p)))

/-- nop changes only the program counter, and so does sleep 0; sleep d sets the agent asleep until 16 d cycles have passed; yield
goes on where its context's request flag is clear, and else stops the agent at the next instruction, in supervisor mode when it
returns to user mode (log entry 48); exit stops the wave where it is, to leave once its work has completed, an episode wave after its
lanes are settled. (11_instr_lanes_control.md R206, 11_instr_lanes_control.md R207, 11_instr_lanes_control.md R208,
14_instr_ray.md R253) -/
def Obligations.NopSleepYieldExit : Prop :=
  ∀ (i : Instr) (s : State) (r : Row) (n : Norm), Admitted i s r n →
    let next := s.nextPc n.words
    let d := n.x.disp.toNat
    let m := s.scalOpnd n r.sa n.x.sa
    (shape i = .nop → canonical next = true → exec i s = .next (s.complete next (fun w => w) (fun p => p))) ∧
    (shape i = .sleep → canonical next = true → d = 0 → exec i s = .next (s.complete next (fun w => w) (fun p => p))) ∧
    (shape i = .sleep → canonical next = true → d ≠ 0 →
      exec i s = .next (s.complete next (fun w => { w with wait := .sleep (s.cyc + 16 * d) })
        (fun p => { p with live := 0, wait := .sleep (s.cyc + 16 * d) }))) ∧
    ((∃ x, i = .yield x) → canonical next = true → m.toNat < 2 ^ 24 → (s.stream = .simt → m = 0) → s.agentReq = false →
      exec i s = .next (s.complete next (fun w => w) (fun p => p))) ∧
    ((∃ x, i = .yield x) → canonical next = true → m.toNat < 2 ^ 24 → (s.stream = .simt → m = 0) → s.agentReq = true → s.curMode = .user →
      exec i s = .next (s.complete next (fun w => { w with wait := .stopped causeSuspendYield })
        (fun p => { p with live := m.setWidth 24, wait := .stopped causeSuspendYield }))) ∧
    ((∃ x, i = .yield x) → canonical next = true → m.toNat < 2 ^ 24 → (s.stream = .simt → m = 0) → s.agentReq = true →
      s.curMode = .supervisor → exec i s = .next (s.complete next (fun w => { w with yielded := true })
        (fun p => { p with yielded := some (m.setWidth 24) }))) ∧
    (shape i = .exit → ∀ w, s.curWave = some w →
      exec i s = .next ((if w.kind = .episode then s.settleLanes w else s).setWait (.exiting false))) ∧
    (shape i = .exit → s.curWave = none → exec i s = .next (s.setWait (.exiting false)))

/-- When the checks of R212 let an instruction go on, they have changed nothing but the cached translations and table entries, the
lines of spaces 2 to 4 that the walk brought into the L2 (with what fetching them sends and takes, log entry 83), and, in memory,
bits 9 and 10 of page-table entries: a byte outside such a line keeps its value, or is byte 1 of an aligned doubleword and gains
the bit of weight 2, or those of weight 2 and 4. (12_instr_memory.md R212, 21_translation_faults.md R320, 05_consistency.md
R115) -/
def Obligations.ChecksTouchOnlyTables : Prop :=
  ∀ (s t : State) (w : Wave) (f : AccForm) (x : XF) (scratch : Bool) (reqs : List Req) (l : List (Req × List Part))
    (sf : List (Nat × BitVec 64 × BitVec 64)),
    s.check w f x scratch reqs = .ok l sf t →
    t = { s with tlb := t.tlb, tables := t.tables, mem := t.mem, dir := t.dir, out := t.out, free := t.free } ∧
    (s.mem.wf = true → t.mem.wf = true) ∧
    ∀ a, t.mem.read a = s.mem.read a ∨
      (a % 8 = 1 ∧ (t.mem.read a = s.mem.read a ||| 2 ∨ t.mem.read a = s.mem.read a ||| 6)) ∨
      (foreignLine (a / 128) = true ∧ (s.dirAt (a / 128)).own = .i)

/-- A translation found, in the cache or by the walk, covers the address of the access, and its entry has U for user mode, X for a
fetch, R for a read, and W and D for a write, as the access needs. (21_translation_faults.md R320, 21_translation_faults.md
R322, 21_translation_faults.md R323) -/
def Obligations.TranslationsGrantNoMore : Prop :=
  ∀ (s t : State) (core c va : Nat) (n : Need) (e : TlbEntry),
    s.translate core c va n = (.ok e, t) →
    e.ctx = c ∧ e.va ≤ va % 2 ^ 57 ∧ va % 2 ^ 57 < e.va + e.size ∧ (n.user = true → e.u = true) ∧ (n.fetch = true → e.x = true) ∧
    (n.read = true → e.r = true) ∧ (n.write = true → e.w = true ∧ e.d = true)

/-- When b[n] is valid, the bytes end at or below its LIMIT, and its rights allow the access, the bytes are found at PB plus their
offset, with the register's page kind or SO in spaces 5 to 7, no page table is read and nothing changes, unless the frame
itself raises a cause. (04_memory_as_seen.md R94, 04_memory_as_seen.md R85) -/
def Obligations.BaseRegistersTranslate : Prop :=
  ∀ (s : State) (f : AccForm) (b : BReg) (r : Req) (va : BitVec 64) (lo n : Nat),
    let need := f.need (s.curMode == .user)
    let pa := b.pb + r.off + lo
    b.valid = true → r.off + lo + n ≤ b.limit → (if need.write then b.wr = true else b.rd = true) → (need.user = true → b.usr = true) →
    s.placePart f b r va lo n =
      ({ lo := lo, n := n, va := va + BitVec.ofNat 64 lo,
         place := match s.placeCause f r lo n pa (va + BitVec.ofNat 64 lo) with
           | some c => .cause c
           | none => .found pa (if 5 ≤ paSpace pa then .so else b.ord),
         space := some (paSpace pa) }, s)

/-- For lanes that meet no range lock and whose words are aligned where that is asked, the checks of a scratchpad access pass when
every lane's bytes end within the size of the block's scratchpad, each lane's bytes then lying at its offset in the block's
part of its Core Store; when some do not, scratchpad-range is raised precisely, for those lanes. (04_memory_as_seen.md R91,
12_instr_memory.md R212) -/
def Obligations.ScratchpadChecks : Prop :=
  ∀ (s : State) (w : Wave) (b : Block) (f : AccForm) (x : XF) (reqs : List Req),
    s.block? w.launch w.block = some b → (∀ l ∈ s.locks, ¬ (l.cluster = s.curCore / 4 ∧ l.ctx = s.curCtx)) →
    (f.natural = true → ∀ r ∈ reqs, r.off % r.bytes = 0) → f.cell = none →
    let past := reqs.filter (fun r => decide (b.scrSize < r.off + r.bytes))
    (past = [] → s.check w f x true reqs = .ok (reqs.map (fun r =>
        (r, [{ lo := 0, n := r.bytes, va := BitVec.ofNat 64 r.off,
               place := .found (6 * 2 ^ 48 + w.core * 2 ^ 20 + b.scrBase + r.off) .so }]))) [] s) ∧
    (∀ r rest, past = r :: rest →
      s.check w f x true reqs = .ends (.trap s causeScratchRange (BitVec.ofNat 64 r.off) (reqLanes past)))

/-- ld and lds, in both encodings, when they issue, pass the checks of R212 and have room, answer a next state in which the
elements of the bytes they name are in flight towards D, and nothing else has changed: no register and no byte of memory.
(12_instr_memory.md R213, 04_memory_as_seen.md R96, 04_memory_as_seen.md R97, 05_consistency.md R107) -/
def Obligations.LoadsIssue : Prop :=
  ∀ (i : Instr) (s : State) (w : Wave) (r : Row) (n : Norm),
    Issues i s r n → s.curWave = some w →
    let size := xSize n.x
    (shape i = .load → AccessIssues i s w n .load (xScratch n.x)
      (s.laneReqs w n size (fun _ => 2 ^ size - 1) (fun _ => 0) (fun _ => .load)) 0
      (.vec n.x.d.toNat size (xSigned n.x)) (laneSet w n.x) false w.stseq) ∧
    (shape i = .scalarLoad → AccessIssues i s w n .load (xScratch n.x) [s.scalarReq w n size 0 .load] 0
      (.scal n.x.d.toNat size (xSigned n.x)) 0 false w.stseq)

/-- st, sts and stmsk, when they issue, pass the precise checks of R212 and have room, answer a next state in which the elements
of the bytes they write, from the registers from D up or s[D], are in flight with the store-fault records of the lanes that
met a cause; the store count has risen by one, and WS has taken the lines of RC stores. A lane of stmsk whose mask enables no
byte makes no access, and its marks do not stop the instruction; the other lanes read nothing marked as poisoned, except in a save or
restore handler. (12_instr_memory.md R214, 12_instr_memory.md R212, 16_instr_system.md R281, 05_consistency.md R116) -/
def Obligations.StoresIssue : Prop :=
  ∀ (s : State) (w : Wave) (r : Row) (n : Norm), s.curWave = some w →
    let size := xSize n.x
    (∀ i, shape i = .store → Issues i s r n → AccessIssues i s w n .store (xScratch n.x)
      (s.laneReqs w n size (fun _ => 2 ^ size - 1) (fun L => s.vwords w n.x.d.toNat L ((size + 3) / 4)) (fun _ => .store)) 0
      .none 0 true (w.stseq + 1)) ∧
    (∀ i, shape i = .scalarStore → Issues i s r n → AccessIssues i s w n .store (xScratch n.x)
      [s.scalarReq w n size (s.srd n.x.d.toNat).toNat .store] 0 .none 0 true (w.stseq + 1)) ∧
    (∀ f, Issues (.stmsk f) s r n → (w.exemptPoison = true ∨ poisonLanes s w (stmskLanes s w n) (rowSources r s.stream n) = 0) →
      AccessIssues (.stmsk f) s w n { AccForm.store with regs := false } (xScratch n.x)
      (((s.laneReqs w n size (fun L => (s.vrd w n.x.sc.toNat L).toNat) (fun L => s.vwords w n.x.d.toNat L ((size + 3) / 4))
        (fun _ => .store)).filter (fun q => q.mask != 0)).map Req.trim) 0 .none 0 true (w.stseq + 1))

/-- atom with ORD 0, when it issues at a scope of its launch, passes the checks of R212, has room and meets no poison (log entry
8: at a peer, the peer's answer), answers a next state in which one read-modify-write of each lane's word is in flight towards D;
sigadd, likewise, one remote increment by s[D], or the store-fault record of a target that is not there (log entry 87), with the
store count raised. (12_instr_memory.md R217, 12_instr_memory.md R218, 12_instr_memory.md R224) -/
def Obligations.AtomicsIssue : Prop :=
  (∀ (f : XS) (s : State) (w : Wave) (r : Row) (n : Norm) (sc : Nat) (l : List (Req × List Part))
    (sf : List (Nat × BitVec 64 × BitVec 64)) (t x : State) (es : List Elem),
    Issues (.atom f) s r n → s.curWave = some w → n.sub / 16 % 4 = 0 → s.scopeIn n = some sc →
    let size := xSize n.x
    let c := n.x.sc.toNat
    let regs := typeRegs n.x.type.toNat
    let op (L : Nat) : ElemOp := .rmw (n.sub % 16) n.x.type.toNat
      (if n.sub % 16 = 7 then s.vget w (c + regs) L regs else s.vget w c L regs) (if n.sub % 16 = 7 then s.vget w c L regs else 0)
    s.check w .atomic n.x (xScratch n.x) (s.laneReqs w n size (fun _ => 2 ^ size - 1) (fun _ => 0) op) = .ok l sf t →
    t.askPeers ((elemsOf (xScratch n.x) sc l).map Elem.asAtomic) = (es, x) →
    (∀ e ∈ es, x.elemPoisoned w e = false) → Room w (fun e => e.path w.core) es false →
    ∃ u, exec (.atom f) s = .next u ∧ InFlight (fun e => e.path w.core) x u w es (.vec n.x.d.toNat size false) (laneSet w n.x) []
      w.stseq (s.nextPc n.words)) ∧
  (∀ (f : XF) (s : State) (w : Wave) (r : Row) (n : Norm),
    Issues (.sigadd f) s r n → s.curWave = some w →
    AccessIssues (.sigadd f) s w n .signal false [s.scalarReq w n 8 (s.srd n.x.d.toNat).toNat .sig] 0 .none 0 true (w.stseq + 1))

/-- atom with ORD other than 0, when it issues at a scope of its launch, passes the checks of R212, has no wait of R118 to make,
meets no reserved bit and no poison in its cells and writes every line back, completes: each lane in ascending order reads
VALUE into D and updates its cell, the release half with the signature of the wave before any lane, WS and WSAT change once, and
the atomic path counts it behind its earlier accesses. (12_instr_memory.md R219, 05_consistency.md R118, 05_consistency.md R119) -/
def Obligations.OrderedAtomics : Prop :=
  ∀ (f : XS) (s : State) (w : Wave) (r : Row) (n : Norm) (sc : Nat) (l : List (Req × List Part))
    (sf : List (Nat × BitVec 64 × BitVec 64)) (t u : State),
    Issues (.atom f) s r n → s.curWave = some w → n.sub / 16 % 4 ≠ 0 → s.scopeIn n = some sc →
    s.check w .orderedAtomic n.x (xScratch n.x) (s.atomReqs w n) = .ok l sf t →
    let acq := n.sub / 16 % 2 == 1
    let rel := n.sub / 32 % 2 == 1
    let cells := atomCells l
    w.counter 3 < 63 →
    (rel = true → t.releaseReady sc = true) → (∀ q ∈ cells, t.lineBusy q.2.2.1 = false) →
    (∀ q ∈ cells, (cellOf (t.cellRead sc q.2.1 q.2.2.1).1).reserved = false) →
    (if rel then t.releaseStep sc else (none, t)) = (none, u) →
    (∀ q ∈ cells, (t.cellRead sc q.2.1 q.2.2.1).2.1 = false) →
    let a := cells.foldl (atomCell n w sc rel acq u.curSig.1 u.curSig.2) { s := u, sig := 0, sat := false }
    let v := if rel then a.s.clearSig sc else a.s
    let x := if acq then (v.acquireDrop sc a.sig a.sat).mergeSig sc a.sig a.sat else v
    exec (.atom f) s = .next ((match cells with
      | q :: _ => (x.sampleNow 3 q.2.1 (paSpace q.2.2.1)).countDone w 3
      | [] => x).complete (s.nextPc n.words) (fun v => v) (fun p => p))

/-- The cell that a release writes holds the new value, the epoch that it found plus one, and: for merge, the cell's signature
joined with WS, and SAT if the cell had it, WSAT is set or 320 bits or more are set; for fresh, WS, and SAT by WSAT or those
bits; for all, SAT; its reserved bits are zero. rel, in its three modes, when it issues at a scope of its launch, locates its
cell, has no wait of R118 to make and writes every line back, writes the released cell, empties WS and WSAT at cluster scope
or wider, and goes on; acq, likewise, when the cell holds no poison, drops the lines that its signature names, joins what it
read into WS and WSAT at core scope or wider, writes VALUE to s[D], and goes on. (12_instr_memory.md R221, 05_consistency.md
R117, 05_consistency.md R118, 05_consistency.md R119) -/
def Obligations.ReleasesAndAcquires : Prop :=
  (∀ (v : Nat) (mode : Nat) (x : BitVec 64) (ws : Sig) (wsat : Bool),
    let c := cellOf v
    let d := cellOf (c.release mode x ws wsat)
    d.value = x ∧ d.epoch = c.epoch + 1 ∧ d.reserved = false ∧
    d.sig = (if mode = 1 then ws else c.sig ||| ws) ∧
    d.sat = (if mode = 2 then true else if mode = 1 then wsat || sigHeavy ws else c.sat || wsat || sigHeavy (c.sig ||| ws))) ∧
  (∀ (i : Instr) (s : State) (r : Row) (n : Norm) (sc : Nat) (va : BitVec 64) (pa : Nat) (k : PageKind) (t u v : State) (x : Nat) (p : Bool),
    shape i = .release → Issues i s r n → s.scopeIn n = some sc → s.locate .release n 8 = .found va pa k t →
    t.releaseReady sc = true → t.lineBusy pa = false → t.cellRead sc va.toNat pa = (x, p, u) → (cellOf x).reserved = false →
    u.releaseStep sc = (none, v) →
    exec i s = .next (((v.cellWrite sc va.toNat pa ((cellOf x).release n.sub (v.srd n.x.d.toNat) v.curSig.1 v.curSig.2) cellMask).clearSig
      sc).complete (s.nextPc n.words) (fun w => w) (fun q => q))) ∧
  (∀ (f : XF) (s : State) (r : Row) (n : Norm) (sc : Nat) (va : BitVec 64) (pa : Nat) (k : PageKind) (t u : State) (x : Nat),
    Issues (.acq f) s r n → s.scopeIn n = some sc → s.locate .acquire n 8 = .found va pa k t →
    t.lineBusy pa = false → t.cellRead sc va.toNat pa = (x, false, u) → (cellOf x).reserved = false →
    let c := cellOf x
    exec (.acq f) s = .next (((u.acquireDrop sc c.sig c.sat).mergeSig sc c.sig c.sat).complete (s.nextPc n.words)
      (fun w => w.withS n.x.d.toNat c.value) (fun q => q.withX n.x.d.toNat c.value)))

/-- fence, when it issues at a scope of its launch and no counter that it waits for is above zero (on a Spindle program, no drain is
left), writes back the lines of WS,
drops the RC lines of the context and goes on; fence.un writes back and drops the UN lines; cwait goes on when its counter is
at s[D] or below or s[D] is 63 or more, with nothing else changed. While its counters are not there, each waits at its own
address, with nothing else changed. (12_instr_memory.md R222, 12_instr_memory.md R228, 05_consistency.md R122,
05_consistency.md R113, 04_memory_as_seen.md R97) -/
def Obligations.FencesAndCounterWaits : Prop :=
  ∀ (s : State) (r : Row) (n : Norm),
    (∀ f sc, Issues (.fence f) s r n → s.scopeIn n = some sc →
      (∀ t, s.releaseReady sc = true → s.releaseStep sc = (none, t) →
        exec (.fence f) s = .next ((t.acquireEvery sc).complete (s.nextPc n.words) (fun w => w) (fun p => p))) ∧
      (s.releaseReady sc = false → exec (.fence f) s = .next (s.setWait (.retry 6 true)))) ∧
    (∀ f sc, Issues (.fenceUn f) s r n → s.scopeIn n = some sc →
      (∀ w t, s.releaseReady sc = true → s.curWave = some w → scopeCluster ≤ sc → s.releaseUn w.core w.ctx = ([], t) →
        exec (.fenceUn f) s = .next ((t.dropUn w.core w.ctx).complete (s.nextPc n.words) (fun w => w) (fun p => p))) ∧
      (s.releaseReady sc = true → (s.curWave = none ∨ sc < scopeCluster) →
        exec (.fenceUn f) s = .next (s.complete (s.nextPc n.words) (fun w => w) (fun p => p))) ∧
      (s.releaseReady sc = false → exec (.fenceUn f) s = .next (s.setWait (.retry 6 true)))) ∧
    (∀ i w, shape i = .countWait → Issues i s r n → s.curWave = some w →
      exec i s = .next (if 63 ≤ (s.srd n.x.d.toNat).toNat ∨ w.counter (n.x.disp.toNat % 8) ≤ (s.srd n.x.d.toNat).toNat
        then s.complete (s.nextPc n.words) (fun w => w) (fun p => p) else s.setWait (.retry 6 true)))

/-- pref and evict, when they issue, answer a next state whatever their lanes meet: the wave goes on at the next instruction with
its registers, its accesses in flight, WS and WSAT as they were. (That the store-fault queue of the wave may have grown is
R127: an eviction may meet a write-back fault.) (12_instr_memory.md R227) -/
def Obligations.HintsComplete : Prop :=
  ∀ (i : Instr) (s : State) (w : Wave) (r : Row) (n : Norm),
    (shape i = .prefetch ∨ ∃ f, i = .evict f) → Issues i s r n → s.curWave = some w →
    ∃ t v, exec i s = .next t ∧ t.curWave = some v ∧ t.cs = s.cs ∧ t.csMark = s.csMark ∧ t.om = s.om ∧
      v = { w.completed (s.nextPc n.words) with sfq := v.sfq }

/-- btrans, when it issues on a canonical s[SA] and the page translates with the right to read it, or else with U alone, sets b[D]
valid with the virtual base, the physical base, the entry's page kind and rights, WR only with W and the dirty bit, and LIMIT to
the end of the page (log entry 11 names that choice); when the page translates in neither way, b[D] is invalid and holds only the
virtual base; nothing else of the wave changes. An address that is not canonical traps. (12_instr_memory.md R226,
04_memory_as_seen.md R93, 04_memory_as_seen.md R94) -/
def Obligations.BaseTranslation : Prop :=
  ∀ (f : XF) (s t u : State) (w : Wave) (r : Row) (n : Norm),
    Issues (.btrans f) s r n → s.curWave = some w →
    let v := s.srd n.x.sa.toNat
    let vb := v.toNat % 2 ^ 57
    let asUser : Need := { read := false, write := false, fetch := false, user := true }
    let put (t : State) (b : BReg) : State :=
      t.complete (s.nextPc n.words) (fun w => { w with b := sput (fun _ => BReg.none) w.b n.x.d.toNat b }) (fun p => p)
    (canonical v = false → exec (.btrans f) s = .next (s.takeTrap causeNoncanonical s.curPc v 0).settle) ∧
    let found (e : TlbEntry) : BReg :=
      { valid := true, vb := vb, pb := e.frame + (vb - e.va), limit := min (e.va + e.size - vb) (2 ^ 32 - 1), ord := e.ord,
        rd := e.r, wr := e.w && e.d, usr := e.u }
    (canonical v = true → ∀ e, s.translate w.core w.ctx v.toNat (Need.load false) = (.ok e, t) →
      exec (.btrans f) s = .next (put t (found e))) ∧
    (canonical v = true → ∀ x, s.translate w.core w.ctx v.toNat (Need.load false) = (x, t) → (∀ e, x ≠ .ok e) →
      (∀ e, t.translate w.core w.ctx v.toNat asUser = (.ok e, u) → exec (.btrans f) s = .next (put u (found e))) ∧
      (∀ y, t.translate w.core w.ctx v.toNat asUser = (y, u) → (∀ e, y ≠ .ok e) →
        exec (.btrans f) s = .next (put u { BReg.none with vb := vb })))

/-- xld, on a Spindle program, when it issues and passes the checks of R212 with no poison met and no peer refusing, writes to
x[D] the bytes of its elements, extended as lds does; xst writes the elements of x[D], and adds the lines of RC stores to WS;
both go on. (12_instr_memory.md R229, 05_consistency.md R125) -/
def Obligations.SpindleLoadsAndStores : Prop :=
  (∀ (f : XF) (s : State) (p : Spindle) (r : Row) (n : Norm) (es : List Elem) (t u : State) (v : Nat),
    Issues (.xld f) s r n → s.curSpindle = some p →
    s.spElems { AccForm.load with regs := false } n 0 .load = .ok es t →
    es.foldl (fun (acc : Option (Nat × State)) e => acc.bind (fun a =>
      let b := a.2.spRead p e
      if b.1.poison || b.1.refused then none else some (a.1 + b.1.value * 2 ^ (8 * e.at_), b.2))) (some (0, t)) = some (v, u) →
    exec (.xld f) s = .next (u.complete (s.nextPc n.words) (fun w => w.withS n.x.d.toNat (BitVec.ofNat 64 (extendBytes v (xSize n.x) (xSigned n.x) 64)))
      (fun q => q.withX n.x.d.toNat (BitVec.ofNat 64 (extendBytes v (xSize n.x) (xSigned n.x) 64))))) ∧
  (∀ (f : XF) (s : State) (p : Spindle) (r : Row) (n : Norm) (es : List Elem) (t u : State),
    Issues (.xst f) s r n → s.curSpindle = some p →
    s.spElems { AccForm.store with regs := false, imprecise := false } n (s.srd n.x.d.toNat).toNat .store = .ok es t →
    es.foldl (fun (acc : Option State) e => acc.bind (fun a => let b := a.spWrite p e; if b.1 then none else some b.2)) (some t) = some u →
    exec (.xst f) s = .next ((u.setSig ((es.filter u.signs).foldl (fun g e => sigAdd e.line g) u.curSig.1) u.curSig.2).complete
      (s.nextPc n.words) (fun w => w) (fun q => q)))

/-- ostore, when it issues on a slot of its own core: with room in the slot, which is filling or allocated, every lane's bytes are
written in lane order at their offsets (a byte past the slot's 16 KiB has no place, log entry 58), the slot counts them and is
ready when its size is reached, the store count rises by one, the store path counts the instruction behind its earlier accesses,
and the wave goes on; on a free slot, or one of another context, it raises slot-state; past the declared size it raises
slot-overfill, naming the lanes whose bytes pass it, and writes nothing; on a ready or busy slot it waits. A slot of another
core is an illegal operand. (12_instr_memory.md R225, 03_matrix_model.md R70, 03_matrix_model.md R71) -/
def Obligations.SlotStores : Prop :=
  ∀ (f : XF) (s : State) (w : Wave) (p : Spindle) (r : Row) (n : Norm),
    Issues (.ostore f) s r n → s.curWave = some w → s.spindle? (w.core / 4) = some p → w.counter 2 < 63 →
    let i := n.x.sa.toNat
    let size := xSize n.x
    let lanes := lanesOf (laneSet w n.x)
    let o := p.slot i
    let total := size * lanes.length
    let fits := o.count + total ≤ o.size ∧ ∀ L ∈ lanes, s.laneOff w n.x size L + size ≤ o.size
    let om := lanes.foldl (fun m L =>
      let off := s.laneOff w n.x size L
      let k := min size (16384 - off)
      m.writeNat (slotAddr (w.core / 4) i + off) k (s.vwords w n.x.d.toNat L ((size + 3) / 4) % 2 ^ (8 * k))) s.om
    let written := lanes.foldl (fun m L => m ||| (BitVec.ofNat 16384 (2 ^ size - 1) <<< s.laneOff w n.x size L)) o.written
    (i / 16 ≠ w.core % 4 → exec (.ostore f) s = .next (s.takeTrap causeIllegalOperand s.curPc 0 0).settle) ∧
    (i / 16 = w.core % 4 → (p.ctx ≠ w.ctx ∨ o.state = .free) → exec (.ostore f) s = .next (s.takeTrap causeSlotState s.curPc 0 0).settle) ∧
    (i / 16 = w.core % 4 → p.ctx = w.ctx → (o.state = .ready ∨ o.state = .inUse) → exec (.ostore f) s = .next (s.setWait (.retry 8 true))) ∧
    (i / 16 = w.core % 4 → p.ctx = w.ctx → o.state ≠ .free → o.state ≠ .ready → o.state ≠ .inUse → ¬ fits →
      ∃ m, IsMask m (fun L => (laneSet w n.x).getLsbD L && decide (o.size < s.laneOff w n.x size L + size)) ∧
        exec (.ostore f) s = .next (s.takeTrap causeSlotOverfill s.curPc 0 m).settle) ∧
    (i / 16 = w.core % 4 → p.ctx = w.ctx → o.state ≠ .free → o.state ≠ .ready → o.state ≠ .inUse → fits →
      exec (.ostore f) s = .next ((((({ s with om := om }).modSpindle (w.core / 4) (fun q => q.setSlot i
        { o with count := o.count + total, state := if o.count + total = o.size then .ready else .filling, written := written })).modWave
          w.core w.slot (fun v => { v with stseq := v.stseq + 1 })).countDone w 2).complete (s.nextPc n.words) (fun v => v) (fun q => q)))

/-- When a wave joins the arrival set of a slot, the phase rises by one and the set empties if the set, with the wave, now holds
every wave of the block that has not exited and there is one; otherwise the wave is added and the phase stays. When a wave
exits, it leaves the expected waves and the sets of all slots of the block, each of which is tested again. No other slot
changes. (13_instr_sync_copy.md R232) -/
def Obligations.BarrierPhases : Prop :=
  (∀ (b : Block) (i j wid : Nat),
    let all := (b.bar i).arrived ||| (1#64 <<< wid)
    ((b.arrive i wid).bar i = if b.alive ≠ 0 ∧ b.alive &&& ~~~all = 0 then { phase := (b.bar i).phase + 1, arrived := 0 }
      else { phase := (b.bar i).phase, arrived := all }) ∧
    (j ≠ i → (b.arrive i wid).bar j = b.bar j)) ∧
  (∀ (b : Block) (i wid : Nat),
    let alive := b.alive &&& ~~~(1#64 <<< wid)
    let left := (b.bar i).arrived &&& ~~~(1#64 <<< wid)
    (b.leave wid).alive = alive ∧
    (i < b.bars → (b.leave wid).bar i = if alive ≠ 0 ∧ alive &&& ~~~left = 0 then { phase := (b.bar i).phase + 1, arrived := 0 }
      else { phase := (b.bar i).phase, arrived := left }) ∧
    (b.bars ≤ i → (b.leave wid).bar i = b.bar i))

/-- On a slot past the block's count they raise barrier-slot. bar and bararr raise barrier-rearrive when the wave has arrived in
the phase already; when their release has nothing to wait for and writes every line back, the wave arrives, and bararr gives
s[D] the phase it arrived in and goes on, while bar goes on, with an acquire, if the phase has moved, and waits for it
otherwise. barwait waits while the phase is the one in s[SA], and goes on with an acquire when it is not. A wave waiting in
bar goes on, with an acquire, once the phase has moved. (13_instr_sync_copy.md R231, 13_instr_sync_copy.md R232,
13_instr_sync_copy.md R233, 05_consistency.md R120) -/
def Obligations.BlockBarriers : Prop :=
  ∀ (i : Instr) (s : State) (w : Wave) (b : Block) (r : Row) (n : Norm) (sc : Nat),
    shape i = .barrier → Issues i s r n → s.curWave = some w → s.block? w.launch w.block = some b → s.scopeIn n = some sc →
    let j := n.x.disp.toNat % 32
    let now := (b.bar j).phase
    let pc := s.nextPc n.words
    (b.bars ≤ j → exec i s = .next (s.takeTrap causeBarrierSlot s.curPc 0 0).settle) ∧
    (j < b.bars → n.sub = 2 → exec i s = .next (if (s.srd n.x.sa.toNat).setWidth 32 = now then s.setWait (.barrier j now sc)
      else (s.acquire120 sc).complete pc (fun w => w) (fun p => p))) ∧
    (j < b.bars → n.sub ≠ 2 → (∀ a c d, w.wait ≠ .barrier a c d) →
      ((b.bar j).arrived.getLsbD w.wid = true → exec i s = .next (s.takeTrap causeRearrive s.curPc 0 0).settle) ∧
      (∀ t, (b.bar j).arrived.getLsbD w.wid = false → s.releaseReady sc = true → s.releaseStep sc = (none, t) →
        let u := t.modBlock w.launch w.block (fun b => b.arrive j w.wid)
        (n.sub = 1 → exec i s = .next (u.complete pc (fun v => v.withS n.x.d.toNat (now.setWidth 64))
          (fun q => q.withX n.x.d.toNat (now.setWidth 64)))) ∧
        (∀ c, n.sub ≠ 1 → u.block? w.launch w.block = some c → exec i s = .next (if (c.bar j).phase ≠ now
          then (u.acquire120 sc).complete pc (fun w => w) (fun p => p) else u.setWait (.barrier j now sc)))) ∧
      ((b.bar j).arrived.getLsbD w.wid = false → s.releaseReady sc = false → exec i s = .next (s.setWait (.retry 5 true)))) ∧
    (j < b.bars → n.sub ≠ 2 → ∀ a phase d, w.wait = .barrier a phase d → exec i s = .next (if phase = now
      then s.setWait (.barrier a phase d) else (s.acquire120 sc).complete pc (fun w => w) (fun p => p)))

/-- bbarr on a byte barrier in the block's scratchpad, aligned to 16 bytes, its reserved bits zero and no poison in it, with both
counts between 0 and 2^48, when its release has nothing to wait for and writes every line back: the pending count takes the
expected bytes and gives up the arrived ones; when the sum passes 2^48 either way it raises the overflow cause; when the
barrier is armed, or is armed by an expected count above zero, and the count is zero, the phase rises by one and the barrier
is disarmed; otherwise it keeps its phase and its arming. No other byte of the scratchpads and registers changes. bbwait waits
while the phase is the one it names and goes on with an acquire when it is not. Outside the scratchpad both raise scratchpad-
range. (13_instr_sync_copy.md R231, 13_instr_sync_copy.md R234, 04_memory_as_seen.md R99, 04_memory_as_seen.md R100,
05_consistency.md R120) -/
def Obligations.ByteBarriers : Prop :=
  ∀ (i : Instr) (s : State) (w : Wave) (b : Block) (r : Row) (n : Norm) (sc : Nat),
    shape i = .byteBarrier → Issues i s r n → s.curWave = some w → s.block? w.launch w.block = some b → s.scopeIn n = some sc →
    let off := (s.srd n.x.sa.toNat).toNat % 2 ^ 32
    let a := b.core * 2 ^ 20 + b.scrBase + off
    let last := s.scalOpnd n (r.opnds n.accum).2.2.2 n.x.sc
    let cnt := (s.srd n.x.sb.toNat).toInt
    let c := (BitVec.ofNat 64 (s.cs.readNat a 8)).toInt
    let phase := s.cs.readNat (a + 8) 4
    let flags := s.cs.readNat (a + 12) 4
    let pc := s.nextPc n.words
    (n.sub = 0 → 0 ≤ cnt → cnt ≤ 2 ^ 48 → 0 ≤ last.toInt → last.toInt ≤ 2 ^ 48 → off + 16 ≤ b.scrSize →
      s.anyPoison (6 * 2 ^ 48 + a) 16 = false → off % 16 = 0 → flags < 2 →
      let d := c + last.toInt - cnt
      (2 ^ 48 < d ∨ d < -(2 ^ 48) → exec i s = .next (s.takeTrap causeByteOverflow s.curPc 0 0).settle) ∧
      (∀ t, -(2 ^ 48) ≤ d → d ≤ 2 ^ 48 → s.releaseReady sc = true → s.releaseStep sc = (none, t) → ∃ u, exec i s = .next u ∧
        u = { t.complete pc (fun v => v) (fun p => p) with cs := u.cs } ∧
        (∀ x, (x < a ∨ a + 16 ≤ x) → u.cs.read x = s.cs.read x) ∧
        BitVec.ofNat 64 (u.cs.readNat a 8) = BitVec.ofInt 64 d ∧
        (let armed := flags = 1 ∨ 0 < last.toInt
         (armed ∧ d = 0 → u.cs.readNat (a + 8) 4 = (phase + 1) % 2 ^ 32 ∧ u.cs.readNat (a + 12) 4 = 0) ∧
         (armed ∧ d ≠ 0 → u.cs.readNat (a + 8) 4 = phase ∧ u.cs.readNat (a + 12) 4 = 1) ∧
         (¬ armed → u.cs.readNat (a + 8) 4 = phase ∧ u.cs.readNat (a + 12) 4 = 0)))) ∧
    (n.sub ≠ 0 → off + 16 ≤ b.scrSize → s.anyPoison (6 * 2 ^ 48 + a) 16 = false → off % 16 = 0 → flags < 2 →
      exec i s = .next (if phase = last.toNat % 2 ^ 32 then s.setWait (.retry 5 true)
        else (s.acquire120 sc).complete pc (fun w => w) (fun p => p))) ∧
    (b.scrSize < off + 16 → (n.sub = 0 → 0 ≤ cnt ∧ cnt ≤ 2 ^ 48 ∧ 0 ≤ last.toInt ∧ last.toInt ≤ 2 ^ 48) →
      exec i s = .next (s.takeTrap causeScratchRange s.curPc 0 0).settle)

/-- On a located cell that is aligned and in a space below 5, has no access of the wave in flight on it, no poison and no reserved
bit: tlinc adds s[D] to VALUE, raising WRAPS when the sum passes 2^64, and tlset writes s[D] as VALUE, each after a release
that writes every line back; tlwait goes on, with an acquire, when VALUE is at s[D] or above, and waits otherwise with a
request for a waiter slot behind those already waiting. A wave released in tlwait, and one that was saved as released at this
instruction, goes on without reading VALUE again. A cell
that is misaligned or in spaces 5 to 7 raises timeline-cell. (13_instr_sync_copy.md R231, 13_instr_sync_copy.md R235,
13_instr_sync_copy.md R236, 20_scheduling_hw.md R313, 20_scheduling_hw.md R314) -/
def Obligations.Timelines : Prop :=
  ∀ (i : Instr) (s : State) (w : Wave) (r : Row) (n : Norm) (sc : Nat),
    shape i = .timeline → Issues i s r n → s.curWave = some w → s.scopeIn n = some sc →
    let pc := s.nextPc n.words
    let goes (t : State) : State := (t.acquire120 sc).complete pc (fun w => { w with tlrel := none }) (fun p => p)
    (∀ x, w.wait = .timeline true x → exec i s = .next (goes s)) ∧
    ((∀ a x, w.wait ≠ .timeline a x) → n.sub = 2 → w.tlrel = some w.pc → exec i s = .next (goes s)) ∧
    (∀ va pa k t, (∀ a x, w.wait ≠ .timeline a x) → (n.sub = 2 → w.tlrel ≠ some w.pc) →
      s.locate (AccForm.timeline (n.sub == 2)) n 16 = .found va pa k t →
      (va.toNat % 16 ≠ 0 ∨ 4 < paSpace pa → exec i s = .next (t.takeTrap causeTimelineCell t.curPc va 0).settle) ∧
      (∀ v u, va.toNat % 16 = 0 → paSpace pa ≤ 4 → t.lineBusy pa = false → (t.l1Flush w.core w.ctx (pa / 128)).anyPoison pa 16 = false →
        (t.l1Flush w.core w.ctx (pa / 128)).l2Read w.ctx pa 16 = (v, u) → v / 2 ^ 96 = 0 →
        let a := t.srd n.x.d.toNat
        (∀ x, n.sub ≠ 2 → u.releaseReady sc = true → u.releaseStep sc = (none, x) →
          exec i s = .next ((x.timelineWrite w.who va.toNat pa (n.sub == 0) a).complete pc (fun w => w) (fun p => p))) ∧
        (n.sub = 2 → a.toNat ≤ v % 2 ^ 64 → exec i s = .next (goes u)) ∧
        (n.sub = 2 → v % 2 ^ 64 < a.toNat →
          let q : Waiter := { index := none, core := w.core, slot := w.slot, ctx := w.ctx, va := va.toNat, pa := pa, threshold := a,
                              order := u.order }
          exec i s = .next ((({ u with waiters := u.waiters ++ [q], order := u.order + 1 }.setWait (.timeline false sc)).grantWaiter).setWait
            (.timeline false sc)))))

/-- cp and cpred, when they issue with a control word and layout records that raise nothing: when the token is idle, no earlier
store of the wave into the source is in flight and the range-lock table has room, the ranges of the copy are locked, the dirty
lines of its source are written back, WS takes the lines of its destination, the token is busy with the copy, and the wave goes
on; otherwise the wave waits, and keeps the records it has read until it issues with them. twait goes on when none of the tokens
that its mask names is busy or stopped, and waits otherwise. (13_instr_sync_copy.md R237, 13_instr_sync_copy.md R239,
13_instr_sync_copy.md R241, 04_memory_as_seen.md R98, 04_memory_as_seen.md R105, 05_consistency.md R124) -/
def Obligations.CopiesIssue : Prop :=
  (∀ (i : Instr) (s u : State) (w : Wave) (r : Row) (n : Norm) (c : Copy),
    shape i = .copy → Issues i s r n → s.curWave = some w →
    let red := n.sub == 1
    let g := words4 (s.srd n.x.sc.toNat) (s.srd (n.x.sc.toNat + 1)) (s.srd (n.x.sc.toNat + 2)) (s.srd (n.x.sc.toNat + 3))
    let tok := n.x.d.toNat
    let first := w.latched = none ∧ (s.poisonCheck false (copySources n g) n.x).isSome = false ∧ copyOperandBad red g = false ∧
      ∃ (src dst : BitVec 512) (t : State), s.handle (s.srd n.x.sa.toNat) 1 = .ok src t ∧
        (if bit g.toNat 192 = true then dst = 0 ∧ u = t else t.handle (t.srd n.x.sb.toNat) 1 = .ok dst u) ∧
        c = { started := false, red := red, shape := n.x.shape.toNat, type := n.x.type.toNat, group := g, src := src,
              dst := dst, user := u.curMode == .user, pc := w.pc, since := u.cyc, tags := [], answers := [],
              pend := [], wrote := [] } ∧
        u.copyLayoutBad (w.core / 4) c = false ∧ (c.bben = true → ∃ b, s.block? w.launch w.block = some b ∧ c.bboff + 16 ≤ b.scrSize)
    first ∨ (w.latched = some c ∧ u = s) →
    let late := ∃ q ∈ c.ranges, q.2.2 = false ∧ w.storesInto q.1 q.2.1 = true
    let x := (c.ranges.filter (fun q => !q.2.2)).foldl (fun s q => s.writeBackRange w.core w.ctx q.1 q.2.1) (u.lockCopy w tok c)
    let ws := (c.ranges.filter (fun q => q.2.2)).foldl (fun g q => x.destSig w.core w.ctx q.1 q.2.1 c.user g) w.ws
    ((w.token tok).busy = false → ¬ late → u.lockRoom (w.core / 4) c = true →
      exec i s = .next (x.complete (s.nextPc n.words)
        (fun w => { w.setToken tok { state := 1, cause := 0, progress := 0, copy := some c } with ws := ws }) (fun p => p))) ∧
    ((w.token tok).busy = true ∨ late ∨ u.lockRoom (w.core / 4) c = false →
      exec i s = .next ((u.modCurWave (fun v => { v with latched := some c })).setWait (.retry 8 true)))) ∧
  (∀ (i : Instr) (s : State) (w : Wave) (r : Row) (n : Norm), shape i = .tokenWait → Issues i s r n → s.curWave = some w →
    let held := ∃ k, k < 8 ∧ bit n.x.disp.toNat k = true ∧ (w.token k).busy = true
    (held → exec i s = .next (s.setWait (.retry 6 true))) ∧
    (¬ held → exec i s = .next (s.complete (s.nextPc n.words) (fun w => w) (fun p => p))))

/-- spawn in a task pool with room, on an aligned record that is well formed, after its release, writes the record into the next
ring slot and queues a task with the next number; outside a pool it raises the spawn-context cause, and with a full ring the
ring-full cause. launch on a DEVQ queue with room, after a release to the system, writes the record into the slot at TAIL,
writes TAIL plus one and marks the queue pending; with no such queue, or a full one, it traps. spnrun with an aligned,
canonical entry, after its release, starts the program on the cluster's Spindle core when that is free and no request comes
before it, and waits otherwise. (13_instr_sync_copy.md R242, 13_instr_sync_copy.md R243, 13_instr_sync_copy.md R244,
01_execution_model.md R32, 20_scheduling_hw.md R308, 03_matrix_model.md R68) -/
def Obligations.NewWork : Prop :=
  (∀ (f : XF) (s : State) (w : Wave) (r : Row) (n : Norm), Issues (.spawn f) s r n → s.curWave = some w →
    let off := (s.srd n.x.sa.toNat).toNat % 2 ^ 32 + n.x.disp.toNat
    let va := (w.breg n.x.d.toNat).base + BitVec.ofNat 64 off
    (∀ l, s.launch? w.launch = some l → l.kind ≠ 2 → exec (.spawn f) s = .next (s.takeTrap causeSpawnContext s.curPc 0 0).settle) ∧
    (∀ l rec t, s.launch? w.launch = some l → l.kind = 2 →
      s.recordRead (w.breg n.x.d.toNat) (w.breg n.x.d.toNat).base off = .ok rec t → va.toNat % 64 = 0 → taskBad rec = false →
      (l.ringFull = true → exec (.spawn f) s = .next (t.takeTrap causeRingFull t.curPc 0 0).settle) ∧
      (∀ u m, l.ringFull = false → t.releaseReady (taskScope rec) = true → t.releaseStep (taskScope rec) = (none, u) →
        (u.ringWrite w.launch rec).launch? w.launch = some m →
        let task : Task := { record := rec, number := m.enqueued, time := (u.ringWrite w.launch rec).cyc,
                             ring := (m.ringVa m.enqueued).toNat, scope := taskScope rec, aged := false }
        exec (.spawn f) s = .next (((u.ringWrite w.launch rec).setLaunch { m with enqueued := m.enqueued + 1, held := m.held + 1, tasks := m.tasks ++ [task] }).complete
            (s.nextPc n.words) (fun w => w) (fun p => p))))) ∧
  (∀ (f : XF) (s : State) (w : Wave) (r : Row) (n : Norm), Issues (.launch f) s r n → s.curWave = some w →
    let q := (s.srd n.x.sa.toNat).toNat
    (∀ t, s.devQueue w.core w.ctx q = (none, t) → exec (.launch f) s = .next (t.takeTrap causeLaunchQueue t.curPc 0 0).settle) ∧
    (∀ d ps t rec u, s.devQueue w.core w.ctx q = (some (d, ps), t) → t.recordRead BReg.none (s.srd n.x.sb.toNat) 0 = .ok rec u →
      (d.count = 2 ^ d.sizelog → exec (.launch f) s = .next (u.takeTrap causeQueueFull u.curPc 0 0).settle) ∧
      (∀ x y, d.count ≠ 2 ^ d.sizelog → u.releaseReady scopeSystem = true → u.releaseStep scopeSystem = (none, x) →
        (x.engineWrite w.who rec.toNat ps).queueWrite w.ctx d 16 8 (d.tail + 1).toNat = some y →
        exec (.launch f) s = .next ((y.markPending w.ctx (1#64 <<< q)).complete (s.nextPc n.words) (fun w => w) (fun p => p))))) ∧
  (∀ (f : XF) (s t : State) (w : Wave) (r : Row) (n : Norm), Issues (.spnrun f) s r n → s.curWave = some w →
    let entry := s.srd n.x.sa.toNat
    let cl := w.core / 4
    (entry % 4 ≠ 0 → exec (.spnrun f) s = .next (s.takeTrap causeMisalignedPc s.curPc 0 0).settle) ∧
    (entry % 4 = 0 → canonical entry = true → s.releaseReady scopeCluster = true → s.releaseStep scopeCluster = (none, t) →
      let u := t.spnRequest w
      let first := ∃ q, u.spnBest cl = some q ∧ q.core = w.core ∧ q.slot = w.slot
      let p := Spindle.enter cl w.ctx w.launch w.block w.blk w.prio entry (u.srd n.x.sb.toNat)
      (u.spindle? cl = none → first → exec (.spnrun f) s = .next
        ({ u.dropSpnRequest w.core w.slot with spindles := u.spindles ++ [p] }.complete (s.nextPc n.words) (fun w => w) (fun p => p))) ∧
      (u.spindle? cl ≠ none ∨ ¬ first → exec (.spnrun f) s = .next (u.setWait (.retry 6 true)))))

/-- regsurrender of 1 to 31 blocks that leaves at least one, with no load in flight to them and no access in flight at their
bytes, puts the last blocks into the block's pool, the highest first, takes their poison marks away and goes on; with one in
flight it waits. regclaim of 1 to 31 blocks that leaves at most 32, when no claim stands before it and the pool holds enough,
takes the blocks that entered the pool earliest, cleared, behind its own in that order, and goes on; else it joins the block's
claims and waits, which may be the deadlock that ends every claim of the block in its trap; a granted one goes on. Other counts
are an illegal operand. A grant goes to the oldest claim when the pool holds enough. (13_instr_sync_copy.md R245,
01_execution_model.md R35, 01_execution_model.md R36) -/
def Obligations.RegisterBlocks : Prop :=
  (∀ (i : Instr) (s : State) (w : Wave) (r : Row) (n : Norm), shape i = .surrender → Issues i s r n → s.curWave = some w →
    let k := n.x.disp.toNat
    let keep := w.blocks.length - k
    let gone := w.blocks.drop keep
    let free := ∀ a ∈ w.flight, a.done = false → (∀ reg bytes sg, a.dest = .vec reg bytes sg → reg + (bytes + 3) / 4 ≤ 8 * keep) ∧
        ∀ e ∈ a.elems, paSpace e.pa = 6 → ∀ g ∈ gone,
          paOff e.pa + e.bytes ≤ w.core * 2 ^ 20 + 2048 * g ∨ w.core * 2 ^ 20 + 2048 * g + 2048 ≤ paOff e.pa
    (k = 0 ∨ 31 < k ∨ w.blocks.length ≤ k → exec i s = .next (s.takeTrap causeIllegalOperand s.curPc 0 0).settle) ∧
    (1 ≤ k → k ≤ 31 → k < w.blocks.length → ¬ free → exec i s = .next (s.setWait (.retry 10 true))) ∧
    (1 ≤ k → k ≤ 31 → k < w.blocks.length → free →
      ∃ t, exec i s = .next t ∧
        t = { (s.modBlock w.launch w.block (fun b => { b with pool := b.pool ++ gone.reverse })).complete (s.nextPc n.words)
          (fun w => { w with blocks := w.blocks.take keep }) (fun p => p) with csMark := t.csMark } ∧
        ∀ m, m ∈ t.csMark ↔ m ∈ s.csMark ∧ ∀ g ∈ gone, 4 * m < w.core * 2 ^ 20 + 2048 * g ∨ w.core * 2 ^ 20 + 2048 * g + 2048 ≤ 4 * m)) ∧
  (∀ (i : Instr) (s : State) (w : Wave) (r : Row) (n : Norm), shape i = .claim → Issues i s r n → s.curWave = some w →
    let k := n.x.disp.toNat
    (w.wait = .claim 0 → exec i s = .next (s.complete (s.nextPc n.words) (fun w => w) (fun p => p))) ∧
    (∀ m, m ≠ 0 → w.wait = .claim m → exec i s = .next (s.setWait (.claim m))) ∧
    ((∀ m, w.wait ≠ .claim m) → (k = 0 ∨ 31 < k ∨ 32 < w.blocks.length + k) →
      exec i s = .next (s.takeTrap causeIllegalOperand s.curPc 0 0).settle) ∧
    ((∀ m, w.wait ≠ .claim m) → 1 ≤ k → k ≤ 31 → w.blocks.length + k ≤ 32 → ∀ b, s.block? w.launch w.block = some b →
      (b.claims = [] → k ≤ b.pool.length → (s.wavesOf w.launch w.block).find? (fun v => v.wid == w.wid) = some w →
        exec i s = .next (((s.setBlock { b with pool := b.pool.drop k }).clearBlocks w.core (b.pool.take k)).complete (s.nextPc n.words)
          (fun v => { v with blocks := v.blocks ++ b.pool.take k, wait := .ready }) (fun p => p))) ∧
      let u := (s.setBlock { b with claims := b.claims ++ [w.wid] }).setWait (.claim k)
      let d := u.claimDeadlock w.launch w.block
      (∀ v, u.grantClaim w.launch w.block = u → u.curWave = some v → v.wait ≠ .claim 0 →
        exec i s = .next (d.setWait ((d.curWave.map (·.wait)).getD .ready))))) ∧
  (∀ (s : State) (launch block wid n : Nat) (rest : List Nat) (b : Block) (w : Wave),
    s.block? launch block = some b → b.claims = wid :: rest → (s.wavesOf launch block).find? (fun w => w.wid == wid) = some w →
    w.wait = .claim n →
    (b.pool.length < n → s.grantClaim launch block = s) ∧
    (n ≤ b.pool.length → s.grantClaim launch block =
      ((s.setBlock { b with claims := rest, pool := b.pool.drop n }).clearBlocks w.core (b.pool.take n)).modWave w.core w.slot
        (fun v => { v with blocks := v.blocks ++ b.pool.take n, wait := .claim 0 }))) ∧
  (∀ (s : State) (launch block : Nat) (b : Block), s.block? launch block = some b →
    let dead := b.claims ≠ [] ∧ s.claimGrantable b = false ∧ ∀ i, i < 64 → b.alive.getLsbD i = true → i ∈ b.claims
    (¬ dead → s.claimDeadlock launch block = s) ∧
    (dead → s.claimDeadlock launch block = (s.wavesOf launch block).foldl (fun t w => if w.claimed.isSome = true
      then t.forWave w.core w.slot (fun u => (u.takeTrap causeClaimDeadlock w.pc 0 0).settle) else t) (s.setBlock { b with claims := [] })))

/-- With no poison in the records of the lanes that act, and room on the ray path, which counts each of them behind its earlier
accesses: remit in a generation or episode wave, with room in the pool, places the
ray of each lane whose record is valid, in lane order, and goes on; a generation wave waits where the new rays would fill the
pool past seven eighths; an episode wave past the capacity raises ray-pool-exhausted. rcont and rretire in an episode wave, no
lane of which has a disposition, give each lane that holds a ray its disposition, in lane order, and go on; a lane that has
one raises ray-disposition. Elsewhere each raises ray-context. epend in an episode wave settles its lanes and waits to end. A
ray that is retired is in its pool no longer. (14_instr_ray.md R249, 14_instr_ray.md R250, 14_instr_ray.md R253,
02_ray_model.md R46, 02_ray_model.md R61) -/
def Obligations.RayDispositions : Prop :=
  (∀ (i : Instr) (s : State) (w : Wave) (r : Row) (n : Norm), Issues i s r n → s.curWave = some w →
    let pc := s.nextPc n.words
    let lanes := lanesOf (w.rayLanes n.x)
    (∀ f, i = .remit f → recordPoison s w n = none →
      (w.kind ≠ .generation → w.kind ≠ .episode → exec i s = .next (s.takeTrap causeRayContext s.curPc 0 0).settle) ∧
      (∀ rl, s.rayPart w = some rl → w.counter 5 < 63 →
        let want := rl.rays.length + (lanes.filter (fun L => rayCheck (s.laneRecord w n L) == 0)).length
        (w.kind = .generation → exec i s = .next (if 7 * rl.cap < 8 * want then s.setWait (.retry 8 true)
          else ((lanes.foldl (remitLane n w) s).countDone w 5).complete pc (fun w => w) (fun p => p))) ∧
        (w.kind = .episode → exec i s = .next (if rl.cap < want then (s.takeTrap causeRayPoolExhausted s.curPc 0 0).settle
          else ((lanes.foldl (remitLane n w) s).countDone w 5).complete pc (fun w => w) (fun p => p))))) ∧
    (∀ f, (i = .rcont f ∧ recordPoison s w n = none) ∨ i = .rretire f →
      let act (t : State) (L : Nat) : State := if i = .rcont f then rcontLane n w t L else match (w.ray L).slot with
        | some slot => (t.retireRay w.launch slot).dispose w L 2
        | none => t
      (w.kind ≠ .episode → exec i s = .next (s.takeTrap causeRayContext s.curPc 0 0).settle) ∧
      (w.kind = .episode → w.rayLanes n.x &&& w.rdisp ≠ 0 → exec i s = .next (s.takeTrap causeRayDisposition s.curPc 0 0).settle) ∧
      (w.kind = .episode → w.rayLanes n.x &&& w.rdisp = 0 → w.counter 5 < 63 → exec i s = .next (((lanes.foldl act s).countDone w 5).complete pc (fun w => w) (fun p => p)))) ∧
    (i = .epend → w.kind = .episode → exec i s = .next ((s.settleLanes w).setWait (.exiting true)))) ∧
  (∀ (s : State) (num slot : Nat), (s.retireRay num slot).ray? num slot = none)

/-- In a generation or episode wave, rcell writes to each lane the origin cell, and rdircls the direction class, of the three
components in the registers from SA up, and the index that names nothing where a component is NaN or infinite or the direction
is zero; a cell lies below 32768 and a class below 64; other waves raise ray-context. (14_instr_ray.md R254, 02_ray_model.md
R47) -/
def Obligations.KeyParts : Prop :=
  (∀ (i : Instr) (s : State) (w : Wave) (r : Row) (n : Norm) (f : XF),
    (i = .rcell f ∨ i = .rdircls f) → Issues i s r n → s.curWave = some w →
    (w.kind ≠ .generation → w.kind ≠ .episode → exec i s = .next (s.takeTrap causeRayContext s.curPc 0 0).settle) ∧
    (∀ rl, (w.kind = .generation ∨ w.kind = .episode) → s.rayPart w = some rl →
      let comp (k L : Nat) : Nat := (s.vrd w (n.x.sa.toNat + k) L).toNat
      let key (L : Nat) : Nat := match v3Of (comp 0 L) (comp 1 L) (comp 2 L) with
        | none => 2 ^ 32 - 1
        | some v => if i = .rcell f then originCell rl.header v else if v.isZero then 2 ^ 32 - 1 else directionClass v
      ∃ t, exec i s = .next t ∧
        LanesWritten s t w n.x.d.toNat 1 (laneSet w n.x) (fun L => BitVec.ofNat 64 (key L)) (fun v => v) (s.nextPc n.words))) ∧
  (∀ (h : BitVec 512) (v : V3), originCell h v < 32768 ∧ directionClass v < 64)

/-- rhit in an episode wave, for a vertex 0 to 2, and rinst and rxform in a generation or episode wave, with every index below the
scene's instance count or naming none, when their addresses pass the checks of R212 and there is room, put in flight the reads
of the vertex, of the second half of the instance record, or of a row of its transform; the lanes that name none take zeros;
the wave goes on. racc, likewise, puts in flight the five updates of each lane's entry, counts the lanes that it performs, and
goes on. (14_instr_ray.md R252, 14_instr_ray.md R255, 02_ray_model.md R63, 12_instr_memory.md R212) -/
def Obligations.SceneReadsAndSamples : Prop :=
  ∀ (i : Instr) (s : State) (w : Wave) (r : Row) (n : Norm), Issues i s r n → s.curWave = some w →
    let pc := s.nextPc n.words
    let path (e : Elem) : Nat := e.path w.core
    let lanes := lanesOf (laneSet w n.x)
    let index (L : Nat) : Nat := (s.laneOpnd w n r.sb n.x.sb L).toNat % 2 ^ 32
    let reads (regs : Nat) (addr : Nat → Option Nat) : Prop :=
      let reqs : List Req := lanes.filterMap (fun L => (addr L).map (fun a =>
        { lane := some L, off := a % 2 ^ 64, bytes := 4 * regs, mask := allBytes (4 * regs), data := 0, op := .load }))
      let zeros := (lanes.filter (fun L => (addr L).isNone)).map (fun L => (L, 0#64))
      ∀ l sf t, s.checkReqs .load BReg.none 0 reqs = .ok l sf t → Room w path (elemsOf false 0 l) false →
        ∃ u, InFlight path t u w (elemsOf false 0 l) (.vec n.x.d.toNat (4 * regs) false) (reqLanes reqs) [] w.stseq pc ∧
          exec i s = .next ((List.range regs).foldl (fun u k => u.vputAll w (n.x.d.toNat + k) 1 zeros) u)
    (∀ f l sf t, i = .racc f →
      s.check w .accumulate n.x false (lanes.map (fun L =>
        { lane := some L, off := 32 * index L, bytes := 32, mask := allBytes 32, data := 0, op := .rmw 0 3 0 0 })) = .ok l sf t →
      let es := l.flatMap (accumElems s w n)
      (∀ e ∈ es, t.elemPoisoned w e = false) → Room w (fun _ => 5) es false →
      ∃ u, InFlight (fun _ => 5) t u w es .none 0 [] w.stseq pc ∧ exec i s = .next (u.bumpCtx w.ctx 26 l.length)) ∧
    ∀ f rl, s.rayPart w = some rl →
      (i = .rhit f → w.kind = .episode → index 0 ≤ 2 → reads 3 (fun L =>
        if (w.ray L).slot.isNone ∨ 3 ≤ (w.ray L).hitJ then none
        else some (hdrTbase rl.header + 4096 * (w.ray L).hitTreelet + 128 * (w.ray L).hitSlot + 36 * (w.ray L).hitJ + 12 * index 0))) ∧
      ((i = .rinst f ∨ i = .rxform f) → (w.kind = .generation ∨ w.kind = .episode) →
        (∀ L, (laneSet w n.x).getLsbD L = true → index L < hdrNinst rl.header ∨ index L = 2 ^ 32 - 1) →
        reads 4 (fun L => if index L = 2 ^ 32 - 1 then none
          else some (hdrIbase rl.header + 64 * index L + (if i = .rinst f then 48 else 16 * n.x.shape.toNat))))

/-- oclaim of a multiple of 128 from 128 to 16384 claims a free slot with that size, its format and count 0, its contents free values until
they are written (log entry 58); orel frees a claimed
slot; owait goes on when the slot is ready and waits while it is claimed, filling or in use; another state raises slot-state
and another size illegal-operand. batcom adds one to the committed batches; batwait goes on when the batch it names is done,
waits when it is not, and raises illegal-operand for one not yet committed. A batch is done when no operation of it or of an
earlier one is left. (15_instr_spindle.md R262, 15_instr_spindle.md R269, 03_matrix_model.md R70, 03_matrix_model.md R79) -/
def Obligations.SlotsAndBatches : Prop :=
  (∀ (i : Instr) (s : State) (p : Spindle) (r : Row) (n : Norm) (f : XF), Issues i s r n → s.curSpindle = some p →
    let pc := s.nextPc n.words
    let k := n.x.sa.toNat
    let size := (s.srd n.x.sb.toNat).toNat
    let trap (c : Nat) : State := (s.takeTrap c s.curPc 0 0).settle
    let goes (g : Spindle → Spindle) : State := s.complete pc (fun w => w) g
    (i = .oclaim f → exec i s = .next (if size % 128 ≠ 0 ∨ size < 128 ∨ 16384 < size then trap causeIllegalOperand
      else if (p.slot k).state = .free then { goes (fun q => q.setSlot k { state := .claimed, size := size, format := n.x.type.toNat, count := 0, written := 0, fresh := s.free })
        with free := s.free + 16384 }
      else trap causeSlotState)) ∧
    (i = .orel f → exec i s = .next (if (p.slot k).state = .claimed then goes (fun q => q.setSlot k OSlot.free) else trap causeSlotState)) ∧
    (i = .owait f → exec i s = .next (if (p.slot k).state = .free then trap causeSlotState
      else if (p.slot k).state = .ready then goes (fun q => q) else s.setWait (.retry 8 false))) ∧
    (i = .batcom → exec i s = .next (goes (fun q => { q with bcom := q.bcom + 1 }.batchesDone))) ∧
    (i = .batwait f →
      let b := (s.scalOpnd n (r.opnds n.accum).2.1 n.x.sa).toNat
      exec i s = .next (if p.bcom.toNat < b then trap causeIllegalOperand else if b ≤ p.bdone.toNat then goes (fun q => q)
        else s.setWait (.retry 8 false)))) ∧
  (∀ (p : Spindle) (b : Nat), p.bdone.toNat < b → b ≤ p.bcom.toNat →
    (b ≤ p.batchesDone.bdone.toNat ↔ ∀ o ∈ p.ops, b < o.batch))

/-- Elements written to accumulators read back, truncated to their width, and no other byte changes. aclr, when the shape fits,
gives the accumulators of the result the type, zeroes their bytes and goes on in the current batch. ascale, on accumulators of its
type, with a legal factor and column offset, writes to each element the product of the element, the factor and its column, rounded
once, adds to %fflags NV where an operand signals or a product is invalid, with what the rounding gives of NV and OF, and goes on in
the current batch. A factor or offset that is not legal is an illegal operand; a shape that does not fit raises matrix-shape, and
another type accumulator-type. (15_instr_spindle.md R266, 03_matrix_model.md R74, 03_matrix_model.md R75, 08_number_formats.md R158) -/
def Obligations.AccumulatorOperations : Prop :=
  (∀ (p : Spindle) (a : Nat) (t : AccTy) (vals : List Nat),
    (p.accWrite a t vals).accRead a vals.length t = vals.map (fun v => v % 2 ^ (8 * accElem t)) ∧
    ∀ x, (x < 18432 * a ∨ 18432 * a + accElem t * vals.length ≤ x) → (p.accWrite a t vals).acc.read x = p.acc.read x) ∧
  (∀ (s : State) (p : Spindle) (r : Row) (n : Norm) (f : XF), s.curSpindle = some p →
    let pc := s.nextPc n.words
    let a := n.x.d.toNat
    let t := accTyOf n.x.type.toNat
    let cols := shapeN n.x.shape.toNat
    let elems := shapeM n.x.shape.toNat * cols
    let trap (c : Nat) : State := (s.takeTrap c s.curPc 0 0).settle
    let op : MatOp := { batch := p.bcom.toNat + 1, reads := [], drain := none }
    (Issues (.aclr f) s r n →
      (accCount (a % 8) elems (t = .f64) = none → exec (.aclr f) s = .next (trap causeMatrixShape)) ∧
      (∀ u, accCount (a % 8) elems (t = .f64) = some u → ∃ q, exec (.aclr f) s = .next (s.setSpindle q) ∧
        q = { p.completed pc with accs := q.accs, acc := q.acc, ops := p.ops ++ [op] } ∧
        (∀ k, q.accTy k = if a ≤ k ∧ k < a + u then t else p.accTy k) ∧
        (∀ x, q.acc.read x = if 18432 * a ≤ x ∧ x < 18432 * a + 18432 * u then 0 else p.acc.read x))) ∧
    (Issues (.ascale f) s r n →
      let x := (s.srd n.x.sa.toNat).toNat
      let off := (s.scalOpnd n (r.opnds n.accum).2.2.1 n.x.sb).toNat
      let byCol := n.x.osel = 1
      let legal := (if byCol then off % 4 = 0 ∧ off + 4 * cols ≤ 16384 else off = 0) ∧ (t ≠ .f64 → x < 2 ^ 32)
      (¬ legal → exec (.ascale f) s = .next (trap causeIllegalOperand)) ∧
      (legal → accCount (a % 8) elems (t = .f64) = none → exec (.ascale f) s = .next (trap causeMatrixShape)) ∧
      (legal → ∀ u, accCount (a % 8) elems (t = .f64) = some u →
        ((∃ k, k < u ∧ p.accTy (a + k) ≠ t) → exec (.ascale f) s = .next (trap causeAccumulatorType)) ∧
        ((∀ k, k < u → p.accTy (a + k) = t) →
          let factor := (if t = .f64 then fmtF64 else fmtF32).value x
          let col (k : Nat) : FVal := if byCol then fmtF32.value (p.scratch.readNat (off + 4 * (k % cols)) 4) else .num false 1 0
          let elem (k : Nat) : FVal := (accFmt t).value ((p.accRead a elems t).getD k 0)
          let part (k : Nat) : FVal × Bool := (elem k).mul factor
          let prod (k : Nat) : FVal × Bool := (part k).1.mul (col k)
          let out (k : Nat) : Nat × Nat := rnd (prod k).1 (accFmt t) n.x.rnd.toNat false
          let invalid (k : Nat) : Bool :=
            (part k).2 || (prod k).2 || (elem k).isSnan || factor.isSnan || (col k).isSnan
          let flags (k : Nat) : Nat := ((out k).2 ||| (if invalid k then flagNV else 0)) &&& (flagNV ||| flagOF)
          exec (.ascale f) s = .next (s.setSpindle
            { (p.accWrite a t ((List.range elems).map (fun k => (out k).1))).completed pc with
              flags := p.flags ||| BitVec.ofNat 64 (((List.range elems).map flags).foldl (· ||| ·) 0), ops := p.ops ++ [op] })))))

/-- With legal operands, a shape that fits, slots of the right format and size and accumulators of an allowed type: when every
slot is ready and no group of a sparse operand is illegal, the operation runs every chunk, counts its multiply-accumulates,
takes its slots in use, joins the current batch and goes on; when a slot is not ready, it waits; when a group is illegal and
no other operation is left, it runs the chunks before that group and raises sparse-metadata with %spstop naming it. Of each
core an operation writes only the accumulators of its result, each element the sums of R167 over its old value, row and
column, and sets no flag but NV, OF and T2. (15_instr_spindle.md R263, 15_instr_spindle.md R264, 15_instr_spindle.md R265,
08_number_formats.md R167, 03_matrix_model.md R76, 03_matrix_model.md R78) -/
def Obligations.MatrixMultiplies : Prop :=
  (∀ (i : Instr) (s : State) (p : Spindle) (r : Row) (n : Norm) (u : Nat), shape i = .mma → Issues i s r n → s.curSpindle = some p →
    let o := Mma.of n
    let pads := s.scalOpnd n (r.opnds n.accum).2.2.2 n.x.sc
    o.illegal n pads = false → accCount o.acc (o.m * o.n) o.f64 = some u → (∀ k ∈ o.slots, (p.slot k).state ≠ .free) →
    o.sizeBad p pads.toNat = false → o.typeBad p u = false →
    ((∃ k ∈ o.slots, (p.slot k).state ≠ .ready) → exec i s = .next (s.setWait (.retry 8 false))) ∧
    ((∀ k ∈ o.slots, (p.slot k).state = .ready) →
      (firstBad (o.badGroups s p) = none → exec i s = .next ((s.countMacs p.ctx o (o.k / o.chunk)).setSpindle
        ((((o.run s p (o.k / o.chunk)).slotsTo o.slots .inUse).issue o.slots none).completed (s.nextPc n.words)))) ∧
      (∀ b, firstBad (o.badGroups s p) = some b → p.ops = [] →
        let t := (s.countMacs p.ctx o b.1).setSpindle { (o.run s p b.1).slotsTo o.slots .claimed with stop := spstopWord b }
        exec i s = .next (t.takeTrap causeSparseMetadata t.curPc (p.bcom + 1) 0).settle))) ∧
  (∀ (o : Mma) (s : State) (p : Spindle) (chunks core fl : Nat),
    let q := (o.runCore s chunks (p, fl) core).1
    let first := 8 * core + o.acc
    let ty := if o.f64 then AccTy.f64 else AccTy.f32
    let a := operandRows o.code (s.slotData p (slotA o.gang core o.na)) o.m o.k (chunks * o.chunk) o.sparse
    let b := operandRows o.code (s.slotData p (slotB o.gang core o.nb)) o.n o.k (chunks * o.chunk) false
    q = { p with acc := q.acc } ∧
    (∀ x, (x < 18432 * first ∨ 18432 * first + accElem ty * (o.m * o.n) ≤ x) → q.acc.read x = p.acc.read x) ∧
    (∀ k j, k < o.m → j < o.n → (q.accRead first (o.m * o.n) ty)[k * o.n + j]? = some
      ((mmaElement (o.code == 15) (p.elemTy first (k * o.n + j) o.f64) o.sat o.chunk chunks ((a.getD k []).map (·.1)) ((b.getD j []).map (·.1))
        ((p.accRead first (o.m * o.n) ty).getD (k * o.n + j) 0)).1 % 2 ^ (8 * accElem ty))))

/-- With a legal control operand, a shape that fits, accumulators of one allowed type and a layout record that matches the result,
whose barrier lies in the scratchpad: when the range-lock table has room, the converted elements join the drains of the
cluster in the current batch, the range of the destination is locked, WS takes its lines, NV and OF are set, and the program
goes on; without room it waits. (15_instr_spindle.md R267, 03_matrix_model.md R80, 04_memory_as_seen.md R105) -/
def Obligations.DrainsIssue : Prop :=
  ∀ (i : Instr) (s t : State) (p : Spindle) (r : Row) (n : Norm) (u : Nat) (rec : BitVec 512),
    shape i = .drain → Issues i s r n → s.curSpindle = some p →
    let ctl := (s.srd n.x.sa.toNat).toNat
    let xy := (s.srd n.x.sb.toNat).toNat
    let gang := n.sub == 3
    let a := n.x.d.toNat
    let ty := p.accTy a
    let m := shapeM n.x.shape.toNat
    let cols := shapeN n.x.shape.toNat
    let box : Nat × Nat × Nat := if gang then (2 * cols, 2 * m, 1) else (cols, m, 1)
    let l := Layout.of rec
    let bar := field ctl 32 19
    drainIllegal ctl gang a = false → accCount (a % 8) (m * cols) (ty = .f64) = some u → drainAllows n.x.type.toNat ty = true →
    (∀ q ∈ mmaCores gang (a / 8), ∀ k, k < u → p.accTy (8 * q + a % 8 + k) = ty) → s.handle (BitVec.ofNat 64 (ctl % 2 ^ 32)) 1 = .ok rec t →
    layoutBad rec = false → l.kind ≠ 2 → l.box = box → l.esz = drainElem n.x.type.toNat →
    (bit ctl 63 = true → ∃ b, t.block? p.launch p.block = some b ∧ bar + 16 ≤ b.scrSize) →
    let range := l.bound (xy % 2 ^ 32) (xy / 2 ^ 32) n.x.disp.toNat
    let data := drainData p gang a m cols n.x.type.toNat n.x.rnd.toNat (n.x.sat == 1) ty
    let d : Drain := { type := n.x.type.toNat, ganged := gang, rows := box.2.1, cols := box.1, x0 := xy % 2 ^ 32, y0 := xy / 2 ^ 32,
                       z0 := n.x.disp.toNat, record := rec, bben := bit ctl 63, bboff := bar,
                       data := data.map (fun v => BitVec.ofNat 64 v.1), progress := 0, user := p.mode == .user, pc := p.pc,
                       since := t.cyc, tags := [], answers := [], wrote := [] }
    let fl := data.foldl (fun f v => f ||| v.2) 0 &&& (flagNV ||| flagOF)
    let goes (x : State) (ws : Sig → Sig) : State := x.complete (s.nextPc n.words) (fun w => w.flagged fl)
      (fun q => ({ q with ws := ws q.ws }.issue [] (some d)).flagged fl)
    (range = none → exec i s = .next (goes t (fun g => g))) ∧
    (∀ lo hi, range = some (lo, hi) → t.lockCount p.cluster < 64 →
      exec i s = .next (goes { t with locks := t.locks ++ [t.makeLock p.cluster p.ctx lo hi true none] }
        (t.destSig (4 * p.cluster) p.ctx lo hi (p.mode == .user)))) ∧
    (range ≠ none → 64 ≤ t.lockCount p.cluster → exec i s = .next (t.setWait (.retry 8 false)))

/-- A cause that a wave or Spindle program meets in user mode, in a context with vectors in use, leaves it in supervisor mode at
the vector, %tepc, %tcause, %taddr and %tlanes (which a Spindle program has not) written and nothing else of it changed, and logs
one record. Without vectors the agent ends with the cause; in supervisor mode, outside the save region of a handler, it ends with
double-trap. trap raises software-trap at the next instruction with its code in %taddr. trapret, which user mode may not run,
returns a wave in a trap handler, or a Spindle program, to %tepc in user mode, where it is stopped at once when a suspension that
covers it awaits its yield or has forced its save; a %tepc that is no instruction address traps; in a save or restore handler it
waits for the handler's accesses, and then does what that return does. utret jumps to %uret and unmasks user timer traps.
(16_instr_system.md R271, 16_instr_system.md R272, 16_instr_system.md R274, 22_traps_preemption.md R336, 22_traps_preemption.md
R337) -/
def Obligations.TrapsAndReturns : Prop :=
  (∀ (s : State) (cause : Nat) (tepc addr lanes : BitVec 64),
    let c := s.curCtx
    let v := sext57 (s.ctlField (.tvec c) 10 47 * 1024)
    let t := s.takeTrap cause tepc addr lanes
    (s.curMode = .user → s.ctlField (.tvec c) 0 1 ≠ 0 →
      (∀ w, s.curWave = some w → t = { s with waves := t.waves, bufs := t.bufs } ∧
        t.curWave = some { w with mode := .supervisor, handler := .trap, tepc := tepc, tcause := BitVec.ofNat 64 cause,
                                  taddr := addr, tlanes := lanes, pc := v, wait := .ready } ∧
        ∀ i k, ¬ (i = w.core ∧ k = w.slot) → t.wave? i k = s.wave? i k) ∧
      (∀ p, s.curSpindle = some p → t = { s with spindles := t.spindles, bufs := t.bufs } ∧
        t.curSpindle = some { p with mode := .supervisor, tepc := tepc, tcause := BitVec.ofNat 64 cause, taddr := addr, pc := v, wait := .ready } ∧
        ∀ i, i ≠ p.cluster → t.spindle? i = s.spindle? i)) ∧
    (s.curMode = .user → s.ctlField (.tvec c) 0 1 = 0 → t = s.endCur cause) ∧
    (s.curMode = .supervisor → ¬ (s.inHandler = true ∧ cause / 32 = 2 ∧ s.inSaveRegion c addr.toNat = true) →
      t = s.endCur causeDoubleTrap)) ∧
  (∀ (i : Instr) (s : State) (r : Row) (n : Norm), shape i = .trap → Issues i s r n →
    exec i s = .next (s.takeTrap causeSoftwareTrap (s.nextPc n.words) (n.x.disp.setWidth 64) 0).settle) ∧
  (∀ (i : Instr) (s : State), s.hasAgent = true → privileged i = true → s.curMode = .user →
    (∃ e mj r, i.toEnc = some e ∧ e.check s.stream = none ∧ majorOf e.maj.toNat = some mj ∧ mj.row (e.norm mj).sub = some r) →
    exec i s = .next (s.takeTrap causePrivilege s.curPc 0 0).settle) ∧
  (∀ (i : Instr) (s : State) (r : Row) (n : Norm), shape i = .trapReturn → Issues i s r n →
    let back (a : BitVec 64) (c launch block : Nat) (yields forcible : Bool) (stop : State) : Prop :=
      exec i s = .next (if canonical a = false then (s.takeTrap causeNoncanonical s.curPc a 0).settle
        else if a % 4 ≠ 0 then (s.takeTrap causeMisalignedPc s.curPc 0 0).settle
        else if s.covered c launch block = true ∧ (yields = true ∨ (s.ctx c).forced = true ∧ forcible = true) then stop
        else s.complete a (fun w => { w with mode := .user, yielded := false }) (fun q => { q with mode := .user, yielded := none }))
    (∀ p, s.curSpindle = some p → back p.tepc p.ctx p.launch p.block p.yielded.isSome true (s.complete p.tepc (fun w => w) (fun q =>
      match p.yielded with
        | some m => { q with mode := .user, yielded := none, live := m, wait := .stopped causeSuspendYield }
        | none => { q with mode := .user }.forceStop))) ∧
    (∀ w, s.curWave = some w →
      (w.handler = .trap → back w.tepc w.ctx w.launch w.blk w.yielded (w.step != some true) (s.complete w.tepc (fun v =>
        if w.yielded = true then { v with mode := .user, yielded := false, wait := .stopped causeSuspendYield }
        else { v with mode := .user, yielded := false }.forceStop) (fun p => p))) ∧
      (w.handler ≠ .trap → w.flight ≠ [] → exec i s = .next (s.setWait (.retry 10 false))) ∧
      (w.handler ≠ .trap → w.flight = [] → ∃ x, exec i s = .next ((s.handlerReturn w).setWait x)))) ∧
  (∀ (s : State) (w : Wave) (r : Row) (n : Norm), Issues .utret s r n → s.curWave = some w →
    exec .utret s = .next (if canonical w.uret = true then if w.uret % 4 = 0
        then s.complete w.uret (fun v => { v with tmrMask := false }) (fun p => p)
        else (s.takeTrap causeMisalignedPc s.curPc 0 0).settle
      else (s.takeTrap causeNoncanonical s.curPc w.uret 0).settle))

/-- rdsr of a register that the mode may reach writes its value to s[REG] and goes on; wrsr writes s[REG], if it carries no mark
or a handler reads it, to a register with a writable field and goes on; a register of the supervisor raises privilege in user
mode, and a register without such a field illegal-operand. What wrsr writes reads back in the register's fields; reading a
register of a wave changes nothing, except that %scrbase of a block without scratchpad reads as a free value (log entry 8).
(16_instr_system.md R275, 16_instr_system.md R276, 15_instr_spindle.md R259, 15_instr_spindle.md R260) -/
def Obligations.SpecialRegisters : Prop :=
  (∀ (i : Instr) (s : State) (r : Row) (n : Norm), shape i = .readSpecial → Issues i s r n →
    let k := n.x.disp.toNat
    exec i s = .next (if specialPriv k = true ∧ s.curMode = .user then (s.takeTrap causePrivilege s.curPc 0 0).settle
      else (s.special k).2.complete (s.nextPc n.words) (fun w => w.withS n.x.d.toNat (s.special k).1)
        (fun q => q.withX n.x.d.toNat (s.special k).1))) ∧
  (∀ (f : XF) (s : State) (r : Row) (n : Norm), Issues (.wrsr f) s r n →
    let k := n.x.disp.toNat
    let v := s.srd n.x.d.toNat
    exec (.wrsr f) s = .next (
      if specialPriv k = true ∧ s.curMode = .user then (s.takeTrap causePrivilege s.curPc 0 0).settle
      else if s.inHandler = false ∧ s.smarked n.x.d.toNat = true then (s.takeTrap causePoisonConsumed s.curPc 0 0).settle
      else if specialWritable k = false then (s.takeTrap causeIllegalOperand s.curPc 0 0).settle
      else s.complete (s.nextPc n.words) (fun w => w.putSpecial k v) (fun p => p.putSpecial k v))) ∧
  (∀ (s : State) (w : Wave) (v : BitVec 64),
    (s.specialWave (w.putSpecial 0x001 v) 0x001).1 = v &&& 0x1F ∧ (s.specialWave (w.putSpecial 0x002 v) 0x002).1 = v ∧
    (s.specialWave (w.putSpecial 0x003 v) 0x003).1 = v &&& 0x1FF ∧ (s.specialWave (w.putSpecial 0x061 v) 0x061).1 = v ∧
    (s.specialWave (w.putSpecial 0x062 v) 0x062).1 = v &&& 0x1FF ∧ (s.specialWave (w.putSpecial 0x063 v) 0x063).1 = v ∧
    (s.specialWave (w.putSpecial 0x064 v) 0x064).1 = v) ∧
  (∀ (s : State) (p : Spindle) (v : BitVec 64),
    (s.specialSpindle (p.putSpecial 0x082 v) 0x082).1 = v &&& 0x3F ∧ (s.specialSpindle (p.putSpecial 0x083 v) 0x083).1 = v &&& 0x3FF8 ∧
    (s.specialSpindle { p.putSpecial 0x084 v with dsa := p.dsa } 0x084).1 = v) ∧
  (∀ (s : State) (w : Wave) (k : Nat), k ≠ 0x040 → (s.specialWave w k).2 = s)

/-- tmrset sets the comparator by its value and the timestamp; tlbinv drops the translations of its pages, or of every page but
global ones, the cached table entries above them, and every base translation register of the context, and goes on when no access
in flight lies where a dropped translation may reach (the 512 GiB around them, log entry 37); hdlinv
drops the cached descriptors of the context; stdrain goes on once the wave's store and remote counters are zero and no store
fault is queued, raising store-fault-pending when one is, or once no drain of the program is left; evmark logs one user mark;
sample gives its four registers the last sampled record and marks the next access. (16_instr_system.md R277,
16_instr_system.md R279, 16_instr_system.md R280, 16_instr_system.md R283, 16_instr_system.md R284, 16_instr_system.md R285) -/
def Obligations.TimersInvalidationsAndMarks : Prop :=
  ∀ (i : Instr) (s : State) (r : Row) (n : Norm), Issues i s r n →
    let pc := s.nextPc n.words
    let goes (t : State) : State := t.complete pc (fun w => w) (fun p => p)
    (∀ f, i = .tmrset f →
      let v := s.scalOpnd n r.sa n.x.sa
      exec i s = .next (s.complete pc (fun w => { w with tmrcmp := if v = 0 then 0 else if s.clk + v = 0 then 1 else s.clk + v, tmrPend := false })
        (fun p => p))) ∧
    (∀ f, i = .tlbinv f → canonical (s.srd n.x.sa.toNat) = true → (s.srd n.x.sb.toNat).toNat < 2 ^ 32 →
      let count := (s.srd n.x.sb.toNat).toNat
      let lo := (s.srd n.x.sa.toNat).toNat % 2 ^ 57 / 4096 * 4096
      let hi := lo + 4096 * count
      let near := lo / 2 ^ 39 * 2 ^ 39
      let far := (hi + 2 ^ 39 - 1) / 2 ^ 39 * 2 ^ 39
      ∃ t, t = { s with tlb := t.tlb, tables := t.tables, waves := t.waves } ∧
        (∀ e, e ∈ t.tables ↔ e ∈ s.tables ∧ e.dropped s.curCtx (if count = 0 then none else some (lo, hi)) = false) ∧
        (∀ e, e ∈ t.tlb ↔ e ∈ s.tlb ∧ ¬ (e.ctx = s.curCtx ∧ if count = 0 then e.g = false else e.va < hi ∧ lo < e.va + e.size)) ∧
        t.waves = s.waves.map (fun w => if w.ctx = s.curCtx then w.dropBases else w) ∧
        exec i s = .next (if t.usesRange s.curCtx near far (count == 0) = true then t.setWait (.retry 6 false) else goes t)) ∧
    (i = .hdlinv → exec i s = .next (goes { s with descs := s.descs.filter (fun d => d.1 != s.curCtx) })) ∧
    (∀ w, i = .stdrain → s.curWave = some w → exec i s = .next (
      if w.counter 2 ≠ 0 ∨ w.counter 4 ≠ 0 then s.setWait (.retry 6 true)
      else if w.sfq ≠ [] then (s.takeTrap causeStoreFault s.curPc 0 0).settle else goes s)) ∧
    (∀ p, i = .stdrain → s.curSpindle = some p → exec i s = .next (
      if ∃ o ∈ p.ops, o.drain.isSome then s.modCurSpindle (fun q => { q with live := 0, wait := .retry 6 true }) else goes s)) ∧
    (∀ f, i = .evmark f →
      (∀ w, s.curWave = some w → exec i s = .next (goes (s.logWave w 0x1F n.x.disp.toNat (s.srd n.x.sa.toNat)))) ∧
      (∀ p, s.curSpindle = some p → exec i s = .next (goes (s.logSpindle p 0x1F n.x.disp.toNat (s.srd n.x.sa.toNat))))) ∧
    (∀ f w, i = .sample f → s.curWave = some w → exec i s = .next (s.complete pc
      (fun v => (List.range 4).foldl (fun v k => v.withS (n.x.d.toNat + k) ((w.sampleRec.getD 0).extractLsb' (64 * k) 64))
        { v with sampleMark := true, sampleRec := none }) (fun p => p)))

/-- sfpop, when it issues, takes the oldest record from the wave's store-fault queue, writes its four words to s[D] to s[D+3], or
zeroes all four when the queue is empty, and goes on; the poison marks of the four go, but in a save or restore handler; no
other register and nothing else of the wave changes. (16_instr_system.md R282, 22_traps_preemption.md R338) -/
def Obligations.StoreFaultRecordsPop : Prop :=
  ∀ (f : XF) (s : State) (w : Wave) (r : Row) (n : Norm), Issues (.sfpop f) s r n → s.curWave = some w →
    ∃ v, exec (.sfpop f) s = .next (s.complete (s.nextPc n.words) (fun _ => v) (fun p => p)) ∧
      v = { w with s := v.s, sMark := v.sMark, sfq := w.sfq.tail } ∧
      (∀ k, k < 4 → v.s.rd (n.x.d.toNat + k) = (match w.sfq with
        | [] => 0
        | x :: _ => x.extractLsb' (64 * k) 64)) ∧
      (∀ m, (∀ k, k < 4 → m ≠ n.x.d.toNat + k) → v.s.rd m = w.s.rd m) ∧
      (∀ m, m ∈ v.sMark ↔ m ∈ w.sMark ∧ (w.exemptPoison = true ∨ ∀ k, k < 4 → m ≠ n.x.d.toNat + k))

/-- For every instruction that has words and whose fields pass the checks of R140 on a stream, the decoder reads from its encoded
words, whatever words follow them, that very instruction with every field as it was. (06_formats_syntax.md R130,
06_formats_syntax.md R132, 06_formats_syntax.md R134, 06_formats_syntax.md R140, 07_opcode_map.md R146) -/
def Obligations.DecodeEncode : Prop :=
  ∀ (st : Stream) (i : Instr) (more : List W32), i.encodable st = true → decode st (encode i ++ more) = .ok i

/-- The words of the kernel of chapter 6 and of the atomic of chapter 7 decode to the instructions and fields that stand beside
them; each changed word there meets the detail that the table names. (06_formats_syntax.md R140, 06_formats_syntax.md R143,
07_opcode_map.md R151, 07_opcode_map.md R154) -/
def Obligations.SpecWordsDecode : Prop :=
  decode .simt [0x21871340] = .ok (.ld ⟨0b00100, 3, 7, 9⟩) ∧
  decode .simt [0x00000D90] = .ok (.bnone ⟨6⟩) ∧
  decode .simt [0x000006C3, 0x0002010D, 0x22004000, 0x3FC00000, 0x00000000] =
    .ok (.ffmaX (.ext { XF.zero with osel := 3, d := 13, sa := 1, sb := 2, mask := 2, type := 8, rnd := 1, lit := some 0x3FC00000 })) ∧
  decode .simt [0x000001B8] = .ok .exit ∧
  decode .simt [0x06046CC0] = .ok (.ffma ⟨3, 1, 13, 2⟩) ∧
  decode .simt [0x000006C1, 0x0002010D, 0x22004000] = .illegal 6 ∧
  decode .simt [0x00002951, 0x08060204, 0x00800810] =
    .ok (.atom ⟨16, { XF.zero with szsp := 5, sc := 8, sb := 6, sa := 2, d := 4, type := 2, scope := 4 }⟩) ∧
  decode .spindle [0x00002951, 0x08060204, 0x00800810] = .illegal 4 ∧
  (∀ st, decode st [0x00002951, 0x08060204, 0x0080081B] = .illegal 3) ∧
  decode .simt [0x00002951, 0x08060204, 0x00800850] = .illegal 3 ∧
  decode .simt [0x00002951, 0x08060204, 0x00800E10] = .illegal 6 ∧
  decode .simt [0x00002951, 0x08060204, 0x00000810] = .illegal 6 ∧
  decode .simt [0x00002953, 0x08060204, 0x00800810] = .illegal 2 ∧
  decode .simt [0x00002941, 0x08060204, 0x00800810] = .illegal 3

/-- When the next move is a wave's own, or the turn of its partition and it is the wave chosen, or a Spindle program's, and nothing is
taken at its boundary, the step is exec of the instruction that its fetched words decode to, or of the illegal-instruction event
with the detail of R140, and then the end of the step (for a wave, the reason that its cycle counts under is noted; time passes by
one cycle); a fetch that meets a cause ends as that cause does. The words fetched are those at the
program counter, LEN of the first saying how many; an aligned word of memory on a page that the context may execute, not yet cached, is
its four bytes in little-endian order. Which move comes next is the model's own list (log entry 7). (06_formats_syntax.md
R130, 06_formats_syntax.md R131, 06_formats_syntax.md R140, 01_execution_model.md R14, 20_scheduling_hw.md R311) -/
def Obligations.StepRunsDecodedInstruction : Prop :=
  (∀ (s x : State) (m : Move) (rest : List Move) (core slot : Nat) (w : Wave), s.agenda = m :: rest →
    let u := { s with agenda := rest, cur := Agent.none, turn := none }
    (m = .slotWrite core slot ∧ x = u ∨ ∃ c k v, m = .wave c k ∧ u.wave? c k = some v ∧ (u.chosenFor v).core = core ∧
      (u.chosenFor v).slot = slot ∧ x = if slot = v.slot then u else u.passedOver v) →
    x.wave? core slot = some w → (∀ y, w.wait ≠ .sleep y) → x.boundary w = none → w.wait.issues x.cyc = true →
    ∀ t, (∀ ws, (x.waveTurn w).fetch = (.got ws, t) →
        (∀ i, decode t.stream ws = .ok i → step s = answerOf (markOutcome w (exec i t))) ∧
        (∀ d, decode t.stream ws = .illegal d → step s = answerOf (markOutcome w (exec (.illegalInstruction d) t)))) ∧
      (∀ r, (x.waveTurn w).fetch = (.ends r, t) → step s = .next ((t.finish 1 r).markIssue w).after)) ∧
  (∀ (s : State) (rest : List Move) (cl : Nat) (p : Spindle), s.agenda = .spindle cl :: rest →
    let u := { s with agenda := rest, cur := Agent.none, turn := none }
    u.spindle? cl = some p → u.heldSpindle p = false → p.wait.issues u.cyc = true →
    ∀ t, (∀ ws, (u.spindleTurn p).fetch = (.got ws, t) →
        (∀ i, decode t.stream ws = .ok i → step s = answerOf (exec i t)) ∧
        (∀ d, decode t.stream ws = .illegal d → step s = answerOf (exec (.illegalInstruction d) t))) ∧
      (∀ r, (u.spindleTurn p).fetch = (.ends r, t) → step s = .next (t.finish 1 r).after)) ∧
  (∀ (s : State) (rest : List Move) (i : Instr) (t : State), s.agenda = .event i :: rest →
    exec i { s with agenda := rest, cur := .none, turn := none } = .next t → step s = .next t.after) ∧
  (∀ (s t : State) (w : W32), s.fetchWord s.curPc = (.word w, t) →
    (lenWords w = 1 → s.fetch = (.got [w], t)) ∧
    (∀ w1 w2 t1 t2, t.fetchWord (s.curPc + 4) = (.word w1, t1) → t1.fetchWord (s.curPc + 8) = (.word w2, t2) →
      (lenWords w = 3 → s.fetch = (.got [w, w1, w2], t2)) ∧
      (∀ w3 w4 t3 t4, t2.fetchWord (s.curPc + 12) = (.word w3, t3) → t3.fetchWord (s.curPc + 16) = (.word w4, t4) →
        lenWords w = 5 → s.fetch = (.got [w, w1, w2, w3, w4], t4)))) ∧
  (∀ (s t : State) (va : BitVec 64) (e : TlbEntry), canonical va = true →
    s.xlate va.toNat (Need.ifetch (s.curMode == .user)) = (.ok e, t) → t.frameCause s.curCtx (e.pa va.toNat) (s.curMode == .user) = none →
    (paSpace (e.pa va.toNat) = 0 ∨ paSpace (e.pa va.toNat) = 1) → e.pa va.toNat % 4 = 0 →
    t.code.find? (fun c => c.1 == s.curCtx && c.2.1 == e.pa va.toNat) = none → t.poisoned (e.pa va.toNat) = false →
    ∃ u, s.fetchWord va = (.word (BitVec.ofNat 32 (t.mem.readNat (e.pa va.toNat) 4)), u) ∧ u.mem = t.mem)

/-- After a cold reset memory reads as zeros and has its canonical form, every device register holds its reset value,
MGT_STATUS.PHASE is 0, nothing is resident and the capsule store and the recorder buffers are empty; the first step runs step
1 of start-up, after which PHASE is 1. The reset values of registers that the spec gives none, and the order in which the
moves of a step come, are the model's (log entries 1 and 7). (23_host_peers_bringup.md R365, 23_host_peers_bringup.md R367,
16_instr_system.md R278) -/
def Obligations.ResetState : Prop :=
  State.reset.Canonical ∧
  (∀ a n, State.reset.mem.readNat a n = 0) ∧
  (∀ r, State.reset.ctlRd r = ctlDefault r.off) ∧ State.reset.ctlField .mgtStatus 0 4 = 0 ∧
  State.reset.waves = [] ∧ State.reset.blocks = [] ∧ State.reset.spindles = [] ∧ State.reset.launches = [] ∧
  State.reset.capsules = [] ∧ State.reset.bufs = [] ∧ State.reset.poison = [] ∧
  (∃ t, step State.reset = .next t ∧ t.ctlField .mgtStatus 0 4 = 1 ∧ t.mem = [] ∧ t.waves = [])

/-- From every state in which memory, the Core Stores, the Operand Memories, the mailbox buffers and the MSI-X tables list their
bytes in rising order of address and list no byte that reads as an unlisted one, a step that answers a next state answers one
in which they do. (04_memory_as_seen.md R85, 04_memory_as_seen.md R88, 03_matrix_model.md R70, 23_host_peers_bringup.md R356,
23_host_peers_bringup.md R372) -/
def Obligations.MemoriesStayCanonical : Prop :=
  ∀ s t : State, s.Canonical → step s = .next t → t.Canonical

/-- Each event that is a host's write of one register is that write. A write through a link that is down, or of a function under
reset, changes nothing; one to the MSI-X table or the mailbox buffer stores its bytes there, one to the pending bits changes
nothing; one to no register changes nothing, or where another function's buffer or table lies nothing but a denial record; one to
a register out of the function's reach changes nothing but a denial record; any other stores, of the bits the register takes, its
RW bits and sets its W1S bits, and then does what the register does. A write through BAR0 reaches the offset of space 7 that the
function's map shows there, and nothing where it shows none. SCH_WAKE marks its queues pending; VM_CTX_ROOT takes its value,
completes the accesses in flight of the context's waves and drops every translation of the context. The record of a denial, the
reach of some registers and the bits that raise a request are readings (log entries 31, 32 and 73). (00_scope.md R10,
20_scheduling_hw.md R303, 20_scheduling_hw.md R306, 23_host_peers_bringup.md R352, 23_host_peers_bringup.md R355,
23_host_peers_bringup.md R356, 23_host_peers_bringup.md R361, 23_host_peers_bringup.md R371, 23_host_peers_bringup.md R372,
21_translation_faults.md R317, 22_traps_preemption.md R339, 25_ras_profiling.md R392) -/
def Obligations.HostRegisterWrites : Prop :=
  (∀ (i : Instr) (s : State) (f : Nat) (r : CtlReg) (n v : Nat), hostRow s i = some (f, r, n, v) →
    exec i s = .next (s.hostWrite f r.off n v) ∧ f < 32 ∧ ctlReg r.off = some r ∧ r.off % 8 = 0 ∧
    mboxAt f r.off = false ∧ ¬ (msixBase f ≤ r.off ∧ r.off < msixBase f + 1024) ∧
    ¬ (msixBase f + 0x4000 ≤ r.off ∧ r.off < msixBase f + 0x4008)) ∧
  (∀ (fn : BitVec 5) (off : BitVec 24) (v : BitVec 64) (s : State),
    exec (.registerWrite fn off v) s = .next (match s.barReg fn.toNat (off.toNat / 8 * 8) with
      | some o => s.hostWrite fn.toNat o 8 v.toNat
      | none => s)) ∧
  (∀ (s : State) (f off n v : Nat),
    (s.hostLinked f = false → s.hostWrite f off n v = s) ∧
    (s.hostLinked f = true → msixBase f ≤ off ∧ off < msixBase f + 1024 → s.hostWrite f off n v = s.msixWrite f (off - msixBase f) n v) ∧
    (s.hostLinked f = true → msixBase f + 0x4000 ≤ off → off < msixBase f + 0x4008 → s.hostWrite f off n v = s) ∧
    (s.hostLinked f = true → ¬ (msixBase f ≤ off ∧ off < msixBase f + 1024) →
      ¬ (msixBase f + 0x4000 ≤ off ∧ off < msixBase f + 0x4008) →
      (mboxAt f off = true → s.hostWrite f off n v =
        { s with mbox := s.mbox.writeNat (4096 * f + (off - 0x341000 - 0x2000 * f)) n v }) ∧
      (mboxAt f off = false → ctlReg (off / 8 * 8) = none → s.hostWrite f off n v = if closedAt off then s.logDenied f 0 0x46 0 off else s) ∧
      (∀ r, mboxAt f off = false → ctlReg (off / 8 * 8) = some r →
        let u : RegUser := { fn := f, host := true, ctx := 0, slot := 0x46 }
        let val : BitVec 64 := BitVec.ofNat 64 (v * 2 ^ (8 * (off % 8)))
        let sel : BitVec 64 := BitVec.ofNat 64 ((2 ^ (8 * n) - 1) * 2 ^ (8 * (off % 8)))
        (s.reaches f true true r = false → s.hostWrite f off n v = s.logDenied f 0 0x46 0 off) ∧
        (s.reaches f true true r = true → s.hostWrite f off n v =
          (if r.acts = true then (s.regStore u r val sel).regActs f r.off (s.ctlRd r) val sel else s.regStore u r val sel))))) ∧
  (∀ (s : State) (u : RegUser) (r : CtlReg) (val sel : BitVec 64), (∀ g, r ≠ .fnWin g) → r ≠ .mgtPwrcap → r ≠ .rasScrub →
    let take := s.regTakes r val sel
    let rw := r.maskOf (· == .rw) &&& take
    (s.regStore u r val sel).ctlRd r = if take = 0 then s.ctlRd r
      else (s.ctlRd r &&& ~~~rw) ||| (val &&& rw) ||| (val &&& (r.maskOf (· == .w1s) &&& take))) ∧
  (∀ (fn : BitVec 5) (c : BitVec 8) (mask : BitVec 64) (s : State), s.hostLinked fn.toNat = true →
    s.reaches fn.toNat true true (.wake c.toNat) = true → ∃ t, exec (.schWake fn c mask) s = .next t ∧
      (t.ctx c.toNat).pending = (s.ctx c.toNat).pending ||| (mask &&& BitVec.ofNat 64 (2 ^ (s.ctlField (.qtab c.toNat) 0 6 + 1) - 1))) ∧
  (∀ (fn : BitVec 5) (c : BitVec 8) (v : BitVec 64) (s : State), s.hostLinked fn.toNat = true →
    s.reaches fn.toNat true true (.root c.toNat) = true → ∃ t u : State, exec (.vmCtxRootWrite fn c v) s = .next t ∧
      t = ((u.waves.filter (fun w => w.ctx == c.toNat)).foldl (fun s w => s.completeFlight w) u).tlbDrop c.toNat none true ∧
      u = { s with ctl := u.ctl } ∧
      u.ctlRd (.root c.toNat) = v &&& CtlReg.maskOf (.root c.toNat) (· == .rw) ||| (s.ctlRd (.root c.toNat) &&& ~~~CtlReg.maskOf (.root c.toNat) (· == .rw)) ∧
      ∀ e ∈ t.tlb, e.ctx ≠ c.toNat)

/-- A cold reset leaves empty memories, no work, the flash copies of capsules and board flash; a warm reset, held while a capsule
is being assembled, keeps the capsule store too; a rollback returns to the earlier image; a port reset resets its functions, drops
the lines held through the port (log entry 83) and leaves the link down; a port that trains reports its link; FLR resets the
function, and a physical function's virtual ones, and ends; BAR2, CXL.mem and pair accesses read and write memory; link failures
and peer requests act as their rules say; a home that asks for a line gets its data, and the L2 keeps it owned or shared, or loses
it (log entry 83). An event that is not due changes nothing (log entry 7). (23_host_peers_bringup.md R365,
23_host_peers_bringup.md R366, 23_host_peers_bringup.md R369, 23_host_peers_bringup.md R353, 23_host_peers_bringup.md R354,
23_host_peers_bringup.md R356, 23_host_peers_bringup.md R360, 23_host_peers_bringup.md R361, 23_host_peers_bringup.md R363,
23_host_peers_bringup.md R364, 05_consistency.md R115) -/
def Obligations.ResetsAndLinks : Prop :=
  (∀ s : State, ∃ t, exec .powerOn s = .next t ∧ t.mem = [] ∧ t.cs = [] ∧ t.om = [] ∧ t.waves = [] ∧ t.launches = [] ∧ t.l1 = [] ∧
    t.poison = [] ∧ t.clk = 0 ∧ t.mgmt.boot = 1 ∧ t.mgmt.slotA = s.mgmt.slotA ∧ t.mgmt.slotB = s.mgmt.slotB ∧
    t.mgmt.fusedSvn = s.mgmt.fusedSvn ∧ t.mgmt.repair = s.mgmt.repair ∧
    t.capsules = (s.capsules.filter (·.inFlash)).map (fun c => { c with inStore := false })) ∧
  (∀ s : State, (s.freezes = [] → ∃ t, exec .watchdogExpiry s = .next t ∧ t.mem = [] ∧ t.cs = [] ∧ t.om = [] ∧ t.waves = [] ∧
      t.launches = [] ∧ t.l1 = [] ∧ t.poison = [] ∧ t.mgmt.boot = 2 ∧ t.capsules = s.capsules ∧ t.mgmt.slotA = s.mgmt.slotA) ∧
    (s.freezes ≠ [] → exec .watchdogExpiry s = .next { s with mgmt := { s.mgmt with heldReset := some 1 } })) ∧
  (∀ s : State, exec .firmwareRollback s = .next (match s.mgmt.earlierB with
    | some b => if s.ctlField .mgtStatus 0 4 = 6 ∨ s.since s.mgmt.resetAt < 10000000 * ticksPerMicro then s
      else ({ s with mgmt := { s.mgmt with activeB := b, earlierB := none } }.devLog 4 (if b then 1 else 0)).askWarmReset 2
    | none => s)) ∧
  (∀ (s : State) (p : BitVec 1), ∃ t, exec (.portReset p) s = .next t ∧ t.ctlField (.portSts p.toNat) 0 1 = 0 ∧
    ∃ u, u = (s.flr (16 * p.toNat)).dropPortLines p.toNat ∧ t = (u.ctlWr (.portSts p.toNat) (u.ctlRd (.portSts p.toNat) &&& 2)).devLog 10 (BitVec.ofNat 64 p.toNat)) ∧
  (∀ (s : State) (p : BitVec 1) (sp : BitVec 4) (w : BitVec 2) (fl ca me : BitVec 1),
    exec (.hostLinkUp p sp w fl ca me) s = .next (if s.ctlField (.portSts p.toNat) 1 1 = 0 ∨ s.ctlField (.portSts p.toNat) 0 1 = 1 ∨
        sp = 0 ∨ 6 < sp.toNat then s
      else s.ctlWr (.portSts p.toNat) (BitVec.ofNat 64 (1 + 2 + 4 * fl.toNat + 8 * ca.toNat + 16 * me.toNat + 256 * w.toNat + 4096 * sp.toNat)))) ∧
  (∀ (s : State) (f : BitVec 5), exec (.functionLevelReset f) s = .next
    ((if f = 0 ∨ f = 16 then (List.range 16).map (fun i => f.toNat + i) else [f.toNat]).foldl (fun s g => s.functionReset g) s)) ∧
  (∀ (s : State) (f : BitVec 5), ∃ t, exec (.flrComplete f) s = .next t ∧ t = { s with mgmt := t.mgmt } ∧
    t.mgmt.flr = s.mgmt.flr.filter (fun g => !(flrFns f.toNat).contains g)) ∧
  (∀ (s : State) (f : BitVec 5) (off : BitVec 36) (n : BitVec 4),
    exec (.bar2Read f off n) s = .next (s.barRead f.toNat off.toNat n.toNat) ∧
    (s.hostLinked f.toNat = false ∨ n = 0 ∨ 8 < n.toNat → s.barRead f.toNat off.toNat n.toNat = s) ∧
    (s.hostLinked f.toNat = true → n ≠ 0 → n.toNat ≤ 8 → s.ctlField (.fnWin f.toNat) 0 1 = 0 →
      s.barRead f.toNat off.toNat n.toNat = { s with out := s.out ++ [.hostAbort f.toNat] }) ∧
    (s.hostLinked f.toNat = true → n ≠ 0 → n.toNat ≤ 8 → s.ctlField (.fnWin f.toNat) 0 1 ≠ 0 →
      ∀ l t, s.barPlace f.toNat off.toNat n.toNat { read := true, write := false, fetch := false, user := false } = (.ok l, t) →
        t.piecesPoisoned l = none → ∃ v b u, t.engineRead (s.ctlField (.fnWin f.toNat) 8 8) l = (v, b, u) ∧
          s.barRead f.toNat off.toNat n.toNat = { u with out := u.out ++ [.hostData f.toNat (BitVec.ofNat 64 v)] })) ∧
  (∀ (s : State) (f : BitVec 5) (off : BitVec 36) (n : BitVec 4) (d : BitVec 64),
    exec (.bar2Write f off n d) s = .next (s.barWrite f.toNat off.toNat n.toNat d) ∧
    (s.hostLinked f.toNat = false ∨ n = 0 ∨ 8 < n.toNat ∨ s.ctlField (.fnWin f.toNat) 0 1 = 0 → s.barWrite f.toNat off.toNat n.toNat d = s) ∧
    (s.hostLinked f.toNat = true → n ≠ 0 → n.toNat ≤ 8 → s.ctlField (.fnWin f.toNat) 0 1 ≠ 0 →
      ∀ l t, s.barPlace f.toNat off.toNat n.toNat (Need.store false) = (.ok l, t) → s.barWrite f.toNat off.toNat n.toNat d =
        t.engineWrite { buf := bufSched, ctx := s.ctlField (.fnWin f.toNat) 8 8, slot := 0x46 } (d.toNat % 2 ^ (8 * n.toNat)) l)) ∧
  (∀ (s : State) (p w : BitVec 1) (a : BitVec 52) (d : BitVec 64), let pa := a.toNat / 8 * 8
    exec (.hdmAccess p w a d) s = .next (s.hdmAccess p.toNat (w == 1) a.toNat d) ∧
    (s.portUp p.toNat = false ∨ s.ctlField (.portSts p.toNat) 4 1 = 0 → s.hdmAccess p.toNat (w == 1) a.toNat d = s) ∧
    (s.portUp p.toNat = true → s.ctlField (.portSts p.toNat) 4 1 ≠ 0 → paSpace pa < 2 → s.dramExists (paSpace pa) (paOff pa) = true →
      (w = 1 → s.hdmAccess p.toNat true a.toNat d = s.outsideWrite (2 + p.toNat) pa 8 d.toNat) ∧
      (s.anyPoison pa 8 = false → ∃ t : State, t = { s with dir := t.dir } ∧ s.hdmAccess p.toNat false a.toNat d =
        { t with out := s.out ++ [.hostData (16 * p.toNat) (BitVec.ofNat 64 (s.mem.readNat pa 8))] }))) ∧
  (∀ s : State, (s.pairUp = false → exec .pairLinkFailure s = .next s) ∧
    (s.pairUp = true → exec .pairLinkFailure s = .next s.pairFails)) ∧
  (∀ (s : State) (op : BitVec 3) (de : BitVec 6) (ho : BitVec 3) (key : BitVec 16) (off : BitVec 42) (n : BitVec 5) (d : BitVec 128)
      (at_ : BitVec 4) (ty : BitVec 5), let r := Remote.arriving op.toNat key.toNat off.toNat n.toNat at_.toNat ty.toNat d
    (de.toNat = s.ngxIdNum → (∀ t, s.serveRemote r = (.refused, t) →
        exec (.remoteRequest op de ho key off n d at_ ty) s = .next { t with out := t.out ++ [.peerRefused de.toNat] }) ∧
      (∀ v p t, s.serveRemote r = (.data v p, t) →
        exec (.remoteRequest op de ho key off n d at_ ty) s = .next { t with out := t.out ++ [.peerData de.toNat p (BitVec.ofNat 128 v)] })) ∧
    (de.toNat ≠ s.ngxIdNum → (∀ p, ho.toNat < 4 → s.routePort de.toNat = some p → exec (.remoteRequest op de ho key off n d at_ ty) s =
        .next { s.keepRoute de.toNat p with out := s.out ++ [.peer p r.op de.toNat (ho.toNat + 1) r.off r.key r.bytes r.mask r.type
          (if r.op ≤ 1 then BitVec.ofNat 512 r.data else r.a.setWidth 512) r.cmp] }) ∧
      (4 ≤ ho.toNat ∨ s.routePort de.toNat = none → ∃ t, exec (.remoteRequest op de ho key off n d at_ ty) s = .next t ∧
        t = { s with bufs := t.bufs, out := s.out ++ [.peerRefused de.toNat] }))) ∧
  (∀ (s : State) (p : BitVec 3), (s.ctlField (.ngxPort p.toNat) 0 1 = 0 → exec (.ngxPortDown p) s = .next s) ∧
    (s.ctlField (.ngxPort p.toNat) 0 1 ≠ 0 → ∃ u, exec (.ngxPortDown p) s = .next
      (((u.ctlSet (.ngxPort p.toNat) 0 1 0).ctlSet (.ngxPort p.toNat) 15 1 0).devLog 10 (BitVec.ofNat 64 (0x200 + p.toNat))) ∧
      u = { s.failAll .refused (fun e => paSpace e.pa == 5 && e.port == some p.toNat) with
        routes := (s.failAll .refused (fun e => paSpace e.pa == 5 && e.port == some p.toNat)).routes.filter (fun r => r.2 != p.toNat) })) ∧
  (∀ (s : State) (p : BitVec 3) (q : BitVec 6), exec (.ngxPortUp p q) s = .next (if s.ctlField (.ngxPort p.toNat) 0 3 ≠ 6 then s
    else ((s.ctlSet (.ngxPort p.toNat) 8 6 q.toNat).ctlSet (.ngxPort p.toNat) 15 1 1).ctlSet (.ngxPort p.toNat) 0 1 1)) ∧
  (∀ (s : State) (k : BitVec 2) (a : BitVec 44) (d : BitVec 64), let sp := a.toNat / 2 ^ 43 % 2
    let off := a.toNat % 2 ^ 43 / 8 * 8
    let pa := sp * 2 ^ 48 + off
    (s.pairUp = false → exec (.pairLinkRequest k a d) s = .next s) ∧
    (s.pairUp = true → 2 ≤ k.toNat → exec (.pairLinkRequest k a d) s =
      .next (s.giveLine ((2 * 2 ^ 48 + sp * 2 ^ 44 + off) / 128) (k == 3) (.pairSnoop (a.toNat / 128)))) ∧
    (s.pairUp = true → k.toNat < 2 → s.dramExists sp off = false → exec (.pairLinkRequest k a d) s = .next s) ∧
    (s.pairUp = true → s.dramExists sp off = true → (k = 1 → exec (.pairLinkRequest k a d) s = .next (s.outsideWrite 1 pa 8 d.toNat)) ∧
      (k = 0 → ∃ t : State, t = { s with dir := t.dir } ∧ exec (.pairLinkRequest k a d) s =
        .next { t with out := s.out ++ [.pairData (s.anyPoison pa 8) (BitVec.ofNat 64 (s.mem.readNat pa 8))] }))) ∧
  (∀ (s : State) (p : BitVec 1) (line : BitVec 45) (k : BitVec 2), let l := (3 + p.toNat) * 2 ^ 48 / 128 + line.toNat % 2 ^ 41
    exec (.cxlCacheSnoop p line k) s = .next (if s.portCxl p.toNat = false ∨ 2 ≤ k.toNat then s
      else s.giveLine l (k == 1) (.snoop p.toNat line.toNat))) ∧
  (∀ (s : State) (l : Nat) (takes : Bool) (answer : Bool → BitVec 1024 → OutMsg), let d := s.dirAt l
    let dirty := d.own == .m || d.own == .o
    let t := s.giveLine l takes answer
    (foreignLine l = false ∨ d.own = .i → t = s) ∧
    (foreignLine l = true → d.own ≠ .i → t.out = s.out ++ [answer dirty (BitVec.ofNat 1024 (s.mem.readNat (128 * l) 128))] ∧
      (∀ k, k ≠ l → t.dirAt k = s.dirAt k) ∧
      (takes = true → t.mem = s.mem.clear (128 * l) 128 ∧ t.dirAt l = { d with own := .i }) ∧
      (takes = false → t.mem = s.mem ∧ t.dirAt l = { d with own := if dirty then .o else d.own })))

/-- A class-10 cause (details 1 to 5) in a unit that exists raises a full freeze with its cause and origin, sends it to a paired
die whose link is up, and terminates every context with a resident wave; a thermal trip does so, and logs, from ten degrees above
the limit. The governor moves the clock by 25 MHz, up, or down where the board, the cap or the junction lets it, between 900 and
1,700 MHz and at most once in 100 microseconds. A mailbox command that has run writes STATUS and LEN, clears BUSY and signals
vector 0. An SPDM request is answered, with the body of its code, from its stage on, and with an error before it; a port that is
down answers nothing. A buffer that records writes the time-sync record of the last multiple of 2^24 ticks, and its loss record. A
freeze that reaches a buffer opens its window or joins the open one, with the least time and full if either is; after 256 cycles
the window closes with the mark of its time and of the freeze's source and cause. A message of the paired die raises a full
freeze. The first freeze, when it has reached every buffer and no window is open, leaves the list: in the store as a capsule where
there is room, else counted as lost, with its requester's mailbox command ended; after a full one the buffers record again, and
after the last a reset that was held is made. The oldest capsule not in flash is copied there, the flash holding four. A scrub
read that finds an error logs and counts it, and an uncorrectable one poisons the granule. An event that is not due changes
nothing (log entry 7); SPDM's codes and bodies are presumed (log entry 6). (22_traps_preemption.md R335, 22_traps_preemption.md
R336, 23_host_peers_bringup.md R370, 23_host_peers_bringup.md R371, 23_host_peers_bringup.md R372, 24_event_recorder.md R373,
24_event_recorder.md R376, 24_event_recorder.md R379, 24_event_recorder.md R380, 24_event_recorder.md R382, 25_ras_profiling.md
R387, 25_ras_profiling.md R388) -/
def Obligations.BrolekAndRecorder : Prop :=
  (∀ (s : State) (d k : BitVec 3) (x : BitVec 7) (y : BitVec 64), exec (.machineCheck d k x y) s = .next
    (if d = 0 ∨ 5 < d.toNat ∨ unitExists k.toNat x.toNat = false then s else s.machineCheck (0x140 + d.toNat) k.toNat x.toNat y)) ∧
  (∀ (s : State) (cause kind index : Nat) (y : BitVec 64), ∃ u, s.machineCheck cause kind index y =
      ((s.waves.map (·.ctx)).eraseDups).foldl (fun s c => s.terminate c cause) u ∧
    u = { s with bufs := u.bufs, mgmt := u.mgmt,
                 freezes := s.freezes ++ [
                   { full := true, t := s.clk.toNat, cause := cause, reason := 0, okind := kind, oindex := index,
                     ctx := 0xFFFF, source := 0, toReach := List.range bufCount, opened := false, requester := none }],
                 out := if s.pairUp = true then s.out ++ [.freeze s.clk.toNat cause] else s.out }) ∧
  (∀ s : State, let hot := s.ctlField .mgtSense 0 16
    exec .thermalTrip s = .next (if s.ctlField .mgtSense 16 16 + 80 ≤ hot then
      (s.machineCheck 0x145 5 0 (BitVec.ofNat 64 hot)).devLog 7 (BitVec.ofNat 64 hot) else s)) ∧
  (∀ (s : State) (up : BitVec 1), let f := s.ctlField .mgtSense 32 16
    let g := if up = 1 then f + 25 else f - 25
    let may := up = 1 ∨ s.mgmt.board = .pairCard ∨ s.ctlField .mgtPwrcap 0 16 < 1000 ∨ s.ctlField .mgtSense 16 16 ≤ s.ctlField .mgtSense 0 16
    exec (.governorStep up) s = .next (if ¬ may ∨ s.since s.mgmt.govAt < 100 * ticksPerMicro ∨ g < 900 ∨ 1700 < g then s
      else { s.ctlSet .mgtSense 32 16 g with mgmt := { s.mgmt with govAt := s.clk.toNat } })) ∧
  (∀ (s : State) (f : BitVec 5), (s.mgmt.running.find? (fun e => e.1 == f.toNat) = none → exec (.mailboxCompletion f) s = .next s) ∧
    (∀ e, s.mgmt.running.find? (fun e => e.1 == f.toNat) = some e → ∃ t : State, exec (.mailboxCompletion f) s = .next (t.sendMsix f.toNat 0) ∧
      t = { s with ctl := t.ctl, mgmt := { s.mgmt with running := s.mgmt.running.erase e } } ∧
      t.ctlField (.mgtMbox f.toNat) 62 1 = 0 ∧ t.ctlField (.mgtMbox f.toNat) 16 16 = e.2.1 % 2 ^ 16 ∧
      t.ctlField (.mgtMbox f.toNat) 32 16 = e.2.2 % 2 ^ 16)) ∧
  (∀ (s : State) (p : BitVec 1) (i : Instr) (need after code : Nat),
    (i = .getVersion p ∧ need = 0 ∧ after = 1 ∧ code = 0x04 ∨ i = .getCapabilities p ∧ need = 1 ∧ after = 2 ∧ code = 0x61 ∨
      i = .negotiateAlgorithms p ∧ need = 2 ∧ after = 3 ∧ code = 0x63 ∨ i = .getDigests p ∧ need = 3 ∧ after = 0 ∧ code = 0x01 ∨
      i = .getCertificate p ∧ need = 3 ∧ after = 0 ∧ code = 0x02 ∨ i = .challenge p ∧ need = 3 ∧ after = 0 ∧ code = 0x03 ∨
      i = .getMeasurements p ∧ need = 3 ∧ after = 0 ∧ code = 0x60) →
    let stage := sget (fun _ => 0) s.mgmt.spdm p.toNat
    (s.ctlField (.portSts p.toNat) 0 1 = 0 → exec i s = .next s) ∧
    (s.ctlField (.portSts p.toNat) 0 1 ≠ 0 → stage < need → exec i s = .next { s with out := s.out ++ [.spdm p.toNat 0x7F []] }) ∧
    (s.ctlField (.portSts p.toNat) 0 1 ≠ 0 → need ≤ stage → ∃ t, exec i s = .next t ∧
      t = { s with out := s.out ++ [.spdm p.toNat code (s.spdmBody code)], mgmt := t.mgmt } ∧ t.mgmt = { s.mgmt with spdm := t.mgmt.spdm } ∧
      sget (fun _ => 0) t.mgmt.spdm p.toNat = if after = 0 then stage else after)) ∧
  (∀ (s : State) (b : BitVec 8), let x := s.buf b.toNat
    let at_ := s.clk.toNat / 2 ^ 24 * 2 ^ 24
    exec (.timeSync b) s = .next (if b.toNat < bufCount ∧ x.frozen = false ∧ x.last / 2 ^ 24 < s.clk.toNat / 2 ^ 24
      then s.setBuf b.toNat (x.device b.toNat at_ 0x00 0 (BitVec.ofNat 64 at_)) else s)) ∧
  (∀ (s : State) (b : BitVec 8), let x := s.buf b.toNat
    exec (.lossRecord b) s = .next (if b.toNat < bufCount ∧ x.frozen = false ∧ x.dropped ≠ 0
      then s.setBuf b.toNat ({ x with dropped := 0 }.device b.toNat s.clk.toNat 0x0C 0 (BitVec.ofNat 64 x.dropped)) else s)) ∧
  (∀ (s : State) (b : BitVec 8), (s.freezes.find? (fun f => f.toReach.contains b.toNat) = none → exec (.freezeArrival b) s = .next s) ∧
    (∀ f, s.freezes.find? (fun f => f.toReach.contains b.toNat) = some f →
      let x := s.buf b.toNat
      let g := { f with toReach := f.toReach.filter (· != b.toNat) }
      let put (h : Freeze) : List Freeze := replaceFirst (fun c => c == f) h s.freezes
      (x.window = none → exec (.freezeArrival b) s =
        .next ({ s with freezes := put { g with opened := true } }.setBuf b.toNat { x with window := some (s.cyc, f.t, f.full) })) ∧
      (∀ at_ t full, x.window = some (at_, t, full) → exec (.freezeArrival b) s =
        .next { s.setBuf b.toNat { x with window := some (at_, min t f.t, full || f.full) } with
          freezes := match put g with
            | h :: rest => { h with t := if h.opened = true then min h.t f.t else h.t, full := h.full || (h.opened && f.full) } :: rest
            | [] => [] }))) ∧
  (∀ (s : State) (b : BitVec 8), let x := s.buf b.toNat
    (x.window = none → exec (.freezeWindowClose b) s = .next s) ∧
    (∀ at_ t full, x.window = some (at_, t, full) → (s.cyc < at_ + 256 → exec (.freezeWindowClose b) s = .next s) ∧
      (at_ + 256 ≤ s.cyc →
        let whose : Nat × Nat := match s.freezes.find? (fun f => f.opened && f.t == t) with
          | some f => (f.source, f.cause)
          | none => match s.freezes with
            | f :: _ => (f.source, f.cause)
            | [] => (0, 0)
        exec (.freezeWindowClose b) s = .next (s.setBuf b.toNat
          (x.mark b.toNat t full ((if full = true then 0 else 2048) + 512 * whose.1 + whose.2)))))) ∧
  (∀ (s : State) (c : BitVec 9), (s.pairUp = false → exec (.pairFreezeMessage c) s = .next s) ∧
    (s.pairUp = true → exec (.pairFreezeMessage c) s = .next { s with freezes := s.freezes ++ [
      { full := true, t := s.clk.toNat, cause := c.toNat, reason := 0, okind := 5, oindex := 0, ctx := 0xFFFF, source := 1,
        toReach := List.range bufCount, opened := false, requester := none }] })) ∧
  (∀ s : State, (s.freezes = [] → exec .capsuleStored s = .next s) ∧
    (∀ f rest, s.freezes = f :: rest →
      let due := f.toReach = [] ∧ ∀ b ∈ s.bufs, b.2.window = none
      let ends (t : State) : State :=
        let u := if f.full = true then { t with freezes := rest }.resumeBufs else { t with freezes := rest }
        match rest, u.mgmt.heldReset with
        | [], some source => u.warmReset source
        | _, _ => u
      (¬ due → exec .capsuleStored s = .next s) ∧
      (due → f.opened = false → exec .capsuleStored s = .next (ends s)) ∧
      (due → f.opened = true → ∀ l, storeRoom s.capsules = some l →
        let c := s.makeCapsule f
        let t := { s with capsules := l ++ [c], mgmt := { s.mgmt with capId := s.mgmt.capId + 1 } }.devLog 8 (BitVec.ofNat 64 c.id)
        exec .capsuleStored s = .next (ends (match f.requester with
          | some g => (t.mboxPut g 0 8 c.id).mailboxEnds g 0 8
          | none => t))) ∧
      (due → f.opened = true → storeRoom s.capsules = none →
        let n := (s.mgmt.lostCaps + 1) % 2 ^ 16
        let t := { s with mgmt := { s.mgmt with lostCaps := n } }.devLog 9 (BitVec.ofNat 64 n)
        exec .capsuleStored s = .next (ends (match f.requester with
          | some g => t.takeWord.2.mailboxEnds g (t.takeWord.1.toNat % 2 ^ 16) 0
          | none => t))))) ∧
  (∀ s : State, (s.capsules.find? (fun c => c.inStore && !c.inFlash) = none → exec .capsuleFlashCopy s = .next s) ∧
    (∀ c, s.capsules.find? (fun c => c.inStore && !c.inFlash) = some c →
      let l := if (s.capsules.filter (·.inFlash)).length < 4 then s.capsules
        else match s.capsules.find? (·.inFlash) with
          | some d => replaceFirst (fun e => e.id == d.id) { d with inFlash := false } s.capsules
          | none => s.capsules
      exec .capsuleFlashCopy s = .next { s with
        capsules := (replaceFirst (fun e => e.id == c.id) { c with inFlash := true } l).filter (fun c => c.inStore || c.inFlash) })) ∧
  (∀ (s : State) (g : BitVec 47) (fi : BitVec 2), let pa := 32 * g.toNat
    let ue := decide (1 < fi.toNat)
    let t := (s.logDev (memBuf pa) 0x71 (if ue then 1 else 0) (BitVec.ofNat 64 pa)).errCount ue
    exec (.patrolScrubRead g fi) s = .next
      (if s.ctlField .rasScrub 8 1 = 0 ∨ fi = 0 ∨ 2 ≤ paSpace pa ∨ s.dramExists (paSpace pa) (paOff pa) = false then s
      else if ue then { t with poison := setAdd g.toNat t.poison }.devLog 11 (BitVec.ofNat 64 pa) else t))

/-- A walker, assigned anew when the contexts with launches have changed, runs the oldest walk of its owner, else the oldest of
any: it translates the page. A wave that waits for a fault tag, or for pool space, a slot or another resource, comes first among
the moves to come. The store-fault-pending trap is taken by a wave in user mode between two instructions that no stop holds and no
poison waits for. When a unit's blocks are covered and stopped, each is saved and then finished. A saved block takes the placement
opportunity when it is the first placeable request. A suspension completes, with STATE 2, when nothing of the context is resident
on either die. A passed deadline stops the context's agents, and 150 microseconds more terminate the context. An illegal encoding
takes its cause. A slot in use is claimed again when its reads end, an operation other than a drain ends, and writes that wait for
a slot are tried; a waiting Spindle program executes its instruction again. A drain goes on element by element; at its end its
locks and lines go, its byte barrier is told, and its error is reported. A copy starts, or starts again; goes on; ends, with its
token idle or in error; or fails, with a record. An event that is not due changes nothing but, for the last, the elements that it
moved (log entry 7). (21_translation_faults.md R325, 21_translation_faults.md R326, 16_instr_system.md R281,
22_traps_preemption.md R339, 22_traps_preemption.md R340, 22_traps_preemption.md R341, 22_traps_preemption.md R348,
06_formats_syntax.md R140, 03_matrix_model.md R70, 03_matrix_model.md R71, 03_matrix_model.md R80, 04_memory_as_seen.md R98) -/
def Obligations.ContextAndCopyEvents : Prop :=
  (∀ (s : State) (k : BitVec 6), let t := s.assignWalkers
    let mine := t.walks.find? (fun w => some w.ctx == t.walkerOwner[k.toNat]?)
    t = (if s.owners = s.walkContexts then s else { s with owners := s.walkContexts, walkerOwner := t.walkerOwner }) ∧
    (s.walks = [] → exec (.pageWalk k) s = .next t) ∧
    (∀ w, mine = some w ∨ (mine = none ∧ t.walks.head? = some w) → exec (.pageWalk k) s = .next
      ({ t with walks := t.walks.erase w }.translate w.core w.ctx w.va
        { read := w.read, write := w.write, fetch := w.fetch, user := w.user }).2)) ∧
  (∀ (s : State) (c : BitVec 7) (k : BitVec 6) (i : Instr) (reason : Nat),
    (i = .faultTagAllocation c k ∧ reason = 2 ∨ i = .remitResume c k ∧ reason = 8 ∨ i = .slotWriteRetry c k ∧ reason = 8) →
    (∀ w x, s.wave? c.toNat k.toNat = some w → w.wait = .retry reason x → exec i s = .next { s with agenda := .wave c.toNat k.toNat :: s.agenda }) ∧
    ((∀ w x, s.wave? c.toNat k.toNat = some w → w.wait ≠ .retry reason x) → exec i s = .next s)) ∧
  (∀ (s : State) (c : BitVec 7) (k : BitVec 6), (s.wave? c.toNat k.toNat = none → exec (.storeFaultTrap c k) s = .next s) ∧
    (∀ w, s.wave? c.toNat k.toNat = some w →
      let due := s.held w = false ∧ w.wait = .ready ∧ w.answers = [] ∧ w.poisPend = none ∧ w.mode = .user ∧ w.sfq ≠ []
      (due → exec (.storeFaultTrap c k) s = .next ((s.asWave w).takeTrap causeStoreFault w.pc 0 0)) ∧
      (¬ due → exec (.storeFaultTrap c k) s = .next s))) ∧
  (∀ (s : State) (l : BitVec 8) (b : BitVec 32),
    let here := s.blocks.find? (fun x => x.launch == l.toNat && x.index % 2 ^ 32 == b.toNat && x.phase == .running)
    (here = none → exec (.blockSave l b) s = .next s) ∧
    (∀ x, here = some x → (s.covered x.ctx x.launch (s.blkOf x) = false ∨ ∃ d ∈ s.unitOf x, s.savable d = false) →
      exec (.blockSave l b) s = .next s) ∧
    (∀ x, here = some x → s.covered x.ctx x.launch (s.blkOf x) = true → (∀ d ∈ s.unitOf x, s.savable d = true) →
      let saved := (s.unitOf x).foldl (fun t d => match t.block? d.launch d.index with
        | some e => if e.phase = .running then t.saveBlock e else t
        | none => t) s
      exec (.blockSave l b) s = .next ((s.unitOf x).foldl (fun t d => match t.block? d.launch d.index with
        | some e => t.finishSave e
        | none => t) saved)) ∧
    (s.placeReqs = [] → exec (.blockResume l b) s = .next s) ∧
    (∀ r rest t, s.placeReqs = r :: rest → s.tryReq (fun _ => true) r = some t →
      (∀ num index, r.kind = .resume num index → exec (.blockResume l b) s =
        .next (if num = l.toNat ∧ index % 2 ^ 32 = b.toNat then t else s)) ∧
      ((∀ num index, r.kind ≠ .resume num index) → exec (.blockResume l b) s = .next s)) ∧
    (∀ (r : PlaceReq) (m : Launch) (num index : Nat) (t : State), r.kind = .resume num index → s.launch? r.num = some m →
      s.resumeAll num (fun c => s.coreFor (s.fnOf m.ctx) (s.urgent m) c) (s.savedUnit num index) = .placed t →
      s.tryReq (fun _ => true) r = some (if (s.ctx m.ctx).stepping = true then t else t.unsuspend m.ctx))) ∧
  (∀ (s : State) (c : BitVec 8),
    let due := s.preReq c.toNat = true ∧ s.preState c.toNat = 1 ∧ (∀ b ∈ s.blocks, b.ctx ≠ c.toNat) ∧ (∀ p ∈ s.spindles, p.ctx ≠ c.toNat) ∧
      (∀ a ∈ s.away, a.ctx ≠ c.toNat) ∧
      ¬ ((s.ctx c.toNat).stepping = true ∧ ∃ l ∈ s.launchesOf c.toNat, ∃ b ∈ l.saved, b.debug = false)
    (due → ∃ t, exec (.suspensionComplete c) s = .next t ∧ t.preState c.toNat = 2) ∧
    (¬ due → exec (.suspensionComplete c) s = .next s)) ∧
  (∀ (s : State) (c : BitVec 8), (s.deadlinePassed c.toNat 0 = false → exec (.forcedSave c) s = .next s) ∧
    (s.deadlinePassed c.toNat 0 = true → exec (.forcedSave c) s =
      .next ((s.modCtx c.toNat (fun x => { x with forced := true })).forceStops c.toNat)) ∧
    exec (.forcedSaveTimeout c) s = .next (if (s.ctx c.toNat).forced = true ∧ s.deadlinePassed c.toNat (150 * ticksPerMicro) = true ∧
      s.preState c.toNat ≠ 3 then s.terminate c.toNat causeForcedTimeout else s)) ∧
  (∀ (s : State) (d : BitVec 3), s.hasAgent = true → exec (.illegalInstruction d) s =
    .next (s.takeTrap (causeIllegal d.toNat) s.curPc 0 0).settle) ∧
  (∀ (s : State) (cl : BitVec 5), s.spindle? cl.toNat = none → (∀ k, exec (.slotReadFinish cl k) s = .next s) ∧
    exec (.matrixOpComplete cl) s = .next s ∧ exec (.matrixOpIssue cl) s = .next s ∧ exec (.drainIssue cl) s = .next s ∧
    exec (.drainComplete cl) s = .next s ∧ exec (.drainFault cl) s = .next s) ∧
  (∀ (s : State) (cl : BitVec 5) (k : BitVec 6) (p : Spindle), s.spindle? cl.toNat = some p →
    ((p.slot k.toNat).state ≠ .inUse → exec (.slotReadFinish cl k) s = .next s) ∧
    ((p.slot k.toNat).state = .inUse → exec (.slotReadFinish cl k) s = .next ((s.setSpindle (p.readDone k.toNat)).slotReturned cl.toNat) ∧
      ((p.readDone k.toNat).slot k.toNat).state = .claimed ∧ ∀ o ∈ (p.readDone k.toNat).ops, k.toNat ∉ o.reads) ∧
    ((∀ o ∈ p.ops, o.drain.isSome = true) → exec (.matrixOpComplete cl) s = .next s) ∧
    (∀ o rest, p.ops = o :: rest → o.drain = none →
      let q := o.reads.foldl (fun p i => p.readDone i) p
      exec (.matrixOpComplete cl) s = .next ((s.setSpindle { q with ops := q.ops.tail }.batchesDone).slotReturned cl.toNat)) ∧
    exec (.matrixOpIssue cl) s = exec (.drainIssue cl) s ∧
    (∀ r x, p.wait = .retry r x →
      exec (.matrixOpIssue cl) s = .next { s.setSpindle { p with wait := .ready } with agenda := .spindle cl.toNat :: s.agenda }) ∧
    ((∀ r x, p.wait ≠ .retry r x) → exec (.matrixOpIssue cl) s = .next s) ∧
    (p.drain? = none → exec (.drainComplete cl) s = .next s ∧ exec (.drainFault cl) s = .next s)) ∧
  (∀ (s : State) (cl : Nat), ∃ l : List Move, s.slotReturned cl = { s with agenda := l ++ s.agenda } ∧
    ∀ m ∈ l, (∃ c k, m = .slotWrite c k) ∨ ∃ c k j, m = .copyStep c k j 512) ∧
  (∀ (s : State) (cl : BitVec 5) (p : Spindle) (d : Drain), s.spindle? cl.toNat = some p → p.drain? = some d →
    let run := s.drainRun cl.toNat d.total (d.total + 1)
    (run.2 = none → exec (.drainFault cl) s = .next s) ∧
    ∀ q e, run.1.spindle? cl.toNat = some q → q.drain? = some e →
      let past := run.1.loadsPast cl.toNat e.since
      let u := run.1.drainEnd q e
      (∀ c a, run.2 = some (c, a) → exec (.drainFault cl) s = .next (if past = true then u.drainReport q c e.progress a else s)) ∧
      (e.progress ≠ e.total ∨ past = false → exec (.drainComplete cl) s = .next run.1) ∧
      (e.progress = e.total → past = true → (e.bben = false → exec (.drainComplete cl) s = .next u) ∧
        (∀ b, e.bben = true → u.block? q.launch q.block = some b →
          exec (.drainComplete cl) s = .next (match u.bbArrive (b.scratchAddr e.bboff) e.bboff e.total 0 with
            | (some c, v) => v.drainReport q c e.total 0
            | (none, v) => v)))) ∧
  (∀ (s : State) (c : BitVec 7) (k : BitVec 6) (j : BitVec 3),
    (∀ i : Instr, i = .copyStart c k j ∨ i = .copyEnd c k j ∨ i = .copyFault c k j →
      (s.wave? c.toNat k.toNat = none ∨ ∃ w, s.wave? c.toNat k.toNat = some w ∧ (w.token j.toNat).copy = none) → exec i s = .next s) ∧
    (∀ w x, s.wave? c.toNat k.toNat = some w → (w.token j.toNat).copy = some x →
      let t := w.token j.toNat
      let run := s.copyRun c.toNat k.toNat j.toNat x.total x.total
      let again := t.state = 3 ∧ s.lockRoom (w.core / 4) x = true ∧ w.wait ≠ .restored ∧ ¬ (w.mode = .supervisor ∧ w.handler ≠ .trap)
      (t.state = 1 → x.started = false → exec (.copyStart c k j) s = .next (s.setToken w j.toNat { t with copy := some { x with started := true } })) ∧
      (again → exec (.copyStart c k j) s = .next ((s.lockCopy w j.toNat x).setToken w j.toNat
        { t with state := 1, copy := some { x with started := true, since := s.cyc } })) ∧
      (¬ (t.state = 1 ∧ x.started = false) → ¬ again → exec (.copyStart c k j) s = .next s) ∧
      (run.2 = none → exec (.copyFault c k j) s = .next s) ∧
      ∀ v y, run.1.wave? c.toNat k.toNat = some v → (v.token j.toNat).copy = some y →
        let u := v.token j.toNat
        let past := run.1.loadsPast (c.toNat / 4) y.since
        (∀ d a z, run.2 = some (d, a, z) → exec (.copyFault c k j) s =
          .next (if past = true then run.1.copyFail v j.toNat u.progress y d a z else s)) ∧
        exec (.copyEnd c k j) s = .next (if u.state = 1 ∧ y.started = true ∧ u.progress = y.total ∧ past = true
          then run.1.copyDone v j.toNat y else run.1))) ∧
  (∀ (s : State) (w : Wave) (j : Nat) (x : Copy), let r := s.copyRelease w j x
    let ends (u : State) (state cause : Nat) : State := u.setToken w j { state := state, cause := cause, progress := x.total, copy := none }
    (x.bben = false → s.copyDone w j x = ends r 0 0) ∧
    (∀ b, x.bben = true → r.block? w.launch w.block = some b →
      s.copyDone w j x = (match r.bbArrive (b.scratchAddr x.bboff) x.bboff x.total 0 with
        | (some d, u) => ends u 2 d
        | (none, u) => ends u 0 0)))

/-- The first request of the order, when it can be placed, takes the placement opportunity of its kind: a launch's next block on
the first core of the scan with room, a pool's first task, an emission of a quarter. A quiet wave that has ended leaves, one that
exits first makes its release, and a task's its completion. A user timer trap is taken by a wave between two instructions or
asleep, a sleep ends at its time, and the turn of an aged wave comes first. An access whose turn it is performs its elements and
completes; a dirty line other than UN is written back from 4,096 cycles on. The oldest claim of a block's registers is granted
when the pool holds enough; tasks queued for 65,536 cycles are marked; the cold records of a suspended ray launch are written to a
new frame; a request or an emission that has waited 65,536 cycles reserves. An urgent launch with a request that fits nowhere
raises the requests of the contexts whose work it needs gone. A pending queue's descriptor is read, and its records become
available or its fault is written; the record that the order of service names is taken. A free waiter slot goes to the oldest
request that may have it, and a slot whose cell has reached its threshold lets its wave go. A stall whose oldest ray is older than
one, or two, age limits is marked; a Crier's choice is emitted, as a batch or an emission of at most 64 rays of one key; a waiting
batch enters a unit with room; a trace ends with its ray in the episode phase or retired. The first request for an idle Spindle
core tries again. A shared cluster passes to the next function when its quantum has run out. An event that is not due changes
nothing (log entry 7). (01_execution_model.md R25, 01_execution_model.md R27, 01_execution_model.md R32, 01_execution_model.md
R35, 02_ray_model.md R49, 02_ray_model.md R50, 04_memory_as_seen.md R96, 20_scheduling_hw.md R306, 20_scheduling_hw.md R307,
20_scheduling_hw.md R309, 20_scheduling_hw.md R313, 20_scheduling_hw.md R315) -/
def Obligations.WorkEvents : Prop :=
  (∀ (s : State) (l : BitVec 8) (q : BitVec 2), s.placeReqs = [] →
    exec (.blockPlacement l) s = .next s ∧ exec (.taskDispatch l) s = .next s ∧ exec (.episodePlacement q) s = .next s) ∧
  (∀ (s t : State) (l : BitVec 8) (q : BitVec 2) (r : PlaceReq) (rest : List PlaceReq), s.placeReqs = r :: rest →
    s.tryReq (fun _ => true) r = some t →
    exec (.blockPlacement l) s = .next (if r.kind = .block l.toNat then t else s) ∧
    exec (.taskDispatch l) s = .next (if r.kind = .task l.toNat then t else s) ∧
    (∀ e, r.kind = .episode e → exec (.episodePlacement q) s = .next (if e.quarter = q.toNat then t else s)) ∧
    ((∀ e, r.kind ≠ .episode e) → exec (.episodePlacement q) s = .next s)) ∧
  (∀ (s : State) (r : PlaceReq) (m : Launch) (seat : Seat), s.launch? r.num = some m →
    let ok (c : Nat) : Bool := s.coreFor (s.fnOf m.ctx) (s.urgent m) c
    let placed (u : State) (block blk : Nat) : State :=
      ((u.serve (s.fnOf m.ctx) (seat.core / 4)).logStarts m.num block).stopPlaced m.ctx m.num block blk
    let c := m.record
    (r.kind = .block r.num → unitBlocks c = 1 →
      s.scan (s.ctx m.ctx).paired false (fun x => ok x && m.allows m.next x) (recordAsk c) = some (.here seat) →
      let b := Block.enter m.num m.next m.ctx seat.core (wavesPerBlock c) seat.scrBase (4096 * ctlScratch c) (ctlBars c)
      let u := s.enterBlock b seat (fun wid slot part inst blocks => Wave.enter seat.core slot part inst m.ctx m.num m.next wid
        (if m.kind = 1 then .generation else .compute) m.prio s.cyc (launchEntry m) (entryMask (levelExtent c 0))
        (entryRegs (recArgs c) m.next wid) blocks)
      s.tryReq (fun _ => true) r = some ((placed ({ u with last := seat.core }.modLaunch m.num (fun l => l.note m.next seat.core false))
        m.next m.next).modLaunch m.num (fun l => { l with next := l.next + 1, since := s.cyc, reserves := false }))) ∧
    (∀ t, r.kind = .task r.num → s.firstTask m = some t →
      s.firstFit 0 128 (s.last % 128) ok
        { waves := [(0, ctlVblk c)], pool := 0, scratch := 4096 * ctlScratch c, bars := ctlBars c, spindle := false } = some seat →
      let b := Block.enter m.num t.number m.ctx seat.core 1 seat.scrBase (4096 * ctlScratch c) (ctlBars c)
      let u := s.enterBlock b seat (fun wid slot part inst blocks =>
        { Wave.enter seat.core slot part inst m.ctx m.num t.number wid .task (min (taskPrio t.record) m.prio) s.cyc (taskEntry t.record)
            (entryMask (levelExtent c 0)) (taskRegs t) blocks with
          wsat := true, taskWide := taskWideFlag t.record, taskSucc := (taskSucc t.record).toNat })
      s.tryReq (fun _ => true) r = some (placed (({ u with last := seat.core }.modLaunch m.num (fun l =>
        { l with tasks := l.tasks.filter (fun v => v.number != t.number) })).acquireAll seat.core m.ctx) t.number 0)) ∧
    (∀ e rl t, r.kind = .episode e → s.emissionEntry e = some (m, rl, t) →
      s.firstFit (32 * e.quarter) 32 (s.quarterStart e.quarter) ok
        { waves := [(0, epVblk t)], pool := 0, scratch := 4096 * epScratch t, bars := 0, spindle := false } = some seat →
      let index := episodeBase + s.order
      let b := Block.enter m.num index m.ctx seat.core 1 seat.scrBase (4096 * epScratch t) 0
      let u := { s with order := s.order + 1 }.enterBlock b seat (fun wid slot part inst blocks =>
        { Wave.enter seat.core slot part inst m.ctx m.num index wid .episode (min (epPrio t) m.prio) s.cyc (epEntry t)
            (entryMask e.rays.length) (episodeRegs m rl e.cls e.rays.length) blocks with cls := e.cls, entry := recEntry c })
      let f := match seat.waves with
        | x :: _ => u.fillEpisode seat.core x.2.1 m.num e.rays
        | [] => u
      s.tryReq (fun _ => true) r = some (placed { f with lastQuarter := sput (fun q => 32 * q + 31) f.lastQuarter e.quarter seat.core,
                                                         emissions := f.emissions.erase e } index 0))) ∧
  (∀ (s : State) (c : BitVec 7) (k : BitVec 6), s.wave? c.toNat k.toNat = none → exec (.waveExitComplete c k) s = .next s.settleEnds ∧
    exec (.userTimerTrap c k) s = .next s ∧ exec (.sleepExpiry c k) s = .next s ∧ exec (.waveReadyAged c k) s = .next s) ∧
  (∀ (s : State) (c : BitVec 7) (k : BitVec 6) (w : Wave), s.wave? c.toNat k.toNat = some w →
    (w.quiet = false ∨ ((∀ x, w.wait ≠ .ended x) ∧ ∀ x, w.wait ≠ .exiting x) → exec (.waveExitComplete c k) s = .next s.settleEnds) ∧
    (∀ x, w.quiet = true → w.wait = .ended x → exec (.waveExitComplete c k) s = .next (s.waveLeaves w x).settleEnds) ∧
    (∀ x v, w.quiet = true → w.wait = .exiting x →
      let t := s.exitRelease w (s.exitScope w)
      let u := if w.kind = .task then t.completeTask w else t
      u.wave? c.toNat k.toNat = some v → exec (.waveExitComplete c k) s = .next (u.waveLeaves v 0).settleEnds) ∧
    (let due := s.held w = false ∧ s.timerDue w = true ∧ w.poisPend = none ∧ w.sfDue = false
     (due → w.wait = .ready → w.answers = [] → exec (.userTimerTrap c k) s = .next (s.takeTimer w)) ∧
     (∀ x, due → w.wait = .sleep x → exec (.userTimerTrap c k) s = .next (s.takeTimer { w with wait := .ready, readySince := s.cyc })) ∧
     (¬ due ∨ ((∀ x, w.wait ≠ .sleep x) ∧ ¬ (w.wait = .ready ∧ w.answers = [])) → exec (.userTimerTrap c k) s = .next s)) ∧
    (∀ x, w.wait = .sleep x → exec (.sleepExpiry c k) s =
      .next (s.setWave (if x ≤ s.cyc ∧ s.held w = false then { w with wait := .ready, readySince := s.cyc } else w))) ∧
    ((∀ x, w.wait ≠ .sleep x) → exec (.sleepExpiry c k) s = .next (s.setWave w)) ∧
    exec (.waveReadyAged c k) s =
      .next (if w.wait = .ready ∧ w.readySince + agedAt ≤ s.cyc then { s with agenda := .wave c.toNat k.toNat :: s.agenda } else s)) ∧
  (∀ (s : State) (c : BitVec 7) (k : BitVec 6) (j : BitVec 16),
    ((∀ w, s.wave? c.toNat k.toNat = some w → w.flight[j.toNat]? = none) → exec (.accessCompletion c k j) s = .next s) ∧
    (∀ w a, s.wave? c.toNat k.toNat = some w → w.flight[j.toNat]? = some a →
      exec (.accessCompletion c k j) s = .next (if a.done = false ∧ (∀ e ∈ a.elems, w.mayPerform j.toNat e = true) then
        s.performAll c.toNat k.toNat a.id a.elems else s)) ∧
    exec (.lineAgingWriteback c j) s = .next (match (s.l1.filter (fun l => l.core == c.toNat))[j.toNat]? with
      | some l => if l.kind ≠ .un ∧ l.dirty ≠ 0 ∧ l.dirtySince + 4096 ≤ s.cyc then s.writeBackRouted l else s
      | none => s)) ∧
  (∀ (s : State) (c k id : Nat) (w : Wave) (a : Access), s.wave? c k = some w → w.flight.find? (fun a => a.id == id) = some a →
    (a.elems = [] → a.done = false → s.performAll c k id [] = s.completeAccess c k a) ∧
    ∀ e rest, s.performAll c k id (e :: rest) = ((s.performElem w a e).2.modWave c k (fun x =>
      x.setAccess { (s.performElem w a e).1 with elems := (s.performElem w a e).1.elems.erase e })).performAll c k id rest) ∧
  (∀ (s : State) (l : BitVec 8) (b : BitVec 32),
    (∀ x wid rest w n, s.block? l.toNat b.toNat = some x → x.claims = wid :: rest →
      (s.wavesOf l.toNat b.toNat).find? (fun w => w.wid == wid) = some w → w.claimed = some n →
      exec (.regclaimGrant l b) s = .next (if x.pool.length < n then s
        else ((s.setBlock { x with claims := rest, pool := x.pool.drop n }).clearBlocks w.core (x.pool.take n)).modWave
          w.core w.slot (fun v => { v with blocks := v.blocks ++ x.pool.take n, wait := .claim 0 }))) ∧
    (s.block? l.toNat b.toNat = none → exec (.regclaimGrant l b) s = .next s) ∧
    (∀ x, s.block? l.toNat b.toNat = some x → x.claims = [] → exec (.regclaimGrant l b) s = .next s)) ∧
  (∀ (s : State) (l : BitVec 8), exec (.taskPriorityAging l) s = .next (s.modLaunch l.toNat (fun l =>
      { l with tasks := l.tasks.map (fun (t : Task) => { t with aged := t.aged || t.time + 65536 ≤ s.cyc }) })) ∧
    (∃ (es : List Emission), es = s.emissions.map (fun (e : Emission) =>
        if e.launch = l.toNat ∧ e.time + 65536 ≤ s.cyc then { e with reserves := true } else e) ∧
      let t := { s with emissions := es }
      let old := ∃ r ∈ t.placeReqs, r.num = l.toNat ∧ r.since + 65536 ≤ s.cyc ∧ ∃ n, r.kind = .block n
      (old → exec (.placementReservation l) s = .next (t.modLaunch l.toNat (fun l => { l with reserves := true }))) ∧
      (¬ old → exec (.placementReservation l) s = .next t)) ∧
    ((∀ m rl, s.launch? l.toNat = some m → m.ray = some rl → m.suspended = false ∨ rl.cold.isSome = true ∨ s.preState m.ctx ≠ 2) →
      exec (.coldPoolReclaim l) s = .next s) ∧
    (∀ m rl, s.launch? l.toNat = some m → m.ray = some rl → m.suspended = true → rl.cold = none → s.preState m.ctx = 2 →
      (s.allocFrame m.ctx (poolFrameGranules rl.cap) = none → exec (.coldPoolReclaim l) s = .next (s.terminate m.ctx causeSaveFull)) ∧
      (∀ f, s.allocFrame m.ctx (poolFrameGranules rl.cap) = some f →
        let va (o : Nat) : BitVec 64 := s.frameVa m.ctx f o
        let base := 65536 + 128 * rl.cap
        let head := s.saveWrite m.ctx (va 0) 64 (rl.cap + 2 ^ 32 * rl.slot)
        let zeroed := (List.range (16 * rl.cap / 4096)).foldl (fun (o : Option State) i =>
          o.bind (fun t => t.saveWrite m.ctx (va (base + 4096 * i)) 4096 0)) head
        let full := rl.rays.foldl (fun (o : Option State) r => o.bind (fun t =>
          (t.saveWrite m.ctx (va (65536 + 128 * r.slot)) 128 r.record.toNat).bind (fun t =>
            t.saveWrite m.ctx (va (base + 16 * r.slot)) 16 r.metadata))) zeroed
        (full.bind (fun t => t.writeEntry m.ctx f 0 m.num 2) = none → exec (.coldPoolReclaim l) s = .next (s.saveFault m.ctx)) ∧
        (∀ t, full.bind (fun t => t.writeEntry m.ctx f 0 m.num 2) = some t →
          exec (.coldPoolReclaim l) s = .next (t.modRayLaunch l.toNat (fun r => { r with cold := some f }))))) ∧
    (let stuck := s.placeReqs.find? (fun r => r.num == l.toNat && !s.placedWithout r [])
     (∀ m, s.launch? l.toNat = some m → stuck = none ∨ s.urgent m = false → exec (.urgentPreemption l) s = .next s) ∧
     (s.launch? l.toNat = none → exec (.urgentPreemption l) s = .next s) ∧
     (∀ m r, s.launch? l.toNat = some m → stuck = some r → s.urgent m = true →
       let t := s.without ((s.holders m r).filter s.preReq)
       (t.enough r [] (s.victims m r) = none → exec (.urgentPreemption l) s = .next s) ∧
       (∀ cs, t.enough r [] (s.victims m r) = some cs → exec (.urgentPreemption l) s =
         .next ((t.needed r [] cs).foldl (fun s c => s.raiseReq c (fun x => { x with reqSched := true })) s))))) ∧
  (∀ (s : State) (c : BitVec 8) (q : BitVec 6), exec (.rayLaunchActivation c q) s =
      .next (if (∃ e ∈ (s.ctx c.toNat).rayHead, e.1 = q.toNat) ∧ s.nextService = some (c.toNat, q.toNat) then s.takeFrom c.toNat q.toNat else s) ∧
    ((s.ctx c.toNat).pending.getLsbD q.toNat = false → exec (.queueScan c q) s = .next s) ∧
    ((s.ctx c.toNat).pending.getLsbD q.toNat = true →
      let u := (s.modCtx c.toNat (fun x => { x with pending := x.pending &&& ~~~(1#64 <<< q.toNat) })).modCtx c.toNat
        (fun x => { x with rayHead := x.rayHead.filter (fun e => e.1 != q.toNat) })
      (∀ t, u.queueDesc 0 c.toNat q.toNat = (none, t) → exec (.queueScan c q) s = .next (t.queueFault c.toNat q.toNat causeQueueDesc)) ∧
      (∀ d t, u.queueDesc 0 c.toNat q.toNat = (some d, t) → exec (.queueScan c q) s = .next (
        if d.good = false then t.queueFault c.toNat q.toNat causeQueueDesc
        else if d.enabled = false then t.queueIdle c.toNat q.toNat
        else if 2 ^ d.sizelog < d.count then t.queueFault c.toNat q.toNat causeQueueOverrun
        else t.modCtx c.toNat (fun x => { x with avail := sput (fun _ => 0) x.avail q.toNat d.count,
                                                 scanned := sput (fun _ => 0) x.scanned q.toNat d.bytes }))))) ∧
  (∀ s : State, exec .launchTake s = .next (match s.nextService with
      | some (c, q) => s.takeFrom c q
      | none => s) ∧
    (s.waiters.find? s.mayGrant = none ∨ s.freeWaiter = none → exec .waiterSlotGrant s = .next s) ∧
    (∀ t i v u, s.waiters.find? s.mayGrant = some t → s.freeWaiter = some i →
      State.l2Read { s with waiters := s.waiters.map (fun (u : Waiter) => if u.order = t.order then { u with index := some i } else u) } t.ctx t.pa 8 = (v, u) →
      exec .waiterSlotGrant s = .next (if t.threshold.toNat ≤ v then u.releaseWaiter t else u))) ∧
  (∀ (s : State) (i : BitVec 10), exec (.tlwaitRelease i) s = exec (.waiterSlotPoll i) s ∧
    (s.waiters.find? (fun t => t.index == some i.toNat) = none → exec (.tlwaitRelease i) s = .next s) ∧
    (∀ t v u, s.waiters.find? (fun t => t.index == some i.toNat) = some t → s.l2Read t.ctx t.pa 8 = (v, u) →
      exec (.tlwaitRelease i) s = .next (if t.threshold.toNat ≤ v then u.releaseWaiter t else u))) ∧
  (∀ (s : State) (q : BitVec 2) (k : BitVec 13),
    let marked (t : Stall) (p : Nat × Ray) (limits : Nat) : Prop :=
      t.quarter = q.toNat ∧ t.index = k.toNat ∧ (s.emittable t).head? = some p ∧ s.olderThan p limits = true
    (∃ u, exec (.stallAgeExpiry q k) s = .next u ∧ u = { s with stalls := u.stalls } ∧ u.stalls.length = s.stalls.length ∧
      ∀ (n : Nat) (t : Stall), s.stalls[n]? = some t → (∀ p, marked t p 1 → u.stalls[n]? = some { t with aged := some p.2.order }) ∧
        ((∀ p, ¬ marked t p 1) → u.stalls[n]? = some t)) ∧
    (∃ u, exec (.stallOverdue q k) s = .next u ∧ u = { s with stalls := u.stalls } ∧ u.stalls.length = s.stalls.length ∧
      ∀ (n : Nat) (t : Stall), s.stalls[n]? = some t → (∀ p, marked t p 2 → u.stalls[n]? = some { t with overdue := some p.2.order }) ∧
        ((∀ p, ¬ marked t p 2) → u.stalls[n]? = some t))) ∧
  (∀ (s : State) (q : BitVec 2), (s.crierChoice q.toNat = none → exec (.crierEmission q) s = .next s) ∧
    (∀ v, s.crierChoice q.toNat = some v →
      let rays := s.emissionRays v
      let key := v.oldest.2.key
      (rays.length ≤ 64 ∧ ∀ p ∈ rays, p.1 = v.oldest.1 ∧ p.2.key = key) ∧
      (key.episode = false → exec (.crierEmission q) s = .next
        ({ s.takeRays .inTraversal rays with
          batches := s.batches ++ [
            ({ quarter := q.toNat, launch := v.oldest.1, stall := v.stall.index, born := v.stall.born, unit := none,
               rays := rays.map (fun (p : Nat × Ray) => p.2.slot), hits := [] } : Batch)] }.sweepStalls)) ∧
      (key.episode = true → ∃ u : State, exec (.crierEmission q) s = .next u.sweepStalls ∧
        u = { s.takeRays .inEpisode rays with
          emissions := s.emissions ++ [
            ({ quarter := q.toNat, launch := v.oldest.1, cls := key.cell, rays := rays.map (fun (p : Nat × Ray) => p.2.slot), time := s.cyc,
               reserves := false } : Emission)],
          bufs := u.bufs }))) ∧
  (∀ (s : State) (q : BitVec 2) (u : BitVec 7), (u.toNat / 32 ≠ q.toNat → exec (.traversalBatchStart q u) s = .next s) ∧
    (s.batches.find? (fun b => b.quarter == q.toNat && b.unit.isNone) = none → exec (.traversalBatchStart q u) s = .next s) ∧
    (∀ b, u.toNat / 32 = q.toNat → s.batches.find? (fun b => b.quarter == q.toNat && b.unit.isNone) = some b →
      exec (.traversalBatchStart q u) s = .next (if ((s.batches.filter (fun b => b.unit == some u.toNat)).foldl (fun a b => a + b.rays.length) 0)
        + b.rays.length ≤ 512 then { s with batches := replaceFirst (fun c => c == b) { b with unit := some u.toNat } s.batches } else s))) ∧
  (∀ (s : State) (l : BitVec 3) (k : BitVec 32), (s.raySlot? l.toNat = none → exec (.traceCompletion l k) s = .next s) ∧
    (∀ m r rl b unit, s.raySlot? l.toNat = some m → s.ray? m.num k.toNat = some r → m.ray = some rl →
      s.batches.find? (fun b => b.launch == m.num && b.rays.contains k.toNat) = some b → b.unit = some unit →
      (r.phase ≠ .inTraversal ∨ r.tags ≠ [] → exec (.traceCompletion l k) s = .next s) ∧
      (r.phase = .inTraversal → r.tags = [] → exec (.traceCompletion l k) s = .next (
        match s.trace (32 * b.quarter) m.ctx rl.header r.record with
        | .missing a v t => t.traceMisses m unit r a v
        | .fault v t => t.traceFails m unit r eventSceneFault v
        | .error v t => t.traceFails m unit r eventSceneError v
        | .miss t => (t.leaveBatch m.num k.toNat none).toEpisode m.num r (missRecord (rayMissCls r.record)) 3 0 0 (rayMissCls r.record) noIndex
        | .occluded h t => (t.leaveBatch m.num k.toNat none).toEpisode m.num r (occludedRecord (rayOccCls r.record)) h.j h.treelet h.slot
            (rayOccCls r.record) noIndex
        | .hit h t => (t.leaveBatch m.num k.toNat (some h.treelet)).toEpisode m.num r h.record.1 h.j h.treelet h.slot h.record.2 h.treelet)))) ∧
  (∀ (s : State) (cl : BitVec 5),
    ((∀ p, s.spindle? cl.toNat = some p → exec (.spindleStart cl) s = .next s) ∧
     (s.spnBest cl.toNat = none → exec (.spindleStart cl) s = .next s)) ∧
    (∀ q, s.spindle? cl.toNat = none → s.spnBest cl.toNat = some q →
      (∀ w x, s.wave? q.core q.slot = some w → w.wait = .retry 6 x →
        exec (.spindleStart cl) s = .next { s with agenda := .wave q.core q.slot :: s.agenda }) ∧
      ((∀ w x, s.wave? q.core q.slot = some w → w.wait ≠ .retry 6 x) → exec (.spindleStart cl) s = .next s)) ∧
    (s.serving.find? (fun e => e.1 == cl.toNat) = none → exec (.quantumExpiry cl) s = .next s) ∧
    (∀ c f at_, s.serving.find? (fun e => e.1 == cl.toNat) = some (c, f, at_) →
      let quantum := s.ctlField (.fnCtl f) 16 16
      let due := 1 < (s.sharers cl.toNat).length ∧ quantum ≠ 0 ∧ quantum * ticksPerMicro ≤ s.since at_ ∧ s.waitedFor f cl.toNat = true
      let t := (s.ctxsOn f cl.toNat).foldl (fun s c => s.raiseReq c (fun x => { x with reqSched := true })) s
      (¬ due → exec (.quantumExpiry cl) s = .next s) ∧
      (due → exec (.quantumExpiry cl) s = .next
        { t with serving := t.serving.map (fun e => if e.1 = cl.toNat then (cl.toNat, s.nextSharer f cl.toNat, s.clk.toNat) else e) })))
end

