-- ==== Sys2Proof/Laws/Sparse.lean ====
section
/-! SUPPORT. Sparse maps and memories: reading after writing, and that every operation keeps the canonical form. -/

namespace Sys2Proof.Machine

/-! ## Lists of pairs -/

/-- Every key of a list lies above a bound. -/
def above {α : Type} (k : Nat) (m : List (Nat × α)) : Prop := ∀ p ∈ m, k < p.1

theorem srising_cons {α : Type} (p : Nat × α) (m : List (Nat × α)) : srising (p :: m) = true ↔ above p.1 m ∧ srising m = true := by
  induction m generalizing p with
  | nil => simp [srising, above]
  | cons q rest ih =>
    simp only [srising, Bool.and_eq_true, decide_eq_true_eq, ih, above, List.mem_cons, forall_eq_or_imp]
    constructor
    · rintro ⟨h, h1, h2⟩
      exact ⟨⟨h, fun r hr => Nat.lt_trans h (h1 r hr)⟩, h1, h2⟩
    · rintro ⟨⟨h, _⟩, h1, h2⟩
      exact ⟨h, h1, h2⟩

theorem srising_filter {α : Type} (f : Nat × α → Bool) (m : List (Nat × α)) (h : srising m = true) : srising (m.filter f) = true := by
  induction m with
  | nil => rfl
  | cons p rest ih =>
    rw [srising_cons] at h
    rw [List.filter_cons]
    split
    · rw [srising_cons]
      exact ⟨fun q hq => h.1 q ((List.mem_filter.1 hq).1), ih h.2⟩
    · exact ih h.2

theorem mem_sinsert {α : Type} (k : Nat) (v : α) (m : List (Nat × α)) (p : Nat × α) : p ∈ sinsert k v m ↔ p = (k, v) ∨ p ∈ m := by
  induction m with
  | nil => simp [sinsert]
  | cons q rest ih =>
    obtain ⟨j, w⟩ := q
    simp only [sinsert]
    split
    · simp
    · simp only [List.mem_cons, ih]
      constructor
      · rintro (h | h | h) <;> simp [h]
      · rintro (h | h | h) <;> simp [h]

theorem srising_sinsert {α : Type} (k : Nat) (v : α) (m : List (Nat × α)) (h : srising m = true) (hk : ∀ p ∈ m, p.1 ≠ k) :
    srising (sinsert k v m) = true := by
  induction m with
  | nil => rfl
  | cons q rest ih =>
    obtain ⟨j, w⟩ := q
    have hq := h
    rw [srising_cons] at h
    simp only [sinsert]
    split
    · rename_i hlt
      rw [srising_cons]
      refine ⟨?_, hq⟩
      intro p hp
      rcases List.mem_cons.1 hp with rfl | hp
      · exact hlt
      · exact Nat.lt_trans hlt (h.1 p hp)
    · rename_i hlt
      have hj : j ≠ k := hk (j, w) (by simp)
      rw [srising_cons]
      refine ⟨?_, ih h.2 (fun p hp => hk p (by simp [hp]))⟩
      intro p hp
      rcases (mem_sinsert k v rest p).1 hp with rfl | hp
      · show j < k
        omega
      · exact h.1 p hp

theorem lookup_none_of_above {α : Type} (k : Nat) (m : List (Nat × α)) (h : ∀ p ∈ m, p.1 ≠ k) : m.lookup k = none := by
  induction m with
  | nil => rfl
  | cons p rest ih =>
    obtain ⟨j, w⟩ := p
    have hj : j ≠ k := h (j, w) (by simp)
    simp only [List.lookup_cons, beq_eq_false_iff_ne.2 (Ne.symm hj)]
    exact ih (fun p hp => h p (by simp [hp]))

theorem lookup_sinsert {α : Type} (k : Nat) (v : α) (m : List (Nat × α)) (hk : ∀ p ∈ m, p.1 ≠ k) (a : Nat) :
    (sinsert k v m).lookup a = if a = k then some v else m.lookup a := by
  induction m with
  | nil =>
    simp only [sinsert, List.lookup_cons, List.lookup_nil]
    by_cases e : a = k
    · simp [e]
    · simp [e, beq_eq_false_iff_ne.2 e]
  | cons q rest ih =>
    obtain ⟨j, w⟩ := q
    have hj : j ≠ k := hk (j, w) (by simp)
    simp only [sinsert]
    split
    · rename_i hlt
      by_cases e : a = k
      · simp [e]
      · simp [e, List.lookup_cons, beq_eq_false_iff_ne.2 e]
    · simp only [List.lookup_cons]
      by_cases e : a = j
      · subst e
        simp [hj]
      · simp only [beq_eq_false_iff_ne.2 e]
        exact ih (fun p hp => hk p (by simp [hp]))

theorem lookup_filter_ne {α : Type} (k : Nat) (m : List (Nat × α)) (a : Nat) :
    (m.filter (fun p => p.1 != k)).lookup a = if a = k then none else m.lookup a := by
  induction m with
  | nil => simp
  | cons q rest ih =>
    obtain ⟨j, w⟩ := q
    simp only [List.filter_cons]
    by_cases e : j = k
    · subst e
      rw [if_neg (by simp), ih, List.lookup_cons]
      by_cases d : a = j
      · simp [d]
      · simp [d, beq_eq_false_iff_ne.2 d]
    · simp only [bne_iff_ne, ne_eq, e, not_false_iff, if_true, List.lookup_cons, ih]
      by_cases d : a = j
      · subst d
        simp [e]
      · simp [beq_eq_false_iff_ne.2 d]

/-! ## Maps -/

variable {α : Type} [DecidableEq α] (dflt : Nat → α)

theorem swf_iff (m : List (Nat × α)) : swf dflt m = true ↔ srising m = true ∧ ∀ p ∈ m, p.2 ≠ dflt p.1 := by
  simp [swf]

theorem swf_nil : swf dflt ([] : List (Nat × α)) = true := rfl

theorem swf_filter (m : List (Nat × α)) (f : Nat × α → Bool) (h : swf dflt m = true) : swf dflt (m.filter f) = true := by
  rw [swf_iff] at *
  exact ⟨srising_filter f m h.1, fun p hp => h.2 p ((List.mem_filter.1 hp).1)⟩

theorem sput_swf (m : List (Nat × α)) (k : Nat) (v : α) (h : swf dflt m = true) : swf dflt (sput dflt m k v) = true := by
  have hf := swf_filter dflt m (fun p => p.1 != k) h
  simp only [sput]
  split
  · exact hf
  · rename_i hv
    rw [swf_iff] at hf ⊢
    refine ⟨srising_sinsert k v _ hf.1 (fun p hp => by simpa using (List.mem_filter.1 hp).2), fun p hp => ?_⟩
    rcases (mem_sinsert k v _ p).1 hp with rfl | hp
    · exact hv
    · exact hf.2 p hp

/-- A value read after a value is written at some key. -/
theorem sget_sput (m : List (Nat × α)) (k : Nat) (v : α) (a : Nat) :
    sget dflt (sput dflt m k v) a = if a = k then v else sget dflt m a := by
  have hk : ∀ p ∈ m.filter (fun p => p.1 != k), p.1 ≠ k := fun p hp => by simpa using (List.mem_filter.1 hp).2
  unfold sget sput
  dsimp only
  split
  · rename_i hv
    rw [lookup_filter_ne]
    by_cases e : a = k
    · simp [e, hv]
    · simp [e]
  · rw [lookup_sinsert _ _ _ hk, lookup_filter_ne]
    by_cases e : a = k <;> simp [e]

omit [DecidableEq α] in
theorem sget_sput_self [DecidableEq α] (m : List (Nat × α)) (k : Nat) (v : α) : sget dflt (sput dflt m k v) k = v := by
  rw [sget_sput dflt m, if_pos rfl]

/-! ## Memories -/

theorem wf_nil : Memory.wf [] = true := rfl

theorem wf_write (m : Memory) (a : Nat) (v : BitVec 8) (h : m.wf = true) : (m.write a v).wf = true := sput_swf memDefault m a v h

theorem read_write (m : Memory) (a : Nat) (v : BitVec 8) (b : Nat) :
    (m.write a v).read b = if b = a then v else m.read b := sget_sput memDefault m a v b

theorem wf_writeNat (n : Nat) (m : Memory) (a v : Nat) (h : m.wf = true) : (m.writeNat a n v).wf = true := by
  induction n generalizing m a v with
  | zero => exact h
  | succ n ih => exact ih _ _ _ (wf_write m a _ h)

/-- The byte at any address after a number is written. -/
theorem read_writeNat (n : Nat) (m : Memory) (a v b : Nat) :
    (m.writeNat a n v).read b = if a ≤ b ∧ b < a + n then BitVec.ofNat 8 (v / 256 ^ (b - a)) else m.read b := by
  induction n generalizing m a v with
  | zero =>
    have : ¬ (a ≤ b ∧ b < a + 0) := by omega
    simp only [Memory.writeNat, if_neg this]
  | succ n ih =>
    rw [Memory.writeNat, ih, read_write]
    by_cases e : b = a
    · subst e
      have h1 : ¬ (b + 1 ≤ b ∧ b < b + 1 + n) := by omega
      have h2 : b ≤ b ∧ b < b + (n + 1) := by omega
      rw [if_neg h1, if_pos rfl, if_pos h2, Nat.sub_self, Nat.pow_zero, Nat.div_one]
    · by_cases c : a + 1 ≤ b ∧ b < a + 1 + n
      · have c2 : a ≤ b ∧ b < a + (n + 1) := by omega
        rw [if_pos c, if_pos c2]
        have hd : b - a = (b - (a + 1)) + 1 := by omega
        rw [hd, Nat.pow_succ, Nat.mul_comm, Nat.div_div_eq_div_mul]
      · have c2 : ¬ (a ≤ b ∧ b < a + (n + 1)) := by omega
        rw [if_neg c, if_neg e, if_neg c2]

theorem wf_writeMasked (n : Nat) (m : Memory) (a v mask : Nat) (h : m.wf = true) : (m.writeMasked a n v mask).wf = true := by
  induction n generalizing m a v mask with
  | zero => exact h
  | succ n ih =>
    rw [Memory.writeMasked]
    apply ih
    split
    · exact wf_write m a _ h
    · exact h

/-- The byte at any address after a masked write. -/
theorem read_writeMasked (n : Nat) (m : Memory) (a v mask b : Nat) :
    (m.writeMasked a n v mask).read b
      = if a ≤ b ∧ b < a + n ∧ mask / 2 ^ (b - a) % 2 = 1 then BitVec.ofNat 8 (v / 256 ^ (b - a)) else m.read b := by
  induction n generalizing m a v mask with
  | zero =>
    have : ¬ (a ≤ b ∧ b < a + 0 ∧ mask / 2 ^ (b - a) % 2 = 1) := by omega
    simp only [Memory.writeMasked, if_neg this]
  | succ n ih =>
    rw [Memory.writeMasked, ih]
    by_cases e : b = a
    · subst e
      have h1 : ¬ (b + 1 ≤ b ∧ b < b + 1 + n ∧ mask / 2 / 2 ^ (b - (b + 1)) % 2 = 1) := by omega
      simp only [if_neg h1, Nat.sub_self, Nat.pow_zero, Nat.div_one]
      by_cases hm : mask % 2 = 1
      · rw [if_pos hm, read_write, if_pos rfl, if_pos ⟨Nat.le_refl b, by omega, hm⟩]
      · rw [if_neg hm, if_neg (fun c => hm c.2.2)]
    · have hr : (if mask % 2 = 1 then m.write a (BitVec.ofNat 8 v) else m).read b = m.read b := by
        split
        · rw [read_write, if_neg e]
        · rfl
      rw [hr]
      by_cases c : a + 1 ≤ b
      · have hd : b - a = (b - (a + 1)) + 1 := by omega
        have p1 : mask / 2 / 2 ^ (b - (a + 1)) = mask / 2 ^ (b - a) := by
          rw [hd, Nat.pow_succ, Nat.mul_comm, Nat.div_div_eq_div_mul]
        have p2 : v / 256 / 256 ^ (b - (a + 1)) = v / 256 ^ (b - a) := by
          rw [hd, Nat.pow_succ, Nat.mul_comm, Nat.div_div_eq_div_mul]
        rw [p1, p2]
        by_cases d : mask / 2 ^ (b - a) % 2 = 1 ∧ b < a + 1 + n
        · rw [if_pos ⟨c, d.2, d.1⟩, if_pos ⟨by omega, by omega, d.1⟩]
        · rw [if_neg (fun x => d ⟨x.2.2, x.2.1⟩), if_neg (fun x => d ⟨x.2.2, by omega⟩)]
      · have c2 : ¬ (a ≤ b) := by omega
        rw [if_neg (fun x => c x.1), if_neg (fun x => c2 x.1)]

theorem wf_clear (m : Memory) (a n : Nat) (h : m.wf = true) : (m.clear a n).wf = true := swf_filter memDefault m _ h

theorem wf_writeBytes (l : List (BitVec 8)) (m : Memory) (a : Nat) (h : m.wf = true) : (m.writeBytes a l).wf = true := by
  induction l generalizing m a with
  | nil => exact h
  | cons b bs ih => exact ih _ _ (wf_write m a b h)

theorem mem_cellsAt (l : List (BitVec 8)) (a : Nat) (p : Host.Cell) (h : p ∈ cellsAt a l) :
    a ≤ p.1 ∧ p.1 < a + l.length ∧ p.2 ≠ 0 := by
  induction l generalizing a with
  | nil => simp [cellsAt] at h
  | cons b bs ih =>
    rw [cellsAt] at h
    split at h
    · obtain ⟨h1, h2, h3⟩ := ih (a + 1) h
      simp only [List.length_cons]
      exact ⟨by omega, by omega, h3⟩
    · rename_i hb
      rcases List.mem_cons.1 h with rfl | h
      · simp only [List.length_cons]
        exact ⟨Nat.le_refl a, by omega, hb⟩
      · obtain ⟨h1, h2, h3⟩ := ih (a + 1) h
        simp only [List.length_cons]
        exact ⟨by omega, by omega, h3⟩

theorem wf_cellsAt (l : List (BitVec 8)) (a : Nat) : Memory.wf (cellsAt a l) = true := by
  induction l generalizing a with
  | nil => rfl
  | cons b bs ih =>
    rw [cellsAt]
    split
    · exact ih (a + 1)
    · rename_i hb
      have hi := (swf_iff memDefault _).1 (ih (a + 1))
      refine (swf_iff memDefault _).2 ⟨?_, ?_⟩
      · rw [srising_cons]
        exact ⟨fun p hp => by have := mem_cellsAt bs (a + 1) p hp; show a < p.1; omega, hi.1⟩
      · intro p hp
        rcases List.mem_cons.1 hp with rfl | hp
        · exact hb
        · exact hi.2 p hp

omit [DecidableEq α] in
theorem srising_append (l m : List (Nat × α)) (hl : srising l = true) (hm : srising m = true) (h : ∀ p ∈ l, ∀ q ∈ m, p.1 < q.1) :
    srising (l ++ m) = true := by
  induction l with
  | nil => exact hm
  | cons p rest ih =>
    rw [srising_cons] at hl
    rw [List.cons_append, srising_cons]
    refine ⟨fun q hq => ?_, ih hl.2 (fun p hp => h p (by simp [hp]))⟩
    rcases List.mem_append.1 hq with hq | hq
    · exact hl.1 q hq
    · exact h p (by simp) q hq

theorem wf_splice (m : Memory) (a : Nat) (bs : List (BitVec 8)) (h : m.wf = true) : (m.splice a bs).wf = true := by
  have h1 := (swf_iff memDefault _).1 (swf_filter memDefault m (fun p => p.1 < a) h)
  have h2 := (swf_iff memDefault _).1 (wf_cellsAt bs a)
  have h3 := (swf_iff memDefault _).1 (swf_filter memDefault m (fun p => a + bs.length ≤ p.1) h)
  refine (swf_iff memDefault _).2 ⟨?_, ?_⟩
  · refine srising_append _ _ (srising_append _ _ h1.1 h2.1 ?_) h3.1 ?_
    · intro p hp q hq
      have := (List.mem_filter.1 hp).2
      have := mem_cellsAt bs a q hq
      simp only [decide_eq_true_eq] at *
      omega
    · intro p hp q hq
      have hq := (List.mem_filter.1 hq).2
      simp only [decide_eq_true_eq] at hq
      rcases List.mem_append.1 hp with hp | hp
      · have := (List.mem_filter.1 hp).2
        simp only [decide_eq_true_eq] at this
        omega
      · have := mem_cellsAt bs a p hp
        omega
  · intro p hp
    rcases List.mem_append.1 hp with hp | hp
    · rcases List.mem_append.1 hp with hp | hp
      · exact h1.2 p hp
      · exact h2.2 p hp
    · exact h3.2 p hp

/-- A number read where another was written, and elsewhere. -/
theorem readNat_congr (n : Nat) (m k : Memory) (a : Nat) (h : ∀ b, a ≤ b → b < a + n → m.read b = k.read b) : m.readNat a n = k.readNat a n := by
  induction n generalizing a with
  | zero => rfl
  | succ n ih =>
    rw [Memory.readNat, Memory.readNat, h a (Nat.le_refl a) (by omega), ih (a + 1) (fun b h1 h2 => h b (by omega) (by omega))]

theorem readNat_of_bytes (n : Nat) (m : Memory) (a v : Nat)
    (h : ∀ b, a ≤ b → b < a + n → m.read b = BitVec.ofNat 8 (v / 256 ^ (b - a))) : m.readNat a n = v % 256 ^ n := by
  induction n generalizing a v with
  | zero => simp [Memory.readNat, Nat.mod_one]
  | succ n ih =>
    have h1 := ih (a + 1) (v / 256) (fun b h1 h2 => by
      rw [h b (by omega) (by omega)]
      have hd : b - a = (b - (a + 1)) + 1 := by omega
      rw [hd, Nat.pow_succ, Nat.mul_comm, Nat.div_div_eq_div_mul])
    rw [Memory.readNat, h1, h a (Nat.le_refl a) (by omega), Nat.sub_self, Nat.pow_zero, Nat.div_one, BitVec.toNat_ofNat]
    show v % 256 + 256 * (v / 256 % 256 ^ n) = v % 256 ^ (n + 1)
    rw [Nat.pow_add_one, Nat.mul_comm (256 ^ n) 256, Nat.mod_mul]

theorem readNat_writeNat (n : Nat) (m : Memory) (a v : Nat) : (m.writeNat a n v).readNat a n = v % 256 ^ n :=
  readNat_of_bytes n _ a v (fun b h1 h2 => by rw [read_writeNat n m, if_pos ⟨h1, h2⟩])

end Sys2Proof.Machine
end

