-- ==== Sys2Proof/Laws/Agent.lean ====
section
/-! SUPPORT. The agent of an instruction: reading it after changing it, and completing. -/

namespace Sys2Proof.Machine

/-! ## The first element that satisfies a test -/

theorem find_replaceFirst {α : Type} (p : α → Bool) (v x : α) (l : List α) (hf : l.find? p = some x) (hv : p v = true) :
    (replaceFirst p v l).find? p = some v := by
  induction l with
  | nil => simp at hf
  | cons a rest ih =>
    simp only [replaceFirst]
    split
    · simp [hv]
    · rename_i ha
      simp only [List.find?_cons, ha] at hf ⊢
      exact ih hf

theorem find_replaceFirst_other {α : Type} (p q : α → Bool) (v : α) (l : List α) (hd : ∀ y, p y = true → q y = false)
    (hv : q v = false) : (replaceFirst p v l).find? q = l.find? q := by
  induction l with
  | nil => rfl
  | cons a rest ih =>
    simp only [replaceFirst]
    split
    · rename_i ha
      simp [hd a ha, hv]
    · simp only [List.find?_cons, ih]

theorem replaceFirst_twice {α : Type} (p : α → Bool) (u v : α) (l : List α) (hu : p u = true) :
    replaceFirst p v (replaceFirst p u l) = replaceFirst p v l := by
  induction l with
  | nil => rfl
  | cons a rest ih =>
    simp only [replaceFirst]
    split
    · simp [replaceFirst, hu]
    · rename_i ha
      simp [replaceFirst, ha, ih]

theorem replaceFirst_same {α : Type} (p : α → Bool) (x : α) (l : List α) (hf : l.find? p = some x) : replaceFirst p x l = l := by
  induction l with
  | nil => rfl
  | cons a rest ih =>
    simp only [List.find?_cons, replaceFirst] at *
    split
    · rename_i ha
      simp only [ha, Option.some.injEq] at hf
      rw [hf]
    · rename_i ha
      simp only [ha] at hf
      rw [ih hf]

/-! ## Waves -/

theorem wave?_at {s : State} {c k : Nat} {w : Wave} (h : s.wave? c k = some w) : w.core = c ∧ w.slot = k := by
  have := List.find?_some h
  simpa [Wave.at] using this

theorem wave?_setWave {s : State} {c k : Nat} {w v : Wave} (h : s.wave? c k = some w) (hc : v.core = c) (hk : v.slot = k) :
    (s.setWave v).wave? c k = some v := by
  subst hc; subst hk
  exact find_replaceFirst _ v w s.waves h (by simp [Wave.at])

theorem wave?_setWave_other {s : State} {c k : Nat} {v : Wave} (h : ¬ (v.core = c ∧ v.slot = k)) : (s.setWave v).wave? c k = s.wave? c k := by
  refine find_replaceFirst_other _ _ v s.waves ?_ ?_
  · intro y hy
    simp only [Wave.at, Bool.and_eq_true, beq_iff_eq] at hy
    cases hb : Wave.at c k y
    · rfl
    · simp only [Wave.at, Bool.and_eq_true, beq_iff_eq] at hb
      exact absurd ⟨hy.1.symm.trans hb.1, hy.2.symm.trans hb.2⟩ h
  · cases hb : Wave.at c k v
    · rfl
    · simp only [Wave.at, Bool.and_eq_true, beq_iff_eq] at hb
      exact absurd hb h

/-- A change of a wave that keeps its place. -/
def Places (f : Wave → Wave) : Prop := ∀ w, (f w).core = w.core ∧ (f w).slot = w.slot

theorem modWave_modWave {s : State} {c k : Nat} (f g : Wave → Wave) (hf : Places f) (hg : Places g) :
    (s.modWave c k f).modWave c k g = s.modWave c k (fun w => g (f w)) := by
  unfold State.modWave
  cases h : s.wave? c k with
  | none => simp only [h]
  | some w =>
    obtain ⟨hc, hk⟩ := wave?_at h
    have h2 : (s.setWave (f w)).wave? c k = some (f w) := wave?_setWave h ((hf w).1.trans hc) ((hf w).2.trans hk)
    simp only [h2]
    unfold State.setWave
    simp only [State.mk.injEq, true_and, and_true]
    have e : (fun v => Wave.at (g (f w)).core (g (f w)).slot v) = (fun v => Wave.at (f w).core (f w).slot v) := by
      rw [(hg (f w)).1, (hg (f w)).2]
    rw [e]
    exact replaceFirst_twice _ _ _ _ (by simp [Wave.at])

theorem modWave_id (s : State) (c k : Nat) : s.modWave c k (fun w => w) = s := by
  unfold State.modWave
  cases h : s.wave? c k with
  | none => rfl
  | some w =>
    obtain ⟨hc, hk⟩ := wave?_at h
    unfold State.setWave
    simp only
    have : replaceFirst (fun v => Wave.at w.core w.slot v) w s.waves = s.waves := by
      rw [hc, hk]
      exact replaceFirst_same _ _ _ h
    rw [this]

/-! ## Spindle programs -/

theorem spindle?_at {s : State} {cl : Nat} {p : Spindle} (h : s.spindle? cl = some p) : p.cluster = cl := by
  have := List.find?_some h
  simpa using this

theorem spindle?_setSpindle {s : State} {cl : Nat} {p v : Spindle} (h : s.spindle? cl = some p) (hc : v.cluster = cl) :
    (s.setSpindle v).spindle? cl = some v := by
  subst hc
  exact find_replaceFirst _ v p s.spindles h (by simp)

theorem spindle?_setSpindle_other {s : State} {cl : Nat} {v : Spindle} (h : v.cluster ≠ cl) : (s.setSpindle v).spindle? cl = s.spindle? cl := by
  refine find_replaceFirst_other _ _ v s.spindles ?_ ?_
  · intro y hy
    simp only [beq_iff_eq] at hy
    exact beq_eq_false_iff_ne.2 (fun e => h (hy.symm.trans e))
  · exact beq_eq_false_iff_ne.2 h

/-- A change of a program that keeps its cluster. -/
def Stays (f : Spindle → Spindle) : Prop := ∀ p, (f p).cluster = p.cluster

theorem modSpindle_modSpindle {s : State} {cl : Nat} (f g : Spindle → Spindle) (hf : Stays f) (hg : Stays g) :
    (s.modSpindle cl f).modSpindle cl g = s.modSpindle cl (fun p => g (f p)) := by
  unfold State.modSpindle
  cases h : s.spindle? cl with
  | none => simp only [h]
  | some p =>
    have hc := spindle?_at h
    have h2 : (s.setSpindle (f p)).spindle? cl = some (f p) := spindle?_setSpindle h ((hf p).trans hc)
    simp only [h2]
    unfold State.setSpindle
    simp only [State.mk.injEq, true_and, and_true]
    have e : (fun q : Spindle => q.cluster == (g (f p)).cluster) = (fun q => q.cluster == (f p).cluster) := by rw [hg (f p)]
    rw [e]
    exact replaceFirst_twice _ _ _ _ (by simp)

theorem modSpindle_id (s : State) (cl : Nat) : s.modSpindle cl (fun p => p) = s := by
  unfold State.modSpindle
  cases h : s.spindle? cl with
  | none => rfl
  | some p =>
    have hc := spindle?_at h
    unfold State.setSpindle
    simp only
    have : replaceFirst (fun q => q.cluster == p.cluster) p s.spindles = s.spindles := by
      rw [hc]
      exact replaceFirst_same _ _ _ h
    rw [this]

/-! ## The agent -/

theorem modWave_cur (s : State) (c k : Nat) (f : Wave → Wave) : (s.modWave c k f).cur = s.cur := by
  unfold State.modWave
  split <;> rfl

theorem modSpindle_cur (s : State) (cl : Nat) (f : Spindle → Spindle) : (s.modSpindle cl f).cur = s.cur := by
  unfold State.modSpindle
  split <;> rfl

/-- A change of the agent of an instruction, whichever it is. -/
def State.modAgent (s : State) (fw : Wave → Wave) (fp : Spindle → Spindle) : State :=
  (s.modCurWave fw).modCurSpindle fp

theorem modAgent_wave {s : State} {c k : Nat} (h : s.cur = .wave c k) (fw : Wave → Wave) (fp : Spindle → Spindle) :
    s.modAgent fw fp = s.modWave c k fw := by
  unfold State.modAgent State.modCurWave State.modCurSpindle
  simp only [h, modWave_cur]

theorem modAgent_spindle {s : State} {cl : Nat} (h : s.cur = .spindle cl) (fw : Wave → Wave) (fp : Spindle → Spindle) :
    s.modAgent fw fp = s.modSpindle cl fp := by
  unfold State.modAgent State.modCurWave State.modCurSpindle
  simp only [h]

theorem modAgent_none {s : State} (h : s.cur = .none) (fw : Wave → Wave) (fp : Spindle → Spindle) : s.modAgent fw fp = s := by
  unfold State.modAgent State.modCurWave State.modCurSpindle
  simp only [h]

theorem modAgent_cur (s : State) (fw : Wave → Wave) (fp : Spindle → Spindle) : (s.modAgent fw fp).cur = s.cur := by
  cases h : s.cur with
  | none => rw [modAgent_none h, h]
  | wave c k => rw [modAgent_wave h, modWave_cur, h]
  | spindle cl => rw [modAgent_spindle h, modSpindle_cur, h]

theorem modAgent_modAgent (s : State) (fw gw : Wave → Wave) (fp gp : Spindle → Spindle) (h1 : Places fw) (h2 : Places gw) (h3 : Stays fp)
    (h4 : Stays gp) : (s.modAgent fw fp).modAgent gw gp = s.modAgent (fun w => gw (fw w)) (fun p => gp (fp p)) := by
  cases h : s.cur with
  | none => rw [modAgent_none h, modAgent_none h, modAgent_none h]
  | wave c k =>
    rw [modAgent_wave ((modAgent_cur s fw fp).trans h), modAgent_wave h, modAgent_wave h, modWave_modWave _ _ h1 h2]
  | spindle cl =>
    rw [modAgent_spindle ((modAgent_cur s fw fp).trans h), modAgent_spindle h, modAgent_spindle h, modSpindle_modSpindle _ _ h3 h4]

theorem modAgent_id (s : State) : s.modAgent (fun w => w) (fun p => p) = s := by
  cases h : s.cur with
  | none => rw [modAgent_none h]
  | wave c k => rw [modAgent_wave h, modWave_id]
  | spindle cl => rw [modAgent_spindle h, modSpindle_id]

theorem places_id : Places (fun w => w) := fun _ => ⟨rfl, rfl⟩
theorem stays_id : Stays (fun p => p) := fun _ => rfl

/-! ## The shared updates as changes of the agent -/

theorem setPc_eq (s : State) (pc : BitVec 64) :
    s.setPc pc = s.modAgent (fun w => { w with pc := pc }) (fun p => { p with pc := pc }) := by
  unfold State.setPc
  split <;> rename_i h
  · rw [modAgent_wave h]
  · rw [modAgent_spindle h]
  · rw [modAgent_none h]

theorem settle_eq (s : State) :
    s.settle = s.modAgent
      (fun w => { w with answers := [], holds := none, latched := none, step := w.step.map (fun _ => false), wait := w.wait.past })
      (fun p => { p with answers := [], holds := none, step := p.step.map (fun _ => false), wait := p.wait.past }) := by
  unfold State.settle
  dsimp only
  split <;> rename_i h
  · rw [modAgent_wave h]
  · rw [modAgent_spindle h]
  · rw [modAgent_none h]

theorem swr_eq (s : State) (n : Nat) (v : BitVec 64) :
    s.swr n v = s.modAgent (fun w => w.withS n v) (fun p => p.withX n v) := by
  unfold State.swr
  split <;> rename_i h
  · rw [modAgent_wave h]; rfl
  · rw [modAgent_spindle h]; rfl
  · rw [modAgent_none h]

theorem modCurWave_eq (s : State) (f : Wave → Wave) : s.modCurWave f = s.modAgent f (fun p => p) := by
  unfold State.modCurWave
  split <;> rename_i h
  · rw [modAgent_wave h]
  · cases hc : s.cur with
    | none => rw [modAgent_none hc]
    | wave c k => exact absurd hc (h c k)
    | spindle cl => rw [modAgent_spindle hc, modSpindle_id]

theorem modCurSpindle_eq (s : State) (f : Spindle → Spindle) : s.modCurSpindle f = s.modAgent (fun w => w) f := by
  unfold State.modCurSpindle
  split <;> rename_i h
  · rw [modAgent_spindle h]
  · cases hc : s.cur with
    | none => rw [modAgent_none hc]
    | spindle cl => exact absurd hc (h cl)
    | wave c k => rw [modAgent_wave hc, modWave_id]

theorem kwr_eq (s : State) (n : Nat) (v : BitVec 64) : s.kwr n v = s.modAgent (fun w => w.withK n v) (fun p => p) :=
  modCurWave_eq s _

theorem orFlags_eq (s : State) (f : Nat) :
    s.orFlags f = s.modAgent (fun w => w.flagged f) (fun p => p.flagged f) := by
  unfold State.orFlags
  by_cases hf : (f == 0) = true
  · have hz : f = 0 := by simpa using hf
    subst hz
    have h1 : (fun w : Wave => w.flagged 0) = (fun w => w) := by
      funext w; cases w; simp [Wave.flagged]
    have h2 : (fun p : Spindle => p.flagged 0) = (fun p => p) := by
      funext p; cases p; simp [Spindle.flagged]
    rw [h1, h2, modAgent_id]
    rfl
  · rw [if_neg hf]
    split <;> rename_i h
    · rw [modAgent_wave h]; rfl
    · rw [modAgent_spindle h]; rfl
    · rw [modAgent_none h]

theorem setWait_eq (s : State) (x : Wait) :
    s.setWait x = s.modAgent (fun w => { w with wait := x }) (fun p => { p with wait := x }) := by
  unfold State.setWait
  split <;> rename_i h
  · rw [modAgent_wave h]
  · rw [modAgent_spindle h]
  · rw [modAgent_none h]

theorem complete_eq (s : State) (pc : BitVec 64) (fw : Wave → Wave) (fp : Spindle → Spindle) :
    s.complete pc fw fp = s.modAgent (fun w => (fw w).completed pc) (fun p => (fp p).completed pc) := rfl

/-- Moving on after a change of the agent is one completion. -/
theorem setPc_settle (s : State) (pc : BitVec 64) (fw : Wave → Wave) (fp : Spindle → Spindle) (h1 : Places fw) (h3 : Stays fp) :
    ((s.modAgent fw fp).setPc pc).settle = s.complete pc fw fp := by
  rw [settle_eq, setPc_eq,
    modAgent_modAgent s fw (fun w => { w with pc := pc }) fp (fun p => { p with pc := pc }) h1 (fun _ => ⟨rfl, rfl⟩) h3 (fun _ => rfl)]
  exact modAgent_modAgent s (fun w => { fw w with pc := pc }) _ (fun p => { fp p with pc := pc }) _ (fun w => h1 w)
    (fun _ => ⟨rfl, rfl⟩) (fun p => h3 p) (fun _ => rfl)

theorem setPc_settle_id (s : State) (pc : BitVec 64) : (s.setPc pc).settle = s.complete pc (fun w => w) (fun p => p) := by
  have := setPc_settle s pc (fun w => w) (fun p => p) places_id stays_id
  rwa [modAgent_id] at this

theorem finish_done (s t : State) (words : Nat) (h : canonical (s.nextPc words) = true) :
    s.finish words (.done t) = t.complete (s.nextPc words) (fun w => w) (fun p => p) := by
  unfold State.finish
  simp only [h, if_true]
  exact setPc_settle_id t _

theorem finish_jump (s t : State) (words : Nat) (pc : BitVec 64) :
    s.finish words (.jump t pc) = t.complete pc (fun w => w) (fun p => p) := setPc_settle_id t pc

theorem complete_modAgent (s : State) (pc : BitVec 64) (fw gw : Wave → Wave) (fp gp : Spindle → Spindle) (h1 : Places fw) (h2 : Places gw)
    (h3 : Stays fp) (h4 : Stays gp) :
    (s.modAgent fw fp).complete pc gw gp = s.complete pc (fun w => gw (fw w)) (fun p => gp (fp p)) := by
  exact modAgent_modAgent s fw (fun w => (gw w).completed pc) fp (fun p => (gp p).completed pc) h1 (fun w => h2 w) h3 (fun p => h4 p)

/-- An instruction whose work changes its own agent alone, and falls through. -/
theorem finish_modAgent (s : State) (words : Nat) (fw : Wave → Wave) (fp : Spindle → Spindle) (h1 : Places fw) (h3 : Stays fp)
    (h : canonical (s.nextPc words) = true) : s.finish words (.done (s.modAgent fw fp)) = s.complete (s.nextPc words) fw fp := by
  rw [finish_done _ _ _ h]
  exact complete_modAgent s (s.nextPc words) fw (fun w => w) fp (fun p => p) h1 places_id h3 stays_id

theorem finish_same (s : State) (words : Nat) (h : canonical (s.nextPc words) = true) :
    s.finish words (.done s) = s.complete (s.nextPc words) (fun w => w) (fun p => p) := finish_done s s words h

/-! ## The agent after a completion -/

theorem curWave_modAgent {s : State} {w : Wave} (h : s.curWave = some w) (fw : Wave → Wave) (fp : Spindle → Spindle) (hf : Places fw) :
    (s.modAgent fw fp).curWave = some (fw w) := by
  unfold State.curWave at *
  cases hc : s.cur with
  | none => simp [hc] at h
  | spindle cl => simp [hc] at h
  | wave c k =>
    simp only [hc] at h
    rw [modAgent_wave hc, modWave_cur, hc]
    obtain ⟨h1, h2⟩ := wave?_at h
    simp only [State.modWave, h]
    exact wave?_setWave h ((hf w).1.trans h1) ((hf w).2.trans h2)

theorem curSpindle_modAgent {s : State} {p : Spindle} (h : s.curSpindle = some p) (fw : Wave → Wave) (fp : Spindle → Spindle) (hf : Stays fp) :
    (s.modAgent fw fp).curSpindle = some (fp p) := by
  unfold State.curSpindle at *
  cases hc : s.cur with
  | none => simp [hc] at h
  | wave c k => simp [hc] at h
  | spindle cl =>
    simp only [hc] at h
    rw [modAgent_spindle hc, modSpindle_cur, hc]
    simp only [State.modSpindle, h]
    exact spindle?_setSpindle h ((hf p).trans (spindle?_at h))

theorem curWave_place {s : State} {w : Wave} (h : s.curWave = some w) : s.cur = .wave w.core w.slot := by
  unfold State.curWave at h
  cases hc : s.cur with
  | none => simp [hc] at h
  | spindle cl => simp [hc] at h
  | wave c k =>
    simp only [hc] at h
    obtain ⟨h1, h2⟩ := wave?_at h
    rw [h1, h2]

theorem curSpindle_place {s : State} {p : Spindle} (h : s.curSpindle = some p) : s.cur = .spindle p.cluster := by
  unfold State.curSpindle at h
  cases hc : s.cur with
  | none => simp [hc] at h
  | wave c k => simp [hc] at h
  | spindle cl =>
    simp only [hc] at h
    rw [spindle?_at h]

theorem modWave_rest (s : State) (c k : Nat) (f : Wave → Wave) : s.modWave c k f = { s with waves := (s.modWave c k f).waves } := by
  unfold State.modWave
  split <;> rfl

theorem modSpindle_rest (s : State) (cl : Nat) (f : Spindle → Spindle) :
    s.modSpindle cl f = { s with spindles := (s.modSpindle cl f).spindles } := by
  unfold State.modSpindle
  split <;> rfl

/-- A change of the agent touches only the lists of waves and of Spindle programs. -/
theorem modAgent_rest (s : State) (fw : Wave → Wave) (fp : Spindle → Spindle) :
    s.modAgent fw fp = { s with waves := (s.modAgent fw fp).waves, spindles := (s.modAgent fw fp).spindles } := by
  have key : ∀ a, s.cur = a → s.modAgent fw fp = { s with waves := (s.modAgent fw fp).waves, spindles := (s.modAgent fw fp).spindles } := by
    intro a h
    cases a with
    | none => rw [modAgent_none h]
    | wave c k =>
      rw [modAgent_wave h]
      have := modWave_rest s c k fw
      generalize s.modWave c k fw = t at this
      rw [this]
    | spindle cl =>
      rw [modAgent_spindle h]
      have := modSpindle_rest s cl fp
      generalize s.modSpindle cl fp = t at this
      rw [this]
  exact key _ rfl

end Sys2Proof.Machine
end

