-- ==== Sys2Proof/Laws/Exec.lean ====
section
/-! SUPPORT. What `exec` does with an instruction that passes its checks: its own work, and then the completion. -/

namespace Sys2Proof.Machine

/-- The work of the instructions of a shape. -/
def Shape.work : Shape → Row → Norm → State → Res
  | .vectorInt f => vecMap (plain f)
  | .scalar f => scalMap f
  | .mask f => maskOp f
  | .maskValue f => maskToScalar f
  | .branch f => branchOp f
  | .carry f => carryMap f
  | .pack f => packOp f
  | .vectorFloat f => fvecMap f
  | .vectorTest f => fvecTest f
  | .shuffle => shflOp
  | .rdlane => rdlaneOp
  | .reduction => reduceOp
  | .scan => scanOp
  | .ballot => ballotOp
  | .matching => matchOp
  | .call => callOp
  | .jump => jmpOp
  | .nop => nopOp
  | .sleep => sleepOp
  | .exit => exitOp
  | .load => ldOp
  | .scalarLoad => ldsOp
  | .store => stOp
  | .scalarStore => stsOp
  | .release => relOp
  | .prefetch => prefOp
  | .countWait => cwaitOp
  | .barrier => barOp
  | .byteBarrier => bbOp
  | .timeline => timelineOp
  | .copy => cpOp
  | .tokenWait => twaitOp
  | .surrender => regsurrenderOp
  | .claim => regclaimOp
  | .trap => trapOp
  | .trapReturn => trapretOp
  | .readSpecial => rdsrOp
  | .mma => mmaOp
  | .drain => adrainOp
  | .other => fun _ _ s => .done s

/-- The work of each instruction row once its checks have passed. -/
def work : Instr → Row → Norm → State → Res
  | .ffma _ => (fvecMap (farith (fmaVal false false)))
  | .ffmaX _ => (fvecMap (farith (fmaVal false false)))
  | .ffms _ => (fvecMap (farith (fmaVal false true)))
  | .fnma _ => (fvecMap (farith (fmaVal true false)))
  | .fadd _ => (fvecMap (farith faddVal))
  | .faddX _ => (fvecMap (farith faddVal))
  | .fsub _ => (fvecMap (farith fsubVal))
  | .fmul _ => (fvecMap (farith fmulVal))
  | .fmulX _ => (fvecMap (farith fmulVal))
  | .fmin _ => (fvecMap (fpickOp false false))
  | .fminX _ => (fvecMap (fpickOp false false))
  | .fmax _ => (fvecMap (fpickOp true false))
  | .fminnum _ => (fvecMap (fpickOp false true))
  | .fmaxnum _ => (fvecMap (fpickOp true true))
  | .fcmp _ => (fvecTest fcmpOp)
  | .fcmpX _ => (fvecTest fcmpOp)
  | .fclass _ => (vecTest fclassOp)
  | .fclassX _ => (vecTest fclassOp)
  | .frnd _ => (fvecMap frndOp)
  | .frndX _ => (fvecMap frndOp)
  | .rcp _ => (fvecMap transOp)
  | .rcpX _ => (fvecMap transOp)
  | .rsqrt _ => (fvecMap transOp)
  | .sqrt _ => (fvecMap transOp)
  | .exp2 _ => (fvecMap transOp)
  | .log2 _ => (fvecMap transOp)
  | .sinpi _ => (fvecMap transOp)
  | .cospi _ => (fvecMap transOp)
  | .fcvt _ => (fvecMap fcvtOp)
  | .fcvtX _ => (fvecMap fcvtOp)
  | .fdot2 _ => (fvecMap fdotOp)
  | .fdot4 _ => (fvecMap fdotOp)
  | .fabs _ => (vecMap (signOp false))
  | .fabsX _ => (vecMap (signOp false))
  | .fneg _ => (vecMap (signOp true))
  | .br _ => (branchOp always)
  | .brX _ => (branchOp always)
  | .call _ => callOp
  | .callX _ => callOp
  | .bany _ => (branchOp (maskCond (fun k => k != 0)))
  | .banyX _ => (branchOp (maskCond (fun k => k != 0)))
  | .ball _ => (branchOp (maskCond (fun k => ~~~k == 0)))
  | .ballX _ => (branchOp (maskCond (fun k => ~~~k == 0)))
  | .bnone _ => (branchOp (maskCond (fun k => k == 0)))
  | .bnoneX _ => (branchOp (maskCond (fun k => k == 0)))
  | .beq _ => (branchOp (signedCond 0))
  | .bne _ => (branchOp (signedCond 1))
  | .blt _ => (branchOp (signedCond 2))
  | .ble _ => (branchOp (signedCond 3))
  | .bgt _ => (branchOp (signedCond 4))
  | .bge _ => (branchOp (signedCond 5))
  | .bltu _ => (branchOp (unsignedCond 2))
  | .bleu _ => (branchOp (unsignedCond 3))
  | .bgtu _ => (branchOp (unsignedCond 4))
  | .bgeu _ => (branchOp (unsignedCond 5))
  | .jmp _ => jmpOp
  | .jmpX _ => jmpOp
  | .callind _ => callindOp
  | .ret _ => jmpOp
  | .retX _ => jmpOp
  | .loopnz _ => loopOp
  | .yield _ => yieldOp
  | .sleep _ => sleepOp
  | .sleepX _ => sleepOp
  | .nop => nopOp
  | .nopX => nopOp
  | .exit => exitOp
  | .exitX => exitOp
  | .iadd _ => (vecMap (plain (arith (fun a b _ => a + b))))
  | .iaddX _ => (vecMap (plain (arith (fun a b _ => a + b))))
  | .iaddc _ => (carryMap false)
  | .isub _ => (vecMap (plain (arith (fun a b _ => a - b))))
  | .isubb _ => (carryMap true)
  | .imul _ => (vecMap (plain (arith (fun a b _ => a * b))))
  | .imulX _ => (vecMap (plain (arith (fun a b _ => a * b))))
  | .imulhi _ => (vecMap (plain (fun n a b c => highPart n a b c false)))
  | .imulw _ => (vecMap (plain (fun n a b c => widening n a b c false)))
  | .imad _ => (vecMap (plain (arith (fun a b c => a * b + c))))
  | .imadX _ => (vecMap (plain (arith (fun a b c => a * b + c))))
  | .imadhi _ => (vecMap (plain (fun n a b c => highPart n a b c true)))
  | .imadw _ => (vecMap (plain (fun n a b c => widening n a b c true)))
  | .imin _ => (vecMap (plain (arith (fun a b _ => min a b))))
  | .iminX _ => (vecMap (plain (arith (fun a b _ => min a b))))
  | .imax _ => (vecMap (plain (arith (fun a b _ => max a b))))
  | .iabs _ => (vecMap (plain (arith (fun _ b _ => b.natAbs))))
  | .iabsX _ => (vecMap (plain (arith (fun _ b _ => b.natAbs))))
  | .ineg _ => (vecMap (plain (arith (fun _ b _ => -b))))
  | .and _ => (vecMap (plain (bitwise (fun a b => a &&& b))))
  | .andX _ => (vecMap (plain (bitwise (fun a b => a &&& b))))
  | .andn _ => (vecMap (plain (bitwise (fun a b => a &&& ~~~b))))
  | .or _ => (vecMap (plain (bitwise (fun a b => a ||| b))))
  | .orX _ => (vecMap (plain (bitwise (fun a b => a ||| b))))
  | .orn _ => (vecMap (plain (bitwise (fun a b => a ||| ~~~b))))
  | .xor _ => (vecMap (plain (bitwise (fun a b => a ^^^ b))))
  | .xorX _ => (vecMap (plain (bitwise (fun a b => a ^^^ b))))
  | .xnor _ => (vecMap (plain (bitwise (fun a b => ~~~(a ^^^ b)))))
  | .not _ => (vecMap (plain (bitwise (fun _ b => ~~~b))))
  | .shl _ => (vecMap (plain shlOp))
  | .shlX _ => (vecMap (plain shlOp))
  | .rotl _ => (vecMap (plain rotlOp))
  | .shr _ => (vecMap (plain shrOp))
  | .shrX _ => (vecMap (plain shrOp))
  | .rotr _ => (vecMap (plain rotrOp))
  | .fshl _ => (vecMap (plain fshlOp))
  | .fshlX _ => (vecMap (plain fshlOp))
  | .fshr _ => (vecMap (plain fshrOp))
  | .bfx _ => (vecMap (plain bfxOp))
  | .bfxX _ => (vecMap (plain bfxOp))
  | .bfi _ => (vecMap (plain bfiOp))
  | .bfrev _ => (vecMap (plain bfrevOp))
  | .popc _ => (vecMap (plain popcOp))
  | .popcX _ => (vecMap (plain popcOp))
  | .clz _ => (vecMap (plain clzOp))
  | .ctz _ => (vecMap (plain ctzOp))
  | .cls _ => (vecMap (plain clsOp))
  | .icmp _ => (vecTest icmpOp)
  | .icmpX _ => (vecTest icmpOp)
  | .sel _ => selMap
  | .mov _ => (vecMap (plain (bitwise (fun _ b => b))))
  | .movX _ => (vecMap (plain (bitwise (fun _ b => b))))
  | .icvt _ => (vecMap (plain icvtOp))
  | .icvtX _ => (vecMap (plain icvtOp))
  | .prmt _ => (vecMap (plain prmtOp))
  | .prmtX _ => (vecMap (plain prmtOp))
  | .shfl _ => shflOp
  | .shflX _ => shflOp
  | .shflxor _ => shflOp
  | .shflup _ => shflOp
  | .shfldn _ => shflOp
  | .rdlane _ => rdlaneOp
  | .rdlaneX _ => rdlaneOp
  | .wrlane _ => wrlaneOp
  | .redadd _ => reduceOp
  | .redaddX _ => reduceOp
  | .redmin _ => reduceOp
  | .redmax _ => reduceOp
  | .redand _ => reduceOp
  | .redor _ => reduceOp
  | .redxor _ => reduceOp
  | .scanadd _ => scanOp
  | .scanaddX _ => scanOp
  | .scanmin _ => scanOp
  | .scanmax _ => scanOp
  | .scanand _ => scanOp
  | .scanor _ => scanOp
  | .scanxor _ => scanOp
  | .xscanadd _ => scanOp
  | .xscanmin _ => scanOp
  | .xscanmax _ => scanOp
  | .xscanand _ => scanOp
  | .xscanor _ => scanOp
  | .xscanxor _ => scanOp
  | .kand _ => (maskOp (fun a b => a &&& b))
  | .kandX _ => (maskOp (fun a b => a &&& b))
  | .kor _ => (maskOp (fun a b => a ||| b))
  | .kxor _ => (maskOp (fun a b => a ^^^ b))
  | .kandn _ => (maskOp (fun a b => a &&& ~~~b))
  | .knot _ => (maskOp (fun a _ => ~~~a))
  | .kmov _ => (maskOp (fun a _ => a))
  | .ktos _ => (maskToScalar (fun k => k))
  | .ktosX _ => (maskToScalar (fun k => k))
  | .stok _ => stokOp
  | .kpopc _ => (maskToScalar (fun k => BitVec.ofNat 64 (popcount k)))
  | .kpopcX _ => (maskToScalar (fun k => BitVec.ofNat 64 (popcount k)))
  | .kffs _ => (maskToScalar lowestBit)
  | .kfls _ => (maskToScalar highestBit)
  | .ballot _ => ballotOp
  | .ballotX _ => ballotOp
  | .vmatch _ => matchOp
  | .vmatchX _ => matchOp
  | .compact _ => (packOp false)
  | .expand _ => (packOp true)
  | .ld _ => ldOp
  | .ldX _ => ldOp
  | .st _ => stOp
  | .stX _ => stOp
  | .lds _ => ldsOp
  | .ldsX _ => ldsOp
  | .sts _ => stsOp
  | .stsX _ => stsOp
  | .atom _ => atomOp
  | .acq _ => acqOp
  | .rel _ => relOp
  | .relFresh _ => relOp
  | .relAll _ => relOp
  | .fence _ => fenceOp
  | .fenceUn _ => fenceUnOp
  | .pref _ => prefOp
  | .prefX _ => prefOp
  | .evict _ => evictOp
  | .cwait _ => cwaitOp
  | .cwaitX _ => cwaitOp
  | .btrans _ => btransOp
  | .stmsk _ => stmskOp
  | .xld _ => xldOp
  | .xst _ => xstOp
  | .sigadd _ => sigaddOp
  | .remit _ => remitOp
  | .rcont _ => rcontOp
  | .rretire _ => rretireOp
  | .racc _ => raccOp
  | .epend => ependOp
  | .rcell _ => rcellOp
  | .rdircls _ => rdirclsOp
  | .rhit _ => rhitOp
  | .rinst _ => rinstOp
  | .rxform _ => rxformOp
  | .sadd _ => (scalMap (arith (fun a b _ => a + b)))
  | .saddX _ => (scalMap (arith (fun a b _ => a + b)))
  | .ssub _ => (scalMap (arith (fun a b _ => a - b)))
  | .smul _ => (scalMap (arith (fun a b _ => a * b)))
  | .smulX _ => (scalMap (arith (fun a b _ => a * b)))
  | .smulhi _ => (scalMap (fun n a b c => highPart n a b c false))
  | .sand _ => (scalMap (bitwise (fun a b => a &&& b)))
  | .sandX _ => (scalMap (bitwise (fun a b => a &&& b)))
  | .sandn _ => (scalMap (bitwise (fun a b => a &&& ~~~b)))
  | .sor _ => (scalMap (bitwise (fun a b => a ||| b)))
  | .sorX _ => (scalMap (bitwise (fun a b => a ||| b)))
  | .sxor _ => (scalMap (bitwise (fun a b => a ^^^ b)))
  | .sxorX _ => (scalMap (bitwise (fun a b => a ^^^ b)))
  | .snot _ => (scalMap (bitwise (fun _ b => ~~~b)))
  | .sshl _ => (scalMap shlOp)
  | .sshlX _ => (scalMap shlOp)
  | .srotl _ => (scalMap rotlOp)
  | .sshr _ => (scalMap shrOp)
  | .sshrX _ => (scalMap shrOp)
  | .srotr _ => (scalMap rotrOp)
  | .sbfx _ => (scalMap bfxOp)
  | .sbfxX _ => (scalMap bfxOp)
  | .sbfi _ => (scalMap bfiOp)
  | .spopc _ => (scalMap popcOp)
  | .spopcX _ => (scalMap popcOp)
  | .sclz _ => (scalMap clzOp)
  | .sctz _ => (scalMap ctzOp)
  | .smin _ => (scalMap (arith (fun a b _ => min a b)))
  | .sminX _ => (scalMap (arith (fun a b _ => min a b)))
  | .smax _ => (scalMap (arith (fun a b _ => max a b)))
  | .smov _ => (scalMap (bitwise (fun _ b => b)))
  | .smovX _ => (scalMap (bitwise (fun _ b => b)))
  | .smovi _ => (scalMap smoviOp)
  | .smoviX _ => (scalMap smoviOp)
  | .scmp _ => (scalMap scmpOp)
  | .oclaim _ => oclaimOp
  | .orel _ => orelOp
  | .owait _ => owaitOp
  | .mma _ => mmaOp
  | .mmasp _ => mmaOp
  | .mmag _ => mmaOp
  | .mmagsp _ => mmaOp
  | .aclr _ => aclrOp
  | .ascale _ => ascaleOp
  | .adrain _ => adrainOp
  | .adraing _ => adrainOp
  | .batcom => batcomOp
  | .batwait _ => batwaitOp
  | .ostore _ => ostoreOp
  | .bar _ => barOp
  | .barX _ => barOp
  | .bararr _ => barOp
  | .barwait _ => barOp
  | .bbarr _ => bbOp
  | .bbwait _ => bbOp
  | .tlinc _ => timelineOp
  | .tlset _ => timelineOp
  | .tlwait _ => timelineOp
  | .cp _ => cpOp
  | .cpred _ => cpOp
  | .twait _ => twaitOp
  | .twaitX _ => twaitOp
  | .spawn _ => spawnOp
  | .launch _ => launchOp
  | .spnrun _ => spnrunOp
  | .regsurrender _ => regsurrenderOp
  | .regsurrenderX _ => regsurrenderOp
  | .regclaim _ => regclaimOp
  | .regclaimX _ => regclaimOp
  | .trap _ => trapOp
  | .trapX _ => trapOp
  | .trapret => trapretOp
  | .trapretX => trapretOp
  | .rdsr _ => rdsrOp
  | .rdsrX _ => rdsrOp
  | .wrsr _ => wrsrOp
  | .tmrset _ => tmrsetOp
  | .tlbinv _ => tlbinvOp
  | .hdlinv => hdlinvOp
  | .stdrain => stdrainOp
  | .sfpop _ => sfpopOp
  | .evmark _ => evmarkOp
  | .sample _ => sampleOp
  | .utret => utretOp
  | _ => fun _ _ s => .done s

theorem vecMap_eq (f : Norm → BitVec 64 → BitVec 64 → BitVec 64 → BitVec 64 × Nat) : vecMap f = fvecMap (fun _ => f) := by
  funext r n s
  unfold fvecMap
  split
  · rename_i h
    simp only [vecMap, h]
  · rfl

theorem vecTest_eq (f : Norm → BitVec 64 → BitVec 64 → Bool × Nat) : vecTest f = fvecTest (fun _ => f) := by
  funext r n s
  unfold fvecTest
  split
  · rename_i h
    simp only [vecTest, h]
  · rfl

/-- An instruction of a shape does the work of that shape. -/
theorem work_shape (i : Instr) : shape i = .other ∨ work i = (shape i).work := by
  cases i <;> first | exact Or.inr rfl | exact Or.inl rfl | exact Or.inr (vecMap_eq _) | exact Or.inr (vecTest_eq _)

theorem work_of_shape {i : Instr} {k : Shape} (h : shape i = k) (hk : k ≠ .other) : work i = k.work := by
  rcases work_shape i with e | e
  · exact absurd (h.symm.trans e) hk
  · rw [e, h]

/-- Every instruction row runs its work over its fields. -/
theorem exec_eq_runEnc (i : Instr) (s : State) :
    exec i s = match i.toEnc with
      | some e => runEnc e ⟨privileged i, ownPoison i⟩ (work i) s
      | none => exec i s := by
  cases i <;> first | rfl | (rename_i f; cases f <;> rfl)

/-- An instruction that passes its checks completes as its work ends. -/
theorem exec_admitted {i : Instr} {s : State} {r : Row} {n : Norm} (h : Admitted i s r n) :
    exec i s = .next (s.finish n.words (work i r n s)) := by
  obtain ⟨e, mj, he, hc, hm, hn, hr⟩ := h.legal
  subst hn
  rw [exec_eq_runEnc, he]
  simp only [runEnc, h.agent, hc, hm, hr, issueRow, Bool.not_true, Bool.false_eq_true, if_false]
  have hp : (privileged i && s.curMode == .user) = false := by
    cases hq : privileged i
    · rfl
    · rw [h.mode hq]; rfl
  rw [hp]
  have hcl : (if ownPoison i = true then none else s.poisonCheck r.mask (rowSources r s.stream (e.norm mj)) (e.norm mj).x) = none := by
    cases hq : ownPoison i
    · exact h.clean hq
    · rfl
  rw [hcl]
  cases hw : s.curWave with
  | none => rfl
  | some w => simp only [h.range w hw, h.ready w hw, Bool.false_eq_true, if_false]

end Sys2Proof.Machine
end

