-- ==== Sys2Proof/Laws/Translate.lean ====
section
/-! SUPPORT. Translation and the checks of R212: what they change, and what a translation grants. -/

namespace Sys2Proof.Machine

/-! ## Setting the A and D bits (R320) -/

theorem byte_readNat (m : Memory) (a n b : Nat) (h1 : a ≤ b) (h2 : b < a + n) :
    BitVec.ofNat 8 (m.readNat a n / 256 ^ (b - a)) = m.read b := by
  induction n generalizing a with
  | zero => omega
  | succ n ih =>
    rw [Memory.readNat]
    by_cases e : b = a
    · subst e
      rw [Nat.sub_self, Nat.pow_zero, Nat.div_one]
      apply BitVec.eq_of_toNat_eq
      rw [BitVec.toNat_ofNat]
      have := (m.read b).isLt
      omega
    · rw [← ih (a + 1) (by omega) (by omega)]
      have hd : b - a = (b - (a + 1)) + 1 := by omega
      rw [hd, Nat.pow_succ, Nat.mul_comm (256 ^ _) 256, ← Nat.div_div_eq_div_mul]
      have := (m.read a).isLt
      congr 2
      omega

/-- Setting bit 9 or 10 changes byte 1 alone. -/
theorem setField_byte (e i : Nat) (lo : Nat) (h : lo = 9 ∨ lo = 10) :
    setField e lo 1 1 / 256 ^ i % 256 = if i = 1 then (e / 256 ^ i % 256) ||| 2 ^ (lo - 8) else e / 256 ^ i % 256 := by
  have k9 : ∀ b, b < 256 → b / 2 % 2 = 0 → b ||| 2 = b + 2 := by decide +kernel
  have k9' : ∀ b, b < 256 → b / 2 % 2 = 1 → b ||| 2 = b := by decide +kernel
  have k10 : ∀ b, b < 256 → b / 4 % 2 = 0 → b ||| 4 = b + 4 := by decide +kernel
  have k10' : ∀ b, b < 256 → b / 4 % 2 = 1 → b ||| 4 = b := by decide +kernel
  have hi : ∀ x : Nat, ∀ j, x / 256 ^ (j + 2) % 256 = x / 65536 / 256 ^ j % 256 := by
    intro x j
    rw [Nat.div_div_eq_div_mul, show 65536 * 256 ^ j = 256 ^ (j + 2) by rw [Nat.pow_add]; omega]
  unfold setField field
  rcases h with rfl | rfl
  · rcases Nat.mod_two_eq_zero_or_one (e / 2 ^ 9) with h0 | h0
    · rw [show e / 2 ^ 9 % 2 ^ 1 = 0 from h0]
      have e1 : e - 0 * 2 ^ 9 + 1 % 2 ^ 1 * 2 ^ 9 = e + 512 := by omega
      rw [e1]
      match i with
      | 0 => simp only [Nat.pow_zero, Nat.div_one]; rw [if_neg (by decide)]; omega
      | 1 =>
        rw [if_pos rfl, show 2 ^ (9 - 8) = 2 from rfl, Nat.pow_one, k9 _ (Nat.mod_lt _ (by decide)) (by omega)]; omega
      | j + 2 => rw [if_neg (by omega), hi, hi, show (e + 512) / 65536 = e / 65536 by omega]
    · rw [show e / 2 ^ 9 % 2 ^ 1 = 1 from h0]
      have e1 : e - 1 * 2 ^ 9 + 1 % 2 ^ 1 * 2 ^ 9 = e := by omega
      rw [e1]
      split
      · rename_i h1; subst h1
        rw [show 2 ^ (9 - 8) = 2 from rfl, Nat.pow_one, k9' _ (Nat.mod_lt _ (by decide)) (by omega)]
      · rfl
  · rcases Nat.mod_two_eq_zero_or_one (e / 2 ^ 10) with h0 | h0
    · rw [show e / 2 ^ 10 % 2 ^ 1 = 0 from h0]
      have e1 : e - 0 * 2 ^ 10 + 1 % 2 ^ 1 * 2 ^ 10 = e + 1024 := by omega
      rw [e1]
      match i with
      | 0 => simp only [Nat.pow_zero, Nat.div_one]; rw [if_neg (by decide)]; omega
      | 1 =>
        rw [if_pos rfl, show 2 ^ (10 - 8) = 4 from rfl, Nat.pow_one, k10 _ (Nat.mod_lt _ (by decide)) (by omega)]; omega
      | j + 2 => rw [if_neg (by omega), hi, hi, show (e + 1024) / 65536 = e / 65536 by omega]
    · rw [show e / 2 ^ 10 % 2 ^ 1 = 1 from h0]
      have e1 : e - 1 * 2 ^ 10 + 1 % 2 ^ 1 * 2 ^ 10 = e := by omega
      rw [e1]
      split
      · rename_i h1; subst h1
        rw [show 2 ^ (10 - 8) = 4 from rfl, Nat.pow_one, k10' _ (Nat.mod_lt _ (by decide)) (by omega)]
      · rfl

/-- An entry with A set, and D for a write: byte 1 gains those bits. -/
theorem marked_byte (e i : Nat) (write : Bool) :
    setField (if write then setField e 10 1 1 else e) 9 1 1 / 256 ^ i % 256 =
      if i = 1 then (e / 256 ^ i % 256) ||| (if write then 6 else 2) else e / 256 ^ i % 256 := by
  rw [setField_byte _ _ 9 (.inl rfl)]
  cases write
  · rfl
  · simp only [if_true]
    rw [setField_byte _ _ 10 (.inr rfl)]
    split
    · rename_i h; subst h
      rw [Nat.or_assoc]
      rfl
    · rfl

/-- Memory in which page-table entries have gained A and D bits. -/
def Marked (m k : Memory) : Prop :=
  (m.wf = true → k.wf = true) ∧ ∀ a, k.read a = m.read a ∨ (a % 8 = 1 ∧ (k.read a = m.read a ||| 2 ∨ k.read a = m.read a ||| 6))

theorem Marked.refl (m : Memory) : Marked m m := ⟨fun h => h, fun _ => .inl rfl⟩

/-- Writing back an entry with its bits set. -/
theorem marked_write {m : Memory} (a : Nat) (ha : a % 8 = 0) (write : Bool) :
    Marked m (m.writeNat a 8 (setField (if write then setField (m.readNat a 8) 10 1 1 else m.readNat a 8) 9 1 1)) := by
  refine ⟨wf_writeNat 8 m a _, fun b => ?_⟩
  rw [read_writeNat 8 m]
  split
  · rename_i hb
    have hbyte := marked_byte (m.readNat a 8) (b - a) write
    have hold := byte_readNat m a 8 b hb.1 hb.2
    have hmod : ∀ x : Nat, BitVec.ofNat 8 x = BitVec.ofNat 8 (x % 256) := fun x => by
      apply BitVec.eq_of_toNat_eq
      rw [BitVec.toNat_ofNat, BitVec.toNat_ofNat]
      omega
    have hor : ∀ y : Nat, BitVec.ofNat 8 (m.readNat a 8 / 256 ^ (b - a) % 256 ||| y) = m.read b ||| BitVec.ofNat 8 y := by
      intro y
      rw [BitVec.ofNat_or, ← hmod, hold]
    rw [hmod, hbyte]
    split
    · rename_i h1
      refine .inr ⟨by omega, ?_⟩
      cases write
      · exact .inl (hor 2)
      · exact .inr (hor 6)
    · rw [← hmod, hold]; exact .inl rfl
  · exact .inl rfl

/-! ## Lines that come into the L2 -/

theorem dirAt_setDir (s : State) (l : Nat) (d : DirLine) (k : Nat) : (s.setDir l d).dirAt k = if k = l then d else s.dirAt k :=
  sget_sput dirDefault s.dir l d k

theorem takeBytes_frame (n : Nat) : ∀ s : State, ∃ k, (s.takeBytes n).2 = { s with free := k } := by
  induction n with
  | zero => exact fun s => ⟨s.free, rfl⟩
  | succ n ih =>
    intro s
    obtain ⟨k, hk⟩ := ih { s with free := s.free + 1 }
    exact ⟨k, hk⟩

/-! ## The walk -/

/-- A state that differs in what a walk changes alone: cached translations and table entries, A and D bits, and lines of spaces 2 to
4 that have come into the L2 with what that sends and takes. -/
structure Retranslated (s t : State) : Prop where
  rest : t = { s with tlb := t.tlb, tables := t.tables, mem := t.mem, dir := t.dir, out := t.out, free := t.free }
  wf : s.mem.wf = true → t.mem.wf = true
  bytes : ∀ a, t.mem.read a = s.mem.read a ∨ (a % 8 = 1 ∧ (t.mem.read a = s.mem.read a ||| 2 ∨ t.mem.read a = s.mem.read a ||| 6)) ∨
    (foreignLine (a / 128) = true ∧ (s.dirAt (a / 128)).own = .i)
  held : ∀ l, (s.dirAt l).own ≠ .i → (t.dirAt l).own ≠ .i

theorem Retranslated.refl (s : State) : Retranslated s s := ⟨rfl, fun h => h, fun _ => .inl rfl, fun _ h => h⟩

theorem Retranslated.trans {s t u : State} (h : Retranslated s t) (g : Retranslated t u) : Retranslated s u := by
  refine ⟨by rw [g.rest, h.rest], fun w => g.wf (h.wf w), fun a => ?_, fun l hl => g.held l (h.held l hl)⟩
  have e1 : ∀ x : BitVec 8, (x ||| 2) ||| 2 = x ||| 2 := by decide +kernel
  have e2 : ∀ x : BitVec 8, (x ||| 2) ||| 6 = x ||| 6 := by decide +kernel
  have e3 : ∀ x : BitVec 8, (x ||| 6) ||| 2 = x ||| 6 := by decide +kernel
  have e4 : ∀ x : BitVec 8, (x ||| 6) ||| 6 = x ||| 6 := by decide +kernel
  have back : foreignLine (a / 128) = true ∧ (t.dirAt (a / 128)).own = .i → foreignLine (a / 128) = true ∧ (s.dirAt (a / 128)).own = .i := by
    rintro ⟨h1, h2⟩
    refine ⟨h1, ?_⟩
    exact Decidable.byContradiction (fun hc => h.held _ hc h2)
  rcases h.bytes a with h1 | h1 | h1
  · rcases g.bytes a with g1 | g1 | g1
    · exact .inl (g1.trans h1)
    · rw [h1] at g1; exact .inr (.inl g1)
    · exact .inr (.inr (back g1))
  · rcases g.bytes a with g1 | g1 | g1
    · rw [← g1] at h1; exact .inr (.inl h1)
    · refine .inr (.inl ⟨h1.1, ?_⟩)
      rcases g1.2 with g1 | g1 <;> rcases h1.2 with h1 | h1 <;> rw [g1, h1]
      · exact .inl (e1 _)
      · exact .inr (e3 _)
      · exact .inr (e2 _)
      · exact .inr (e4 _)
    · exact .inr (.inr (back g1))
  · exact .inr (.inr h1)

theorem Retranslated.marked {s : State} {m : Memory} (h : Marked s.mem m) : Retranslated s { s with mem := m } :=
  ⟨rfl, h.1, fun a => (h.2 a).imp id .inl, fun _ h => h⟩

/-- What does not read or write memory. -/
theorem Retranslated.of {s t : State} (rest : t = { s with tlb := t.tlb, tables := t.tables, out := t.out }) : Retranslated s t := by
  rw [rest]
  exact ⟨rfl, fun h => h, fun _ => .inl rfl, fun _ h => h⟩

theorem setDir_frame (s : State) (l : Nat) (d : DirLine) (h : d.own ≠ .i) : Retranslated s (s.setDir l d) := by
  refine ⟨rfl, fun h => h, fun _ => .inl rfl, fun k hk => ?_⟩
  rw [dirAt_setDir]
  split
  · exact h
  · exact hk

theorem l2Fetch_frame (s : State) (c line : Nat) : Retranslated s (s.l2Fetch c line) := by
  unfold State.l2Fetch
  dsimp only
  split
  · exact Retranslated.refl s
  rename_i hi
  have hi : (s.dirAt line).own = .i := by simpa using hi
  split
  · rename_i hf
    obtain ⟨k, hk⟩ := takeBytes_frame 128 s
    generalize hv : s.takeBytes 128 = q at hk
    obtain ⟨v, t⟩ := q
    dsimp only at hk ⊢
    subst hk
    refine ⟨rfl, fun h => wf_writeNat 128 _ _ _ h, fun a => ?_, fun l hl => ?_⟩
    · show (s.mem.writeNat (128 * line) 128 v).read a = s.mem.read a ∨ _
      rw [read_writeNat 128]
      split
      · rename_i ha
        have : a / 128 = line := by omega
        rw [this]
        exact .inr (.inr ⟨hf, hi⟩)
      · exact .inl rfl
    · show ((State.setDir _ _ _).dirAt l).own ≠ .i
      rw [dirAt_setDir]
      split
      · exact (by decide : Moesi.s ≠ Moesi.i)
      · exact hl
  · exact setDir_frame s line _ (by decide : Moesi.s ≠ Moesi.i)

theorem l2Own_frame (s : State) (c line : Nat) : Retranslated s (s.l2Own c line) := by
  unfold State.l2Own
  dsimp only
  split
  · exact Retranslated.refl s
  · refine (l2Fetch_frame s c line).trans ?_
    generalize s.l2Fetch c line = t
    refine Retranslated.trans (t := { t with out := t.out ++ (if foreignLine line then [OutMsg.own (t.fnOf c) line]
      else (s.dirAt line).others.map (fun h => OutMsg.takeAway h line)) }) (Retranslated.of rfl) ?_
    exact setDir_frame _ line _ (by decide : Moesi.m ≠ Moesi.i)

theorem l2Fetch_held (s : State) (c line : Nat) : ((s.l2Fetch c line).dirAt line).own ≠ .i := by
  unfold State.l2Fetch
  dsimp only
  split
  · rename_i hi
    simpa using hi
  split <;> rw [dirAt_setDir, if_pos rfl] <;> exact (by decide : Moesi.s ≠ Moesi.i)

theorem l2Own_mem {s : State} {c line : Nat} (h : (s.dirAt line).own ≠ .i) : (s.l2Own c line).mem = s.mem := by
  unfold State.l2Own
  dsimp only
  split
  · rfl
  · have e : s.l2Fetch c line = s := by
      unfold State.l2Fetch
      dsimp only
      rw [if_pos (by simpa using h)]
    rw [e]
    rfl

theorem walkFrom_frame (c va : Nat) (n : Need) (lvl : Nat) :
    ∀ (s : State) (table : Nat) (g64 : Bool), table % 8 = 0 → Retranslated s (s.walkFrom c va n table g64 lvl).2 := by
  induction lvl with
  | zero => intro s _ _ _; exact Retranslated.refl s
  | succ lvl ih =>
    intro s table g64 ht
    unfold State.walkFrom
    dsimp only
    have ha : (table + 8 * tableIndex va lvl g64) % 8 = 0 := by omega
    generalize table + 8 * tableIndex va lvl g64 = a at ha ⊢
    refine (l2Fetch_frame s c (a / 128)).trans ?_
    have hh := l2Fetch_held s c (a / 128)
    generalize s.l2Fetch c (a / 128) = s at hh ⊢
    have hm : Marked s.mem (s.mem.writeNat a 8 (setField (if n.write then setField (s.mem.readNat a 8) 10 1 1 else s.mem.readNat a 8) 9 1 1)) :=
      marked_write a ha n.write
    have hk := l2Own_mem (c := c) hh
    generalize s.mem.readNat a 8 = v at hm ⊢
    split
    · exact Retranslated.refl s
    split
    · exact Retranslated.refl s
    split
    · exact Retranslated.refl s
    split
    · exact Retranslated.trans (t := s.keepTable _) (Retranslated.of rfl) (ih _ _ _ (by omega))
    split
    · exact Retranslated.refl s
    split
    · split <;> exact Retranslated.refl s
    generalize (if n.write = true then setField v 10 1 1 else v) = v' at hm ⊢
    show Retranslated s (if (setField v' 9 1 1 == v) = true then s else _)
    split
    · exact Retranslated.refl s
    · refine (l2Own_frame s c (a / 128)).trans ?_
      generalize s.l2Own c (a / 128) = u at hk ⊢
      rw [← hk] at hm
      exact Retranslated.marked (by rw [hk] at hm ⊢; exact hm)

/-- What a found translation grants. -/
def TlbEntry.Grants (e : TlbEntry) (c va : Nat) (n : Need) : Prop :=
  e.ctx = c ∧ e.va ≤ va ∧ va < e.va + e.size ∧ e.permits n = true

theorem bit_marked (e : Nat) : bit (setField (setField e 10 1 1) 9 1 1) 10 = true := by
  unfold bit setField field
  simp only [beq_iff_eq]
  omega

theorem walkFrom_grants (c va : Nat) (n : Need) (lvl : Nat) :
    ∀ (s t : State) (table : Nat) (g64 : Bool) (e : TlbEntry), s.walkFrom c va n table g64 lvl = (.ok e, t) → e.Grants c va n := by
  induction lvl with
  | zero => intro s t _ _ e h; simp [State.walkFrom] at h
  | succ lvl ih =>
    intro s t table g64 e h
    unfold State.walkFrom at h
    dsimp only at h
    generalize s.l2Fetch c ((table + 8 * tableIndex va lvl g64) / 128) = s at h
    split at h
    · simp at h
    split at h
    · simp at h
    split at h
    · simp at h
    split at h
    · exact ih _ _ _ _ _ h
    split at h
    · simp at h
    split at h
    · split at h <;> simp at h
    rename_i h1 h2
    simp only [Prod.mk.injEq, Xlate.ok.injEq] at h
    obtain ⟨h, -⟩ := h
    subst h
    have hs : 0 < leafSize lvl g64 := by
      unfold leafSize
      split
      · split <;> decide
      · decide
      · decide
    refine ⟨rfl, Nat.div_mul_le_self va _, ?_, ?_⟩
    · show va < va / leafSize lvl g64 * leafSize lvl g64 + leafSize lvl g64
      have := Nat.div_add_mod va (leafSize lvl g64)
      have := Nat.mod_lt va hs
      rw [Nat.mul_comm (va / leafSize lvl g64)]
      omega
    · show ((!n.user || bit _ 7) && (!n.fetch || bit _ 6) && (!n.read || bit _ 4) && (!n.write || (bit _ 5 && bit _ 10))) = true
      generalize s.mem.readNat (table + 8 * tableIndex va lvl g64) 8 = v at h1 h2 ⊢
      cases hw : n.write
      · simp only [Bool.not_false, Bool.true_or, Bool.and_true]
        revert h1
        cases n.user <;> cases n.fetch <;> cases n.read <;> cases bit v 7 <;> cases bit v 6 <;> cases bit v 4 <;> simp
      · rw [hw] at h2
        simp only [if_true, bit_marked]
        revert h1 h2
        cases n.user <;> cases n.fetch <;> cases n.read <;> cases bit v 7 <;> cases bit v 6 <;> cases bit v 4 <;> cases bit v 5 <;> simp

theorem walk_grants {s t : State} {c va : Nat} {n : Need} {e : TlbEntry} (h : s.walk c va n = (.ok e, t)) : e.Grants c (va % 2 ^ 57) n := by
  unfold State.walk at h
  dsimp only at h
  split at h
  · simp at h
  split at h
  · simp at h
  split at h
  · exact walkFrom_grants c _ n _ _ _ _ _ _ h
  · exact walkFrom_grants c _ n 5 _ _ _ _ _ h

theorem walk_frame (s : State) (c va : Nat) (n : Need) : Retranslated s (s.walk c va n).2 := by
  unfold State.walk
  dsimp only
  split
  · exact Retranslated.refl s
  split
  · exact Retranslated.refl s
  split <;> exact walkFrom_frame c _ n _ s _ _ (by omega)

/-! ## Translation -/

/-- Translating changes what a walk changes alone. -/
theorem translate_frame (s : State) (core c va : Nat) (n : Need) : Retranslated s (s.translate core c va n).2 := by
  unfold State.translate
  split
  · exact Retranslated.refl s
  split
  · exact Retranslated.refl s
  · have h := walk_frame s c va n
    split
    · rename_i e t he
      rw [he] at h
      exact h.trans (Retranslated.of rfl)
    · exact h

theorem tlbFind_grants {s : State} {u c va : Nat} {n : Need} {e : TlbEntry} (h : s.tlbFind u c va n = some e) : e.Grants c va n := by
  have := List.find?_some h
  simp only [TlbEntry.covers, Bool.and_eq_true, beq_iff_eq, decide_eq_true_eq] at this
  exact ⟨this.1.2.1.1, this.1.2.1.2, this.1.2.2, this.2⟩

theorem translate_grants {s t : State} {core c va : Nat} {n : Need} {e : TlbEntry} (h : s.translate core c va n = (.ok e, t)) :
    e.Grants c (va % 2 ^ 57) n := by
  unfold State.translate at h
  split at h
  · rename_i e' he
    simp only [Prod.mk.injEq, Xlate.ok.injEq] at h
    obtain ⟨rfl, -⟩ := h
    exact tlbFind_grants he
  split at h
  · rename_i e' he
    simp only [Prod.mk.injEq, Xlate.ok.injEq] at h
    obtain ⟨rfl, -⟩ := h
    exact tlbFind_grants he
  · split at h
    · rename_i e' t' he
      simp only [Prod.mk.injEq, Xlate.ok.injEq] at h
      obtain ⟨rfl, -⟩ := h
      exact walk_grants he
    · rename_i hr
      rw [h] at hr
      exact absurd rfl (hr e t)

theorem xlate_frame (s : State) (va : Nat) (n : Need) : Retranslated s (s.xlate va n).2 := by
  unfold State.xlate
  split
  · exact Retranslated.refl s
  · exact translate_frame s _ _ _ _

/-! ## Placing requests and checking them (R94, R212) -/

theorem placePart_frame (s : State) (f : AccForm) (b : BReg) (r : Req) (va : BitVec 64) (lo n : Nat) :
    Retranslated s (s.placePart f b r va lo n).2 := by
  have at_frame : ∀ (t : State) (pa : Nat) (k : Option Nat) (a c : Part), ((match k with
      | some x => (a, t)
      | none => (c, t)) : Part × State).2 = t := by
    intro t pa k a c
    cases k <;> rfl
  unfold State.placePart
  dsimp only
  split
  · split <;> exact Retranslated.refl s
  · have h := xlate_frame s (va + BitVec.ofNat 64 lo).toNat (f.need (s.curMode == .user))
    split
    · rename_i e t he
      rw [he] at h
      split <;> exact h
    all_goals
      rename_i he
      rw [he] at h
      exact h

theorem placeReq_frame (s : State) (f : AccForm) (b : BReg) (base : BitVec 64) (r : Req) :
    Retranslated s (s.placeReq f b base r).2 := by
  unfold State.placeReq
  simp only [List.foldl_cons, List.foldl_nil]
  split
  · split
    · exact (placePart_frame s f b r _ _ _).trans (placePart_frame _ f b r _ _ _)
    · exact placePart_frame s f b r _ _ _
  · split
    · exact placePart_frame s f b r _ _ _
    · exact Retranslated.refl s

theorem placeAll_frame (f : AccForm) (b : BReg) (base : BitVec 64) (reqs : List Req) :
    ∀ s : State, Retranslated s (s.placeAll f b base reqs).2 := by
  induction reqs with
  | nil => intro s; exact Retranslated.refl s
  | cons r rest ih => intro s; exact (placeReq_frame s f b base r).trans (ih _)

theorem checkReqs_ok {s t : State} {f : AccForm} {b : BReg} {base : BitVec 64} {reqs : List Req} {l : List (Req × List Part)}
    {sf : List (Nat × BitVec 64 × BitVec 64)} (h : s.checkReqs f b base reqs = .ok l sf t) : Retranslated s t := by
  unfold State.checkReqs at h
  dsimp only at h
  split at h
  · simp at h
  have hp := placeAll_frame f b base (reqs.filter (fun r => !r.noncanonical base)) s
  generalize s.placeAll f b base (reqs.filter (fun r => !r.noncanonical base)) = q at h hp
  obtain ⟨l', t'⟩ := q
  dsimp only at h hp
  have e : t = t' := by
    repeat' split at h
    all_goals first
      | exact (Checked.noConfusion h)
      | (simp only [Checked.ok.injEq] at h; exact h.2.2.symm)
  rw [e]
  exact hp

/-- The checks that let an instruction go on have changed what a walk changes alone. -/
theorem check_ok {s t : State} {w : Wave} {f : AccForm} {x : XF} {scratch : Bool} {reqs : List Req} {l : List (Req × List Part)}
    {sf : List (Nat × BitVec 64 × BitVec 64)} (h : s.check w f x scratch reqs = .ok l sf t) : Retranslated s t := by
  unfold State.check at h
  split at h
  · have : t = s := by
      unfold State.checkScratch at h
      dsimp only at h
      repeat' split at h
      all_goals first
        | exact (Checked.noConfusion h)
        | (simp only [Checked.ok.injEq] at h; exact h.2.2.symm)
    rw [this]
    exact Retranslated.refl s
  · exact checkReqs_ok h

end Sys2Proof.Machine
end

