-- ==== Sys2Proof/Laws/Access.lean ====
section
/-! SUPPORT. Putting the elements of a memory instruction in flight. -/

namespace Sys2Proof.Machine

/-! ## Changes of the agent's wave -/

/-- The agent's wave alone decides what a change of it does. -/
theorem modWave_congr {s : State} {w : Wave} (h : s.curWave = some w) (f g : Wave → Wave) (e : f w = g w) :
    s.modWave w.core w.slot f = s.modWave w.core w.slot g := by
  have hc := curWave_place h
  unfold State.curWave at h
  rw [hc] at h
  unfold State.modWave
  simp only at h
  simp only [h, e]

theorem complete_congr {s : State} {w : Wave} (h : s.curWave = some w) (pc : BitVec 64) (f g : Wave → Wave) (fp gp : Spindle → Spindle)
    (e : f w = g w) : s.complete pc f fp = s.complete pc g gp := by
  rw [complete_eq, complete_eq, modAgent_wave (curWave_place h), modAgent_wave (curWave_place h)]
  exact modWave_congr h _ _ (by rw [e])

/-- A state with other marks of Core Store words and other routes. -/
def State.marked (s : State) (m : List Nat) (r : List (Nat × Nat)) : State := { s with csMark := m, routes := r }

theorem modWave_marked (s : State) (c k : Nat) (f : Wave → Wave) (m : List Nat) (r : List (Nat × Nat)) :
    (s.marked m r).modWave c k f = (s.modWave c k f).marked m r := by
  unfold State.modWave
  show (match s.wave? c k with
    | some w => (s.marked m r).setWave (f w)
    | none => s.marked m r) = _
  cases s.wave? c k <;> rfl

theorem modSpindle_marked (s : State) (cl : Nat) (f : Spindle → Spindle) (m : List Nat) (r : List (Nat × Nat)) :
    (s.marked m r).modSpindle cl f = (s.modSpindle cl f).marked m r := by
  unfold State.modSpindle
  show (match s.spindle? cl with
    | some p => (s.marked m r).setSpindle (f p)
    | none => s.marked m r) = _
  cases s.spindle? cl <;> rfl

theorem complete_marked (s : State) (pc : BitVec 64) (f : Wave → Wave) (g : Spindle → Spindle) (m : List Nat) (r : List (Nat × Nat)) :
    (s.marked m r).complete pc f g = (s.complete pc f g).marked m r := by
  have key : ∀ a, s.cur = a → (s.marked m r).complete pc f g = (s.complete pc f g).marked m r := by
    intro a h
    have h' : (s.marked m r).cur = a := h
    rw [complete_eq s]
    refine (complete_eq _ pc f g).trans ?_
    cases a with
    | none => rw [modAgent_none h]; exact modAgent_none h' _ _
    | wave c k => rw [modAgent_wave h]; exact (modAgent_wave h' _ _).trans (modWave_marked s c k _ m r)
    | spindle cl => rw [modAgent_spindle h]; exact (modAgent_spindle h' _ _).trans (modSpindle_marked s cl _ m r)
  exact key _ rfl

theorem complete_csMark (s : State) (pc : BitVec 64) (f : Wave → Wave) (g : Spindle → Spindle) (m : List Nat) :
    ({ s with csMark := m } : State).complete pc f g = { s.complete pc f g with csMark := m } := by
  have r : (s.complete pc f g).routes = s.routes := by rw [complete_eq, modAgent_rest]
  refine (complete_marked s pc f g m s.routes).trans ?_
  unfold State.marked
  rw [← r]

/-- The routes that an instruction keeps are all that keeping them changes. -/
theorem keepRoutes_marked (t : State) (es : List Elem) : t.keepRoutes es = t.marked t.csMark (t.keepRoutes es).routes := by
  suffices h : ∀ (es : List Elem) (t : State), ∃ r, t.keepRoutes es = t.marked t.csMark r by
    obtain ⟨r, hr⟩ := h es t
    rw [hr]
    rfl
  intro es
  induction es with
  | nil => exact fun t => ⟨t.routes, rfl⟩
  | cons e es ih =>
    intro t
    obtain ⟨r, hr⟩ := ih (match (t.sent e).port with
      | some p => t.keepRoute (paOff e.pa / 2 ^ 42) p
      | none => t)
    refine ⟨r, hr.trans ?_⟩
    split <;> rfl

/-- A change of the agent's wave, and then its completion. -/
theorem modWave_complete {t : State} {w : Wave} (hw : t.curWave = some w) (pc : BitVec 64) (f g : Wave → Wave) (hf : Places f) (e : f w = g w) :
    (t.modWave w.core w.slot f).complete pc (fun v => v) (fun p => p) = t.complete pc g (fun p => p) := by
  rw [← modAgent_wave (curWave_place hw) f (fun p => p), complete_modAgent t pc f (fun v => v) (fun p => p) (fun p => p) hf places_id stays_id stays_id]
  exact complete_congr hw pc _ _ _ _ e

theorem complete_marks (s : State) (pc : BitVec 64) (f : Wave → Wave) (g : Spindle → Spindle) : (s.complete pc f g).csMark = s.csMark := by
  rw [complete_eq, modAgent_rest]

/-! ## Issue -/

theorem mem_pathsOf (path : Elem → Nat) (es : List Elem) (rec : Bool) (p : Nat) :
    p ∈ pathsOf path es rec ↔ p < 6 ∧ ((∃ e ∈ es, path e = p) ∨ (rec = true ∧ p = 2)) := by
  simp [pathsOf]

theorem pathsOf_nodup (path : Elem → Nat) (es : List Elem) (rec : Bool) : (pathsOf path es rec).Nodup :=
  List.nodup_range.filter _

theorem mem_words (w : Wave) (reg bytes : Nat) (sg : Bool) (lanes : BitVec 64) (k : Nat) :
    k ∈ ((Dest.vec reg bytes sg).words w lanes) ↔
      k ∈ (lanesOf lanes).flatMap (fun L => (List.range ((bytes + 3) / 4)).map (fun i => w.vaddr (reg + i) L / 4)) := Iff.rfl

/-- Clearing the marks of a destination, before the wave changes: the marks that stay, and the wave's own. -/
theorem unmark_modWave (t : State) (w : Wave) (dest : Dest) (lanes : BitVec 64) (r : List (Nat × Nat)) :
    ∃ (m : List Nat) (g : Wave → Wave), Places g ∧ g w = { w with sMark := match dest with
        | .scal reg _ _ => w.cleared reg w.sMark
        | _ => w.sMark } ∧
      (∀ k, k ∈ m ↔ k ∈ t.csMark ∧ (w.exemptPoison = true ∨ k ∉ dest.words w lanes)) ∧
      ∀ F, Places F → ((t.marked t.csMark r).unmark w dest lanes).modWave w.core w.slot F
        = (t.modWave w.core w.slot (fun v => F (g v))).marked m r := by
  cases dest with
  | none =>
    exact ⟨t.csMark, fun v => v, fun _ => ⟨rfl, rfl⟩, rfl, fun k => by simp [Dest.words], fun F _ => modWave_marked t _ _ F _ r⟩
  | vec reg bytes sg =>
    have hun : ∃ m, (t.marked t.csMark r).unmark w (.vec reg bytes sg) lanes = t.marked m r ∧
        ∀ k, k ∈ m ↔ k ∈ t.csMark ∧ (w.exemptPoison = true ∨ k ∉ (Dest.vec reg bytes sg).words w lanes) := by
      unfold State.unmark
      simp only
      split
      · rename_i he
        refine ⟨t.csMark, rfl, fun k => ?_⟩
        rcases (Bool.or_eq_true_iff).1 he with h | h
        · have : t.csMark = [] := by simpa [State.marked] using h
          rw [this]; simp
        · simp [h]
      · rename_i he
        have hx : w.exemptPoison = false := by
          rw [Bool.or_eq_true, not_or] at he
          simpa using he.2
        refine ⟨_, rfl, fun k => ?_⟩
        rw [mem_words, List.mem_filter]
        simp [hx, State.marked]
    obtain ⟨m, hm, hk⟩ := hun
    exact ⟨m, fun v => v, fun _ => ⟨rfl, rfl⟩, rfl, hk, fun F _ => by rw [hm]; exact modWave_marked t _ _ F _ r⟩
  | scal reg bytes sg =>
    refine ⟨t.csMark, fun v => { v with sMark := v.cleared reg v.sMark }, fun _ => ⟨rfl, rfl⟩, rfl, fun k => by simp [Dest.words],
      fun F hF => ?_⟩
    show (State.modWave (State.modWave (t.marked t.csMark r) _ _ _) _ _ F) = _
    rw [modWave_marked, modWave_marked]
    exact congrArg (fun x : State => x.marked t.csMark r) (modWave_modWave _ F (fun _ => ⟨rfl, rfl⟩) hF)

/-- An instruction with room for its elements puts them in flight. -/
theorem issueOn_inFlight {path : Elem → Nat} {t : State} {w : Wave} {es : List Elem} {dest : Dest} {lanes : BitVec 64}
    {faults : List SfRec} {seq : BitVec 32} (hw : t.curWave = some w) (hr : Room w path es (!faults.isEmpty)) (pc : BitVec 64) :
    ∃ u, issueOn path t w es dest lanes faults seq = .done u ∧
      InFlight path t (u.complete pc (fun v => v) (fun p => p)) w es dest lanes faults seq pc := by
  have h1 : ((pathsOf path es (!faults.isEmpty)).any (fun p => decide (63 ≤ w.counter p))) = false := by
    rw [List.any_eq_false]
    intro p hp
    rw [decide_eq_true_eq, Nat.not_le]
    obtain ⟨-, ⟨e, he, rfl⟩ | ⟨hf, rfl⟩⟩ := (mem_pathsOf _ _ _ _).1 hp
    · exact hr.counters e he
    · exact hr.stores hf
  have h2 : (es.any (fun e => e.kind == .so && paSpace e.pa ≤ 4) &&
      w.flight.any (fun a => a.elems.any (fun e => e.kind == .so && paSpace e.pa ≤ 4))) = false := by
    cases he : es.any (fun e => e.kind == .so && paSpace e.pa ≤ 4)
    · rfl
    · rw [Bool.true_and, List.any_eq_false]
      intro a ha
      rw [List.any_eq_true]
      rintro ⟨e, hea, hes⟩
      obtain ⟨d, hd, hd2⟩ := List.any_eq_true.1 he
      have := hr.order ⟨d, hd, hd2⟩ a ha e hea
      rw [show (e.kind == .so && paSpace e.pa ≤ 4) = e.strong from rfl, this] at hes
      exact absurd hes (by decide)
  have h3 : (es.any (fun e => w.flight.any (fun a => a.fills w e))) = false := by
    rw [List.any_eq_false]
    intro e he
    rw [List.any_eq_true]
    rintro ⟨a, ha, h⟩
    exact absurd (hr.apart e he a ha) (by rw [h]; decide)
  unfold issueOn
  simp only [h1, h2, h3, Bool.false_eq_true, if_false]
  refine ⟨_, rfl, ?_⟩
  generalize haccs : (List.map _ (List.range (pathsOf path es (!faults.isEmpty)).length) : List Access) = accs
  have hpaths : accs.map (·.path) = pathsOf path es (!faults.isEmpty) := by
    rw [← haccs, List.map_map]
    apply List.ext_getElem
    · simp
    · intro i h1 h2
      simp [List.getD, List.getElem?_eq_getElem h2]
  have hacc : ∀ a ∈ accs, a.elems = (es.filter (fun e => path e == a.path)).map t.sent ∧ a.dest = dest ∧ a.lanes = lanes ∧
      a.done = false ∧ a.faults = (if a.path = 2 then faults else []) ∧ a.pc = w.pc ∧ a.seq = seq := by
    intro a ha
    rw [← haccs] at ha
    obtain ⟨i, _, rfl⟩ := List.mem_map.1 ha
    refine ⟨rfl, rfl, rfl, rfl, ?_, rfl, rfl⟩
    simp only [beq_iff_eq]
  have hin : ∀ p ∈ pathsOf path es (!faults.isEmpty), ∃ a ∈ accs, a.path = p := by
    intro p hp
    rw [← hpaths] at hp
    obtain ⟨a, ha, rfl⟩ := List.mem_map.1 hp
    exact ⟨a, ha, rfl⟩
  have helem : ∀ e ∈ es, path e < 6 → ∃ a ∈ accs, t.sent e ∈ a.elems := by
    intro e he hlt
    obtain ⟨a, ha, hp⟩ := hin (path e) ((mem_pathsOf _ _ _ _).2 ⟨hlt, .inl ⟨e, he, rfl⟩⟩)
    refine ⟨a, ha, ?_⟩
    rw [(hacc a ha).1]
    exact List.mem_map.2 ⟨e, List.mem_filter.2 ⟨he, by simp [hp]⟩, rfl⟩
  have hflt : faults ≠ [] → ∃ a ∈ accs, a.faults = faults := by
    intro hf
    obtain ⟨a, ha, hp⟩ := hin 2 ((mem_pathsOf _ _ _ _).2 ⟨by decide, .inr ⟨by cases faults <;> simp_all, rfl⟩⟩)
    exact ⟨a, ha, by rw [(hacc a ha).2.2.2.2.1, if_pos hp]⟩
  have hnd : (accs.map (·.path)).Nodup := by rw [hpaths]; exact pathsOf_nodup _ _ _
  clear haccs hpaths hin
  generalize (Option.isNone (_ : Option (Nat × Nat × Nat))) = ln
  rw [keepRoutes_marked t es]
  obtain ⟨m, g, hg, hgw, hm, hu⟩ := unmark_modWave t w dest lanes (t.keepRoutes es).routes
  have hF : Places (fun v : Wave => { v with
      flight := v.flight ++ accs, nextAcc := v.nextAcc + accs.length,
      ws := (es.filter t.signs).foldl (fun g e => sigAdd e.line g) w.ws, stseq := seq, sampleMark := v.sampleMark && ln }) :=
    fun _ => ⟨rfl, rfl⟩
  rw [hu _ hF, complete_marked]
  refine ⟨⟨accs, w.sampleMark && ln, ?_, hacc, helem, hflt, hnd⟩, hm⟩
  refine congrArg (fun x : State => x.marked m (t.keepRoutes es).routes) ?_
  exact modWave_complete hw pc _ _ (fun v => hg v) (by rw [hgw] <;> cases dest <;> rfl)

end Sys2Proof.Machine
end

