-- ==== Sys2Proof/Laws/Fields.lean ====
section
/-! SUPPORT. Bit fields, and the fields of device registers. -/

namespace Sys2Proof.Machine

/-- A number with a field replaced: its upper part, the new value, its lower part. -/
theorem setField_parts (v lo n x : Nat) :
    setField v lo n x = v / 2 ^ lo / 2 ^ n * (2 ^ n * 2 ^ lo) + (x % 2 ^ n * 2 ^ lo + v % 2 ^ lo) := by
  unfold setField field
  have h1 := Nat.div_add_mod v (2 ^ lo)
  have h2 := Nat.div_add_mod (v / 2 ^ lo) (2 ^ n)
  generalize v / 2 ^ lo / 2 ^ n = hi at *
  generalize v / 2 ^ lo % 2 ^ n = md at *
  generalize v % 2 ^ lo = lw at *
  generalize hq : v / 2 ^ lo = q at *
  have e : v = hi * (2 ^ n * 2 ^ lo) + md * 2 ^ lo + lw := by
    rw [← h1, ← h2, Nat.mul_add, Nat.add_right_cancel_iff]
    congr 1
    · rw [← Nat.mul_assoc, Nat.mul_comm (2 ^ lo * 2 ^ n) hi, Nat.mul_comm (2 ^ lo)]
    · exact Nat.mul_comm _ _
  rw [e]
  omega

theorem field_setField (v lo n x : Nat) : field (setField v lo n x) lo n = x % 2 ^ n := by
  rw [setField_parts]
  unfold field
  have h0 : 0 < 2 ^ lo := Nat.two_pow_pos lo
  have h : v / 2 ^ lo / 2 ^ n * (2 ^ n * 2 ^ lo) + (x % 2 ^ n * 2 ^ lo + v % 2 ^ lo) =
      (v / 2 ^ lo / 2 ^ n * 2 ^ n + x % 2 ^ n) * 2 ^ lo + v % 2 ^ lo := by
    rw [Nat.add_mul, Nat.mul_assoc, Nat.add_assoc]
  rw [h, Nat.add_comm, Nat.add_mul_div_right _ _ h0, Nat.div_eq_of_lt (Nat.mod_lt _ h0), Nat.zero_add,
    Nat.mul_add_mod_self_right, Nat.mod_mod]

/-- A field below another, or above it, keeps its value. -/
theorem field_setField_other (v lo n x lo' n' : Nat) (h : lo' + n' ≤ lo ∨ lo + n ≤ lo') :
    field (setField v lo n x) lo' n' = field v lo' n' := by
  have h0 : 0 < 2 ^ lo := Nat.two_pow_pos lo
  have hn : 0 < 2 ^ n := Nat.two_pow_pos n
  rcases h with h | h
  · have hm : setField v lo n x % 2 ^ lo = v % 2 ^ lo := by
      rw [setField_parts, show v / 2 ^ lo / 2 ^ n * (2 ^ n * 2 ^ lo) + (x % 2 ^ n * 2 ^ lo + v % 2 ^ lo) =
        (v / 2 ^ lo / 2 ^ n * 2 ^ n + x % 2 ^ n) * 2 ^ lo + v % 2 ^ lo by rw [Nat.add_mul, Nat.mul_assoc, Nat.add_assoc],
        Nat.mul_add_mod_self_right, Nat.mod_mod]
    have key : ∀ y : Nat, field y lo' n' = field (y % 2 ^ lo) lo' n' := by
      intro y
      unfold field
      have e : 2 ^ lo = 2 ^ lo' * (2 ^ n' * 2 ^ (lo - lo' - n')) := by rw [← Nat.pow_add, ← Nat.pow_add]; congr 1; omega
      rw [e, Nat.mod_mul_right_div_self, Nat.mod_mul_right_mod]
    rw [key, hm, ← key]
  · have hd : setField v lo n x / 2 ^ (lo + n) = v / 2 ^ (lo + n) := by
      rw [setField_parts, Nat.pow_add, Nat.mul_comm (2 ^ lo) (2 ^ n),
        Nat.add_comm, Nat.add_mul_div_right _ _ (Nat.mul_pos hn h0)]
      have hs : x % 2 ^ n * 2 ^ lo + v % 2 ^ lo < 2 ^ n * 2 ^ lo := by
        have h1 := Nat.mod_lt x hn
        have h2 := Nat.mod_lt v h0
        calc x % 2 ^ n * 2 ^ lo + v % 2 ^ lo < x % 2 ^ n * 2 ^ lo + 2 ^ lo := by omega
          _ = (x % 2 ^ n + 1) * 2 ^ lo := by rw [Nat.add_mul, Nat.one_mul]
          _ ≤ 2 ^ n * 2 ^ lo := Nat.mul_le_mul_right _ h1
      rw [Nat.div_eq_of_lt hs, Nat.zero_add, Nat.mul_comm (2 ^ n) (2 ^ lo), ← Nat.div_div_eq_div_mul]
    unfold field
    have e : 2 ^ lo' = 2 ^ (lo + n) * 2 ^ (lo' - lo - n) := by rw [← Nat.pow_add]; congr 1; omega
    rw [e, ← Nat.div_div_eq_div_mul, hd, Nat.div_div_eq_div_mul]

theorem setField_lt (v lo n x : Nat) (h : v < 2 ^ 64) (hb : lo + n ≤ 64) : setField v lo n x < 2 ^ 64 := by
  rw [setField_parts]
  have h0 : 0 < 2 ^ lo := Nat.two_pow_pos lo
  have hn : 0 < 2 ^ n := Nat.two_pow_pos n
  have h1 := Nat.mod_lt x hn
  have h2 := Nat.mod_lt v h0
  have e : 2 ^ 64 = 2 ^ (64 - lo - n) * (2 ^ n * 2 ^ lo) := by rw [← Nat.pow_add, ← Nat.pow_add]; congr 1; omega
  have h3 : v / 2 ^ lo / 2 ^ n < 2 ^ (64 - lo - n) := by
    rw [Nat.div_div_eq_div_mul, Nat.div_lt_iff_lt_mul (Nat.mul_pos h0 hn), Nat.mul_comm (2 ^ lo) (2 ^ n), ← e]
    exact h
  rw [e]
  calc v / 2 ^ lo / 2 ^ n * (2 ^ n * 2 ^ lo) + (x % 2 ^ n * 2 ^ lo + v % 2 ^ lo)
      < v / 2 ^ lo / 2 ^ n * (2 ^ n * 2 ^ lo) + 2 ^ n * 2 ^ lo := by
        have : x % 2 ^ n * 2 ^ lo + v % 2 ^ lo < 2 ^ n * 2 ^ lo := by
          calc x % 2 ^ n * 2 ^ lo + v % 2 ^ lo < x % 2 ^ n * 2 ^ lo + 2 ^ lo := by omega
            _ = (x % 2 ^ n + 1) * 2 ^ lo := by rw [Nat.add_mul, Nat.one_mul]
            _ ≤ 2 ^ n * 2 ^ lo := Nat.mul_le_mul_right _ h1
        omega
    _ = (v / 2 ^ lo / 2 ^ n + 1) * (2 ^ n * 2 ^ lo) := by rw [Nat.add_mul, Nat.one_mul]
    _ ≤ 2 ^ (64 - lo - n) * (2 ^ n * 2 ^ lo) := Nat.mul_le_mul_right _ h3

/-! ## Device registers -/

theorem ctlRd_ctlWr (s : State) (r q : CtlReg) (v : BitVec 64) : (s.ctlWr r v).ctlRd q = if q.off = r.off then v else s.ctlRd q := by
  unfold State.ctlWr State.ctlRd
  simp only [sget_sput]

/-- The device's write of a field, read back. -/
theorem ctlField_ctlSet (s : State) (r : CtlReg) (lo n x : Nat) (hb : lo + n ≤ 64) : (s.ctlSet r lo n x).ctlField r lo n = x % 2 ^ n := by
  unfold State.ctlSet State.ctlField
  rw [ctlRd_ctlWr, if_pos rfl, BitVec.toNat_ofNat, Nat.mod_eq_of_lt (setField_lt _ _ _ _ (s.ctlRd r).isLt hb), field_setField]

theorem ctlField_ctlSet_other (s : State) (r : CtlReg) (lo n x lo' n' : Nat) (hb : lo + n ≤ 64) (h : lo' + n' ≤ lo ∨ lo + n ≤ lo') :
    (s.ctlSet r lo n x).ctlField r lo' n' = s.ctlField r lo' n' := by
  unfold State.ctlSet State.ctlField
  rw [ctlRd_ctlWr, if_pos rfl, BitVec.toNat_ofNat, Nat.mod_eq_of_lt (setField_lt _ _ _ _ (s.ctlRd r).isLt hb), field_setField_other _ _ _ _ _ _ h]

theorem ctlField_ctlSet_reg (s : State) (r q : CtlReg) (lo n x lo' n' : Nat) (h : q.off ≠ r.off) :
    (s.ctlSet r lo n x).ctlField q lo' n' = s.ctlField q lo' n' := by
  unfold State.ctlSet State.ctlField
  rw [ctlRd_ctlWr, if_neg h]

end Sys2Proof.Machine
end

