-- ==== Sys2Proof/Laws/Device.lean ====
section
/-! SUPPORT. Device registers and records: what their shared updates leave unchanged. -/

namespace Sys2Proof.Machine

theorem if_bool {α : Sort _} {b : Bool} {p : Prop} [Decidable p] (h : b = true ↔ p) (x y : α) : (if b = true then x else y) = if p then x else y := by
  by_cases e : p
  · rw [if_pos e, if_pos (h.2 e)]
  · rw [if_neg e, if_neg (fun z => e (h.1 z))]

theorem ctlSet_rest (t : State) (r : CtlReg) (a b c : Nat) : t.ctlSet r a b c = { t with ctl := (t.ctlSet r a b c).ctl } := rfl

theorem boardCap_rest (t : State) : t.boardCap = { t with ctl := t.boardCap.ctl } := by
  unfold State.boardCap
  by_cases e : t.mgmt.board = .pairCard
  · rw [if_pos e]; exact ctlSet_rest t .mgtPwrcap 0 16 450
  · rw [if_neg e]

theorem mem_setAdd (k : Nat) (m : List Nat) : k ∈ setAdd k m := by
  induction m with
  | nil => simp [setAdd]
  | cons j rest ih =>
    unfold setAdd
    split
    · simp
    · split
      · rename_i h; subst h; simp
      · exact List.mem_cons_of_mem _ ih

theorem pairUp_ctl {a b : State} (h : a.ctl = b.ctl) : a.pairUp = b.pairUp := by
  unfold State.pairUp State.ctlField State.ctlRd; rw [h]

theorem devLog_ctl (s : State) (e : Nat) (a : BitVec 64) : (s.devLog e a).ctl = s.ctl := by unfold State.devLog; split <;> rfl

theorem errCount_poison (s : State) (u : Bool) : (s.errCount u).poison = s.poison := by
  unfold State.errCount; extract_lets; split <;> rfl

theorem logDev_shape (s : State) (b t d : Nat) (p : BitVec 64) : ∃ l, s.logDev b t d p = { s with bufs := l } := ⟨_, rfl⟩

theorem sendMsix_ctl (s : State) (f v : Nat) : (s.sendMsix f v).ctl = s.ctl := by unfold State.sendMsix; split <;> rfl

theorem ctxIrqEvent_ctl (s : State) (c i : Nat) : (s.ctxIrqEvent c i).ctl = s.ctl := by
  unfold State.ctxIrqEvent; split
  · exact sendMsix_ctl _ _ _
  · rfl

theorem setSpindle_same {s : State} {cl : Nat} {p : Spindle} (h : s.spindle? cl = some p) : s.setSpindle p = s := by
  have := modSpindle_id s cl
  unfold State.modSpindle at this
  rw [h] at this
  exact this

theorem setPreState_preState (s : State) (c v : Nat) (h : v < 4) : (s.setPreState c v).preState c = v := by
  have e := ctlField_ctlSet s (.pre c) 2 2 v (by omega)
  unfold State.setPreState State.preState
  dsimp only
  have : ∀ t : State, t.ctl = (s.ctlSet (.pre c) 2 2 v).ctl → t.ctlField (.pre c) 2 2 = v := by
    intro t ht
    have : t.ctlField (.pre c) 2 2 = (s.ctlSet (.pre c) 2 2 v).ctlField (.pre c) 2 2 := by unfold State.ctlField State.ctlRd; rw [ht]
    rw [this, e]; omega
  split
  · exact this _ (ctxIrqEvent_ctl _ _ _)
  · exact this _ rfl

theorem placeFor_nil {s : State} (h : s.placeReqs = []) (want : PlaceReq → Bool) : s.placeFor want = s := by
  unfold State.placeFor; rw [h]; unfold State.placeWalk; rfl

theorem placeFor_cons {s t : State} {r : PlaceReq} {rest : List PlaceReq} (h : s.placeReqs = r :: rest)
    (e : s.tryReq (fun _ => true) r = some t) (want : PlaceReq → Bool) : s.placeFor want = if want r then t else s := by
  unfold State.placeFor; rw [h]; unfold State.placeWalk
  have : s.tryReq (fun c => !(fun _ => false) c) r = some t := e
  rw [this]

theorem setRay_rest (s : State) (n : Nat) (r : Ray) : s.setRay n r = { s with launches := (s.setRay n r).launches } := by
  unfold State.setRay State.modRayLaunch State.modLaunch
  split <;> rfl

theorem setRays_rest (num : Nat) (ph : RayPhase) (l : List (Nat × Ray)) : ∀ s : State,
    (l.foldl (fun s p => s.setRay num { p.2 with phase := ph }) s) =
      { s with launches := (l.foldl (fun s p => s.setRay num { p.2 with phase := ph }) s).launches } := by
  induction l with
  | nil => intro s; rfl
  | cons a l ih =>
    intro s
    simp only [List.foldl_cons]
    rw [ih (s.setRay num { a.2 with phase := ph })]
    generalize (List.foldl (fun s p => s.setRay num { p.2 with phase := ph }) (s.setRay num { a.2 with phase := ph }) l).launches = x
    rw [setRay_rest]

end Sys2Proof.Machine
end

