-- ==== Sys2Proof/Laws/Frames.lean ====
section
/-! SUPPORT. What the memory system and the device's own records leave alone: every wave but for its store-fault queue and a
released wait, the Core Stores and the Operand Memories. -/

namespace Sys2Proof.Machine

/-- A wave but for its store-fault queue and a wait that a completion ends alike. -/
def Wave.Like (w v : Wave) : Prop := v = { w with sfq := v.sfq, wait := v.wait } ∧ v.wait.past = w.wait.past

theorem Wave.Like.refl (w : Wave) : w.Like w := ⟨rfl, rfl⟩

theorem Wave.Like.trans {w v u : Wave} (h : w.Like v) (g : v.Like u) : w.Like u := by
  refine ⟨?_, g.2.trans h.2⟩
  rw [g.1, h.1]

/-- A change that leaves the waves alike, and the Core Stores, the Operand Memories and the agent as they were. -/
structure Calm (s t : State) : Prop where
  cur : t.cur = s.cur
  cs : t.cs = s.cs
  csMark : t.csMark = s.csMark
  om : t.om = s.om
  waves : ∀ c k w, s.wave? c k = some w → ∃ v, t.wave? c k = some v ∧ w.Like v

theorem Calm.refl (s : State) : Calm s s := ⟨rfl, rfl, rfl, rfl, fun _ _ w h => ⟨w, h, Wave.Like.refl w⟩⟩

theorem Calm.trans {s t u : State} (h : Calm s t) (g : Calm t u) : Calm s u := by
  refine ⟨g.cur.trans h.cur, g.cs.trans h.cs, g.csMark.trans h.csMark, g.om.trans h.om, fun c k w hw => ?_⟩
  obtain ⟨v, hv, l⟩ := h.waves c k w hw
  obtain ⟨x, hx, m⟩ := g.waves c k v hv
  exact ⟨x, hx, l.trans m⟩

/-- A change that leaves the list of waves itself. -/
theorem calm_of {s t : State} (h1 : t.cur = s.cur) (h2 : t.cs = s.cs) (h3 : t.csMark = s.csMark) (h4 : t.om = s.om) (h5 : t.waves = s.waves) :
    Calm s t := by
  refine ⟨h1, h2, h3, h4, fun c k w hw => ⟨w, ?_, Wave.Like.refl w⟩⟩
  unfold State.wave? at *
  rw [h5]
  exact hw

theorem calm_foldl {α : Type} (f : State → α → State) (h : ∀ s a, Calm s (f s a)) (l : List α) : ∀ s, Calm s (l.foldl f s) := by
  induction l with
  | nil => exact Calm.refl
  | cons a l ih => exact fun s => (h s a).trans (ih _)

theorem calm_modWave (s : State) (c k : Nat) (f : Wave → Wave) (hf : Places f) (hl : ∀ w : Wave, w.Like (f w)) : Calm s (s.modWave c k f) := by
  unfold State.modWave
  cases h : s.wave? c k with
  | none => exact Calm.refl s
  | some w =>
    obtain ⟨hc, hk⟩ := wave?_at h
    refine ⟨rfl, rfl, rfl, rfl, fun c' k' w' hw' => ?_⟩
    by_cases e : (f w).core = c' ∧ (f w).slot = k'
    · obtain ⟨rfl, rfl⟩ := e
      have hh : s.wave? (f w).core (f w).slot = some w := by rw [(hf w).1, (hf w).2, hc, hk]; exact h
      rw [hh] at hw'
      cases hw'
      exact ⟨f w, wave?_setWave hh rfl rfl, hl w⟩
    · exact ⟨w', (wave?_setWave_other e).trans hw', Wave.Like.refl w'⟩

theorem Retranslated.calm {s t : State} (h : Retranslated s t) : Calm s t := by
  rw [h.rest]
  exact calm_of rfl rfl rfl rfl rfl

/-- The agent's wave is alike. -/
theorem Calm.curWave {s t : State} (h : Calm s t) {w : Wave} (hw : s.curWave = some w) : ∃ v, t.curWave = some v ∧ w.Like v := by
  unfold State.curWave at *
  rw [h.cur]
  split at hw
  · rename_i c k hc
    obtain ⟨v, hv, l⟩ := h.waves c k w hw
    exact ⟨v, hv, l⟩
  · simp at hw

/-! ## Records and registers -/

theorem calm_takeBytes (s : State) (n : Nat) : Calm s (s.takeBytes n).2 := by
  obtain ⟨k, hk⟩ := takeBytes_frame n s
  rw [hk]
  exact calm_of rfl rfl rfl rfl rfl

theorem calm_bumpCtx (s : State) (c i n : Nat) : Calm s (s.bumpCtx c i n) := calm_of rfl rfl rfl rfl rfl

theorem calm_logCtx (s : State) (b ty c k d : Nat) (p : BitVec 64) : Calm s (s.logCtx b ty c k d p) := calm_of rfl rfl rfl rfl rfl

theorem calm_sendMsix (s : State) (fn vec : Nat) : Calm s (s.sendMsix fn vec) := by
  unfold State.sendMsix
  split <;> exact calm_of rfl rfl rfl rfl rfl

theorem calm_ctxIrqEvent (s : State) (c i : Nat) : Calm s (s.ctxIrqEvent c i) := by
  unfold State.ctxIrqEvent
  split
  · exact calm_sendMsix s _ _
  · exact Calm.refl s

/-! ## The L2 -/

theorem calm_traffic (s : State) (c pa n : Nat) (wr : Bool) : Calm s (s.traffic c pa n wr) := by
  unfold State.traffic
  split <;> first | exact calm_bumpCtx s _ _ _ | exact Calm.refl s

theorem calm_l2Fetch (s : State) (c line : Nat) : Calm s (s.l2Fetch c line) := (l2Fetch_frame s c line).calm

theorem calm_l2FetchRange (s : State) (c pa n : Nat) : Calm s (s.l2FetchRange c pa n) :=
  calm_foldl _ (fun s i => calm_l2Fetch s c i) _ s

theorem calm_l2OwnRange (s : State) (c pa n : Nat) : Calm s (s.l2OwnRange c pa n) :=
  calm_foldl _ (fun s i => (l2Own_frame s c i).calm) _ s

theorem calm_l2Read (s : State) (c pa n : Nat) : Calm s (s.l2Read c pa n).2 := by
  unfold State.l2Read
  dsimp only
  split
  · refine (calm_traffic s c pa n false).trans ?_
    generalize s.traffic c pa n false = t
    have h : ∀ l, Calm t { t with out := l } := fun _ => calm_of rfl rfl rfl rfl rfl
    exact (h _).trans (calm_takeBytes _ n)
  · exact (calm_traffic s _ _ _ _).trans (calm_l2FetchRange _ _ pa n)

theorem like_released (w : Wave) : w.Like (match w.wait with
    | .timeline _ sc => { w with wait := .timeline true sc }
    | _ => w) := by
  cases h : w.wait <;> first | exact Wave.Like.refl w | exact ⟨rfl, by rw [h]; rfl⟩

theorem places_released : Places (fun w => match w.wait with
    | .timeline _ sc => { w with wait := .timeline true sc }
    | _ => w) := by
  intro w
  cases h : w.wait <;> simp only [h, and_self]

theorem calm_releaseWaiter (s : State) (t : Waiter) : Calm s (s.releaseWaiter t) :=
  (calm_of rfl rfl rfl rfl rfl : Calm s { s with waiters := s.waiters.filter (fun u => u.order != t.order) }).trans
    (calm_modWave _ _ _ _ places_released like_released)

theorem calm_wakeWaiters (s : State) (pa n : Nat) : Calm s (s.wakeWaiters pa n) := by
  unfold State.wakeWaiters
  refine calm_foldl _ (fun s t => ?_) _ s
  split
  · exact calm_releaseWaiter s t
  · exact Calm.refl s

theorem calm_storePoison (s : State) (who : Who) (pa n mask : Nat) : Calm s (s.storePoison who pa n mask) := by
  unfold State.storePoison
  split
  · exact Calm.refl s
  · refine calm_foldl _ (fun s g => ?_) _ s
    split
    · exact Calm.refl s
    split
    · exact calm_of rfl rfl rfl rfl rfl
    split
    · exact calm_logCtx s _ _ _ _ _ _
    · exact Calm.refl s

theorem calm_l2Write (s : State) (who : Who) (pa n v mask : Nat) : Calm s (s.l2Write who pa n v mask) := by
  unfold State.l2Write
  dsimp only
  refine (calm_traffic s who.ctx pa n true).trans ?_
  generalize s.traffic who.ctx pa n true = t
  split
  · exact calm_of rfl rfl rfl rfl rfl
  · refine ((calm_l2OwnRange t who.ctx pa n).trans (calm_storePoison _ who pa n mask)).trans ?_
    refine Calm.trans ?_ (calm_wakeWaiters _ pa n)
    exact calm_of rfl rfl rfl rfl rfl

/-! ## The fault queue -/

theorem calm_fqWrite (s : State) (c : Nat) (r : BitVec 512) : Calm s (s.fqWrite c r) := by
  unfold State.fqWrite
  dsimp only
  have h : ∀ who pa n v, Calm s (s.l2Put who pa n v) := fun who pa n v => calm_l2Write s who pa n v _
  refine (h { buf := bufSched, ctx := c, slot := 69 } (s.ctlField (.fq c) 12 40 * 4096 +
    64 * ((s.ctlRd (.fqTail c)).toNat % 2 ^ s.ctlField (.fq c) 0 5)) 64 r.toNat).trans ?_
  generalize s.l2Put _ _ _ _ = t
  split
  · exact Calm.trans (t := t.ctlWr (.fqTail c) _) (calm_of rfl rfl rfl rfl rfl) (calm_ctxIrqEvent _ c 0)
  · exact calm_of rfl rfl rfl rfl rfl

theorem calm_setCtx (s : State) (c : Nat) (x : Ctx) : Calm s (s.setCtx c x) := calm_of rfl rfl rfl rfl rfl

theorem calm_fqFlush (c n : Nat) : ∀ s : State, Calm s (s.fqFlush c n) := by
  induction n with
  | zero => exact Calm.refl
  | succ n ih =>
    intro s
    unfold State.fqFlush
    dsimp only
    split
    · exact Calm.refl s
    split
    · exact ((calm_fqWrite s _ _).trans (calm_setCtx _ _ _)).trans (ih _)
    split
    · exact Calm.refl s
    · exact ((calm_fqWrite s _ _).trans (calm_setCtx _ _ _)).trans (ih _)

theorem calm_makeFault (s : State) (c : Nat) (f : FaultInfo) (b slot : Nat) : Calm s (s.makeFault c f b slot) := by
  unfold State.makeFault
  dsimp only
  have h0 : Calm s (s.bumpCtx c 27 1) := calm_bumpCtx s c 27 1
  have h1 : ∀ t : State, Calm t (if t.evrOn 3 = true then t.logCtx b 0x59 c slot f.cause f.vaddr else t) := by
    intro t
    split
    · exact calm_logCtx t _ _ _ _ _ _
    · exact Calm.refl t
  refine (h0.trans (h1 _)).trans ?_
  generalize (if (s.bumpCtx c 27 1).evrOn 3 = true then _ else _ : State) = t
  refine Calm.trans (calm_setCtx t c { s.ctx c with seq := (s.ctx c).seq + 1 }) ?_
  generalize t.setCtx c { s.ctx c with seq := (s.ctx c).seq + 1 } = u
  split
  · exact calm_fqWrite u _ _
  split
  · exact (calm_setCtx u _ _).trans (calm_fqFlush _ _ _)
  · exact (calm_setCtx u _ _).trans (calm_fqFlush _ _ _)

theorem calm_sfToQueue (s : State) (c core slot : Nat) (r : SfRec) (u : Nat) : Calm s (s.sfToQueue c core slot r u) :=
  calm_makeFault s c _ _ _

theorem calm_pushSf (s : State) (w : Wave) (r : SfRec) : Calm s (s.pushSf w r) :=
  (calm_logCtx s _ _ _ _ _ _).trans (calm_modWave _ _ _ _ (fun _ => ⟨rfl, rfl⟩) (fun _ => ⟨rfl, rfl⟩))

/-! ## The L1 -/

theorem calm_l1Set (s : State) (l : L1Line) : Calm s (s.l1Set l) := calm_of rfl rfl rfl rfl rfl

theorem calm_l1Drop (s : State) (l : L1Line) : Calm s (s.l1Drop l) := calm_of rfl rfl rfl rfl rfl

theorem calm_writeBack (s : State) (l : L1Line) : Calm s (s.writeBack l).2 := by
  unfold State.writeBack
  split
  · exact Calm.refl s
  · have h := (translate_frame s l.core l.ctx (128 * l.vline) (Need.store false)).calm
    rcases hq : s.translate l.core l.ctx (128 * l.vline) (Need.store false) with ⟨x, t⟩
    rw [hq] at h
    dsimp only at h ⊢
    simp only [hq]
    split <;> split <;>
      first | exact (h.trans (calm_l1Set t _)).trans (calm_l2Write _ _ _ _ _ _) | exact h.trans (calm_l1Drop t _)

theorem calm_routeSf (s : State) (l : L1Line) (r : SfRec) : Calm s (s.routeSf l r) := by
  unfold State.routeSf
  split
  · split
    · exact calm_pushSf s _ r
    · exact calm_sfToQueue s _ _ _ _ _
  · exact calm_sfToQueue s _ _ _ _ _

theorem calm_writeBackRouted (s : State) (l : L1Line) : Calm s (s.writeBackRouted l) := by
  have h := calm_writeBack s l
  unfold State.writeBackRouted
  split
  · rename_i r t he
    rw [he] at h
    exact h.trans (calm_routeSf t l r)
  · rename_i t he
    rw [he] at h
    exact h

theorem calm_evictLine (s : State) (l : L1Line) : Calm s (s.evictLine l) :=
  (calm_writeBackRouted s l).trans (calm_of rfl rfl rfl rfl rfl)

theorem calm_l1Room (s : State) (core : Nat) : Calm s (s.l1Room core) := by
  unfold State.l1Room
  dsimp only
  split
  · exact Calm.refl s
  split
  · exact Calm.refl s
  · exact calm_evictLine s _

theorem calm_l1Fill (s : State) (core ctx pline vline : Nat) (kind : PageKind) : Calm s (s.l1Fill core ctx pline vline kind).2 :=
  ((calm_l1Room s core).trans (calm_l2Read _ _ _ _)).trans (calm_of rfl rfl rfl rfl rfl)

theorem calm_l1Get (s : State) (core ctx pline vline : Nat) (kind : PageKind) : Calm s (s.l1Get core ctx pline vline kind).2 := by
  unfold State.l1Get
  dsimp only
  generalize s.l1.any _ = shared
  refine (calm_foldl _ (fun s l => calm_evictLine s l)
    (s.l1.filter (fun l => l.core == core && l.pline == pline && l.ctx != ctx && l.dirty != 0)) s).trans ?_
  generalize List.foldl _ s _ = t
  split
  · split
    · exact (calm_evictLine t _).trans (calm_l1Fill _ _ _ _ _ _)
    split
    · exact (calm_l2Read t _ _ _).trans (calm_l1Set _ _)
    · exact Calm.refl t
  · exact calm_l1Fill t _ _ _ _ _

theorem calm_l1Flush (s : State) (core ctx pline : Nat) : Calm s (s.l1Flush core ctx pline) := by
  unfold State.l1Flush
  split
  · exact calm_evictLine s _
  · exact Calm.refl s

theorem calm_dropLines (s : State) (p : L1Line → Bool) : Calm s (s.dropLines p) :=
  calm_foldl _ (fun s l => calm_evictLine s l) _ s

theorem calm_writeBackAll (s : State) (p : L1Line → Bool) : Calm s (s.writeBackAll p).2 := by
  unfold State.writeBackAll
  generalize s.l1.filter (fun l => l.dirty != 0 && p l) = ls
  suffices h : ∀ (ls : List L1Line) (acc : List SfRec × State), Calm s acc.2 → Calm s (ls.foldl
      (fun (acc : List SfRec × State) l => match acc.2.writeBack l with
        | (some r, t) => (acc.1 ++ [r], t)
        | (none, t) => (acc.1, t)) acc).2 from h ls ([], s) (Calm.refl s)
  intro ls
  induction ls with
  | nil => exact fun _ h => h
  | cons l ls ih =>
    intro acc h
    rw [List.foldl_cons]
    apply ih
    have hw := calm_writeBack acc.2 l
    split <;> rename_i he <;> rw [he] at hw <;> exact h.trans hw

/-- The write-back of a release changes lines, memory and store-fault queues: no register and no byte of a Core Store. -/
theorem calm_releaseStep (s : State) (scope : Nat) : Calm s (s.releaseStep scope).2 := by
  unfold State.releaseStep
  split
  · rename_i w _
    split
    · exact Calm.refl s
    · refine (calm_writeBackAll s _).trans (calm_foldl _ (fun t r => ?_) _ _)
      split
      · exact calm_pushSf t _ r
      · exact Calm.refl t
  · exact Calm.refl s

end Sys2Proof.Machine
end

