-- ==== Sys2Proof/Laws/Vector.lean ====
section
/-! SUPPORT. Vector registers: what writing lanes gives back, and what it leaves. -/

namespace Sys2Proof.Machine

theorem mem_lanesOf (m : BitVec 64) (L : Nat) : L ∈ lanesOf m ↔ m.getLsbD L = true := by
  unfold lanesOf
  rw [List.mem_filter, List.mem_range]
  constructor
  · exact fun h => h.2
  · intro h
    refine ⟨?_, h⟩
    rcases Nat.lt_or_ge L 64 with hl | hl
    · exact hl
    · rw [BitVec.getLsbD_of_ge m L hl] at h
      exact absurd h (by decide)

theorem lanesOf_lt {m : BitVec 64} {L : Nat} (h : L ∈ lanesOf m) : L < 64 := by
  unfold lanesOf at h
  exact List.mem_range.1 (List.mem_filter.1 h).1

theorem lanesOf_nodup (m : BitVec 64) : (lanesOf m).Nodup := List.Pairwise.filter _ List.nodup_range

theorem vaddr_eq (w : Wave) (n L : Nat) : w.vaddr n L = w.core * 2 ^ 20 + 2048 * w.blocks.getD (n / 8) 0 + 256 * (n % 8) + 4 * L := rfl

/-- Elements of two lanes, or of neighbouring registers, lie in different words. -/
theorem vaddr_apart (w : Wave) (n m L M : Nat) (hL : L < 64) (hM : M < 64) (h : L ≠ M ∨ n % 8 ≠ m % 8) :
    w.vaddr n L + 4 ≤ w.vaddr m M ∨ w.vaddr m M + 4 ≤ w.vaddr n L := by
  rw [vaddr_eq, vaddr_eq]
  generalize w.blocks.getD (n / 8) 0 = b
  generalize w.blocks.getD (m / 8) 0 = c
  generalize w.core * 2 ^ 20 = k
  omega

theorem vaddr_word (w : Wave) (n L : Nat) : 4 * (w.vaddr n L / 4) = w.vaddr n L := by
  rw [vaddr_eq]
  generalize w.blocks.getD (n / 8) 0 = b
  omega

/-! ## One element -/

theorem vwr_cs_wf (s : State) (w : Wave) (n L : Nat) (v : BitVec 32) (h : s.cs.wf = true) : (s.vwr w n L v).cs.wf = true :=
  wf_writeNat 4 s.cs _ _ h

theorem vwr_read (s : State) (w : Wave) (n L : Nat) (v : BitVec 32) (a : Nat)
    (ha : ¬ (w.vaddr n L ≤ a ∧ a < w.vaddr n L + 4)) : (s.vwr w n L v).cs.read a = s.cs.read a := by
  show (s.cs.writeNat _ 4 _).read a = _
  rw [read_writeNat 4 s.cs, if_neg ha]

theorem vwr_mark (s : State) (w : Wave) (n L : Nat) (v : BitVec 32) (a : Nat) (h : w.exemptPoison = false) :
    a ∈ (s.vwr w n L v).csMark ↔ a ∈ s.csMark ∧ a ≠ w.vaddr n L / 4 := by
  show a ∈ w.cleared _ s.csMark ↔ _
  simp [Wave.cleared, h, setDel]

/-- In a save or restore handler a write clears no mark (R338). -/
theorem vput_exempt (s : State) (w : Wave) (n L regs : Nat) (v : BitVec 64) (h : w.exemptPoison = true) :
    (s.vput w n L regs v).csMark = s.csMark := by
  unfold State.vput State.vwr64 State.vwr Wave.cleared
  rw [h]
  split <;> rfl

theorem vrd_vwr (s : State) (w : Wave) (n L : Nat) (v : BitVec 32) : (s.vwr w n L v).vrd w n L = v := by
  show BitVec.ofNat 32 ((s.cs.writeNat _ 4 _).readNat _ 4) = v
  rw [readNat_writeNat 4 s.cs]
  apply BitVec.eq_of_toNat_eq
  have := v.isLt
  simp only [BitVec.toNat_ofNat]
  omega

theorem vrd_congr {s t : State} (w : Wave) (n L : Nat) (h : ∀ a, w.vaddr n L ≤ a → a < w.vaddr n L + 4 → t.cs.read a = s.cs.read a) :
    t.vrd w n L = s.vrd w n L := by
  show BitVec.ofNat 32 _ = BitVec.ofNat 32 _
  rw [readNat_congr 4 t.cs s.cs _ h]

theorem vrd_vwr_apart (s : State) (w : Wave) (n m L M : Nat) (v : BitVec 32) (hL : L < 64) (hM : M < 64)
    (hd : L ≠ M ∨ n % 8 ≠ m % 8) : (s.vwr w n L v).vrd w m M = s.vrd w m M := by
  apply vrd_congr
  intro a h1 h2
  apply vwr_read s w n L v
  have := vaddr_apart w n m L M hL hM hd
  omega

theorem vput_cs_wf (s : State) (w : Wave) (n L regs : Nat) (v : BitVec 64) (h : s.cs.wf = true) : (s.vput w n L regs v).cs.wf = true := by
  unfold State.vput
  split
  · exact vwr_cs_wf _ w _ L _ (vwr_cs_wf s w n L _ h)
  · exact vwr_cs_wf s w n L _ h

theorem vput_read (s : State) (w : Wave) (n L regs : Nat) (v : BitVec 64) (a : Nat)
    (ha : ∀ i, i < widthOf regs → ¬ (w.vaddr (n + i) L ≤ a ∧ a < w.vaddr (n + i) L + 4)) :
    (s.vput w n L regs v).cs.read a = s.cs.read a := by
  unfold State.vput
  unfold widthOf at ha
  split
  · rename_i hr
    have hr : regs = 2 := by simpa using hr
    rw [if_pos hr] at ha
    rw [State.vwr64, vwr_read _ w _ L _ a (ha 1 (by decide)), vwr_read s w n L _ a (ha 0 (by decide))]
  · rename_i hr
    have hr : regs ≠ 2 := by simpa using hr
    rw [if_neg hr] at ha
    rw [vwr_read s w n L _ a (ha 0 (by decide))]

theorem vput_mark (s : State) (w : Wave) (n L regs : Nat) (v : BitVec 64) (a : Nat) (h : w.exemptPoison = false) :
    a ∈ (s.vput w n L regs v).csMark ↔ a ∈ s.csMark ∧ ∀ i, i < widthOf regs → a ≠ w.vaddr (n + i) L / 4 := by
  unfold State.vput widthOf
  by_cases hr : regs = 2
  · subst hr
    simp only [beq_self_eq_true, if_true, State.vwr64, vwr_mark _ _ _ _ _ _ h]
    constructor
    · rintro ⟨⟨h1, h2⟩, h3⟩
      refine ⟨h1, fun i hi => ?_⟩
      match i, hi with
      | 0, _ => exact h2
      | 1, _ => exact h3
    · rintro ⟨h1, h2⟩
      exact ⟨⟨h1, h2 0 (by decide)⟩, h2 1 (by decide)⟩
  · have hb : (regs == 2) = false := by simpa using hr
    simp only [hb, Bool.false_eq_true, if_false, vwr_mark _ _ _ _ _ _ h, if_neg hr]
    constructor
    · rintro ⟨h1, h2⟩
      refine ⟨h1, fun i hi => ?_⟩
      match i, hi with
      | 0, _ => exact h2
    · rintro ⟨h1, h2⟩
      exact ⟨h1, h2 0 (by decide)⟩

/-- What an element of so many registers can hold of a value. -/
theorem vget_vput (s : State) (w : Wave) (n L regs : Nat) (v : BitVec 64) (hL : L < 64) :
    (s.vput w n L regs v).vget w n L regs = if regs = 2 then v else (v.setWidth 32).setWidth 64 := by
  unfold State.vput State.vget
  by_cases hr : regs = 2
  · subst hr
    simp only [beq_self_eq_true, if_true, State.vwr64, State.vrd64]
    rw [vrd_vwr _ w _ L _]
    rw [vrd_vwr_apart _ w (n + 1) n L L _ hL hL (Or.inr (by omega)), vrd_vwr s w n L _]
    apply BitVec.eq_of_getLsbD_eq
    intro i hi
    rw [BitVec.getLsbD_append]
    simp only [BitVec.getLsbD_extractLsb']
    by_cases hlt : i < 32
    · simp [hlt]
    · simp only [hlt, decide_false]
      have h1 : i - 32 < 32 := by omega
      have h2 : 32 + (i - 32) = i := by omega
      simp [h1, h2]
  · have hb : (regs == 2) = false := by simpa using hr
    simp only [hb, Bool.false_eq_true, if_false, if_neg hr]
    rw [vrd_vwr s w n L _]

theorem vget_congr {s t : State} (w : Wave) (n L regs : Nat)
    (h : ∀ a i, i < widthOf regs → w.vaddr (n + i) L ≤ a → a < w.vaddr (n + i) L + 4 → t.cs.read a = s.cs.read a) :
    t.vget w n L regs = s.vget w n L regs := by
  unfold State.vget
  unfold widthOf at h
  by_cases hr : regs = 2
  · subst hr
    simp only [beq_self_eq_true, if_true, State.vrd64]
    rw [vrd_congr w (n + 1) L (fun a => h a 1 (by decide)), vrd_congr w n L (fun a => h a 0 (by decide))]
  · have hb : (regs == 2) = false := by simpa using hr
    simp only [hb, Bool.false_eq_true, if_false]
    rw [vrd_congr w n L (fun a => h a 0 (by simp [hr]))]

/-- One element is written and another lane is read. -/
theorem vget_vput_apart (s : State) (w : Wave) (n L M regs : Nat) (v : BitVec 64) (hL : L < 64) (hM : M < 64)
    (hd : L ≠ M) : (s.vput w n L regs v).vget w n M regs = s.vget w n M regs := by
  apply vget_congr
  intro a i hi h1 h2
  apply vput_read s w n L regs v
  intro j hj
  have := vaddr_apart w (n + j) (n + i) L M hL hM (Or.inl hd)
  omega

theorem vput_rest (s : State) (w : Wave) (n L regs : Nat) (v : BitVec 64) :
    s.vput w n L regs v = { s with cs := (s.vput w n L regs v).cs, csMark := (s.vput w n L regs v).csMark } := by
  unfold State.vput
  split <;> rfl

/-! ## Some lanes -/

theorem vputAll_cons (s : State) (w : Wave) (d regs : Nat) (p : Nat × BitVec 64) (l : List (Nat × BitVec 64)) :
    s.vputAll w d regs (p :: l) = (s.vput w d p.1 regs p.2).vputAll w d regs l := rfl

theorem vputAll_cs_wf (l : List (Nat × BitVec 64)) (s : State) (w : Wave) (d regs : Nat) (h : s.cs.wf = true) :
    (s.vputAll w d regs l).cs.wf = true := by
  induction l generalizing s with
  | nil => exact h
  | cons p rest ih =>
    rw [vputAll_cons]
    exact ih _ (vput_cs_wf s w d p.1 regs p.2 h)

theorem vputAll_rest (l : List (Nat × BitVec 64)) (s : State) (w : Wave) (d regs : Nat) :
    s.vputAll w d regs l = { s with cs := (s.vputAll w d regs l).cs, csMark := (s.vputAll w d regs l).csMark } := by
  induction l generalizing s with
  | nil => rfl
  | cons p rest ih =>
    rw [vputAll_cons]
    have h1 := ih (s.vput w d p.1 regs p.2)
    have h2 := vput_rest s w d p.1 regs p.2
    generalize s.vput w d p.1 regs p.2 = t at h1 h2
    generalize t.vputAll w d regs rest = u at h1
    rw [h1, h2]

theorem vputAll_read (l : List (Nat × BitVec 64)) (s : State) (w : Wave) (d regs : Nat) (a : Nat)
    (ha : ∀ p ∈ l, ∀ i, i < widthOf regs → ¬ (w.vaddr (d + i) p.1 ≤ a ∧ a < w.vaddr (d + i) p.1 + 4)) :
    (s.vputAll w d regs l).cs.read a = s.cs.read a := by
  induction l generalizing s with
  | nil => rfl
  | cons p rest ih =>
    rw [vputAll_cons, ih _ (fun q hq => ha q (by simp [hq])),
      vput_read s w d p.1 regs p.2 a (ha p (by simp))]

theorem vputAll_mark (l : List (Nat × BitVec 64)) (s : State) (w : Wave) (d regs : Nat) (a : Nat) (h : w.exemptPoison = false) :
    a ∈ (s.vputAll w d regs l).csMark ↔ a ∈ s.csMark ∧ ∀ p ∈ l, ∀ i, i < widthOf regs → a ≠ w.vaddr (d + i) p.1 / 4 := by
  induction l generalizing s with
  | nil => simp [State.vputAll]
  | cons p rest ih =>
    rw [vputAll_cons, ih, vput_mark _ _ _ _ _ _ _ h]
    simp only [List.mem_cons, forall_eq_or_imp, and_assoc]

theorem vputAll_exempt (l : List (Nat × BitVec 64)) (s : State) (w : Wave) (d regs : Nat) (h : w.exemptPoison = true) :
    (s.vputAll w d regs l).csMark = s.csMark := by
  induction l generalizing s with
  | nil => rfl
  | cons p rest ih => rw [vputAll_cons, ih, vput_exempt _ _ _ _ _ _ h]

theorem vputAll_value (l : List (Nat × BitVec 64)) (s : State) (w : Wave) (d regs : Nat)
    (hn : (l.map (·.1)).Nodup) (hl : ∀ p ∈ l, p.1 < 64) :
    (∀ p ∈ l, (s.vputAll w d regs l).vget w d p.1 regs = if regs = 2 then p.2 else (p.2.setWidth 32).setWidth 64)
    ∧ ∀ L, L < 64 → (∀ p ∈ l, p.1 ≠ L) → (s.vputAll w d regs l).vget w d L regs = s.vget w d L regs := by
  induction l generalizing s with
  | nil => exact ⟨fun p hp => absurd hp (by simp), fun _ _ _ => rfl⟩
  | cons p rest ih =>
    rw [List.map_cons, List.nodup_cons] at hn
    obtain ⟨i1, i2⟩ := ih (s.vput w d p.1 regs p.2) hn.2 (fun q hq => hl q (by simp [hq]))
    rw [vputAll_cons]
    refine ⟨?_, ?_⟩
    · intro q hq
      rcases List.mem_cons.1 hq with rfl | hq
      · rw [i2 q.1 (hl q (by simp)) (fun r hr e => hn.1 (List.mem_map.2 ⟨r, hr, e⟩))]
        exact vget_vput s w d q.1 regs q.2 (hl q (by simp))
      · exact i1 q hq
    · intro L hL hne
      rw [i2 L hL (fun q hq => hne q (by simp [hq]))]
      exact vget_vput_apart s w d p.1 L regs p.2 (hl p (by simp)) hL (hne p (by simp))

theorem modAgent_cs (s : State) (c : Memory) (m : List Nat) (fw : Wave → Wave) (fp : Spindle → Spindle) :
    ({ s with cs := c, csMark := m } : State).modAgent fw fp = { s.modAgent fw fp with cs := c, csMark := m } := by
  have key : ∀ a, s.cur = a →
      ({ s with cs := c, csMark := m } : State).modAgent fw fp = { s.modAgent fw fp with cs := c, csMark := m } := by
    intro a h
    cases a with
    | none => rw [modAgent_none h, modAgent_none (s := { s with cs := c, csMark := m }) h]
    | wave i k =>
      rw [modAgent_wave h, modAgent_wave (s := { s with cs := c, csMark := m }) h]
      have hw : ({ s with cs := c, csMark := m } : State).wave? i k = s.wave? i k := rfl
      unfold State.modWave
      rw [hw]
      cases s.wave? i k <;> rfl
    | spindle cl =>
      rw [modAgent_spindle h, modAgent_spindle (s := { s with cs := c, csMark := m }) h]
      have hw : ({ s with cs := c, csMark := m } : State).spindle? cl = s.spindle? cl := rfl
      unfold State.modSpindle
      rw [hw]
      cases s.spindle? cl <;> rfl
  exact key _ rfl

/-- A wave that writes lanes of a register, changes and goes on. -/
theorem lanesWritten_of (s : State) (w : Wave) (hw : s.curWave = some w) (d regs : Nat) (lanes : BitVec 64) (val : Nat → BitVec 64)
    (fw : Wave → Wave) (fp : Spindle → Spindle) (hfw : Places fw) (hfp : Stays fp) (pc : BitVec 64) :
    LanesWritten s (((s.vputAll w d regs ((lanesOf lanes).map (fun L => (L, val L)))).modAgent fw fp).complete pc (fun w => w) (fun p => p))
      w d regs lanes val fw pc := by
  obtain ⟨l, hl⟩ : ∃ l, l = (lanesOf lanes).map (fun L => (L, val L)) := ⟨_, rfl⟩
  rw [← hl]
  have hf : (l.map (·.1)).Nodup := by
    rw [hl, List.map_map]
    have : ((fun p : Nat × BitVec 64 => p.1) ∘ fun L => (L, val L)) = id := rfl
    rw [this, List.map_id]
    exact lanesOf_nodup lanes
  have h64 : ∀ p ∈ l, p.1 < 64 := by
    intro p hp
    rw [hl] at hp
    obtain ⟨L, hL, rfl⟩ := List.mem_map.1 hp
    exact lanesOf_lt hL
  have hmem : ∀ L, lanes.getLsbD L = true → (L, val L) ∈ l :=
    fun L hL => hl ▸ List.mem_map.2 ⟨L, (mem_lanesOf lanes L).2 hL, rfl⟩
  have hof : ∀ p ∈ l, lanes.getLsbD p.1 = true := by
    intro p hp
    rw [hl] at hp
    obtain ⟨L, hL, rfl⟩ := List.mem_map.1 hp
    exact (mem_lanesOf lanes L).1 hL
  have hv := (vputAll_value l s w d regs hf h64).1
  have hb := vputAll_read l s w d regs
  have hm := vputAll_mark l s w d regs
  have hx := vputAll_exempt l s w d regs
  have hr := vputAll_rest l s w d regs
  generalize s.vputAll w d regs l = u at hv hb hm hx hr
  have hcur : s.cur = .wave w.core w.slot := curWave_place hw
  have hcomp : (u.modAgent fw fp).complete pc (fun w => w) (fun p => p)
      = { s.complete pc fw (fun p => p) with cs := u.cs, csMark := u.csMark } := by
    rw [complete_modAgent u pc fw (fun w => w) fp (fun p => p) hfw places_id hfp stays_id]
    rw [hr, complete_eq, complete_eq, modAgent_cs]
    rw [modAgent_wave hcur, modAgent_wave hcur]
  rw [hcomp]
  refine ⟨?_, ?_, ?_, ?_, rfl⟩
  · intro L hL
    exact hv (L, val L) (hmem L hL)
  · intro a ha
    exact hb a (fun p hp i hi => ha p.1 i (hof p hp) hi)
  · intro a
    rw [show ({ s.complete pc fw (fun p => p) with cs := u.cs, csMark := u.csMark } : State).csMark = u.csMark from rfl]
    cases he : w.exemptPoison with
    | true => rw [hx he]; exact ⟨fun x => ⟨x, .inl rfl⟩, fun x => x.1⟩
    | false =>
      rw [hm a he]
      constructor
      · exact fun x => ⟨x.1, .inr (fun L i hL hi => x.2 (L, val L) (hmem L hL) i hi)⟩
      · exact fun x => ⟨x.1, fun p hp i hi => (x.2.resolve_left (by decide)) p.1 i (hof p hp) hi⟩
  · intro a
    rw [complete_eq, modAgent_wave hcur]
    show (State.modWave s _ _ _).mem.read a = _
    rw [modWave_rest]

end Sys2Proof.Machine
end

