-- ==== Sys2Proof/Laws/Lanes.lean ====
section
/-! SUPPORT. Lanes and masks: what completing an issued row over lanes does, lists of lanes, reduction trees, links and jumps. -/

namespace Sys2Proof.Machine

theorem issue_eq {i : Instr} {s : State} {r : Row} {n : Norm} (h : Issues i s r n) {k : Shape} (hs : shape i = k) (hk : k ≠ .other) :
    exec i s = .next (s.finish n.words (k.work r n s)) := by
  rw [exec_admitted h.toAdmitted, work_of_shape hs hk]

theorem flagsOver_eq (lanes : BitVec 64) (g : Nat → BitVec 64 × Nat) :
    (((lanesOf lanes).map (fun L => (L, g L))).foldl (fun a p => a ||| p.2.2) 0) = flagsOver lanes (fun L => (g L).2) := by
  unfold flagsOver
  rw [List.foldl_map]

theorem laneVals_eq (s : State) (w : Wave) (r : Row) (n : Norm) (f : Nat → BitVec 64 → BitVec 64 → BitVec 64 → BitVec 64 × Nat) :
    s.laneVals w r n f = (lanesOf (laneSet w n.x)).map (fun L => (L, f L (s.srcA w r n L) (s.srcB w r n L) (s.srcC w r n L))) := rfl

theorem vecMap_work {s : State} {w : Wave} (hw : s.curWave = some w) (f : Norm → BitVec 64 → BitVec 64 → BitVec 64 → BitVec 64 × Nat) (r : Row) (n : Norm) :
    vecMap f r n s = .done ((s.vputAll w n.x.d.toNat (destRegs (r.opnds n.accum).1 n)
      ((lanesOf (laneSet w n.x)).map (fun L => (L, (f n (s.srcA w r n L) (s.srcB w r n L) (s.srcC w r n L)).1)))).orFlags
        (flagsOver (laneSet w n.x) (fun L => (f n (s.srcA w r n L) (s.srcB w r n L) (s.srcC w r n L)).2))) := by
  unfold vecMap
  simp only [hw, laneVals_eq]
  rw [flagsOver_eq (laneSet w n.x) (fun L => f n (s.srcA w r n L) (s.srcB w r n L) (s.srcC w r n L)), List.map_map]
  rfl

theorem flagsOver_zero (lanes : BitVec 64) : flagsOver lanes (fun _ => 0) = 0 := by
  unfold flagsOver
  generalize lanesOf lanes = l
  induction l with
  | nil => rfl
  | cons a l ih => simpa using ih

theorem orFlags_zero (s : State) : s.orFlags 0 = s := rfl

theorem getLsbD_maskOf (l : List Nat) (L : Nat) (hL : L < 64) : (maskOf l).getLsbD L = decide (L ∈ l) := by
  unfold maskOf
  have key : ∀ (l : List Nat) (m : BitVec 64), (l.foldl (fun a i => a ||| (1#64 <<< i)) m).getLsbD L = (m.getLsbD L || decide (L ∈ l)) := by
    intro l
    induction l with
    | nil => intro m; simp
    | cons a l ih =>
      intro m
      rw [List.foldl_cons, ih]
      by_cases e : L = a
      · subst e; simp [hL]
      · have : (1#64 <<< a).getLsbD L = false := by
          rw [BitVec.getLsbD_shiftLeft]
          by_cases hlt : L < a
          · simp [hlt]
          · simp only [hL, hlt, decide_true, decide_false, Bool.not_false, Bool.true_and]
            rw [BitVec.getLsbD_one]
            have : ¬ (L - a = 0) := by omega
            simp [this]
        rw [BitVec.getLsbD_or, this]
        simp [e]
  rw [key]; simp

theorem isMask_filter (lanes : BitVec 64) (p : Nat → Bool) : IsMask (maskOf ((lanesOf lanes).filter p)) (fun L => lanes.getLsbD L && p L) := by
  intro L hL
  rw [getLsbD_maskOf _ _ hL, Bool.eq_iff_iff, decide_eq_true_eq, List.mem_filter, mem_lanesOf, Bool.and_eq_true]

theorem lanesMoved {s : State} {w : Wave} (hw : s.curWave = some w) (words d regs : Nat) (lanes : BitVec 64) (val : Nat → BitVec 64)
    (h : canonical (s.nextPc words) = true) :
    LanesWritten s (s.finish words (.done (s.vputAll w d regs ((lanesOf lanes).map (fun L => (L, val L)))))) w d regs lanes val (fun v => v) (s.nextPc words) := by
  rw [finish_done _ _ _ h]
  have := lanesWritten_of s w hw d regs lanes val (fun v => v) (fun p => p) places_id stays_id (s.nextPc words)
  rwa [modAgent_id] at this

theorem filter_marked (l : List Nat) (p : Nat → Bool) (hp : ∀ L ∈ l, p L = false) : ((l.map (fun L => (L, p L))).filter (·.2)).map (·.1) = [] := by
  induction l with
  | nil => rfl
  | cons a l ih =>
    simp only [List.map_cons, List.filter_cons, hp a (by simp)]
    exact ih (fun L hL => hp L (by simp [hL]))

theorem markedLanes_nil {s : State} {w : Wave} {n : Norm} (h : ∀ L, (laneSet w n.x).getLsbD L = true → s.vmarked w n.x.sb.toNat L (typeRegs n.x.type.toNat) = false) :
    markedLanes s w n = [] := by
  unfold markedLanes
  rw [List.filter_eq_nil_iff]
  intro a ha
  rw [h a ((mem_lanesOf _ _).1 ha)]
  simp

theorem adm_eq {i : Instr} {s : State} {r : Row} {n : Norm} (h : Admitted i s r n) {k : Shape} (hs : shape i = k) (hk : k ≠ .other) :
    exec i s = .next (s.finish n.words (k.work r n s)) := by
  rw [exec_admitted h, work_of_shape hs hk]

theorem link_eq (s : State) (n : Norm) : s.link n = s.modAgent (fun w => w.withS 127 (s.nextPc n.words)) (fun p => p.withX 31 (s.nextPc n.words)) := by
  unfold State.link State.linkReg
  rw [swr_eq]
  cases hc : s.cur with
  | none => rw [modAgent_none hc, modAgent_none hc]
  | wave c k =>
    rw [modAgent_wave hc, modAgent_wave hc]
    have : ¬ (s.stream = .spindle) := by unfold State.stream; rw [hc]; simp
    rw [if_neg this]
  | spindle cl =>
    rw [modAgent_spindle hc, modAgent_spindle hc]
    have : s.stream = .spindle := by unfold State.stream; rw [hc]
    rw [if_pos this]

theorem jump_modAgent (s : State) (words : Nat) (fw : Wave → Wave) (fp : Spindle → Spindle) (h1 : Places fw) (h3 : Stays fp) (pc : BitVec 64) :
    s.finish words (.jump (s.modAgent fw fp) pc) = s.complete pc fw fp := by
  rw [finish_jump]
  exact complete_modAgent s pc fw (fun w => w) fp (fun p => p) h1 places_id h3 stays_id

theorem goTo_ok (s t : State) {a : BitVec 64} (h : canonical a = true) : goTo s t a = .jump t a := by unfold goTo; rw [if_pos h]

theorem goReg_ok (s t : State) {a : BitVec 64} (h : canonical a = true) (h2 : a % 4 = 0) : goReg s t a = .jump t a := by
  unfold goReg; rw [h, h2]; rfl

structure Monoid' (f : Nat → Nat → Nat) (e : Nat) (D : Nat → Prop) : Prop where
  closed : ∀ a b, D a → D b → D (f a b)
  assoc : ∀ a b c, D a → D b → D c → f (f a b) c = f a (f b c)
  left : ∀ a, D a → f e a = a
  right : ∀ a, D a → f a e = a
  dom : D e

theorem next_fold {f : Combine} {g e D} (hm : Monoid' g e D) (hf : ∀ a b, D a → D b → f a b = (g a b, 0)) :
    ∀ (k : Nat) (l : List Nat), l.length ≤ k → (∀ x ∈ l, D x) →
      (nextLevel f l).2 = 0 ∧ (∀ x ∈ (nextLevel f l).1, D x) ∧ (nextLevel f l).1.foldr g e = l.foldr g e ∧ (nextLevel f l).1.length = (l.length + 1) / 2
      ∧ D (l.foldr g e) := by
  intro k
  induction k with
  | zero =>
    intro l hl hd
    have : l = [] := List.eq_nil_of_length_eq_zero (by omega)
    subst this
    exact ⟨rfl, hd, rfl, rfl, hm.dom⟩
  | succ k ih =>
    intro l hl hd
    match l, hl, hd with
    | [], _, hd => exact ⟨rfl, hd, rfl, rfl, hm.dom⟩
    | [a], _, hd => exact ⟨rfl, hd, rfl, by simp [nextLevel], by simpa [hm.right a (hd a (by simp))] using hd a (by simp)⟩
    | a :: b :: rest, hl, hd =>
      simp only [List.length_cons] at hl
      have ha := hd a (by simp)
      have hb := hd b (by simp)
      obtain ⟨i1, i2, i3, i4, i5⟩ := ih rest (by omega) (fun x hx => hd x (by simp [hx]))
      have e1 : nextLevel f (a :: b :: rest) = (g a b :: (nextLevel f rest).1, 0 ||| (nextLevel f rest).2) := by
        simp only [nextLevel]
        rw [hf a b ha hb]
      rw [e1]
      refine ⟨by rw [i1]; rfl, ?_, ?_, ?_, ?_⟩
      · intro x hx
        rcases List.mem_cons.1 hx with rfl | hx
        · exact hm.closed a b ha hb
        · exact i2 x hx
      · simp only [List.foldr_cons, i3]
        exact hm.assoc a b _ ha hb i5
      · simp only [List.length_cons, i4]; omega
      · simp only [List.foldr_cons]
        exact hm.closed _ _ ha (hm.closed _ _ hb i5)

theorem levels_fold {f : Combine} {g e D} (hm : Monoid' g e D) (hf : ∀ a b, D a → D b → f a b = (g a b, 0)) :
    ∀ (k : Nat) (l : List Nat), l.length = 2 ^ k → (∀ x ∈ l, D x) →
      ((treeLevels f l k).1.getD k []).getD 0 0 = l.foldr g e ∧ (treeLevels f l k).2 = 0 := by
  intro k
  induction k with
  | zero =>
    intro l hl hd
    obtain ⟨a, rfl⟩ := List.length_eq_one_iff.1 hl
    simp [treeLevels, hm.right a (hd a (by simp))]
  | succ k ih =>
    intro l hl hd
    obtain ⟨h1, h2, h3, h4, h5⟩ := next_fold hm hf l.length l (Nat.le_refl _) hd
    have := ih (nextLevel f l).1 (by rw [h4, hl]; rw [Nat.pow_succ]; omega) h2
    simp only [treeLevels]
    rw [h1]
    refine ⟨?_, by rw [this.2]; rfl⟩
    rw [← h3, ← this.1]
    rfl

theorem fold_filter {g e D} (hm : Monoid' g e D) (p : Nat → Bool) (v : Nat → Nat) (hv : ∀ x, D (v x)) (l : List Nat) :
    (l.map (fun L => if p L then v L else e)).foldr g e = ((l.filter p).map v).foldr g e ∧ D (((l.filter p).map v).foldr g e) := by
  induction l with
  | nil => exact ⟨rfl, hm.dom⟩
  | cons a l ih =>
    simp only [List.map_cons, List.foldr_cons, List.filter_cons]
    cases hp : p a
    · simp only [Bool.false_eq_true, if_false, ih.1]
      exact ⟨hm.left _ ih.2, ih.2⟩
    · simp only [if_true, List.map_cons, List.foldr_cons, ih.1, true_and]
      exact hm.closed _ _ (hv a) ih.2

set_option maxHeartbeats 800000 in
theorem comb_monoid (op t : Nat) (ht : t < 8) :
    let wd := typeWidth t
    let value (p : Nat) : Int := ival t (BitVec.ofNat 64 p)
    let comb (a b : Nat) : Nat := match op with
      | 0 => (a + b) % 2 ^ wd
      | 1 => if value b < value a then b else a
      | 2 => if value a < value b then b else a
      | 3 => a &&& b
      | 4 => a ||| b
      | _ => a ^^^ b
    op < 6 → Monoid' comb (identityOf op t) (fun x => x < 2 ^ wd) := by
  intro wd value comb hop
  let D : Nat → Prop := fun x => x < 2 ^ wd
  have hwd : wd = 32 ∨ wd = 64 ∨ wd = 16 ∨ wd = 8 := by
    have key : ∀ k, k < 8 → (typeWidth k = 32 ∨ typeWidth k = 64 ∨ typeWidth k = 16 ∨ typeWidth k = 8) := by decide
    exact key t ht
  have hwd' : wd ≤ 64 ∧ 0 < wd := by omega
  have hlt : ∀ x, x < 2 ^ wd → x < 2 ^ 64 := fun x hx => Nat.lt_of_lt_of_le hx (Nat.pow_le_pow_right (by decide) hwd'.1)
  have hiw : ivalWidth t = wd := by
    unfold ivalWidth typePacked
    have : (t == 14 || t == 15) = false := by simp; omega
    rw [this]; rfl
  have hlow : ∀ x, x < 2 ^ wd → lowBits (BitVec.ofNat 64 x) wd = x := by
    intro x hx
    unfold lowBits
    rw [BitVec.toNat_ofNat, Nat.mod_eq_of_lt (hlt x hx), Nat.mod_eq_of_lt hx]
  -- value is injective on patterns
  have hval : ∀ x, x < 2 ^ wd → value x = if (typeSigned t && bit x (wd - 1)) = true then (x : Int) - 2 ^ wd else x := by
    intro x hx
    show ival t _ = _
    unfold ival
    simp only [hiw, hlow x hx]
  have hbit : ∀ x, x < 2 ^ wd → bit x (wd - 1) = decide (2 ^ (wd - 1) ≤ x) := by
    intro x hx
    unfold bit
    have h2 : 2 ^ wd = 2 * 2 ^ (wd - 1) := by rw [← Nat.pow_succ', Nat.succ_eq_add_one, Nat.sub_add_cancel hwd'.2]
    have hpos : 0 < 2 ^ (wd - 1) := Nat.pow_pos (by decide)
    by_cases hle : 2 ^ (wd - 1) ≤ x
    · have : x / 2 ^ (wd - 1) = 1 := by
        apply Nat.div_eq_of_lt_le <;> omega
      rw [this]; simp [hle]
    · have : x / 2 ^ (wd - 1) = 0 := Nat.div_eq_of_lt (by omega)
      rw [this]; simp [hle]
  have hinj : ∀ a b, a < 2 ^ wd → b < 2 ^ wd → value a = value b → a = b := by
    intro a b ha hb he
    rw [hval a ha, hval b hb] at he
    have h0 : ((2 ^ wd : Nat) : Int) = (2 : Int) ^ wd := by push_cast; rfl
    split at he <;> split at he <;> omega
  have hid : ∀ o, identityOf o t = if o = 1 then fit t false (greatestOf t) else if o = 2 then fit t false (leastOf t) else if o = 3 then 2 ^ wd - 1 else 0 := by
    intro o
    unfold identityOf
    have : ¬ (8 ≤ t) := by omega
    simp only [if_neg this]
    match o with
    | 0 => rfl
    | 1 => rfl
    | 2 => rfl
    | 3 => rfl
    | k + 4 => exact (show (0:Nat) = _ by rw [if_neg (by omega), if_neg (by omega), if_neg (by omega)])
  have hpow : 2 ^ wd = 2 * 2 ^ (wd - 1) := by rw [← Nat.pow_succ', Nat.succ_eq_add_one, Nat.sub_add_cancel hwd'.2]
  have hpp : 0 < 2 ^ (wd - 1) := Nat.pow_pos (by decide)
  have hI : (2 : Int) ^ wd = ((2 ^ wd : Nat) : Int) := by push_cast; rfl
  have hI1 : (2 : Int) ^ (wd - 1) = ((2 ^ (wd - 1) : Nat) : Int) := by push_cast; rfl
  have hgre : fit t false (greatestOf t) < 2 ^ wd ∧ ∀ x, x < 2 ^ wd → value x ≤ value (fit t false (greatestOf t)) := by
    have hg : fit t false (greatestOf t) = if typeSigned t then 2 ^ (wd - 1) - 1 else 2 ^ wd - 1 := by
      unfold fit greatestOf
      simp only [hiw, Bool.false_eq_true, if_false]
      cases typeSigned t
      · simp only [Bool.false_eq_true, if_false, hI]
        rw [Int.emod_eq_of_lt (by omega) (by omega)]; omega
      · simp only [if_true, hI1, hI]
        rw [Int.emod_eq_of_lt (by omega) (by omega)]; omega
    rw [hg]
    cases hs : typeSigned t
    · simp only [Bool.false_eq_true, if_false]
      refine ⟨by omega, fun x hx => ?_⟩
      rw [hval x hx, hval _ (by omega), hs]
      simp only [Bool.false_and, Bool.false_eq_true, if_false]
      omega
    · simp only [if_true]
      refine ⟨by omega, fun x hx => ?_⟩
      rw [hval x hx, hval _ (by omega), hs, hbit x hx, hbit _ (by omega)]
      have : ¬ (2 ^ (wd - 1) ≤ 2 ^ (wd - 1) - 1) := by omega
      simp only [Bool.true_and, decide_eq_true_eq, if_neg this]
      split <;> omega
  have hlea : fit t false (leastOf t) < 2 ^ wd ∧ ∀ x, x < 2 ^ wd → value (fit t false (leastOf t)) ≤ value x := by
    have hg : fit t false (leastOf t) = if typeSigned t then 2 ^ (wd - 1) else 0 := by
      unfold fit leastOf
      simp only [hiw, Bool.false_eq_true, if_false]
      cases typeSigned t
      · simp
      · simp only [if_true, hI1, hI]
        have : -((2 ^ (wd - 1) : Nat) : Int) % ((2 ^ wd : Nat) : Int) = ((2 ^ (wd - 1) : Nat) : Int) := by
          rw [← Int.add_emod_right, Int.emod_eq_of_lt (by omega) (by omega)]; omega
        rw [this]; omega
    rw [hg]
    cases hs : typeSigned t
    · simp only [Bool.false_eq_true, if_false]
      refine ⟨by omega, fun x hx => ?_⟩
      rw [hval x hx, hval _ (by omega), hs]
      simp only [Bool.false_and, Bool.false_eq_true, if_false]
      omega
    · simp only [if_true]
      refine ⟨by omega, fun x hx => ?_⟩
      rw [hval x hx, hval _ (by omega), hs, hbit x hx, hbit _ (by omega)]
      simp only [Bool.true_and, decide_eq_true_eq, Nat.le_refl, if_true]
      split <;> omega
  have hm : Monoid' comb (identityOf op t) D := by
    have hcases : op = 0 ∨ op = 1 ∨ op = 2 ∨ op = 3 ∨ op = 4 ∨ op = 5 := by omega
    rcases hcases with h | h | h | h | h | h <;> subst h <;> rw [hid] <;> simp only [Nat.reduceEqDiff, if_true, if_false]
    · exact ⟨fun a b _ _ => Nat.mod_lt _ (Nat.pow_pos (by decide)), fun a b c _ _ _ => by
          show ((a + b) % 2 ^ wd + c) % 2 ^ wd = (a + (b + c) % 2 ^ wd) % 2 ^ wd
          rw [Nat.mod_add_mod, Nat.add_mod_mod, Nat.add_assoc], fun a ha => by
          show (0 + a) % 2 ^ wd = a
          rw [Nat.zero_add, Nat.mod_eq_of_lt ha], fun a ha => by
          show (a + 0) % 2 ^ wd = a
          rw [Nat.add_zero, Nat.mod_eq_of_lt ha], Nat.pow_pos (by decide)⟩
    · refine ⟨?_, ?_, ?_, ?_, hgre.1⟩
      · intro a b ha hb
        show (if value b < value a then b else a) < _
        split <;> assumption
      · intro a b c ha hb hc
        show (if value c < value (if value b < value a then b else a) then c else (if value b < value a then b else a)) = (if value (if value c < value b then c else b) < value a then (if value c < value b then c else b) else a)
        by_cases h1 : value b < value a <;> by_cases h2 : value c < value b <;> simp only [h1, h2, if_true, if_false]
        · rw [if_pos (by omega)]
        · have : ¬ (value c < value a) := by omega
          rw [if_neg this]
      · intro a ha
        show (if value a < value (fit t false (greatestOf t)) then a else fit t false (greatestOf t)) = a
        split
        · rfl
        · rename_i hn
          exact hinj _ _ hgre.1 ha (by have := hgre.2 a ha; omega)
      · intro a ha
        show (if value (fit t false (greatestOf t)) < value a then fit t false (greatestOf t) else a) = a
        rw [if_neg (by have := hgre.2 a ha; omega)]
    · refine ⟨?_, ?_, ?_, ?_, hlea.1⟩
      · intro a b ha hb
        show (if value a < value b then b else a) < _
        split <;> assumption
      · intro a b c ha hb hc
        show (if value (if value a < value b then b else a) < value c then c else (if value a < value b then b else a)) = (if value a < value (if value b < value c then c else b) then (if value b < value c then c else b) else a)
        by_cases h1 : value a < value b <;> by_cases h2 : value b < value c <;> simp only [h1, h2, if_true, if_false]
        · rw [if_pos (by omega)]
        · have : ¬ (value a < value c) := by omega
          rw [if_neg this]
      · intro a ha
        show (if value (fit t false (leastOf t)) < value a then a else fit t false (leastOf t)) = a
        split
        · rfl
        · rename_i hn
          exact hinj _ _ hlea.1 ha (by have := hlea.2 a ha; omega)
      · intro a ha
        show (if value a < value (fit t false (leastOf t)) then fit t false (leastOf t) else a) = a
        rw [if_neg (by have := hlea.2 a ha; omega)]
    · refine ⟨fun a b ha hb => Nat.and_lt_two_pow a hb, fun a b c _ _ _ => Nat.and_assoc a b c, ?_, ?_, ?_⟩
      · intro a ha
        show (2 ^ wd - 1) &&& a = a
        rw [Nat.and_comm, Nat.and_two_pow_sub_one_eq_mod, Nat.mod_eq_of_lt ha]
      · intro a ha
        show a &&& (2 ^ wd - 1) = a
        rw [Nat.and_two_pow_sub_one_eq_mod, Nat.mod_eq_of_lt ha]
      · show 2 ^ wd - 1 < 2 ^ wd
        omega
    · exact ⟨fun a b ha hb => Nat.or_lt_two_pow ha hb, fun a b c _ _ _ => Nat.or_assoc a b c, fun a _ => Nat.zero_or a, fun a _ => Nat.or_zero a, Nat.pow_pos (by decide)⟩
    · exact ⟨fun a b ha hb => Nat.xor_lt_two_pow ha hb, fun a b c _ _ _ => Nat.xor_assoc a b c, fun a _ => Nat.zero_xor a, fun a _ => Nat.xor_zero a, Nat.pow_pos (by decide)⟩
  exact hm

theorem comb_eq (op t rn : Nat) (fz : Bool) (ht : t < 8) :
    let wd := typeWidth t
    let value (p : Nat) : Int := ival t (BitVec.ofNat 64 p)
    let comb (a b : Nat) : Nat := match op with
      | 0 => (a + b) % 2 ^ wd
      | 1 => if value b < value a then b else a
      | 2 => if value a < value b then b else a
      | 3 => a &&& b
      | 4 => a ||| b
      | _ => a ^^^ b
    op < 6 → ∀ a b, a < 2 ^ wd → b < 2 ^ wd → combineOf op t rn fz a b = (comb a b, 0) := by
  intro wd value comb hop
  have hwd : wd = 32 ∨ wd = 64 ∨ wd = 16 ∨ wd = 8 := by
    have key : ∀ k, k < 8 → (typeWidth k = 32 ∨ typeWidth k = 64 ∨ typeWidth k = 16 ∨ typeWidth k = 8) := by decide
    exact key t ht
  have hlt : ∀ x, x < 2 ^ wd → x < 2 ^ 64 := fun x hx => Nat.lt_of_lt_of_le hx (Nat.pow_le_pow_right (by decide) (by omega))
  intro a b ha hb
  unfold combineOf
  have h8 : ¬ (8 ≤ t) := by omega
  simp only [if_neg h8]
  have ha' := hlt a ha
  have hb' := hlt b hb
  have hcases : op = 0 ∨ op = 1 ∨ op = 2 ∨ op = 3 ∨ op = 4 ∨ op = 5 := by omega
  rcases hcases with h | h | h | h | h | h <;> subst h
  · rfl
  · rfl
  · rfl
  · show ((BitVec.ofNat 64 a &&& BitVec.ofNat 64 b).toNat, 0) = (a &&& b, 0)
    rw [BitVec.toNat_and, BitVec.toNat_ofNat, BitVec.toNat_ofNat, Nat.mod_eq_of_lt ha', Nat.mod_eq_of_lt hb']
  · show ((BitVec.ofNat 64 a ||| BitVec.ofNat 64 b).toNat, 0) = (a ||| b, 0)
    rw [BitVec.toNat_or, BitVec.toNat_ofNat, BitVec.toNat_ofNat, Nat.mod_eq_of_lt ha', Nat.mod_eq_of_lt hb']
  · show ((BitVec.ofNat 64 a ^^^ BitVec.ofNat 64 b).toNat, 0) = (a ^^^ b, 0)
    rw [BitVec.toNat_xor, BitVec.toNat_ofNat, BitVec.toNat_ofNat, Nat.mod_eq_of_lt ha', Nat.mod_eq_of_lt hb']

theorem tree_fold {f : Combine} {g e D} (hm : Monoid' g e D) (hf : ∀ a b, D a → D b → f a b = (g a b, 0)) (p : Nat → Bool)
    (v : Nat → Nat) (hv : ∀ x, D (v x)) :
    ((treeLevels f ((List.range 64).map (fun L => if p L then v L else e)) 6).1.getD 6 []).getD 0 0
      = (((List.range 64).filter p).map v).foldr g e ∧
    (treeLevels f ((List.range 64).map (fun L => if p L then v L else e)) 6).2 = 0 := by
  have hl : ∀ x ∈ (List.range 64).map (fun L => if p L then v L else e), D x := by
    intro x hx
    obtain ⟨L, _, rfl⟩ := List.mem_map.1 hx
    split
    · exact hv L
    · exact hm.dom
  have h := levels_fold hm hf 6 _ ((List.length_map _).trans (List.length_range.trans (by decide : 64 = 2 ^ 6))) hl
  exact ⟨h.1.trans (fold_filter hm p v hv _).1, h.2⟩

theorem treeOf_snd (s : State) (w : Wave) (n : Norm) (op : Nat) : (treeOf s w n op).2 = treeLevels (combineOf op n.x.type.toNat n.x.rnd.toNat (ctlFtz (s.recordOf w.launch)))
      ((List.range 64).map (fun L => if (laneSet w n.x).getLsbD L then lowBits (s.vget w n.x.sb.toNat L (typeRegs n.x.type.toNat)) (typeWidth n.x.type.toNat) else identityOf op n.x.type.toNat)) 6 := by
  unfold treeOf
  dsimp only

end Sys2Proof.Machine
end

