-- ==== Sys2Proof/Laws/Parts.lean ====
section
/-! SUPPORT. Parts that accesses, cells, barriers, rays and counters share: one lemma each. -/

namespace Sys2Proof.Machine

theorem frame_curWave {s t : State} (h : Retranslated s t) : t.curWave = s.curWave := by rw [h.1]; rfl

theorem access_of {i : Instr} {s : State} {w : Wave} {r : Row} {n : Norm} {f : AccForm} {scratch : Bool} {reqs : List Req} {scope : Nat}
    {dest : Dest} {lanes : BitVec 64} {records : Bool} {seq : BitVec 32} (h : Issues i s r n) (hw : s.curWave = some w)
    (he : ∀ l sf t, s.check w f n.x scratch reqs = .ok l sf t →
      work i r n s = issueElems t w (elemsOf scratch scope l) dest lanes (if records then sfRecords w seq sf else []) seq) :
    AccessIssues i s w n f scratch reqs scope dest lanes records seq := by
  intro l sf t hc es faults hr
  have hw' : t.curWave = some w := (frame_curWave (check_ok hc)).trans hw
  obtain ⟨u, hu, hf⟩ := issueOn_inFlight hw' hr (s.nextPc n.words)
  refine ⟨_, exec_admitted h.toAdmitted, ?_⟩
  rw [he l sf t hc]
  show InFlight _ t (s.finish n.words (issueOn _ t w es dest lanes faults seq)) w es dest lanes faults seq _
  rw [hu, finish_done _ _ _ h.next]
  exact hf

def ordDone (cells : List (Nat × Nat × Nat × BitVec 64 × BitVec 64)) (x : State) : State :=
  match cells with
  | q :: _ => x.sampleNow 3 q.2.1 (paSpace q.2.2.1)
  | [] => x

theorem finish_wait (s t : State) (words : Nat) (x : Wait) : s.finish words (.wait t x) = t.setWait x := rfl

theorem test_slot (alive all : BitVec 64) (ph : BitVec 32) :
    BarSlot.test alive { phase := ph, arrived := all } = if alive ≠ 0 ∧ alive &&& ~~~all = 0 then { phase := ph + 1, arrived := 0 }
      else { phase := ph, arrived := all } := by
  unfold BarSlot.test
  have e : (all &&& alive = alive) ↔ alive &&& ~~~all = 0 := by
    constructor
    · intro h
      rw [← h]
      apply BitVec.eq_of_getLsbD_eq
      intro i hi
      simp
      intro a b c; simp_all
    · intro h
      apply BitVec.eq_of_getLsbD_eq
      intro i hi
      have := congrArg (fun x => x.getLsbD i) h
      simp [hi] at this ⊢
      exact this
  by_cases h : alive ≠ 0 ∧ alive &&& ~~~all = 0
  · rw [if_pos h, if_pos (by rw [Bool.and_eq_true, bne_iff_ne, beq_iff_eq, e]; exact h)]
  · rw [if_neg h, if_neg (by
      rw [Bool.and_eq_true, bne_iff_ne, beq_iff_eq, e]; exact h)]

theorem bar_setBar (b : Block) (i j : Nat) (t : BarSlot) : (b.setBar i t).bar j = if j = i then t else b.bar j :=
  sget_sput (fun _ => BarSlot.zero) b.slots i t j

theorem leave_fold (alive : BitVec 64) (wid : Nat) (n : Nat) : ∀ (b : Block) (i : Nat),
    let f := (fun (b : Block) i => let t := b.bar i; b.setBar i (BarSlot.test alive { t with arrived := t.arrived &&& ~~~(1#64 <<< wid) }))
    (((List.range n).foldl f b).bar i = if i < n then BarSlot.test alive { b.bar i with arrived := (b.bar i).arrived &&& ~~~(1#64 <<< wid) } else b.bar i)
    ∧ ((List.range n).foldl f b).alive = b.alive := by
  induction n with
  | zero => intro b i; exact ⟨by simp, rfl⟩
  | succ n ih =>
    intro b i
    dsimp only
    rw [List.range_succ, List.foldl_append]
    simp only [List.foldl_cons, List.foldl_nil]
    refine ⟨?_, (ih b i).2⟩
    rw [bar_setBar]
    by_cases e : i = n
    · subst e
      rw [if_pos rfl, if_pos (by omega), (ih b i).1, if_neg (by omega)]
    · rw [if_neg e, (ih b i).1]
      by_cases h : i < n
      · rw [if_pos h, if_pos (by omega)]
      · rw [if_neg h, if_neg (by omega)]

theorem readNat_part (m : Memory) (a n v k j : Nat) (h : k + j ≤ n) : (m.writeNat a n v).readNat (a + k) j = v / 256 ^ k % 256 ^ j := by
  apply readNat_of_bytes
  intro b h1 h2
  rw [read_writeNat n m, if_pos (by omega), Nat.div_div_eq_div_mul, ← Nat.pow_add]
  congr 3
  omega

theorem readNat_lt (n : Nat) (m : Memory) (a : Nat) : m.readNat a n < 256 ^ n := by
  induction n generalizing a with
  | zero => simp [Memory.readNat]
  | succ n ih =>
    have := ih (a + 1)
    have := (m.read a).isLt
    rw [Memory.readNat, Nat.pow_succ]
    omega

theorem complete_cs (s : State) (pc : BitVec 64) (c : Memory) : ({ s with cs := c } : State).complete pc (fun v => v) (fun p => p) =
    { s.complete pc (fun v => v) (fun p => p) with cs := c } := by
  have h := modAgent_cs s c s.csMark (fun w => w.completed pc) (fun p => p.completed pc)
  have e : (s.modAgent (fun w => w.completed pc) (fun p => p.completed pc)).csMark = s.csMark := by rw [modAgent_rest]
  rw [complete_eq, complete_eq]
  refine h.trans ?_
  rw [← e]

theorem release120_done {s t : State} {sc reason : Nat} {k : State → Res} (hr : s.releaseReady sc = true) (hst : s.releaseStep sc = (none, t)) :
    release120 s reason sc k = k t := by
  unfold release120
  simp only [hr, hst, Bool.not_true, Bool.false_eq_true, if_false]

theorem foldl_filter {α β : Type} (p : α → Bool) (f : β → α → β) (l : List α) : ∀ b, (l.filter p).foldl f b = l.foldl (fun b a => if p a then f b a else b) b := by
  induction l with
  | nil => exact fun _ => rfl
  | cons x l ih =>
    intro b
    rw [List.filter_cons, List.foldl_cons]
    cases p x
    · simpa using ih b
    · simpa using ih (f b x)

theorem spawn_row {s : State} {w : Wave} {n : Norm} {r : Row} {l : Launch} {rec : BitVec 512} {t : State}
    (hw : s.curWave = some w) (hl : s.launch? w.launch = some l) (hk : l.kind = 2)
    (hrr : s.recordRead (w.breg n.x.d.toNat) (w.breg n.x.d.toNat).base ((s.srd n.x.sa.toNat).toNat % 2 ^ 32 + n.x.disp.toNat) = .ok rec t) :
    spawnOp r n s = (let va := (w.breg n.x.d.toNat).base + BitVec.ofNat 64 ((s.srd n.x.sa.toNat).toNat % 2 ^ 32 + n.x.disp.toNat)
          if va.toNat % 64 != 0 || taskBad rec then .trap t causeTaskRecord va 0
          else if l.ringFull then .trap t causeRingFull 0 0
          else release120 t 6 (taskScope rec) (fun s => .done ((s.ringWrite w.launch rec).queueTask w.launch rec (taskScope rec)))) := by
  unfold spawnOp
  simp only [hw, hl, hk]
  rw [if_neg (by simp), hrr]

theorem done_marks (X : State) (ms : List Nat) (f : Wave → Wave) (hf : Places f) (pc : BitVec 64) :
    (({ X with csMark := ms } : State).modCurWave f).complete pc (fun w => w) (fun p => p) = { X.complete pc f (fun p => p) with csMark := ms } := by
  rw [modCurWave_eq]
  exact (complete_modAgent _ pc f (fun w => w) (fun p => p) (fun p => p) hf places_id stays_id stays_id).trans (complete_csMark X pc f (fun p => p) ms)

theorem launch?_setLaunch {s : State} {num : Nat} {l v : Launch} (h : s.launch? num = some l) (hv : v.num = num) :
    (s.setLaunch v).launch? num = some v := by
  unfold State.launch? State.setLaunch
  subst hv
  exact find_replaceFirst _ v l s.launches h (by simp)

theorem launch?_modLaunch (s : State) (num : Nat) (f : Launch → Launch) (hf : ∀ l, (f l).num = l.num) :
    (s.modLaunch num f).launch? num = (s.launch? num).map f := by
  unfold State.modLaunch
  cases h : s.launch? num with
  | none => simp [h]
  | some l =>
    have hn : l.num = num := by
      have := List.find?_some h
      simpa using this
    simp only [Option.map_some]
    exact launch?_setLaunch h ((hf l).trans hn)

theorem gone_of (t : State) (num slot : Nat) :
    ((t.modRayLaunch num (fun l => { l with rays := l.rays.filter (fun r => r.slot != slot) })).sweepStalls).ray? num slot = none := by
  have h := launch?_modLaunch t num (fun l => { l with ray := l.ray.map (fun l => { l with rays := l.rays.filter (fun r => r.slot != slot) }) }) (fun _ => rfl)
  unfold State.ray?
  have hs : ∀ u : State, u.sweepStalls.launch? num = u.launch? num := fun _ => rfl
  rw [hs]
  unfold State.modRayLaunch
  rw [h]
  cases t.launch? num with
  | none => rfl
  | some l =>
    simp only [Option.map_some]
    cases l.ray with
    | none => rfl
    | some rl =>
      simp only [Option.map_some, Option.bind_some]
      unfold RayLaunch.ray?
      rw [List.find?_eq_none]
      intro x hx
      have := (List.mem_filter.1 hx).2
      simpa using this

theorem retired_gone (s : State) (num slot : Nat) : (s.retireRay num slot).ray? num slot = none := gone_of _ num slot

theorem keyPart_no {s : State} {w : Wave} (hw : s.curWave = some w) (h1 : w.kind ≠ .generation) (h2 : w.kind ≠ .episode) (r : Row) (n : Norm)
    (g : BitVec 512 → V3 → Option Nat) : keyPartOp g r n s = .trap s causeRayContext 0 0 := by
  have e : w.ofRayLaunch = false := by unfold Wave.ofRayLaunch; simp [h1, h2]
  unfold keyPartOp
  simp only [hw, e]

def keyOf (g : BitVec 512 → V3 → Option Nat) (rl : RayLaunch) (comp : Nat → Nat → Nat) (L : Nat) : Nat :=
  match v3Of (comp 0 L) (comp 1 L) (comp 2 L) with
  | none => 2 ^ 32 - 1
  | some v => (g rl.header v).getD (2 ^ 32 - 1)

theorem keyPart_yes {s : State} {w : Wave} (hw : s.curWave = some w) (hk : w.kind = .generation ∨ w.kind = .episode) {rl : RayLaunch}
    (hrl : s.rayPart w = some rl) (r : Row) (n : Norm) (g : BitVec 512 → V3 → Option Nat) :
    keyPartOp g r n s = .done (s.vputAll w n.x.d.toNat 1 ((lanesOf (laneSet w n.x)).map (fun L =>
      (L, BitVec.ofNat 64 (keyOf g rl (fun k L => (s.vrd w (n.x.sa.toNat + k) L).toNat) L))))) := by
  have e : w.ofRayLaunch = true := by unfold Wave.ofRayLaunch; rcases hk with hk | hk <;> simp [hk]
  unfold keyPartOp
  simp only [hw, e, hrl]
  congr 2
  apply List.map_congr_left
  intro L _
  unfold keyOf
  congr 2
  cases v3Of (s.vrd w (n.x.sa.toNat + 0) L).toNat (s.vrd w (n.x.sa.toNat + 1) L).toNat (s.vrd w (n.x.sa.toNat + 2) L).toNat <;> rfl

theorem modAgent_ctl (s : State) (c : List (Nat × BitVec 64)) (fw : Wave → Wave) (fp : Spindle → Spindle) :
    ({ s with ctl := c } : State).modAgent fw fp = { s.modAgent fw fp with ctl := c } := by
  have key : ∀ a, s.cur = a → ({ s with ctl := c } : State).modAgent fw fp = { s.modAgent fw fp with ctl := c } := by
    intro a h
    cases a with
    | none => rw [modAgent_none h, modAgent_none (s := { s with ctl := c }) h]
    | wave i k =>
      rw [modAgent_wave h, modAgent_wave (s := { s with ctl := c }) h]
      have hw : ({ s with ctl := c } : State).wave? i k = s.wave? i k := rfl
      unfold State.modWave
      rw [hw]
      cases s.wave? i k <;> rfl
    | spindle cl =>
      rw [modAgent_spindle h, modAgent_spindle (s := { s with ctl := c }) h]
      have hw : ({ s with ctl := c } : State).spindle? cl = s.spindle? cl := rfl
      unfold State.modSpindle
      rw [hw]
      cases s.spindle? cl <;> rfl
  exact key _ rfl

theorem bump_complete (s : State) (c i m : Nat) (pc : BitVec 64) :
    (s.bumpCtx c i m).complete pc (fun w => w) (fun p => p) = (s.complete pc (fun w => w) (fun p => p)).bumpCtx c i m := by
  have e : (s.complete pc (fun w => w) (fun p => p)).ctl = s.ctl := by rw [complete_eq, modAgent_rest]
  have h := modAgent_ctl s (sput ctlDefault s.ctl (CtlReg.fnCnt (s.fnOf c) i).off (s.ctlRd (.fnCnt (s.fnOf c) i) + BitVec.ofNat 64 m)) (fun w => w.completed pc) (fun p => p.completed pc)
  have hr : ∀ (t : State) (r : CtlReg), t.ctl = s.ctl → t.ctlRd r = s.ctlRd r := by
    intro t r ht; unfold State.ctlRd; rw [ht]
  have hb : (s.complete pc (fun w => w) (fun p => p)).bumpCtx c i m = { s.complete pc (fun w => w) (fun p => p) with
      ctl := sput ctlDefault s.ctl (CtlReg.fnCnt (s.fnOf c) i).off (s.ctlRd (.fnCnt (s.fnOf c) i) + BitVec.ofNat 64 m) } := by
    unfold State.bumpCtx State.bump State.ctlWr State.fnOf State.ctlField
    simp only [hr _ _ e, e]
  rw [hb]
  exact h

theorem vwr_modAgent (s : State) (w : Wave) (d L : Nat) (v : BitVec 32) (fw : Wave → Wave) (fp : Spindle → Spindle) :
    (s.modAgent fw fp).vwr w d L v = (s.vwr w d L v).modAgent fw fp := by
  have e1 : (s.modAgent fw fp).cs = s.cs := by rw [modAgent_rest]
  have e2 : (s.modAgent fw fp).csMark = s.csMark := by rw [modAgent_rest]
  have h := modAgent_cs s (s.vwr w d L v).cs (s.vwr w d L v).csMark fw fp
  refine Eq.trans ?_ h.symm
  unfold State.vwr
  rw [e1, e2]

theorem vput_modAgent (s : State) (w : Wave) (d L regs : Nat) (v : BitVec 64) (fw : Wave → Wave) (fp : Spindle → Spindle) :
    (s.modAgent fw fp).vput w d L regs v = (s.vput w d L regs v).modAgent fw fp := by
  unfold State.vput
  split
  · unfold State.vwr64
    rw [vwr_modAgent, vwr_modAgent]
  · rw [vwr_modAgent]

theorem vputAll_modAgent (w : Wave) (d regs : Nat) (fw : Wave → Wave) (fp : Spindle → Spindle) (l : List (Nat × BitVec 64)) : ∀ s : State,
    (s.modAgent fw fp).vputAll w d regs l = (s.vputAll w d regs l).modAgent fw fp := by
  induction l with
  | nil => exact fun _ => rfl
  | cons p l ih => intro s; rw [vputAll_cons, vputAll_cons, vput_modAgent, ih]

theorem zeros_modAgent (w : Wave) (d : Nat) (l : List (Nat × BitVec 64)) (fw : Wave → Wave) (fp : Spindle → Spindle) (ks : List Nat) : ∀ s : State,
    ks.foldl (fun u k => u.vputAll w (d + k) 1 l) (s.modAgent fw fp) = (ks.foldl (fun u k => u.vputAll w (d + k) 1 l) s).modAgent fw fp := by
  induction ks with
  | nil => exact fun _ => rfl
  | cons k ks ih => intro s; rw [List.foldl_cons, List.foldl_cons, vputAll_modAgent, ih]

theorem sceneLoad_of {s t : State} {w : Wave} {n : Norm} {regs : Nat} {addr : Nat → Option Nat} (hw : s.curWave = some w)
    {l : List (Req × List Part)} {sf : List (Nat × BitVec 64 × BitVec 64)}
    (hc : s.checkReqs .load BReg.none 0 ((lanesOf (laneSet w n.x)).filterMap (fun L => (addr L).map (fun a =>
        ({ lane := some L, off := a % 2 ^ 64, bytes := 4 * regs, mask := allBytes (4 * regs), data := 0, op := .load } : Req)))) = .ok l sf t)
    (hr : Room w (fun e => e.path w.core) (elemsOf false 0 l) false) (hn : canonical (s.nextPc n.words) = true) :
    ∃ u, InFlight (fun e => e.path w.core) t u w (elemsOf false 0 l) (.vec n.x.d.toNat (4 * regs) false)
        (reqLanes ((lanesOf (laneSet w n.x)).filterMap (fun L => (addr L).map (fun a =>
        ({ lane := some L, off := a % 2 ^ 64, bytes := 4 * regs, mask := allBytes (4 * regs), data := 0, op := .load } : Req))))) [] w.stseq (s.nextPc n.words) ∧
      s.finish n.words (sceneLoad s w n regs addr) = (List.range regs).foldl (fun u k => u.vputAll w (n.x.d.toNat + k) 1
        (((lanesOf (laneSet w n.x)).filter (fun L => (addr L).isNone)).map (fun L => (L, 0#64)))) u := by
  have hw' : t.curWave = some w := (frame_curWave (checkReqs_ok hc)).trans hw
  obtain ⟨u, hu, hf⟩ := issueOn_inFlight (faults := []) (dest := .vec n.x.d.toNat (4 * regs) false)
    (lanes := reqLanes ((lanesOf (laneSet w n.x)).filterMap (fun L => (addr L).map (fun a =>
        ({ lane := some L, off := a % 2 ^ 64, bytes := 4 * regs, mask := allBytes (4 * regs), data := 0, op := .load } : Req))))) (seq := w.stseq) hw' hr (s.nextPc n.words)
  refine ⟨_, hf, ?_⟩
  unfold sceneLoad
  dsimp only
  rw [hc]
  simp only
  unfold issueElems
  rw [hu]
  simp only
  rw [finish_done _ _ _ hn, complete_eq, complete_eq]
  exact (zeros_modAgent w n.x.d.toNat _ _ _ (List.range regs) u).symm

end Sys2Proof.Machine
end

