-- ==== Sys2Proof/Laws/PerInstr.lean ====
section
/-! SUPPORT. Families of statements about every instruction as syntax, one lemma for each constructor. -/

namespace Sys2Proof.Laws

/-- The major and fields that an instruction's words carry name that instruction: no two rows share them (R146). -/
def Fields.Statement (i : Instr) : Prop := ∀ e, i.toEnc = some e → e.toInstr = some i

namespace Fields

theorem iadd (f : B3) : Statement (.iadd f) := fun e h => by cases h <;> rfl
theorem iaddX (f : XA) : Statement (.iaddX f) := fun e h => by cases f <;> cases h <;> rfl
theorem iaddc (f : XF) : Statement (.iaddc f) := fun e h => by cases h <;> rfl
theorem isub (f : XF) : Statement (.isub f) := fun e h => by cases h <;> rfl
theorem isubb (f : XF) : Statement (.isubb f) := fun e h => by cases h <;> rfl
theorem imul (f : B3) : Statement (.imul f) := fun e h => by cases h <;> rfl
theorem imulX (f : XA) : Statement (.imulX f) := fun e h => by cases f <;> cases h <;> rfl
theorem imulhi (f : XF) : Statement (.imulhi f) := fun e h => by cases h <;> rfl
theorem imulw (f : XF) : Statement (.imulw f) := fun e h => by cases h <;> rfl
theorem imad (f : B3) : Statement (.imad f) := fun e h => by cases h <;> rfl
theorem imadX (f : XA) : Statement (.imadX f) := fun e h => by cases f <;> cases h <;> rfl
theorem imadhi (f : XF) : Statement (.imadhi f) := fun e h => by cases h <;> rfl
theorem imadw (f : XF) : Statement (.imadw f) := fun e h => by cases h <;> rfl
theorem imin (f : B3) : Statement (.imin f) := fun e h => by cases h <;> rfl
theorem iminX (f : XA) : Statement (.iminX f) := fun e h => by cases f <;> cases h <;> rfl
theorem imax (f : XF) : Statement (.imax f) := fun e h => by cases h <;> rfl
theorem iabs (f : B3) : Statement (.iabs f) := fun e h => by cases h <;> rfl
theorem iabsX (f : XA) : Statement (.iabsX f) := fun e h => by cases f <;> cases h <;> rfl
theorem ineg (f : XF) : Statement (.ineg f) := fun e h => by cases h <;> rfl
theorem and (f : B3) : Statement (.and f) := fun e h => by cases h <;> rfl
theorem andX (f : XA) : Statement (.andX f) := fun e h => by cases f <;> cases h <;> rfl
theorem andn (f : XF) : Statement (.andn f) := fun e h => by cases h <;> rfl
theorem or (f : B3) : Statement (.or f) := fun e h => by cases h <;> rfl
theorem orX (f : XA) : Statement (.orX f) := fun e h => by cases f <;> cases h <;> rfl
theorem orn (f : XF) : Statement (.orn f) := fun e h => by cases h <;> rfl
theorem xor (f : B3) : Statement (.xor f) := fun e h => by cases h <;> rfl
theorem xorX (f : XA) : Statement (.xorX f) := fun e h => by cases f <;> cases h <;> rfl
theorem xnor (f : XF) : Statement (.xnor f) := fun e h => by cases h <;> rfl
theorem not (f : XF) : Statement (.not f) := fun e h => by cases h <;> rfl
theorem shl (f : B3) : Statement (.shl f) := fun e h => by cases h <;> rfl
theorem shlX (f : XA) : Statement (.shlX f) := fun e h => by cases f <;> cases h <;> rfl
theorem rotl (f : XF) : Statement (.rotl f) := fun e h => by cases h <;> rfl
theorem shr (f : B3) : Statement (.shr f) := fun e h => by cases h <;> rfl
theorem shrX (f : XA) : Statement (.shrX f) := fun e h => by cases f <;> cases h <;> rfl
theorem rotr (f : XF) : Statement (.rotr f) := fun e h => by cases h <;> rfl
theorem fshl (f : B3) : Statement (.fshl f) := fun e h => by cases h <;> rfl
theorem fshlX (f : XA) : Statement (.fshlX f) := fun e h => by cases f <;> cases h <;> rfl
theorem fshr (f : XF) : Statement (.fshr f) := fun e h => by cases h <;> rfl
theorem bfx (f : B3) : Statement (.bfx f) := fun e h => by cases h <;> rfl
theorem bfxX (f : XA) : Statement (.bfxX f) := fun e h => by cases f <;> cases h <;> rfl
theorem bfi (f : XF) : Statement (.bfi f) := fun e h => by cases h <;> rfl
theorem bfrev (f : XF) : Statement (.bfrev f) := fun e h => by cases h <;> rfl
theorem popc (f : B3) : Statement (.popc f) := fun e h => by cases h <;> rfl
theorem popcX (f : XA) : Statement (.popcX f) := fun e h => by cases f <;> cases h <;> rfl
theorem clz (f : XF) : Statement (.clz f) := fun e h => by cases h <;> rfl
theorem ctz (f : XF) : Statement (.ctz f) := fun e h => by cases h <;> rfl
theorem cls (f : XF) : Statement (.cls f) := fun e h => by cases h <;> rfl
theorem icmp (f : B3) : Statement (.icmp f) := fun e h => by cases h <;> rfl
theorem icmpX (f : XSA) : Statement (.icmpX f) := fun e h => by cases f <;> cases h <;> rfl
theorem sel (f : XF) : Statement (.sel f) := fun e h => by cases h <;> rfl
theorem mov (f : B3) : Statement (.mov f) := fun e h => by cases h <;> rfl
theorem movX (f : XA) : Statement (.movX f) := fun e h => by cases f <;> cases h <;> rfl
theorem icvt (f : B3) : Statement (.icvt f) := fun e h => by cases h <;> rfl
theorem icvtX (f : XA) : Statement (.icvtX f) := fun e h => by cases f <;> cases h <;> rfl
theorem prmt (f : B3) : Statement (.prmt f) := fun e h => by cases h <;> rfl
theorem prmtX (f : XA) : Statement (.prmtX f) := fun e h => by cases f <;> cases h <;> rfl
theorem sadd (f : B3) : Statement (.sadd f) := fun e h => by cases h <;> rfl
theorem saddX (f : XA) : Statement (.saddX f) := fun e h => by cases f <;> cases h <;> rfl
theorem ssub (f : XF) : Statement (.ssub f) := fun e h => by cases h <;> rfl
theorem smul (f : B3) : Statement (.smul f) := fun e h => by cases h <;> rfl
theorem smulX (f : XA) : Statement (.smulX f) := fun e h => by cases f <;> cases h <;> rfl
theorem smulhi (f : XF) : Statement (.smulhi f) := fun e h => by cases h <;> rfl
theorem sand (f : B3) : Statement (.sand f) := fun e h => by cases h <;> rfl
theorem sandX (f : XA) : Statement (.sandX f) := fun e h => by cases f <;> cases h <;> rfl
theorem sandn (f : XF) : Statement (.sandn f) := fun e h => by cases h <;> rfl
theorem sor (f : B3) : Statement (.sor f) := fun e h => by cases h <;> rfl
theorem sorX (f : XA) : Statement (.sorX f) := fun e h => by cases f <;> cases h <;> rfl
theorem sxor (f : B3) : Statement (.sxor f) := fun e h => by cases h <;> rfl
theorem sxorX (f : XA) : Statement (.sxorX f) := fun e h => by cases f <;> cases h <;> rfl
theorem snot (f : XF) : Statement (.snot f) := fun e h => by cases h <;> rfl
theorem sshl (f : B3) : Statement (.sshl f) := fun e h => by cases h <;> rfl
theorem sshlX (f : XA) : Statement (.sshlX f) := fun e h => by cases f <;> cases h <;> rfl
theorem srotl (f : XF) : Statement (.srotl f) := fun e h => by cases h <;> rfl
theorem sshr (f : B3) : Statement (.sshr f) := fun e h => by cases h <;> rfl
theorem sshrX (f : XA) : Statement (.sshrX f) := fun e h => by cases f <;> cases h <;> rfl
theorem srotr (f : XF) : Statement (.srotr f) := fun e h => by cases h <;> rfl
theorem sbfx (f : B3) : Statement (.sbfx f) := fun e h => by cases h <;> rfl
theorem sbfxX (f : XA) : Statement (.sbfxX f) := fun e h => by cases f <;> cases h <;> rfl
theorem sbfi (f : XF) : Statement (.sbfi f) := fun e h => by cases h <;> rfl
theorem spopc (f : B3) : Statement (.spopc f) := fun e h => by cases h <;> rfl
theorem spopcX (f : XA) : Statement (.spopcX f) := fun e h => by cases f <;> cases h <;> rfl
theorem sclz (f : XF) : Statement (.sclz f) := fun e h => by cases h <;> rfl
theorem sctz (f : XF) : Statement (.sctz f) := fun e h => by cases h <;> rfl
theorem smin (f : B3) : Statement (.smin f) := fun e h => by cases h <;> rfl
theorem sminX (f : XA) : Statement (.sminX f) := fun e h => by cases f <;> cases h <;> rfl
theorem smax (f : XF) : Statement (.smax f) := fun e h => by cases h <;> rfl
theorem smov (f : B3) : Statement (.smov f) := fun e h => by cases h <;> rfl
theorem smovX (f : XA) : Statement (.smovX f) := fun e h => by cases f <;> cases h <;> rfl
theorem smovi (f : CF) : Statement (.smovi f) := fun e h => by cases h <;> rfl
theorem smoviX (f : XF) : Statement (.smoviX f) := fun e h => by cases h <;> rfl
theorem scmp (f : XS) : Statement (.scmp f) := fun e h => by cases h <;> rfl
theorem ffma (f : B3) : Statement (.ffma f) := fun e h => by cases h <;> rfl
theorem ffmaX (f : XA) : Statement (.ffmaX f) := fun e h => by cases f <;> cases h <;> rfl
theorem ffms (f : XF) : Statement (.ffms f) := fun e h => by cases h <;> rfl
theorem fnma (f : XF) : Statement (.fnma f) := fun e h => by cases h <;> rfl
theorem fadd (f : B3) : Statement (.fadd f) := fun e h => by cases h <;> rfl
theorem faddX (f : XA) : Statement (.faddX f) := fun e h => by cases f <;> cases h <;> rfl
theorem fsub (f : XF) : Statement (.fsub f) := fun e h => by cases h <;> rfl
theorem fmul (f : B3) : Statement (.fmul f) := fun e h => by cases h <;> rfl
theorem fmulX (f : XA) : Statement (.fmulX f) := fun e h => by cases f <;> cases h <;> rfl
theorem fmin (f : B3) : Statement (.fmin f) := fun e h => by cases h <;> rfl
theorem fminX (f : XA) : Statement (.fminX f) := fun e h => by cases f <;> cases h <;> rfl
theorem fmax (f : XF) : Statement (.fmax f) := fun e h => by cases h <;> rfl
theorem fminnum (f : XF) : Statement (.fminnum f) := fun e h => by cases h <;> rfl
theorem fmaxnum (f : XF) : Statement (.fmaxnum f) := fun e h => by cases h <;> rfl
theorem fcmp (f : B3) : Statement (.fcmp f) := fun e h => by cases h <;> rfl
theorem fcmpX (f : XSA) : Statement (.fcmpX f) := fun e h => by cases f <;> cases h <;> rfl
theorem fclass (f : B3) : Statement (.fclass f) := fun e h => by cases h <;> rfl
theorem fclassX (f : XA) : Statement (.fclassX f) := fun e h => by cases f <;> cases h <;> rfl
theorem frnd (f : B3) : Statement (.frnd f) := fun e h => by cases h <;> rfl
theorem frndX (f : XA) : Statement (.frndX f) := fun e h => by cases f <;> cases h <;> rfl
theorem rcp (f : B3) : Statement (.rcp f) := fun e h => by cases h <;> rfl
theorem rcpX (f : XA) : Statement (.rcpX f) := fun e h => by cases f <;> cases h <;> rfl
theorem rsqrt (f : XF) : Statement (.rsqrt f) := fun e h => by cases h <;> rfl
theorem sqrt (f : XF) : Statement (.sqrt f) := fun e h => by cases h <;> rfl
theorem exp2 (f : XF) : Statement (.exp2 f) := fun e h => by cases h <;> rfl
theorem log2 (f : XF) : Statement (.log2 f) := fun e h => by cases h <;> rfl
theorem sinpi (f : XF) : Statement (.sinpi f) := fun e h => by cases h <;> rfl
theorem cospi (f : XF) : Statement (.cospi f) := fun e h => by cases h <;> rfl
theorem fcvt (f : B3) : Statement (.fcvt f) := fun e h => by cases h <;> rfl
theorem fcvtX (f : XA) : Statement (.fcvtX f) := fun e h => by cases f <;> cases h <;> rfl
theorem fdot2 (f : XF) : Statement (.fdot2 f) := fun e h => by cases h <;> rfl
theorem fdot4 (f : XF) : Statement (.fdot4 f) := fun e h => by cases h <;> rfl
theorem fabs (f : B3) : Statement (.fabs f) := fun e h => by cases h <;> rfl
theorem fabsX (f : XA) : Statement (.fabsX f) := fun e h => by cases f <;> cases h <;> rfl
theorem fneg (f : XF) : Statement (.fneg f) := fun e h => by cases h <;> rfl
theorem shfl (f : B3) : Statement (.shfl f) := fun e h => by cases h <;> rfl
theorem shflX (f : XA) : Statement (.shflX f) := fun e h => by cases f <;> cases h <;> rfl
theorem shflxor (f : XF) : Statement (.shflxor f) := fun e h => by cases h <;> rfl
theorem shflup (f : XF) : Statement (.shflup f) := fun e h => by cases h <;> rfl
theorem shfldn (f : XF) : Statement (.shfldn f) := fun e h => by cases h <;> rfl
theorem rdlane (f : B3) : Statement (.rdlane f) := fun e h => by cases h <;> rfl
theorem rdlaneX (f : XA) : Statement (.rdlaneX f) := fun e h => by cases f <;> cases h <;> rfl
theorem wrlane (f : XF) : Statement (.wrlane f) := fun e h => by cases h <;> rfl
theorem redadd (f : B3) : Statement (.redadd f) := fun e h => by cases h <;> rfl
theorem redaddX (f : XA) : Statement (.redaddX f) := fun e h => by cases f <;> cases h <;> rfl
theorem redmin (f : XF) : Statement (.redmin f) := fun e h => by cases h <;> rfl
theorem redmax (f : XF) : Statement (.redmax f) := fun e h => by cases h <;> rfl
theorem redand (f : XF) : Statement (.redand f) := fun e h => by cases h <;> rfl
theorem redor (f : XF) : Statement (.redor f) := fun e h => by cases h <;> rfl
theorem redxor (f : XF) : Statement (.redxor f) := fun e h => by cases h <;> rfl
theorem scanadd (f : B3) : Statement (.scanadd f) := fun e h => by cases h <;> rfl
theorem scanaddX (f : XA) : Statement (.scanaddX f) := fun e h => by cases f <;> cases h <;> rfl
theorem scanmin (f : XF) : Statement (.scanmin f) := fun e h => by cases h <;> rfl
theorem scanmax (f : XF) : Statement (.scanmax f) := fun e h => by cases h <;> rfl
theorem scanand (f : XF) : Statement (.scanand f) := fun e h => by cases h <;> rfl
theorem scanor (f : XF) : Statement (.scanor f) := fun e h => by cases h <;> rfl
theorem scanxor (f : XF) : Statement (.scanxor f) := fun e h => by cases h <;> rfl
theorem xscanadd (f : XF) : Statement (.xscanadd f) := fun e h => by cases h <;> rfl
theorem xscanmin (f : XF) : Statement (.xscanmin f) := fun e h => by cases h <;> rfl
theorem xscanmax (f : XF) : Statement (.xscanmax f) := fun e h => by cases h <;> rfl
theorem xscanand (f : XF) : Statement (.xscanand f) := fun e h => by cases h <;> rfl
theorem xscanor (f : XF) : Statement (.xscanor f) := fun e h => by cases h <;> rfl
theorem xscanxor (f : XF) : Statement (.xscanxor f) := fun e h => by cases h <;> rfl
theorem kand (f : B3) : Statement (.kand f) := fun e h => by cases h <;> rfl
theorem kandX (f : XF) : Statement (.kandX f) := fun e h => by cases h <;> rfl
theorem kor (f : XF) : Statement (.kor f) := fun e h => by cases h <;> rfl
theorem kxor (f : XF) : Statement (.kxor f) := fun e h => by cases h <;> rfl
theorem kandn (f : XF) : Statement (.kandn f) := fun e h => by cases h <;> rfl
theorem knot (f : XF) : Statement (.knot f) := fun e h => by cases h <;> rfl
theorem kmov (f : XF) : Statement (.kmov f) := fun e h => by cases h <;> rfl
theorem ktos (f : B3) : Statement (.ktos f) := fun e h => by cases h <;> rfl
theorem ktosX (f : XF) : Statement (.ktosX f) := fun e h => by cases h <;> rfl
theorem stok (f : XF) : Statement (.stok f) := fun e h => by cases h <;> rfl
theorem kpopc (f : B3) : Statement (.kpopc f) := fun e h => by cases h <;> rfl
theorem kpopcX (f : XF) : Statement (.kpopcX f) := fun e h => by cases h <;> rfl
theorem kffs (f : XF) : Statement (.kffs f) := fun e h => by cases h <;> rfl
theorem kfls (f : XF) : Statement (.kfls f) := fun e h => by cases h <;> rfl
theorem ballot (f : B3) : Statement (.ballot f) := fun e h => by cases h <;> rfl
theorem ballotX (f : XF) : Statement (.ballotX f) := fun e h => by cases h <;> rfl
theorem vmatch (f : B3) : Statement (.vmatch f) := fun e h => by cases h <;> rfl
theorem vmatchX (f : XF) : Statement (.vmatchX f) := fun e h => by cases h <;> rfl
theorem compact (f : XF) : Statement (.compact f) := fun e h => by cases h <;> rfl
theorem expand (f : XF) : Statement (.expand f) := fun e h => by cases h <;> rfl
theorem ld (f : MF) : Statement (.ld f) := fun e h => by cases h <;> rfl
theorem ldX (f : XF) : Statement (.ldX f) := fun e h => by cases h <;> rfl
theorem st (f : MF) : Statement (.st f) := fun e h => by cases h <;> rfl
theorem stX (f : XF) : Statement (.stX f) := fun e h => by cases h <;> rfl
theorem lds (f : MF) : Statement (.lds f) := fun e h => by cases h <;> rfl
theorem ldsX (f : XF) : Statement (.ldsX f) := fun e h => by cases h <;> rfl
theorem sts (f : MF) : Statement (.sts f) := fun e h => by cases h <;> rfl
theorem stsX (f : XF) : Statement (.stsX f) := fun e h => by cases h <;> rfl
theorem atom (f : XS) : Statement (.atom f) := fun e h => by cases h <;> rfl
theorem acq (f : XF) : Statement (.acq f) := fun e h => by cases h <;> rfl
theorem rel (f : XF) : Statement (.rel f) := fun e h => by cases h <;> rfl
theorem relFresh (f : XF) : Statement (.relFresh f) := fun e h => by cases h <;> rfl
theorem relAll (f : XF) : Statement (.relAll f) := fun e h => by cases h <;> rfl
theorem fence (f : XF) : Statement (.fence f) := fun e h => by cases h <;> rfl
theorem fenceUn (f : XF) : Statement (.fenceUn f) := fun e h => by cases h <;> rfl
theorem pref (f : MF) : Statement (.pref f) := fun e h => by cases h <;> rfl
theorem prefX (f : XF) : Statement (.prefX f) := fun e h => by cases h <;> rfl
theorem evict (f : XF) : Statement (.evict f) := fun e h => by cases h <;> rfl
theorem cwait (f : CF) : Statement (.cwait f) := fun e h => by cases h <;> rfl
theorem cwaitX (f : XF) : Statement (.cwaitX f) := fun e h => by cases h <;> rfl
theorem btrans (f : XF) : Statement (.btrans f) := fun e h => by cases h <;> rfl
theorem stmsk (f : XF) : Statement (.stmsk f) := fun e h => by cases h <;> rfl
theorem xld (f : XF) : Statement (.xld f) := fun e h => by cases h <;> rfl
theorem xst (f : XF) : Statement (.xst f) := fun e h => by cases h <;> rfl
theorem sigadd (f : XF) : Statement (.sigadd f) := fun e h => by cases h <;> rfl
theorem ostore (f : XF) : Statement (.ostore f) := fun e h => by cases h <;> rfl
theorem br (f : JF) : Statement (.br f) := fun e h => by cases h <;> rfl
theorem brX (f : XF) : Statement (.brX f) := fun e h => by cases h <;> rfl
theorem call (f : JF) : Statement (.call f) := fun e h => by cases h <;> rfl
theorem callX (f : XF) : Statement (.callX f) := fun e h => by cases h <;> rfl
theorem bany (f : JF) : Statement (.bany f) := fun e h => by cases h <;> rfl
theorem banyX (f : XF) : Statement (.banyX f) := fun e h => by cases h <;> rfl
theorem ball (f : JF) : Statement (.ball f) := fun e h => by cases h <;> rfl
theorem ballX (f : XF) : Statement (.ballX f) := fun e h => by cases h <;> rfl
theorem bnone (f : JF) : Statement (.bnone f) := fun e h => by cases h <;> rfl
theorem bnoneX (f : XF) : Statement (.bnoneX f) := fun e h => by cases h <;> rfl
theorem beq (f : XF) : Statement (.beq f) := fun e h => by cases h <;> rfl
theorem bne (f : XF) : Statement (.bne f) := fun e h => by cases h <;> rfl
theorem blt (f : XF) : Statement (.blt f) := fun e h => by cases h <;> rfl
theorem ble (f : XF) : Statement (.ble f) := fun e h => by cases h <;> rfl
theorem bgt (f : XF) : Statement (.bgt f) := fun e h => by cases h <;> rfl
theorem bge (f : XF) : Statement (.bge f) := fun e h => by cases h <;> rfl
theorem bltu (f : XF) : Statement (.bltu f) := fun e h => by cases h <;> rfl
theorem bleu (f : XF) : Statement (.bleu f) := fun e h => by cases h <;> rfl
theorem bgtu (f : XF) : Statement (.bgtu f) := fun e h => by cases h <;> rfl
theorem bgeu (f : XF) : Statement (.bgeu f) := fun e h => by cases h <;> rfl
theorem jmp (f : CF) : Statement (.jmp f) := fun e h => by cases h <;> rfl
theorem jmpX (f : XF) : Statement (.jmpX f) := fun e h => by cases h <;> rfl
theorem callind (f : XF) : Statement (.callind f) := fun e h => by cases h <;> rfl
theorem ret (f : CF) : Statement (.ret f) := fun e h => by cases h <;> rfl
theorem retX (f : XF) : Statement (.retX f) := fun e h => by cases h <;> rfl
theorem loopnz (f : XF) : Statement (.loopnz f) := fun e h => by cases h <;> rfl
theorem yield (f : XF) : Statement (.yield f) := fun e h => by cases h <;> rfl
theorem sleep (f : CF) : Statement (.sleep f) := fun e h => by cases h <;> rfl
theorem sleepX (f : XF) : Statement (.sleepX f) := fun e h => by cases h <;> rfl
theorem nop : Statement .nop := fun e h => by cases h <;> rfl
theorem nopX : Statement .nopX := fun e h => by cases h <;> rfl
theorem trap (f : CF) : Statement (.trap f) := fun e h => by cases h <;> rfl
theorem trapX (f : XF) : Statement (.trapX f) := fun e h => by cases h <;> rfl
theorem trapret : Statement .trapret := fun e h => by cases h <;> rfl
theorem trapretX : Statement .trapretX := fun e h => by cases h <;> rfl
theorem exit : Statement .exit := fun e h => by cases h <;> rfl
theorem exitX : Statement .exitX := fun e h => by cases h <;> rfl
theorem bar (f : CF) : Statement (.bar f) := fun e h => by cases h <;> rfl
theorem barX (f : XF) : Statement (.barX f) := fun e h => by cases h <;> rfl
theorem bararr (f : XF) : Statement (.bararr f) := fun e h => by cases h <;> rfl
theorem barwait (f : XF) : Statement (.barwait f) := fun e h => by cases h <;> rfl
theorem bbarr (f : XF) : Statement (.bbarr f) := fun e h => by cases h <;> rfl
theorem bbwait (f : XF) : Statement (.bbwait f) := fun e h => by cases h <;> rfl
theorem tlinc (f : XF) : Statement (.tlinc f) := fun e h => by cases h <;> rfl
theorem tlset (f : XF) : Statement (.tlset f) := fun e h => by cases h <;> rfl
theorem tlwait (f : XF) : Statement (.tlwait f) := fun e h => by cases h <;> rfl
theorem cp (f : XF) : Statement (.cp f) := fun e h => by cases h <;> rfl
theorem cpred (f : XF) : Statement (.cpred f) := fun e h => by cases h <;> rfl
theorem twait (f : CF) : Statement (.twait f) := fun e h => by cases h <;> rfl
theorem twaitX (f : XF) : Statement (.twaitX f) := fun e h => by cases h <;> rfl
theorem spawn (f : XF) : Statement (.spawn f) := fun e h => by cases h <;> rfl
theorem launch (f : XF) : Statement (.launch f) := fun e h => by cases h <;> rfl
theorem spnrun (f : XF) : Statement (.spnrun f) := fun e h => by cases h <;> rfl
theorem regsurrender (f : CF) : Statement (.regsurrender f) := fun e h => by cases h <;> rfl
theorem regsurrenderX (f : XF) : Statement (.regsurrenderX f) := fun e h => by cases h <;> rfl
theorem regclaim (f : CF) : Statement (.regclaim f) := fun e h => by cases h <;> rfl
theorem regclaimX (f : XF) : Statement (.regclaimX f) := fun e h => by cases h <;> rfl
theorem remit (f : XF) : Statement (.remit f) := fun e h => by cases h <;> rfl
theorem rcont (f : XF) : Statement (.rcont f) := fun e h => by cases h <;> rfl
theorem rretire (f : XF) : Statement (.rretire f) := fun e h => by cases h <;> rfl
theorem racc (f : XF) : Statement (.racc f) := fun e h => by cases h <;> rfl
theorem epend : Statement .epend := fun e h => by cases h <;> rfl
theorem rcell (f : XF) : Statement (.rcell f) := fun e h => by cases h <;> rfl
theorem rdircls (f : XF) : Statement (.rdircls f) := fun e h => by cases h <;> rfl
theorem rhit (f : XF) : Statement (.rhit f) := fun e h => by cases h <;> rfl
theorem rinst (f : XF) : Statement (.rinst f) := fun e h => by cases h <;> rfl
theorem rxform (f : XF) : Statement (.rxform f) := fun e h => by cases h <;> rfl
theorem oclaim (f : XF) : Statement (.oclaim f) := fun e h => by cases h <;> rfl
theorem orel (f : XF) : Statement (.orel f) := fun e h => by cases h <;> rfl
theorem owait (f : XF) : Statement (.owait f) := fun e h => by cases h <;> rfl
theorem mma (f : XF) : Statement (.mma f) := fun e h => by cases h <;> rfl
theorem mmasp (f : XF) : Statement (.mmasp f) := fun e h => by cases h <;> rfl
theorem mmag (f : XF) : Statement (.mmag f) := fun e h => by cases h <;> rfl
theorem mmagsp (f : XF) : Statement (.mmagsp f) := fun e h => by cases h <;> rfl
theorem aclr (f : XF) : Statement (.aclr f) := fun e h => by cases h <;> rfl
theorem ascale (f : XF) : Statement (.ascale f) := fun e h => by cases h <;> rfl
theorem adrain (f : XF) : Statement (.adrain f) := fun e h => by cases h <;> rfl
theorem adraing (f : XF) : Statement (.adraing f) := fun e h => by cases h <;> rfl
theorem batcom : Statement .batcom := fun e h => by cases h <;> rfl
theorem batwait (f : XF) : Statement (.batwait f) := fun e h => by cases h <;> rfl
theorem rdsr (f : CF) : Statement (.rdsr f) := fun e h => by cases h <;> rfl
theorem rdsrX (f : XF) : Statement (.rdsrX f) := fun e h => by cases h <;> rfl
theorem wrsr (f : XF) : Statement (.wrsr f) := fun e h => by cases h <;> rfl
theorem tmrset (f : XF) : Statement (.tmrset f) := fun e h => by cases h <;> rfl
theorem tlbinv (f : XF) : Statement (.tlbinv f) := fun e h => by cases h <;> rfl
theorem hdlinv : Statement .hdlinv := fun e h => by cases h <;> rfl
theorem stdrain : Statement .stdrain := fun e h => by cases h <;> rfl
theorem sfpop (f : XF) : Statement (.sfpop f) := fun e h => by cases h <;> rfl
theorem evmark (f : XF) : Statement (.evmark f) := fun e h => by cases h <;> rfl
theorem sample (f : XF) : Statement (.sample f) := fun e h => by cases h <;> rfl
theorem utret : Statement .utret := fun e h => by cases h <;> rfl
theorem blockPlacement (launch : BitVec 8) : Statement (.blockPlacement launch) := fun e h => by cases h <;> rfl
theorem waveExitComplete (core : BitVec 7) (slot : BitVec 6) : Statement (.waveExitComplete core slot) := fun e h => by cases h <;> rfl
theorem taskDispatch (launch : BitVec 8) : Statement (.taskDispatch launch) := fun e h => by cases h <;> rfl
theorem taskPriorityAging (launch : BitVec 8) : Statement (.taskPriorityAging launch) := fun e h => by cases h <;> rfl
theorem regclaimGrant (launch : BitVec 8) (block : BitVec 32) : Statement (.regclaimGrant launch block) := fun e h => by cases h <;> rfl
theorem userTimerTrap (core : BitVec 7) (slot : BitVec 6) : Statement (.userTimerTrap core slot) := fun e h => by cases h <;> rfl
theorem rayLaunchActivation (ctx : BitVec 8) (queue : BitVec 6) : Statement (.rayLaunchActivation ctx queue) := fun e h => by cases h <;> rfl
theorem remitResume (core : BitVec 7) (slot : BitVec 6) : Statement (.remitResume core slot) := fun e h => by cases h <;> rfl
theorem stallAgeExpiry (quarter : BitVec 2) (stall : BitVec 13) : Statement (.stallAgeExpiry quarter stall) := fun e h => by cases h <;> rfl
theorem stallOverdue (quarter : BitVec 2) (stall : BitVec 13) : Statement (.stallOverdue quarter stall) := fun e h => by cases h <;> rfl
theorem crierEmission (quarter : BitVec 2) : Statement (.crierEmission quarter) := fun e h => by cases h <;> rfl
theorem traversalBatchStart (quarter : BitVec 2) (unit : BitVec 7) : Statement (.traversalBatchStart quarter unit) := fun e h => by cases h <;> rfl
theorem traceCompletion (launchSlot : BitVec 3) (ray : BitVec 32) : Statement (.traceCompletion launchSlot ray) := fun e h => by cases h <;> rfl
theorem episodePlacement (quarter : BitVec 2) : Statement (.episodePlacement quarter) := fun e h => by cases h <;> rfl
theorem coldPoolReclaim (launch : BitVec 8) : Statement (.coldPoolReclaim launch) := fun e h => by cases h <;> rfl
theorem spindleStart (cluster : BitVec 5) : Statement (.spindleStart cluster) := fun e h => by cases h <;> rfl
theorem matrixOpIssue (cluster : BitVec 5) : Statement (.matrixOpIssue cluster) := fun e h => by cases h <;> rfl
theorem slotReadFinish (cluster : BitVec 5) (oslot : BitVec 6) : Statement (.slotReadFinish cluster oslot) := fun e h => by cases h <;> rfl
theorem matrixOpComplete (cluster : BitVec 5) : Statement (.matrixOpComplete cluster) := fun e h => by cases h <;> rfl
theorem slotWriteRetry (core : BitVec 7) (slot : BitVec 6) : Statement (.slotWriteRetry core slot) := fun e h => by cases h <;> rfl
theorem drainIssue (cluster : BitVec 5) : Statement (.drainIssue cluster) := fun e h => by cases h <;> rfl
theorem drainComplete (cluster : BitVec 5) : Statement (.drainComplete cluster) := fun e h => by cases h <;> rfl
theorem drainFault (cluster : BitVec 5) : Statement (.drainFault cluster) := fun e h => by cases h <;> rfl
theorem accessCompletion (core : BitVec 7) (slot : BitVec 6) (index : BitVec 16) : Statement (.accessCompletion core slot index) := fun e h => by cases h <;> rfl
theorem lineAgingWriteback (core : BitVec 7) (line : BitVec 16) : Statement (.lineAgingWriteback core line) := fun e h => by cases h <;> rfl
theorem copyStart (core : BitVec 7) (slot : BitVec 6) (token : BitVec 3) : Statement (.copyStart core slot token) := fun e h => by cases h <;> rfl
theorem copyEnd (core : BitVec 7) (slot : BitVec 6) (token : BitVec 3) : Statement (.copyEnd core slot token) := fun e h => by cases h <;> rfl
theorem copyFault (core : BitVec 7) (slot : BitVec 6) (token : BitVec 3) : Statement (.copyFault core slot token) := fun e h => by cases h <;> rfl
theorem sleepExpiry (core : BitVec 7) (slot : BitVec 6) : Statement (.sleepExpiry core slot) := fun e h => by cases h <;> rfl
theorem schWake (fn : BitVec 5) (ctx : BitVec 8) (mask : BitVec 64) : Statement (.schWake fn ctx mask) := fun e h => by cases h <;> rfl
theorem queueScan (ctx : BitVec 8) (queue : BitVec 6) : Statement (.queueScan ctx queue) := fun e h => by cases h <;> rfl
theorem launchTake : Statement .launchTake := fun e h => by cases h <;> rfl
theorem placementReservation (launch : BitVec 8) : Statement (.placementReservation launch) := fun e h => by cases h <;> rfl
theorem waveReadyAged (core : BitVec 7) (slot : BitVec 6) : Statement (.waveReadyAged core slot) := fun e h => by cases h <;> rfl
theorem waiterSlotGrant : Statement .waiterSlotGrant := fun e h => by cases h <;> rfl
theorem tlwaitRelease (waiter : BitVec 10) : Statement (.tlwaitRelease waiter) := fun e h => by cases h <;> rfl
theorem waiterSlotPoll (waiter : BitVec 10) : Statement (.waiterSlotPoll waiter) := fun e h => by cases h <;> rfl
theorem quantumExpiry (cluster : BitVec 5) : Statement (.quantumExpiry cluster) := fun e h => by cases h <;> rfl
theorem urgentPreemption (launch : BitVec 8) : Statement (.urgentPreemption launch) := fun e h => by cases h <;> rfl
theorem vmCtxRootWrite (fn : BitVec 5) (ctx : BitVec 8) (value : BitVec 64) : Statement (.vmCtxRootWrite fn ctx value) := fun e h => by cases h <;> rfl
theorem vmCtxReply (fn : BitVec 5) (ctx : BitVec 8) (value : BitVec 64) : Statement (.vmCtxReply fn ctx value) := fun e h => by cases h <;> rfl
theorem vmCtxFqheadWrite (fn : BitVec 5) (ctx : BitVec 8) (value : BitVec 64) : Statement (.vmCtxFqheadWrite fn ctx value) := fun e h => by cases h <;> rfl
theorem pageWalk (walker : BitVec 6) : Statement (.pageWalk walker) := fun e h => by cases h <;> rfl
theorem faultTagAllocation (core : BitVec 7) (slot : BitVec 6) : Statement (.faultTagAllocation core slot) := fun e h => by cases h <;> rfl
theorem storeFaultTrap (core : BitVec 7) (slot : BitVec 6) : Statement (.storeFaultTrap core slot) := fun e h => by cases h <;> rfl
theorem schCtxPreReq (fn : BitVec 5) (ctx : BitVec 8) : Statement (.schCtxPreReq fn ctx) := fun e h => by cases h <;> rfl
theorem schCtxPreResume (fn : BitVec 5) (ctx : BitVec 8) : Statement (.schCtxPreResume fn ctx) := fun e h => by cases h <;> rfl
theorem schCtxPreKill (fn : BitVec 5) (ctx : BitVec 8) : Statement (.schCtxPreKill fn ctx) := fun e h => by cases h <;> rfl
theorem blockSave (launch : BitVec 8) (block : BitVec 32) : Statement (.blockSave launch block) := fun e h => by cases h <;> rfl
theorem suspensionComplete (ctx : BitVec 8) : Statement (.suspensionComplete ctx) := fun e h => by cases h <;> rfl
theorem forcedSave (ctx : BitVec 8) : Statement (.forcedSave ctx) := fun e h => by cases h <;> rfl
theorem forcedSaveTimeout (ctx : BitVec 8) : Statement (.forcedSaveTimeout ctx) := fun e h => by cases h <;> rfl
theorem blockResume (launch : BitVec 8) (block : BitVec 32) : Statement (.blockResume launch block) := fun e h => by cases h <;> rfl
theorem schCtxDbgStop (fn : BitVec 5) (ctx : BitVec 8) (value : BitVec 64) : Statement (.schCtxDbgStop fn ctx value) := fun e h => by cases h <;> rfl
theorem schCtxDbgStep (fn : BitVec 5) (ctx : BitVec 8) : Statement (.schCtxDbgStep fn ctx) := fun e h => by cases h <;> rfl
theorem powerOn : Statement .powerOn := fun e h => by cases h <;> rfl
theorem watchdogExpiry : Statement .watchdogExpiry := fun e h => by cases h <;> rfl
theorem firmwareRollback : Statement .firmwareRollback := fun e h => by cases h <;> rfl
theorem portReset (port : BitVec 1) : Statement (.portReset port) := fun e h => by cases h <;> rfl
theorem hostLinkUp (port : BitVec 1) (speed : BitVec 4) (width : BitVec 2) (flit : BitVec 1) (cxlCache : BitVec 1) (cxlMem : BitVec 1) : Statement (.hostLinkUp port speed width flit cxlCache cxlMem) := fun e h => by cases h <;> rfl
theorem functionLevelReset (fn : BitVec 5) : Statement (.functionLevelReset fn) := fun e h => by cases h <;> rfl
theorem flrComplete (fn : BitVec 5) : Statement (.flrComplete fn) := fun e h => by cases h <;> rfl
theorem hifCtxmapWrite (fn : BitVec 5) (ctx : BitVec 8) (value : BitVec 64) : Statement (.hifCtxmapWrite fn ctx value) := fun e h => by cases h <;> rfl
theorem bar2Read (fn : BitVec 5) (offset : BitVec 36) (size : BitVec 4) : Statement (.bar2Read fn offset size) := fun e h => by cases h <;> rfl
theorem bar2Write (fn : BitVec 5) (offset : BitVec 36) (size : BitVec 4) (data : BitVec 64) : Statement (.bar2Write fn offset size data) := fun e h => by cases h <;> rfl
theorem hdmAccess (port : BitVec 1) (write : BitVec 1) (addr : BitVec 52) (data : BitVec 64) : Statement (.hdmAccess port write addr data) := fun e h => by cases h <;> rfl
theorem pairLinkFailure : Statement .pairLinkFailure := fun e h => by cases h <;> rfl
theorem ngxIdWrite (fn : BitVec 5) (value : BitVec 64) : Statement (.ngxIdWrite fn value) := fun e h => by cases h <;> rfl
theorem remoteRequest (op : BitVec 3) (dest : BitVec 6) (hops : BitVec 3) (key : BitVec 16) (offset : BitVec 42) (size : BitVec 5) (data : BitVec 128) (atom : BitVec 4) (type : BitVec 5) : Statement (.remoteRequest op dest hops key offset size data atom type) := fun e h => by cases h <;> rfl
theorem ngxPortDown (port : BitVec 3) : Statement (.ngxPortDown port) := fun e h => by cases h <;> rfl
theorem machineCheck (detail : BitVec 3) (kind : BitVec 3) (index : BitVec 7) (syndrome : BitVec 64) : Statement (.machineCheck detail kind index syndrome) := fun e h => by cases h <;> rfl
theorem thermalTrip : Statement .thermalTrip := fun e h => by cases h <;> rfl
theorem governorStep (up : BitVec 1) : Statement (.governorStep up) := fun e h => by cases h <;> rfl
theorem mgtPwrcapWrite (fn : BitVec 5) (value : BitVec 64) : Statement (.mgtPwrcapWrite fn value) := fun e h => by cases h <;> rfl
theorem stage (fn : BitVec 5) : Statement (.stage fn) := fun e h => by cases h <;> rfl
theorem activate (fn : BitVec 5) : Statement (.activate fn) := fun e h => by cases h <;> rfl
theorem reset (fn : BitVec 5) : Statement (.reset fn) := fun e h => by cases h <;> rfl
theorem poolcfg (fn : BitVec 5) : Statement (.poolcfg fn) := fun e h => by cases h <;> rfl
theorem mailboxCompletion (fn : BitVec 5) : Statement (.mailboxCompletion fn) := fun e h => by cases h <;> rfl
theorem caplist (fn : BitVec 5) : Statement (.caplist fn) := fun e h => by cases h <;> rfl
theorem capread (fn : BitVec 5) : Statement (.capread fn) := fun e h => by cases h <;> rfl
theorem capture (fn : BitVec 5) : Statement (.capture fn) := fun e h => by cases h <;> rfl
theorem capclear (fn : BitVec 5) : Statement (.capclear fn) := fun e h => by cases h <;> rfl
theorem logread (fn : BitVec 5) : Statement (.logread fn) := fun e h => by cases h <;> rfl
theorem getVersion (port : BitVec 1) : Statement (.getVersion port) := fun e h => by cases h <;> rfl
theorem getCapabilities (port : BitVec 1) : Statement (.getCapabilities port) := fun e h => by cases h <;> rfl
theorem negotiateAlgorithms (port : BitVec 1) : Statement (.negotiateAlgorithms port) := fun e h => by cases h <;> rfl
theorem getDigests (port : BitVec 1) : Statement (.getDigests port) := fun e h => by cases h <;> rfl
theorem getCertificate (port : BitVec 1) : Statement (.getCertificate port) := fun e h => by cases h <;> rfl
theorem challenge (port : BitVec 1) : Statement (.challenge port) := fun e h => by cases h <;> rfl
theorem getMeasurements (port : BitVec 1) : Statement (.getMeasurements port) := fun e h => by cases h <;> rfl
theorem timeSync (buffer : BitVec 8) : Statement (.timeSync buffer) := fun e h => by cases h <;> rfl
theorem lossRecord (buffer : BitVec 8) : Statement (.lossRecord buffer) := fun e h => by cases h <;> rfl
theorem freezeArrival (buffer : BitVec 8) : Statement (.freezeArrival buffer) := fun e h => by cases h <;> rfl
theorem freezeWindowClose (buffer : BitVec 8) : Statement (.freezeWindowClose buffer) := fun e h => by cases h <;> rfl
theorem pairFreezeMessage (cause : BitVec 9) : Statement (.pairFreezeMessage cause) := fun e h => by cases h <;> rfl
theorem capsuleStored : Statement .capsuleStored := fun e h => by cases h <;> rfl
theorem capsuleFlashCopy : Statement .capsuleFlashCopy := fun e h => by cases h <;> rfl
theorem evrCtlLock (fn : BitVec 5) : Statement (.evrCtlLock fn) := fun e h => by cases h <;> rfl
theorem patrolScrubRead (granule : BitVec 47) (finding : BitVec 2) : Statement (.patrolScrubRead granule finding) := fun e h => by cases h <;> rfl
theorem registerWrite (fn : BitVec 5) (offset : BitVec 24) (value : BitVec 64) : Statement (.registerWrite fn offset value) := fun e h => by cases h <;> rfl
theorem illegalInstruction (detail : BitVec 3) : Statement (.illegalInstruction detail) := fun e h => by cases h <;> rfl
theorem ngxPortUp (port : BitVec 3) (peer : BitVec 6) : Statement (.ngxPortUp port peer) := fun e h => by cases h <;> rfl
theorem pairLinkRequest (kind : BitVec 2) (addr : BitVec 44) (data : BitVec 64) : Statement (.pairLinkRequest kind addr data) := fun e h => by cases h <;> rfl
theorem cxlCacheSnoop (port : BitVec 1) (line : BitVec 45) (kind : BitVec 2) : Statement (.cxlCacheSnoop port line kind) := fun e h => by cases h <;> rfl

end Fields

end Sys2Proof.Laws
end

