-- ==== Sys2Proof/Laws/Spindles.lean ====
section
/-! SUPPORT. Spindle programs: their updates as changes of the agent, tiles read back, matrix operations keep their place. -/

namespace Sys2Proof.Machine

theorem setSpindle_eq {s : State} {p : Spindle} (h : s.curSpindle = some p) (f : Spindle → Spindle) :
    s.setSpindle (f p) = s.modAgent (fun w => w) f := by
  have hc := curSpindle_place h
  rw [modAgent_spindle hc]
  have hs : s.spindle? p.cluster = some p := by
    unfold State.curSpindle at h
    rw [hc] at h
    exact h
  unfold State.modSpindle
  rw [hs]

theorem setSpindle_complete {s : State} {p X : Spindle} (h : s.curSpindle = some p) (hX : X.cluster = p.cluster) (pc : BitVec 64) :
    (s.setSpindle X).complete pc (fun w => w) (fun q => q) = s.setSpindle (X.completed pc) := by
  have hc := curSpindle_place h
  have hs : s.spindle? p.cluster = some p := by
    unfold State.curSpindle at h
    rw [hc] at h
    exact h
  have hc' : (s.setSpindle X).cur = .spindle p.cluster := hc
  rw [complete_eq, modAgent_spindle hc']
  unfold State.modSpindle
  rw [spindle?_setSpindle hs hX]
  show State.setSpindle (State.setSpindle s X) (X.completed pc) = _
  unfold State.setSpindle
  have : (X.completed pc).cluster = X.cluster := rfl
  rw [this]
  simp only
  rw [replaceFirst_twice _ _ _ _ (by simp)]

theorem goes_of {s : State} {p : Spindle} (h : s.curSpindle = some p) (f : Spindle → Spindle) (hf : Stays f) {words : Nat}
    (hn : canonical (s.nextPc words) = true) : s.finish words (.done (s.setSpindle (f p))) = s.complete (s.nextPc words) (fun w => w) f := by
  rw [setSpindle_eq h, finish_modAgent s words (fun w => w) f places_id hf hn]

theorem min_fold (l : List MatOp) : ∀ a b : Nat, b ≤ l.foldl (fun a o => min a (o.batch - 1)) a ↔ b ≤ a ∧ ∀ o ∈ l, b ≤ o.batch - 1 := by
  induction l with
  | nil => intro a b; simp
  | cons o l ih =>
    intro a b
    rw [List.foldl_cons, ih]
    simp only [List.mem_cons, forall_eq_or_imp, Nat.le_min, and_assoc]

theorem lookup_filter_key {α : Type} (g : Nat → Bool) (m : List (Nat × α)) (b : Nat) :
    (m.filter (fun p => g p.1)).lookup b = if g b then m.lookup b else none := by
  induction m with
  | nil => simp
  | cons q rest ih =>
    obtain ⟨j, w⟩ := q
    rw [List.filter_cons]
    by_cases e : b = j
    · subst e
      cases hg : g b <;> simp [hg, ih, List.lookup_cons]
    · cases hg : g j <;> simp [hg, ih, List.lookup_cons, beq_eq_false_iff_ne.2 e]

theorem lookup_append {α : Type} (l m : List (Nat × α)) (b : Nat) : (l ++ m).lookup b = (l.lookup b).or (m.lookup b) := by
  induction l with
  | nil => simp
  | cons q rest ih =>
    obtain ⟨j, w⟩ := q
    rw [List.cons_append, List.lookup_cons, List.lookup_cons, ih]
    cases b == j <;> rfl

theorem lookup_cellsAt (bs : List (BitVec 8)) : ∀ a b : Nat, ((cellsAt a bs).lookup b).getD 0 = if a ≤ b ∧ b < a + bs.length then bs.getD (b - a) 0 else 0 := by
  induction bs with
  | nil => intro a b; simp [cellsAt]
  | cons x rest ih =>
    intro a b
    have hl : (x :: rest).length = rest.length + 1 := rfl
    rw [cellsAt]
    by_cases hx : x = 0
    · rw [if_pos hx, ih]
      by_cases e : b = a
      · subst e; rw [if_neg (by omega), if_pos (by omega), Nat.sub_self, List.getD_cons_zero, hx]
      · by_cases c : a + 1 ≤ b ∧ b < a + 1 + rest.length
        · rw [if_pos c, if_pos (by omega), show b - a = (b - (a + 1)) + 1 by omega, List.getD_cons_succ]
        · rw [if_neg c, if_neg (by omega)]
    · rw [if_neg hx, List.lookup_cons]
      by_cases e : b = a
      · subst e; simp
      · rw [beq_eq_false_iff_ne.2 e]
        show ((cellsAt (a + 1) rest).lookup b).getD 0 = _
        rw [ih]
        by_cases c : a + 1 ≤ b ∧ b < a + 1 + rest.length
        · rw [if_pos c, if_pos (by omega), show b - a = (b - (a + 1)) + 1 by omega, List.getD_cons_succ]
        · rw [if_neg c, if_neg (by omega)]

theorem lookup_cellsAt_none (bs : List (BitVec 8)) (a b : Nat) (h : ¬ (a ≤ b ∧ b < a + bs.length)) : (cellsAt a bs).lookup b = none := by
  apply lookup_none_of_above
  intro p hp
  have := mem_cellsAt bs a p hp
  omega

theorem read_splice (m : Memory) (a : Nat) (bs : List (BitVec 8)) (b : Nat) :
    (m.splice a bs).read b = if a ≤ b ∧ b < a + bs.length then bs.getD (b - a) 0 else m.read b := by
  show ((m.splice a bs).lookup b).getD 0 = if _ then _ else (m.lookup b).getD 0
  unfold Memory.splice
  rw [lookup_append, lookup_append, lookup_filter_key (fun k => decide (k < a)), lookup_filter_key (fun k => decide (a + bs.length ≤ k))]
  by_cases c : a ≤ b ∧ b < a + bs.length
  · rw [if_pos c, if_neg (by simp; omega), if_neg (by simp; omega)]
    have := lookup_cellsAt bs a b
    rw [if_pos c] at this
    simpa using this
  · rw [if_neg c, lookup_cellsAt_none bs a b c]
    by_cases d : b < a
    · rw [if_pos (by simpa using d), if_neg (by simp; omega)]
      simp
    · rw [if_neg (by simpa using d), if_pos (by simp; omega)]
      simp

theorem read_clear (m : Memory) (a n b : Nat) : (m.clear a n).read b = if a ≤ b ∧ b < a + n then 0 else m.read b := by
  show ((m.clear a n).lookup b).getD 0 = if _ then _ else (m.lookup b).getD 0
  unfold Memory.clear
  rw [lookup_filter_key (fun k => decide (k < a) || decide (a + n ≤ k))]
  by_cases c : a ≤ b ∧ b < a + n
  · rw [if_pos c, if_neg (by simp; omega)]; rfl
  · rw [if_neg c, if_pos (by simp; omega)]

/-- Bytes as a number. -/
def ofBytes : List (BitVec 8) → Nat
  | [] => 0
  | b :: bs => b.toNat + 256 * ofBytes bs

theorem readNat_ofBytes (l : List (BitVec 8)) : ∀ (m : Memory) (a : Nat), (∀ i, i < l.length → m.read (a + i) = l.getD i 0) → m.readNat a l.length = ofBytes l := by
  induction l with
  | nil => exact fun _ _ _ => rfl
  | cons x rest ih =>
    intro m a h
    rw [List.length_cons, Memory.readNat, ofBytes]
    have h0 := h 0 (by simp)
    rw [Nat.add_zero] at h0
    rw [h0, ih m (a + 1) (fun i hi => by
      have := h (i + 1) (by simp; omega)
      rw [show a + 1 + i = a + (i + 1) by omega, this, List.getD_cons_succ])]
    rfl

theorem ofBytes_append (l k : List (BitVec 8)) : ofBytes (l ++ k) = ofBytes l + 256 ^ l.length * ofBytes k := by
  induction l with
  | nil => simp [ofBytes]
  | cons x rest ih =>
    rw [List.cons_append, ofBytes, ofBytes, ih, List.length_cons, Nat.pow_succ, Nat.mul_add, Nat.mul_comm (256 ^ rest.length) 256, Nat.mul_assoc, Nat.add_assoc]

theorem ofBytes_enc (e v : Nat) : ofBytes ((List.range e).map (fun i => BitVec.ofNat 8 (v / 2 ^ (8 * i)))) = v % 256 ^ e := by
  induction e with
  | zero => simp [ofBytes, Nat.mod_one]
  | succ e ih =>
    rw [List.range_succ, List.map_append, ofBytes_append, ih, List.length_map, List.length_range]
    have : (2 : Nat) ^ (8 * e) = 256 ^ e := by rw [Nat.pow_mul]
    simp only [List.map_cons, List.map_nil, ofBytes, BitVec.toNat_ofNat, this]
    have hm := @Nat.mod_mul (256 ^ e) 256 v
    rw [Nat.mul_zero, Nat.add_zero, Nat.pow_succ 256 e, hm]

def encVals (e : Nat) (vals : List Nat) : List (BitVec 8) := vals.flatMap (fun v => (List.range e).map (fun i => BitVec.ofNat 8 (v / 2 ^ (8 * i))))

theorem encVals_length (e : Nat) (vals : List Nat) : (encVals e vals).length = e * vals.length := by
  induction vals with
  | nil => rfl
  | cons v rest ih =>
    unfold encVals at *
    rw [List.flatMap_cons, List.length_append, ih, List.length_map, List.length_range, List.length_cons, Nat.mul_succ]
    omega

theorem encVals_field (e : Nat) (he : 0 < e) (vals : List Nat) : ∀ k, k < vals.length →
    field (ofBytes (encVals e vals)) (8 * e * k) (8 * e) = vals.getD k 0 % 2 ^ (8 * e) := by
  have hp : (2 : Nat) ^ (8 * e) = 256 ^ e := by rw [Nat.pow_mul]
  induction vals with
  | nil => intro k hk; exact absurd hk (by simp)
  | cons v rest ih =>
    intro k hk
    have e1 : encVals e (v :: rest) = (List.range e).map (fun i => BitVec.ofNat 8 (v / 2 ^ (8 * i))) ++ encVals e rest := rfl
    rw [e1, ofBytes_append, ofBytes_enc, List.length_map, List.length_range]
    have hpos : 0 < 256 ^ e := Nat.pow_pos (by decide)
    unfold field at ih ⊢
    rw [hp] at ih ⊢
    cases k with
    | zero =>
      rw [Nat.mul_zero, Nat.pow_zero, Nat.div_one, Nat.add_mul_mod_self_left, Nat.mod_mod]; rfl
    | succ k =>
      have := ih k (by simpa using hk)
      rw [show 8 * e * (k + 1) = 8 * e + 8 * e * k by rw [Nat.mul_succ]; omega, Nat.pow_add, ← Nat.div_div_eq_div_mul, hp,
        Nat.add_mul_div_left _ _ hpos, Nat.div_eq_of_lt (Nat.mod_lt v hpos), Nat.zero_add, this]
      rfl

theorem accElem_pos (t : AccTy) : 0 < accElem t := by unfold accElem; split <;> decide

theorem accWrite_read (p : Spindle) (a : Nat) (t : AccTy) (vals : List Nat) :
    (p.accWrite a t vals).accRead a vals.length t = vals.map (fun v => v % 2 ^ (8 * accElem t)) := by
  have hr : (p.accWrite a t vals).acc.readNat (accBytes * a) (accElem t * vals.length) = ofBytes (encVals (accElem t) vals) := by
    rw [← encVals_length]
    apply readNat_ofBytes
    intro i hi
    show (p.acc.splice (accBytes * a) (encVals (accElem t) vals)).read _ = _
    rw [read_splice, if_pos (by omega)]
    congr 1; omega
  unfold Spindle.accRead
  dsimp only
  rw [hr]
  apply List.ext_getElem
  · simp
  · intro k h1 h2
    have hk : k < vals.length := by simpa using h2
    rw [List.getElem_map, List.getElem_range, encVals_field _ (accElem_pos t) vals k hk, List.getElem_map,
      List.getD_eq_getElem?_getD, List.getElem?_eq_getElem hk]
    rfl

theorem accWrite_other (p : Spindle) (a : Nat) (t : AccTy) (vals : List Nat) (x : Nat)
    (h : x < 18432 * a ∨ 18432 * a + accElem t * vals.length ≤ x) : (p.accWrite a t vals).acc.read x = p.acc.read x := by
  show (p.acc.splice (accBytes * a) (encVals (accElem t) vals)).read x = _
  rw [read_splice, encVals_length, if_neg]
  unfold accBytes
  omega

theorem accTy_setAccTy (p : Spindle) (i j : Nat) (t : AccTy) : (p.setAccTy i t).accTy j = if j = i then t else p.accTy j :=
  sget_sput (fun _ => AccTy.f32) p.accs i t j

theorem setAccTys (t : AccTy) (a : Nat) (u : Nat) : ∀ (p : Spindle),
    let q := (List.range u).foldl (fun p i => p.setAccTy (a + i) t) p
    q = { p with accs := q.accs } ∧ ∀ k, q.accTy k = if a ≤ k ∧ k < a + u then t else p.accTy k := by
  induction u with
  | zero => intro p; exact ⟨rfl, fun k => by rw [if_neg (by omega)]; rfl⟩
  | succ u ih =>
    intro p
    dsimp only
    rw [List.range_succ, List.foldl_append]
    obtain ⟨h1, h2⟩ := ih p
    generalize (List.range u).foldl (fun p i => p.setAccTy (a + i) t) p = q at h1 h2
    simp only [List.foldl_cons, List.foldl_nil]
    refine ⟨?_, ?_⟩
    · rw [h1]; rfl
    · intro k
      rw [accTy_setAccTy, h2]
      by_cases e : k = a + u
      · rw [if_pos e, if_pos (by omega)]
      · rw [if_neg e]
        by_cases c : a ≤ k ∧ k < a + u
        · rw [if_pos c, if_pos (by omega)]
        · rw [if_neg c, if_neg (by omega)]

theorem zip_range_map {β γ : Type} (n : Nat) (g : Nat → β) (h : β → Nat → γ) :
    (((List.range n).map g).zip (List.range ((List.range n).map g).length)).map (fun q => h q.1 q.2) = (List.range n).map (fun k => h (g k) k) := by
  apply List.ext_getElem
  · simp
  · intro k h1 h2
    simp

theorem runCore_eq (o : Mma) (s : State) (chunks : Nat) (p : Spindle) (fl q : Nat) :
    ∃ vals, (o.runCore s chunks (p, fl) q).1 = p.accWrite (8 * q + o.acc) (if o.f64 then .f64 else .f32) vals := ⟨_, rfl⟩

theorem runCore_cluster (o : Mma) (s : State) (chunks : Nat) (acc : Spindle × Nat) (q : Nat) : (o.runCore s chunks acc q).1.cluster = acc.1.cluster := rfl

theorem run_cluster (o : Mma) (s : State) (p : Spindle) (chunks : Nat) : (o.run s p chunks).cluster = p.cluster := by
  have : ∀ (l : List Nat) (acc : Spindle × Nat), (l.foldl (o.runCore s chunks) acc).1.cluster = acc.1.cluster := by
    intro l
    induction l with
    | nil => exact fun _ => rfl
    | cons x l ih => intro acc; rw [List.foldl_cons, ih, runCore_cluster]
  exact this o.cores (p, 0)

theorem slotsTo_cluster (l : List Nat) (st : SlotState) : ∀ p : Spindle, (p.slotsTo l st).cluster = p.cluster := by
  unfold Spindle.slotsTo
  induction l with
  | nil => exact fun _ => rfl
  | cons x l ih => intro p; rw [List.foldl_cons, ih]; rfl

theorem cells_get {α β : Type} (av : List α) (bv : List β) : ∀ k j, j < bv.length →
    (av.flatMap (fun r => bv.map (fun c => (r, c))))[k * bv.length + j]? = (av[k]?).bind (fun r => (bv[j]?).map (fun c => (r, c))) := by
  induction av with
  | nil => intro k j _; simp
  | cons r av ih =>
    intro k j hj
    rw [List.flatMap_cons]
    cases k with
    | zero =>
      rw [Nat.zero_mul, Nat.zero_add, List.getElem?_append_left (by simpa using hj)]
      simp
    | succ k =>
      rw [List.getElem?_append_right (by rw [List.length_map, Nat.succ_mul]; omega), List.length_map,
        show (k + 1) * bv.length + j - bv.length = k * bv.length + j by rw [Nat.succ_mul]; omega, ih k j hj]
      simp

theorem cells_length {α β : Type} (av : List α) (bv : List β) : (av.flatMap (fun r => bv.map (fun c => (r, c)))).length = av.length * bv.length := by
  induction av with
  | nil => simp
  | cons r av ih => rw [List.flatMap_cons, List.length_append, ih, List.length_map, List.length_cons, Nat.succ_mul, Nat.add_comm]

theorem spindleMods (x : State) (f g : Spindle → Spindle) (hf : Stays f) (hg : Stays g) (fl : Nat) :
    ((x.modCurSpindle f).modCurSpindle g).orFlags fl = x.modAgent (fun w => w.flagged fl) (fun q => (g (f q)).flagged fl) := by
  rw [modCurSpindle_eq, modCurSpindle_eq, orFlags_eq, modAgent_modAgent _ _ _ _ _ places_id places_id hf hg]
  exact modAgent_modAgent _ (fun w => w) (fun w => w.flagged fl) (fun q => g (f q)) (fun q => q.flagged fl) places_id (fun _ => ⟨rfl, rfl⟩)
    (fun q => (hg (f q)).trans (hf q)) (fun _ => rfl)

end Sys2Proof.Machine
end

