-- ==== Sys2Proof/Laws/Trap.lean ====
section
/-! SUPPORT. What taking an exception can do (R272, R336): a supervisor trap of a wave or of a Spindle program, or its end. -/

namespace Sys2Proof.Machine

theorem inHandler_user {s : State} (h : s.curMode = .user) : s.inHandler = false := by
  unfold State.inHandler
  unfold State.curMode at h
  cases hw : s.curWave with
  | none => rfl
  | some w =>
    rw [hw] at h
    simp only at h
    simp only [Wave.exemptPoison, h]
    rfl

/-- A record of a wave changes buffers only. -/
theorem logWave_rest (s : State) (w : Wave) (ty d : Nat) (p : BitVec 64) : s.logWave w ty d p = { s with bufs := (s.logWave w ty d p).bufs } := rfl

theorem logSpindle_rest (s : State) (q : Spindle) (ty d : Nat) (p : BitVec 64) :
    s.logSpindle q ty d p = { s with bufs := (s.logSpindle q ty d p).bufs } := rfl

/-- In user mode, in a context with vectors in use, a wave enters the supervisor. -/
theorem takeTrap_wave {s : State} {w : Wave} (hw : s.curWave = some w) (hm : s.curMode = .user) (he : s.ctlField (.tvec s.curCtx) 0 1 ≠ 0)
    (cause : Nat) (tepc addr lanes : BitVec 64) :
    s.takeTrap cause tepc addr lanes = (s.logWave w 0x11 cause tepc).setWave (w.enterTrap (s.trapVector s.curCtx) cause tepc addr lanes) := by
  have hc := curWave_place hw
  have hs : s.wave? w.core w.slot = some w := by
    unfold State.curWave at hw
    rw [hc] at hw
    exact hw
  have hb : (s.curMode == Mode.supervisor) = false := by rw [hm]; rfl
  have hz : (s.ctlField (.tvec s.curCtx) 0 1 == 0) = false := by simpa using he
  unfold State.takeTrap
  simp only [inHandler_user hm, Bool.false_and, Bool.false_eq_true, if_false, hb, hz, hc, hs]

theorem takeTrap_spindle {s : State} {p : Spindle} (hp : s.curSpindle = some p) (hm : s.curMode = .user)
    (he : s.ctlField (.tvec s.curCtx) 0 1 ≠ 0) (cause : Nat) (tepc addr lanes : BitVec 64) :
    s.takeTrap cause tepc addr lanes = (s.logSpindle p 0x11 cause tepc).setSpindle (p.enterTrap (s.trapVector s.curCtx) cause tepc addr) := by
  have hc := curSpindle_place hp
  have hs : s.spindle? p.cluster = some p := by
    unfold State.curSpindle at hp
    rw [hc] at hp
    exact hp
  have hb : (s.curMode == Mode.supervisor) = false := by rw [hm]; rfl
  have hz : (s.ctlField (.tvec s.curCtx) 0 1 == 0) = false := by simpa using he
  unfold State.takeTrap
  simp only [inHandler_user hm, Bool.false_and, Bool.false_eq_true, if_false, hb, hz, hc, hs]

/-- Without vectors a cause ends the agent. -/
theorem takeTrap_noVector {s : State} (hm : s.curMode = .user) (he : s.ctlField (.tvec s.curCtx) 0 1 = 0)
    (cause : Nat) (tepc addr lanes : BitVec 64) : s.takeTrap cause tepc addr lanes = s.endCur cause := by
  have hb : (s.curMode == Mode.supervisor) = false := by rw [hm]; rfl
  unfold State.takeTrap
  simp only [inHandler_user hm, Bool.false_and, Bool.false_eq_true, if_false, hb, he]
  rfl

/-- In supervisor mode a cause is a double trap, but for one met by a handler in its save region. -/
theorem takeTrap_supervisor {s : State} (hm : s.curMode = .supervisor) (cause : Nat) (tepc addr lanes : BitVec 64)
    (hs : ¬ (s.inHandler = true ∧ cause / 32 = 2 ∧ s.inSaveRegion s.curCtx addr.toNat = true)) :
    s.takeTrap cause tepc addr lanes = s.endCur causeDoubleTrap := by
  unfold State.takeTrap
  dsimp only
  rw [if_neg (by simpa [and_assoc] using hs), if_pos (by rw [hm]; rfl)]

theorem endCur_eq (s : State) (cause : Nat) :
    s.endCur cause = s.modAgent (fun w => { w with wait := .ended cause }) (fun p => { p with wait := .ended cause }) := by
  unfold State.endCur
  split <;> rename_i h
  · rw [modAgent_wave h]
  · rw [modAgent_spindle h]
  · rw [modAgent_none h]

theorem trapReturn_eq (s : State) :
    s.trapReturn = s.modAgent (fun w => { w with mode := .user, pc := w.tepc }) (fun p => { p with mode := .user, pc := p.tepc }) := by
  unfold State.trapReturn
  split <;> rename_i h
  · rw [modAgent_wave h]
  · rw [modAgent_spindle h]
  · rw [modAgent_none h]

/-- Every end of a precise cause changes the agent and the log alone. -/
theorem takeTrap_rest (s : State) (cause : Nat) (tepc addr lanes : BitVec 64) :
    let t := s.takeTrap cause tepc addr lanes
    t = { s with waves := t.waves, spindles := t.spindles, bufs := t.bufs } := by
  unfold State.takeTrap
  dsimp only
  have he : ∀ x, s.endCur x = { s with waves := (s.endCur x).waves, spindles := (s.endCur x).spindles, bufs := (s.endCur x).bufs } := fun x => by
    have h := modAgent_rest s (fun w => { w with wait := .ended x }) (fun p => { p with wait := .ended x })
    rw [← endCur_eq] at h
    generalize s.endCur x = t at h
    rw [h]
  split
  · exact he _
  split
  · exact he _
  split
  · exact he _
  split
  · split <;> rfl
  · split <;> rfl
  · rfl

end Sys2Proof.Machine
end

