-- ==== Sys2Proof/Laws/Registers.lean ====
section
/-! SUPPORT. Registers of four words, and returns and special registers as changes of the agent. -/

namespace Sys2Proof.Machine

theorem jump_eq (s : State) (words : Nat) (fw : Wave → Wave) (fp : Spindle → Spindle) (h1 : Places fw) (h3 : Stays fp) (pc : BitVec 64) :
    s.finish words (.jump (s.modAgent fw fp) pc) = s.complete pc fw fp := jump_modAgent s words fw fp h1 h3 pc

theorem range4 : List.range 4 = [0, 1, 2, 3] := rfl

theorem regs4_range (x : BitVec 256) (d : Nat) (w : Wave) :
    (List.range 4).foldl (fun v k => v.withS (d + k) (x.extractLsb' (64 * k) 64)) w = (((w.withS d (x.extractLsb' 0 64)).withS (d + 1) (x.extractLsb' 64 64)).withS (d + 2) (x.extractLsb' 128 64)).withS (d + 3) (x.extractLsb' 192 64) := by
  simp only [range4, List.foldl_cons, List.foldl_nil, Nat.add_zero, Nat.mul_zero, Nat.mul_one, Nat.reduceMul]

@[irreducible] def regs4 (d : Nat) (x : BitVec 256) (w : Wave) : Wave :=
  (((w.withS d (x.extractLsb' 0 64)).withS (d + 1) (x.extractLsb' 64 64)).withS (d + 2) (x.extractLsb' 128 64)).withS (d + 3) (x.extractLsb' 192 64)

@[irreducible] def xregs4 (d : Nat) (x : BitVec 256) (w : Spindle) : Spindle :=
  (((w.withX d (x.extractLsb' 0 64)).withX (d + 1) (x.extractLsb' 64 64)).withX (d + 2) (x.extractLsb' 128 64)).withX (d + 3) (x.extractLsb' 192 64)

theorem withS_eta (w v : Wave) (d : Nat) (x : BitVec 64) (q : List (BitVec 256)) (h : v = { w with s := v.s, sMark := v.sMark, sfq := q }) :
    v.withS d x = { w with s := (v.withS d x).s, sMark := (v.withS d x).sMark, sfq := q } := by
  generalize v.s = a at h
  generalize v.sMark = b at h
  subst h
  rfl

theorem withS_place (d : Nat) (x : BitVec 64) : Places (fun w => w.withS d x) := fun _ => ⟨rfl, rfl⟩

theorem withX_place (d : Nat) (x : BitVec 64) : Stays (fun w => w.withX d x) := fun _ => rfl

theorem places_comp {f g : Wave → Wave} (h1 : Places f) (h2 : Places g) : Places (fun w => f (g w)) := fun w =>
  ⟨(h1 (g w)).1.trans (h2 w).1, (h1 (g w)).2.trans (h2 w).2⟩

theorem stays_comp {f g : Spindle → Spindle} (h1 : Stays f) (h2 : Stays g) : Stays (fun w => f (g w)) := fun w => (h1 (g w)).trans (h2 w)

theorem regs4_place (d : Nat) (x : BitVec 256) : Places (regs4 d x) := fun _ => by unfold regs4; exact places_comp (withS_place _ _) (places_comp (withS_place _ _) (places_comp (withS_place _ _) (withS_place _ _))) _

theorem xregs4_place (d : Nat) (x : BitVec 256) : Stays (xregs4 d x) := fun _ => by unfold xregs4; exact (withX_place _ _ _).trans ((withX_place _ _ _).trans ((withX_place _ _ _).trans (withX_place _ _ _)))

theorem putRecord4_eq (s : State) (d : Nat) (x : BitVec 256) : s.putRecord4 d x = s.modAgent (regs4 d x) (xregs4 d x) := by
  unfold State.putRecord4
  simp only [range4, List.foldl_cons, List.foldl_nil, swr_eq, Nat.add_zero, Nat.mul_zero, Nat.mul_one, Nat.reduceMul]
  rw [modAgent_modAgent _ (fun w => w.withS d (x.extractLsb' 0 64)) (fun w => w.withS (d + 1) (x.extractLsb' 64 64)) (fun w => w.withX d (x.extractLsb' 0 64)) (fun w => w.withX (d + 1) (x.extractLsb' 64 64)) (withS_place _ _) (withS_place _ _) (withX_place _ _) (withX_place _ _),
    modAgent_modAgent _ (fun w => (w.withS d (x.extractLsb' 0 64)).withS (d + 1) (x.extractLsb' 64 64)) (fun w => w.withS (d + 2) (x.extractLsb' 128 64)) (fun w => (w.withX d (x.extractLsb' 0 64)).withX (d + 1) (x.extractLsb' 64 64)) (fun w => w.withX (d + 2) (x.extractLsb' 128 64)) (places_comp (withS_place _ _) (withS_place _ _)) (withS_place _ _) (stays_comp (withX_place _ _) (withX_place _ _)) (withX_place _ _),
    modAgent_modAgent _ (fun w => ((w.withS d (x.extractLsb' 0 64)).withS (d + 1) (x.extractLsb' 64 64)).withS (d + 2) (x.extractLsb' 128 64)) (fun w => w.withS (d + 3) (x.extractLsb' 192 64)) (fun w => ((w.withX d (x.extractLsb' 0 64)).withX (d + 1) (x.extractLsb' 64 64)).withX (d + 2) (x.extractLsb' 128 64)) (fun w => w.withX (d + 3) (x.extractLsb' 192 64)) (places_comp (withS_place _ _) (places_comp (withS_place _ _) (withS_place _ _))) (withS_place _ _) (stays_comp (withX_place _ _) (stays_comp (withX_place _ _) (withX_place _ _))) (withX_place _ _)]
  unfold regs4 xregs4
  rfl

theorem complete_wave {s : State} {w : Wave} (hw : s.curWave = some w) {pc : BitVec 64} {f f' : Wave → Wave} {g g' : Spindle → Spindle} (e : f w = f' w) :
    s.complete pc f g = s.complete pc f' g' := by
  have hc := curWave_place hw
  have hs : s.wave? w.core w.slot = some w := by
    unfold State.curWave at hw
    rw [hc] at hw
    exact hw
  rw [complete_eq, complete_eq, modAgent_wave hc, modAgent_wave hc]
  unfold State.modWave
  rw [hs]
  simp only [e]

theorem putRecord4_done {s : State} {w : Wave} (hw : s.curWave = some w) (f : Wave → Wave) (hf : Places f) (d words : Nat) (x : BitVec 256)
    (hn : canonical (s.nextPc words) = true) :
    s.finish words (.done ((s.modCurWave f).putRecord4 d x)) = s.complete (s.nextPc words) (fun w => regs4 d x (f w)) (fun p => p) := by
  rw [modCurWave_eq, putRecord4_eq, modAgent_modAgent _ _ _ _ _ hf (regs4_place _ _) stays_id (xregs4_place _ _)]
  rw [finish_modAgent s words (fun w => regs4 d x (f w)) (fun p => xregs4 d x p) (places_comp (regs4_place d x) hf) (xregs4_place d x) hn]
  exact complete_wave hw rfl

theorem putSpecial_place (w : Wave) (k : Nat) (v : BitVec 64) :
    (w.putSpecial k v).core = w.core ∧ (w.putSpecial k v).slot = w.slot := by
  unfold Wave.putSpecial; split <;> exact ⟨rfl, rfl⟩

theorem putSpecial_cluster (p : Spindle) (k : Nat) (v : BitVec 64) : (p.putSpecial k v).cluster = p.cluster := by
  unfold Spindle.putSpecial; split <;> rfl

end Sys2Proof.Machine
end

