-- ==== Sys2Proof/Laws/State.lean ====
section
/-! SUPPORT. One lemma per field and update of the state: what a shared update of a part writes, and that it leaves every other
field. Each is true by unfolding, so that no later proof unfolds a record update. -/

namespace Sys2Proof.Machine

/-! ## State.setWave -/

@[simp] theorem State.setWave_clk (x : State) (w : Wave) : (x.setWave w).clk = x.clk := rfl
@[simp] theorem State.setWave_cyc (x : State) (w : Wave) : (x.setWave w).cyc = x.cyc := rfl
@[simp] theorem State.setWave_free (x : State) (w : Wave) : (x.setWave w).free = x.free := rfl
@[simp] theorem State.setWave_agenda (x : State) (w : Wave) : (x.setWave w).agenda = x.agenda := rfl
@[simp] theorem State.setWave_cur (x : State) (w : Wave) : (x.setWave w).cur = x.cur := rfl
@[simp] theorem State.setWave_turn (x : State) (w : Wave) : (x.setWave w).turn = x.turn := rfl
@[simp] theorem State.setWave_out (x : State) (w : Wave) : (x.setWave w).out = x.out := rfl
@[simp] theorem State.setWave_mem (x : State) (w : Wave) : (x.setWave w).mem = x.mem := rfl
@[simp] theorem State.setWave_cs (x : State) (w : Wave) : (x.setWave w).cs = x.cs := rfl
@[simp] theorem State.setWave_csMark (x : State) (w : Wave) : (x.setWave w).csMark = x.csMark := rfl
@[simp] theorem State.setWave_poison (x : State) (w : Wave) : (x.setWave w).poison = x.poison := rfl
@[simp] theorem State.setWave_dir (x : State) (w : Wave) : (x.setWave w).dir = x.dir := rfl
@[simp] theorem State.setWave_routes (x : State) (w : Wave) : (x.setWave w).routes = x.routes := rfl
@[simp] theorem State.setWave_om (x : State) (w : Wave) : (x.setWave w).om = x.om := rfl
@[simp] theorem State.setWave_ctl (x : State) (w : Wave) : (x.setWave w).ctl = x.ctl := rfl
@[simp] theorem State.setWave_mbox (x : State) (w : Wave) : (x.setWave w).mbox = x.mbox := rfl
@[simp] theorem State.setWave_msix (x : State) (w : Wave) : (x.setWave w).msix = x.msix := rfl
@[simp] theorem State.setWave_msixPending (x : State) (w : Wave) : (x.setWave w).msixPending = x.msixPending := rfl
@[simp] theorem State.setWave_l1 (x : State) (w : Wave) : (x.setWave w).l1 = x.l1 := rfl
@[simp] theorem State.setWave_tlb (x : State) (w : Wave) : (x.setWave w).tlb = x.tlb := rfl
@[simp] theorem State.setWave_tables (x : State) (w : Wave) : (x.setWave w).tables = x.tables := rfl
@[simp] theorem State.setWave_walks (x : State) (w : Wave) : (x.setWave w).walks = x.walks := rfl
@[simp] theorem State.setWave_owners (x : State) (w : Wave) : (x.setWave w).owners = x.owners := rfl
@[simp] theorem State.setWave_walkerOwner (x : State) (w : Wave) : (x.setWave w).walkerOwner = x.walkerOwner := rfl
@[simp] theorem State.setWave_code (x : State) (w : Wave) : (x.setWave w).code = x.code := rfl
@[simp] theorem State.setWave_descs (x : State) (w : Wave) : (x.setWave w).descs = x.descs := rfl
@[simp] theorem State.setWave_waves (x : State) (w : Wave) : (x.setWave w).waves = replaceFirst (fun v => v.at w.core w.slot) w x.waves := rfl
@[simp] theorem State.setWave_blocks (x : State) (w : Wave) : (x.setWave w).blocks = x.blocks := rfl
@[simp] theorem State.setWave_spindles (x : State) (w : Wave) : (x.setWave w).spindles = x.spindles := rfl
@[simp] theorem State.setWave_spnReqs (x : State) (w : Wave) : (x.setWave w).spnReqs = x.spnReqs := rfl
@[simp] theorem State.setWave_locks (x : State) (w : Wave) : (x.setWave w).locks = x.locks := rfl
@[simp] theorem State.setWave_launches (x : State) (w : Wave) : (x.setWave w).launches = x.launches := rfl
@[simp] theorem State.setWave_away (x : State) (w : Wave) : (x.setWave w).away = x.away := rfl
@[simp] theorem State.setWave_stalls (x : State) (w : Wave) : (x.setWave w).stalls = x.stalls := rfl
@[simp] theorem State.setWave_batches (x : State) (w : Wave) : (x.setWave w).batches = x.batches := rfl
@[simp] theorem State.setWave_emissions (x : State) (w : Wave) : (x.setWave w).emissions = x.emissions := rfl
@[simp] theorem State.setWave_tlc (x : State) (w : Wave) : (x.setWave w).tlc = x.tlc := rfl
@[simp] theorem State.setWave_waiters (x : State) (w : Wave) : (x.setWave w).waiters = x.waiters := rfl
@[simp] theorem State.setWave_tags (x : State) (w : Wave) : (x.setWave w).tags = x.tags := rfl
@[simp] theorem State.setWave_tagGen (x : State) (w : Wave) : (x.setWave w).tagGen = x.tagGen := rfl
@[simp] theorem State.setWave_ctxs (x : State) (w : Wave) : (x.setWave w).ctxs = x.ctxs := rfl
@[simp] theorem State.setWave_last (x : State) (w : Wave) : (x.setWave w).last = x.last := rfl
@[simp] theorem State.setWave_lastQuarter (x : State) (w : Wave) : (x.setWave w).lastQuarter = x.lastQuarter := rfl
@[simp] theorem State.setWave_lastCtx (x : State) (w : Wave) : (x.setWave w).lastCtx = x.lastCtx := rfl
@[simp] theorem State.setWave_insts (x : State) (w : Wave) : (x.setWave w).insts = x.insts := rfl
@[simp] theorem State.setWave_order (x : State) (w : Wave) : (x.setWave w).order = x.order := rfl
@[simp] theorem State.setWave_serving (x : State) (w : Wave) : (x.setWave w).serving = x.serving := rfl
@[simp] theorem State.setWave_bufs (x : State) (w : Wave) : (x.setWave w).bufs = x.bufs := rfl
@[simp] theorem State.setWave_freezes (x : State) (w : Wave) : (x.setWave w).freezes = x.freezes := rfl
@[simp] theorem State.setWave_capsules (x : State) (w : Wave) : (x.setWave w).capsules = x.capsules := rfl
@[simp] theorem State.setWave_epochs (x : State) (w : Wave) : (x.setWave w).epochs = x.epochs := rfl
@[simp] theorem State.setWave_macs (x : State) (w : Wave) : (x.setWave w).macs = x.macs := rfl
@[simp] theorem State.setWave_mgmt (x : State) (w : Wave) : (x.setWave w).mgmt = x.mgmt := rfl

/-! ## State.setSpindle -/

@[simp] theorem State.setSpindle_clk (x : State) (p : Spindle) : (x.setSpindle p).clk = x.clk := rfl
@[simp] theorem State.setSpindle_cyc (x : State) (p : Spindle) : (x.setSpindle p).cyc = x.cyc := rfl
@[simp] theorem State.setSpindle_free (x : State) (p : Spindle) : (x.setSpindle p).free = x.free := rfl
@[simp] theorem State.setSpindle_agenda (x : State) (p : Spindle) : (x.setSpindle p).agenda = x.agenda := rfl
@[simp] theorem State.setSpindle_cur (x : State) (p : Spindle) : (x.setSpindle p).cur = x.cur := rfl
@[simp] theorem State.setSpindle_turn (x : State) (p : Spindle) : (x.setSpindle p).turn = x.turn := rfl
@[simp] theorem State.setSpindle_out (x : State) (p : Spindle) : (x.setSpindle p).out = x.out := rfl
@[simp] theorem State.setSpindle_mem (x : State) (p : Spindle) : (x.setSpindle p).mem = x.mem := rfl
@[simp] theorem State.setSpindle_cs (x : State) (p : Spindle) : (x.setSpindle p).cs = x.cs := rfl
@[simp] theorem State.setSpindle_csMark (x : State) (p : Spindle) : (x.setSpindle p).csMark = x.csMark := rfl
@[simp] theorem State.setSpindle_poison (x : State) (p : Spindle) : (x.setSpindle p).poison = x.poison := rfl
@[simp] theorem State.setSpindle_dir (x : State) (p : Spindle) : (x.setSpindle p).dir = x.dir := rfl
@[simp] theorem State.setSpindle_routes (x : State) (p : Spindle) : (x.setSpindle p).routes = x.routes := rfl
@[simp] theorem State.setSpindle_om (x : State) (p : Spindle) : (x.setSpindle p).om = x.om := rfl
@[simp] theorem State.setSpindle_ctl (x : State) (p : Spindle) : (x.setSpindle p).ctl = x.ctl := rfl
@[simp] theorem State.setSpindle_mbox (x : State) (p : Spindle) : (x.setSpindle p).mbox = x.mbox := rfl
@[simp] theorem State.setSpindle_msix (x : State) (p : Spindle) : (x.setSpindle p).msix = x.msix := rfl
@[simp] theorem State.setSpindle_msixPending (x : State) (p : Spindle) : (x.setSpindle p).msixPending = x.msixPending := rfl
@[simp] theorem State.setSpindle_l1 (x : State) (p : Spindle) : (x.setSpindle p).l1 = x.l1 := rfl
@[simp] theorem State.setSpindle_tlb (x : State) (p : Spindle) : (x.setSpindle p).tlb = x.tlb := rfl
@[simp] theorem State.setSpindle_tables (x : State) (p : Spindle) : (x.setSpindle p).tables = x.tables := rfl
@[simp] theorem State.setSpindle_walks (x : State) (p : Spindle) : (x.setSpindle p).walks = x.walks := rfl
@[simp] theorem State.setSpindle_owners (x : State) (p : Spindle) : (x.setSpindle p).owners = x.owners := rfl
@[simp] theorem State.setSpindle_walkerOwner (x : State) (p : Spindle) : (x.setSpindle p).walkerOwner = x.walkerOwner := rfl
@[simp] theorem State.setSpindle_code (x : State) (p : Spindle) : (x.setSpindle p).code = x.code := rfl
@[simp] theorem State.setSpindle_descs (x : State) (p : Spindle) : (x.setSpindle p).descs = x.descs := rfl
@[simp] theorem State.setSpindle_waves (x : State) (p : Spindle) : (x.setSpindle p).waves = x.waves := rfl
@[simp] theorem State.setSpindle_blocks (x : State) (p : Spindle) : (x.setSpindle p).blocks = x.blocks := rfl
@[simp] theorem State.setSpindle_spindles (x : State) (p : Spindle) : (x.setSpindle p).spindles = replaceFirst (fun q => q.cluster == p.cluster) p x.spindles := rfl
@[simp] theorem State.setSpindle_spnReqs (x : State) (p : Spindle) : (x.setSpindle p).spnReqs = x.spnReqs := rfl
@[simp] theorem State.setSpindle_locks (x : State) (p : Spindle) : (x.setSpindle p).locks = x.locks := rfl
@[simp] theorem State.setSpindle_launches (x : State) (p : Spindle) : (x.setSpindle p).launches = x.launches := rfl
@[simp] theorem State.setSpindle_away (x : State) (p : Spindle) : (x.setSpindle p).away = x.away := rfl
@[simp] theorem State.setSpindle_stalls (x : State) (p : Spindle) : (x.setSpindle p).stalls = x.stalls := rfl
@[simp] theorem State.setSpindle_batches (x : State) (p : Spindle) : (x.setSpindle p).batches = x.batches := rfl
@[simp] theorem State.setSpindle_emissions (x : State) (p : Spindle) : (x.setSpindle p).emissions = x.emissions := rfl
@[simp] theorem State.setSpindle_tlc (x : State) (p : Spindle) : (x.setSpindle p).tlc = x.tlc := rfl
@[simp] theorem State.setSpindle_waiters (x : State) (p : Spindle) : (x.setSpindle p).waiters = x.waiters := rfl
@[simp] theorem State.setSpindle_tags (x : State) (p : Spindle) : (x.setSpindle p).tags = x.tags := rfl
@[simp] theorem State.setSpindle_tagGen (x : State) (p : Spindle) : (x.setSpindle p).tagGen = x.tagGen := rfl
@[simp] theorem State.setSpindle_ctxs (x : State) (p : Spindle) : (x.setSpindle p).ctxs = x.ctxs := rfl
@[simp] theorem State.setSpindle_last (x : State) (p : Spindle) : (x.setSpindle p).last = x.last := rfl
@[simp] theorem State.setSpindle_lastQuarter (x : State) (p : Spindle) : (x.setSpindle p).lastQuarter = x.lastQuarter := rfl
@[simp] theorem State.setSpindle_lastCtx (x : State) (p : Spindle) : (x.setSpindle p).lastCtx = x.lastCtx := rfl
@[simp] theorem State.setSpindle_insts (x : State) (p : Spindle) : (x.setSpindle p).insts = x.insts := rfl
@[simp] theorem State.setSpindle_order (x : State) (p : Spindle) : (x.setSpindle p).order = x.order := rfl
@[simp] theorem State.setSpindle_serving (x : State) (p : Spindle) : (x.setSpindle p).serving = x.serving := rfl
@[simp] theorem State.setSpindle_bufs (x : State) (p : Spindle) : (x.setSpindle p).bufs = x.bufs := rfl
@[simp] theorem State.setSpindle_freezes (x : State) (p : Spindle) : (x.setSpindle p).freezes = x.freezes := rfl
@[simp] theorem State.setSpindle_capsules (x : State) (p : Spindle) : (x.setSpindle p).capsules = x.capsules := rfl
@[simp] theorem State.setSpindle_epochs (x : State) (p : Spindle) : (x.setSpindle p).epochs = x.epochs := rfl
@[simp] theorem State.setSpindle_macs (x : State) (p : Spindle) : (x.setSpindle p).macs = x.macs := rfl
@[simp] theorem State.setSpindle_mgmt (x : State) (p : Spindle) : (x.setSpindle p).mgmt = x.mgmt := rfl

/-! ## State.setBlock -/

@[simp] theorem State.setBlock_clk (x : State) (b : Block) : (x.setBlock b).clk = x.clk := rfl
@[simp] theorem State.setBlock_cyc (x : State) (b : Block) : (x.setBlock b).cyc = x.cyc := rfl
@[simp] theorem State.setBlock_free (x : State) (b : Block) : (x.setBlock b).free = x.free := rfl
@[simp] theorem State.setBlock_agenda (x : State) (b : Block) : (x.setBlock b).agenda = x.agenda := rfl
@[simp] theorem State.setBlock_cur (x : State) (b : Block) : (x.setBlock b).cur = x.cur := rfl
@[simp] theorem State.setBlock_turn (x : State) (b : Block) : (x.setBlock b).turn = x.turn := rfl
@[simp] theorem State.setBlock_out (x : State) (b : Block) : (x.setBlock b).out = x.out := rfl
@[simp] theorem State.setBlock_mem (x : State) (b : Block) : (x.setBlock b).mem = x.mem := rfl
@[simp] theorem State.setBlock_cs (x : State) (b : Block) : (x.setBlock b).cs = x.cs := rfl
@[simp] theorem State.setBlock_csMark (x : State) (b : Block) : (x.setBlock b).csMark = x.csMark := rfl
@[simp] theorem State.setBlock_poison (x : State) (b : Block) : (x.setBlock b).poison = x.poison := rfl
@[simp] theorem State.setBlock_dir (x : State) (b : Block) : (x.setBlock b).dir = x.dir := rfl
@[simp] theorem State.setBlock_routes (x : State) (b : Block) : (x.setBlock b).routes = x.routes := rfl
@[simp] theorem State.setBlock_om (x : State) (b : Block) : (x.setBlock b).om = x.om := rfl
@[simp] theorem State.setBlock_ctl (x : State) (b : Block) : (x.setBlock b).ctl = x.ctl := rfl
@[simp] theorem State.setBlock_mbox (x : State) (b : Block) : (x.setBlock b).mbox = x.mbox := rfl
@[simp] theorem State.setBlock_msix (x : State) (b : Block) : (x.setBlock b).msix = x.msix := rfl
@[simp] theorem State.setBlock_msixPending (x : State) (b : Block) : (x.setBlock b).msixPending = x.msixPending := rfl
@[simp] theorem State.setBlock_l1 (x : State) (b : Block) : (x.setBlock b).l1 = x.l1 := rfl
@[simp] theorem State.setBlock_tlb (x : State) (b : Block) : (x.setBlock b).tlb = x.tlb := rfl
@[simp] theorem State.setBlock_tables (x : State) (b : Block) : (x.setBlock b).tables = x.tables := rfl
@[simp] theorem State.setBlock_walks (x : State) (b : Block) : (x.setBlock b).walks = x.walks := rfl
@[simp] theorem State.setBlock_owners (x : State) (b : Block) : (x.setBlock b).owners = x.owners := rfl
@[simp] theorem State.setBlock_walkerOwner (x : State) (b : Block) : (x.setBlock b).walkerOwner = x.walkerOwner := rfl
@[simp] theorem State.setBlock_code (x : State) (b : Block) : (x.setBlock b).code = x.code := rfl
@[simp] theorem State.setBlock_descs (x : State) (b : Block) : (x.setBlock b).descs = x.descs := rfl
@[simp] theorem State.setBlock_waves (x : State) (b : Block) : (x.setBlock b).waves = x.waves := rfl
@[simp] theorem State.setBlock_blocks (x : State) (b : Block) : (x.setBlock b).blocks = replaceFirst (fun c => c.at b.launch b.index) b x.blocks := rfl
@[simp] theorem State.setBlock_spindles (x : State) (b : Block) : (x.setBlock b).spindles = x.spindles := rfl
@[simp] theorem State.setBlock_spnReqs (x : State) (b : Block) : (x.setBlock b).spnReqs = x.spnReqs := rfl
@[simp] theorem State.setBlock_locks (x : State) (b : Block) : (x.setBlock b).locks = x.locks := rfl
@[simp] theorem State.setBlock_launches (x : State) (b : Block) : (x.setBlock b).launches = x.launches := rfl
@[simp] theorem State.setBlock_away (x : State) (b : Block) : (x.setBlock b).away = x.away := rfl
@[simp] theorem State.setBlock_stalls (x : State) (b : Block) : (x.setBlock b).stalls = x.stalls := rfl
@[simp] theorem State.setBlock_batches (x : State) (b : Block) : (x.setBlock b).batches = x.batches := rfl
@[simp] theorem State.setBlock_emissions (x : State) (b : Block) : (x.setBlock b).emissions = x.emissions := rfl
@[simp] theorem State.setBlock_tlc (x : State) (b : Block) : (x.setBlock b).tlc = x.tlc := rfl
@[simp] theorem State.setBlock_waiters (x : State) (b : Block) : (x.setBlock b).waiters = x.waiters := rfl
@[simp] theorem State.setBlock_tags (x : State) (b : Block) : (x.setBlock b).tags = x.tags := rfl
@[simp] theorem State.setBlock_tagGen (x : State) (b : Block) : (x.setBlock b).tagGen = x.tagGen := rfl
@[simp] theorem State.setBlock_ctxs (x : State) (b : Block) : (x.setBlock b).ctxs = x.ctxs := rfl
@[simp] theorem State.setBlock_last (x : State) (b : Block) : (x.setBlock b).last = x.last := rfl
@[simp] theorem State.setBlock_lastQuarter (x : State) (b : Block) : (x.setBlock b).lastQuarter = x.lastQuarter := rfl
@[simp] theorem State.setBlock_lastCtx (x : State) (b : Block) : (x.setBlock b).lastCtx = x.lastCtx := rfl
@[simp] theorem State.setBlock_insts (x : State) (b : Block) : (x.setBlock b).insts = x.insts := rfl
@[simp] theorem State.setBlock_order (x : State) (b : Block) : (x.setBlock b).order = x.order := rfl
@[simp] theorem State.setBlock_serving (x : State) (b : Block) : (x.setBlock b).serving = x.serving := rfl
@[simp] theorem State.setBlock_bufs (x : State) (b : Block) : (x.setBlock b).bufs = x.bufs := rfl
@[simp] theorem State.setBlock_freezes (x : State) (b : Block) : (x.setBlock b).freezes = x.freezes := rfl
@[simp] theorem State.setBlock_capsules (x : State) (b : Block) : (x.setBlock b).capsules = x.capsules := rfl
@[simp] theorem State.setBlock_epochs (x : State) (b : Block) : (x.setBlock b).epochs = x.epochs := rfl
@[simp] theorem State.setBlock_macs (x : State) (b : Block) : (x.setBlock b).macs = x.macs := rfl
@[simp] theorem State.setBlock_mgmt (x : State) (b : Block) : (x.setBlock b).mgmt = x.mgmt := rfl

/-! ## State.setLaunch -/

@[simp] theorem State.setLaunch_clk (x : State) (l : Launch) : (x.setLaunch l).clk = x.clk := rfl
@[simp] theorem State.setLaunch_cyc (x : State) (l : Launch) : (x.setLaunch l).cyc = x.cyc := rfl
@[simp] theorem State.setLaunch_free (x : State) (l : Launch) : (x.setLaunch l).free = x.free := rfl
@[simp] theorem State.setLaunch_agenda (x : State) (l : Launch) : (x.setLaunch l).agenda = x.agenda := rfl
@[simp] theorem State.setLaunch_cur (x : State) (l : Launch) : (x.setLaunch l).cur = x.cur := rfl
@[simp] theorem State.setLaunch_turn (x : State) (l : Launch) : (x.setLaunch l).turn = x.turn := rfl
@[simp] theorem State.setLaunch_out (x : State) (l : Launch) : (x.setLaunch l).out = x.out := rfl
@[simp] theorem State.setLaunch_mem (x : State) (l : Launch) : (x.setLaunch l).mem = x.mem := rfl
@[simp] theorem State.setLaunch_cs (x : State) (l : Launch) : (x.setLaunch l).cs = x.cs := rfl
@[simp] theorem State.setLaunch_csMark (x : State) (l : Launch) : (x.setLaunch l).csMark = x.csMark := rfl
@[simp] theorem State.setLaunch_poison (x : State) (l : Launch) : (x.setLaunch l).poison = x.poison := rfl
@[simp] theorem State.setLaunch_dir (x : State) (l : Launch) : (x.setLaunch l).dir = x.dir := rfl
@[simp] theorem State.setLaunch_routes (x : State) (l : Launch) : (x.setLaunch l).routes = x.routes := rfl
@[simp] theorem State.setLaunch_om (x : State) (l : Launch) : (x.setLaunch l).om = x.om := rfl
@[simp] theorem State.setLaunch_ctl (x : State) (l : Launch) : (x.setLaunch l).ctl = x.ctl := rfl
@[simp] theorem State.setLaunch_mbox (x : State) (l : Launch) : (x.setLaunch l).mbox = x.mbox := rfl
@[simp] theorem State.setLaunch_msix (x : State) (l : Launch) : (x.setLaunch l).msix = x.msix := rfl
@[simp] theorem State.setLaunch_msixPending (x : State) (l : Launch) : (x.setLaunch l).msixPending = x.msixPending := rfl
@[simp] theorem State.setLaunch_l1 (x : State) (l : Launch) : (x.setLaunch l).l1 = x.l1 := rfl
@[simp] theorem State.setLaunch_tlb (x : State) (l : Launch) : (x.setLaunch l).tlb = x.tlb := rfl
@[simp] theorem State.setLaunch_tables (x : State) (l : Launch) : (x.setLaunch l).tables = x.tables := rfl
@[simp] theorem State.setLaunch_walks (x : State) (l : Launch) : (x.setLaunch l).walks = x.walks := rfl
@[simp] theorem State.setLaunch_owners (x : State) (l : Launch) : (x.setLaunch l).owners = x.owners := rfl
@[simp] theorem State.setLaunch_walkerOwner (x : State) (l : Launch) : (x.setLaunch l).walkerOwner = x.walkerOwner := rfl
@[simp] theorem State.setLaunch_code (x : State) (l : Launch) : (x.setLaunch l).code = x.code := rfl
@[simp] theorem State.setLaunch_descs (x : State) (l : Launch) : (x.setLaunch l).descs = x.descs := rfl
@[simp] theorem State.setLaunch_waves (x : State) (l : Launch) : (x.setLaunch l).waves = x.waves := rfl
@[simp] theorem State.setLaunch_blocks (x : State) (l : Launch) : (x.setLaunch l).blocks = x.blocks := rfl
@[simp] theorem State.setLaunch_spindles (x : State) (l : Launch) : (x.setLaunch l).spindles = x.spindles := rfl
@[simp] theorem State.setLaunch_spnReqs (x : State) (l : Launch) : (x.setLaunch l).spnReqs = x.spnReqs := rfl
@[simp] theorem State.setLaunch_locks (x : State) (l : Launch) : (x.setLaunch l).locks = x.locks := rfl
@[simp] theorem State.setLaunch_launches (x : State) (l : Launch) : (x.setLaunch l).launches = replaceFirst (fun m => m.num == l.num) l x.launches := rfl
@[simp] theorem State.setLaunch_away (x : State) (l : Launch) : (x.setLaunch l).away = x.away := rfl
@[simp] theorem State.setLaunch_stalls (x : State) (l : Launch) : (x.setLaunch l).stalls = x.stalls := rfl
@[simp] theorem State.setLaunch_batches (x : State) (l : Launch) : (x.setLaunch l).batches = x.batches := rfl
@[simp] theorem State.setLaunch_emissions (x : State) (l : Launch) : (x.setLaunch l).emissions = x.emissions := rfl
@[simp] theorem State.setLaunch_tlc (x : State) (l : Launch) : (x.setLaunch l).tlc = x.tlc := rfl
@[simp] theorem State.setLaunch_waiters (x : State) (l : Launch) : (x.setLaunch l).waiters = x.waiters := rfl
@[simp] theorem State.setLaunch_tags (x : State) (l : Launch) : (x.setLaunch l).tags = x.tags := rfl
@[simp] theorem State.setLaunch_tagGen (x : State) (l : Launch) : (x.setLaunch l).tagGen = x.tagGen := rfl
@[simp] theorem State.setLaunch_ctxs (x : State) (l : Launch) : (x.setLaunch l).ctxs = x.ctxs := rfl
@[simp] theorem State.setLaunch_last (x : State) (l : Launch) : (x.setLaunch l).last = x.last := rfl
@[simp] theorem State.setLaunch_lastQuarter (x : State) (l : Launch) : (x.setLaunch l).lastQuarter = x.lastQuarter := rfl
@[simp] theorem State.setLaunch_lastCtx (x : State) (l : Launch) : (x.setLaunch l).lastCtx = x.lastCtx := rfl
@[simp] theorem State.setLaunch_insts (x : State) (l : Launch) : (x.setLaunch l).insts = x.insts := rfl
@[simp] theorem State.setLaunch_order (x : State) (l : Launch) : (x.setLaunch l).order = x.order := rfl
@[simp] theorem State.setLaunch_serving (x : State) (l : Launch) : (x.setLaunch l).serving = x.serving := rfl
@[simp] theorem State.setLaunch_bufs (x : State) (l : Launch) : (x.setLaunch l).bufs = x.bufs := rfl
@[simp] theorem State.setLaunch_freezes (x : State) (l : Launch) : (x.setLaunch l).freezes = x.freezes := rfl
@[simp] theorem State.setLaunch_capsules (x : State) (l : Launch) : (x.setLaunch l).capsules = x.capsules := rfl
@[simp] theorem State.setLaunch_epochs (x : State) (l : Launch) : (x.setLaunch l).epochs = x.epochs := rfl
@[simp] theorem State.setLaunch_macs (x : State) (l : Launch) : (x.setLaunch l).macs = x.macs := rfl
@[simp] theorem State.setLaunch_mgmt (x : State) (l : Launch) : (x.setLaunch l).mgmt = x.mgmt := rfl

/-! ## State.setCtx -/

@[simp] theorem State.setCtx_clk (x : State) (c : Nat) (y : Ctx) : (x.setCtx c y).clk = x.clk := rfl
@[simp] theorem State.setCtx_cyc (x : State) (c : Nat) (y : Ctx) : (x.setCtx c y).cyc = x.cyc := rfl
@[simp] theorem State.setCtx_free (x : State) (c : Nat) (y : Ctx) : (x.setCtx c y).free = x.free := rfl
@[simp] theorem State.setCtx_agenda (x : State) (c : Nat) (y : Ctx) : (x.setCtx c y).agenda = x.agenda := rfl
@[simp] theorem State.setCtx_cur (x : State) (c : Nat) (y : Ctx) : (x.setCtx c y).cur = x.cur := rfl
@[simp] theorem State.setCtx_turn (x : State) (c : Nat) (y : Ctx) : (x.setCtx c y).turn = x.turn := rfl
@[simp] theorem State.setCtx_out (x : State) (c : Nat) (y : Ctx) : (x.setCtx c y).out = x.out := rfl
@[simp] theorem State.setCtx_mem (x : State) (c : Nat) (y : Ctx) : (x.setCtx c y).mem = x.mem := rfl
@[simp] theorem State.setCtx_cs (x : State) (c : Nat) (y : Ctx) : (x.setCtx c y).cs = x.cs := rfl
@[simp] theorem State.setCtx_csMark (x : State) (c : Nat) (y : Ctx) : (x.setCtx c y).csMark = x.csMark := rfl
@[simp] theorem State.setCtx_poison (x : State) (c : Nat) (y : Ctx) : (x.setCtx c y).poison = x.poison := rfl
@[simp] theorem State.setCtx_dir (x : State) (c : Nat) (y : Ctx) : (x.setCtx c y).dir = x.dir := rfl
@[simp] theorem State.setCtx_routes (x : State) (c : Nat) (y : Ctx) : (x.setCtx c y).routes = x.routes := rfl
@[simp] theorem State.setCtx_om (x : State) (c : Nat) (y : Ctx) : (x.setCtx c y).om = x.om := rfl
@[simp] theorem State.setCtx_ctl (x : State) (c : Nat) (y : Ctx) : (x.setCtx c y).ctl = x.ctl := rfl
@[simp] theorem State.setCtx_mbox (x : State) (c : Nat) (y : Ctx) : (x.setCtx c y).mbox = x.mbox := rfl
@[simp] theorem State.setCtx_msix (x : State) (c : Nat) (y : Ctx) : (x.setCtx c y).msix = x.msix := rfl
@[simp] theorem State.setCtx_msixPending (x : State) (c : Nat) (y : Ctx) : (x.setCtx c y).msixPending = x.msixPending := rfl
@[simp] theorem State.setCtx_l1 (x : State) (c : Nat) (y : Ctx) : (x.setCtx c y).l1 = x.l1 := rfl
@[simp] theorem State.setCtx_tlb (x : State) (c : Nat) (y : Ctx) : (x.setCtx c y).tlb = x.tlb := rfl
@[simp] theorem State.setCtx_tables (x : State) (c : Nat) (y : Ctx) : (x.setCtx c y).tables = x.tables := rfl
@[simp] theorem State.setCtx_walks (x : State) (c : Nat) (y : Ctx) : (x.setCtx c y).walks = x.walks := rfl
@[simp] theorem State.setCtx_owners (x : State) (c : Nat) (y : Ctx) : (x.setCtx c y).owners = x.owners := rfl
@[simp] theorem State.setCtx_walkerOwner (x : State) (c : Nat) (y : Ctx) : (x.setCtx c y).walkerOwner = x.walkerOwner := rfl
@[simp] theorem State.setCtx_code (x : State) (c : Nat) (y : Ctx) : (x.setCtx c y).code = x.code := rfl
@[simp] theorem State.setCtx_descs (x : State) (c : Nat) (y : Ctx) : (x.setCtx c y).descs = x.descs := rfl
@[simp] theorem State.setCtx_waves (x : State) (c : Nat) (y : Ctx) : (x.setCtx c y).waves = x.waves := rfl
@[simp] theorem State.setCtx_blocks (x : State) (c : Nat) (y : Ctx) : (x.setCtx c y).blocks = x.blocks := rfl
@[simp] theorem State.setCtx_spindles (x : State) (c : Nat) (y : Ctx) : (x.setCtx c y).spindles = x.spindles := rfl
@[simp] theorem State.setCtx_spnReqs (x : State) (c : Nat) (y : Ctx) : (x.setCtx c y).spnReqs = x.spnReqs := rfl
@[simp] theorem State.setCtx_locks (x : State) (c : Nat) (y : Ctx) : (x.setCtx c y).locks = x.locks := rfl
@[simp] theorem State.setCtx_launches (x : State) (c : Nat) (y : Ctx) : (x.setCtx c y).launches = x.launches := rfl
@[simp] theorem State.setCtx_away (x : State) (c : Nat) (y : Ctx) : (x.setCtx c y).away = x.away := rfl
@[simp] theorem State.setCtx_stalls (x : State) (c : Nat) (y : Ctx) : (x.setCtx c y).stalls = x.stalls := rfl
@[simp] theorem State.setCtx_batches (x : State) (c : Nat) (y : Ctx) : (x.setCtx c y).batches = x.batches := rfl
@[simp] theorem State.setCtx_emissions (x : State) (c : Nat) (y : Ctx) : (x.setCtx c y).emissions = x.emissions := rfl
@[simp] theorem State.setCtx_tlc (x : State) (c : Nat) (y : Ctx) : (x.setCtx c y).tlc = x.tlc := rfl
@[simp] theorem State.setCtx_waiters (x : State) (c : Nat) (y : Ctx) : (x.setCtx c y).waiters = x.waiters := rfl
@[simp] theorem State.setCtx_tags (x : State) (c : Nat) (y : Ctx) : (x.setCtx c y).tags = x.tags := rfl
@[simp] theorem State.setCtx_tagGen (x : State) (c : Nat) (y : Ctx) : (x.setCtx c y).tagGen = x.tagGen := rfl
@[simp] theorem State.setCtx_ctxs (x : State) (c : Nat) (y : Ctx) : (x.setCtx c y).ctxs = sput (fun _ => Ctx.idle) x.ctxs c y := rfl
@[simp] theorem State.setCtx_last (x : State) (c : Nat) (y : Ctx) : (x.setCtx c y).last = x.last := rfl
@[simp] theorem State.setCtx_lastQuarter (x : State) (c : Nat) (y : Ctx) : (x.setCtx c y).lastQuarter = x.lastQuarter := rfl
@[simp] theorem State.setCtx_lastCtx (x : State) (c : Nat) (y : Ctx) : (x.setCtx c y).lastCtx = x.lastCtx := rfl
@[simp] theorem State.setCtx_insts (x : State) (c : Nat) (y : Ctx) : (x.setCtx c y).insts = x.insts := rfl
@[simp] theorem State.setCtx_order (x : State) (c : Nat) (y : Ctx) : (x.setCtx c y).order = x.order := rfl
@[simp] theorem State.setCtx_serving (x : State) (c : Nat) (y : Ctx) : (x.setCtx c y).serving = x.serving := rfl
@[simp] theorem State.setCtx_bufs (x : State) (c : Nat) (y : Ctx) : (x.setCtx c y).bufs = x.bufs := rfl
@[simp] theorem State.setCtx_freezes (x : State) (c : Nat) (y : Ctx) : (x.setCtx c y).freezes = x.freezes := rfl
@[simp] theorem State.setCtx_capsules (x : State) (c : Nat) (y : Ctx) : (x.setCtx c y).capsules = x.capsules := rfl
@[simp] theorem State.setCtx_epochs (x : State) (c : Nat) (y : Ctx) : (x.setCtx c y).epochs = x.epochs := rfl
@[simp] theorem State.setCtx_macs (x : State) (c : Nat) (y : Ctx) : (x.setCtx c y).macs = x.macs := rfl
@[simp] theorem State.setCtx_mgmt (x : State) (c : Nat) (y : Ctx) : (x.setCtx c y).mgmt = x.mgmt := rfl

/-! ## State.ctlWr -/

@[simp] theorem State.ctlWr_clk (x : State) (r : CtlReg) (v : BitVec 64) : (x.ctlWr r v).clk = x.clk := rfl
@[simp] theorem State.ctlWr_cyc (x : State) (r : CtlReg) (v : BitVec 64) : (x.ctlWr r v).cyc = x.cyc := rfl
@[simp] theorem State.ctlWr_free (x : State) (r : CtlReg) (v : BitVec 64) : (x.ctlWr r v).free = x.free := rfl
@[simp] theorem State.ctlWr_agenda (x : State) (r : CtlReg) (v : BitVec 64) : (x.ctlWr r v).agenda = x.agenda := rfl
@[simp] theorem State.ctlWr_cur (x : State) (r : CtlReg) (v : BitVec 64) : (x.ctlWr r v).cur = x.cur := rfl
@[simp] theorem State.ctlWr_turn (x : State) (r : CtlReg) (v : BitVec 64) : (x.ctlWr r v).turn = x.turn := rfl
@[simp] theorem State.ctlWr_out (x : State) (r : CtlReg) (v : BitVec 64) : (x.ctlWr r v).out = x.out := rfl
@[simp] theorem State.ctlWr_mem (x : State) (r : CtlReg) (v : BitVec 64) : (x.ctlWr r v).mem = x.mem := rfl
@[simp] theorem State.ctlWr_cs (x : State) (r : CtlReg) (v : BitVec 64) : (x.ctlWr r v).cs = x.cs := rfl
@[simp] theorem State.ctlWr_csMark (x : State) (r : CtlReg) (v : BitVec 64) : (x.ctlWr r v).csMark = x.csMark := rfl
@[simp] theorem State.ctlWr_poison (x : State) (r : CtlReg) (v : BitVec 64) : (x.ctlWr r v).poison = x.poison := rfl
@[simp] theorem State.ctlWr_dir (x : State) (r : CtlReg) (v : BitVec 64) : (x.ctlWr r v).dir = x.dir := rfl
@[simp] theorem State.ctlWr_routes (x : State) (r : CtlReg) (v : BitVec 64) : (x.ctlWr r v).routes = x.routes := rfl
@[simp] theorem State.ctlWr_om (x : State) (r : CtlReg) (v : BitVec 64) : (x.ctlWr r v).om = x.om := rfl
@[simp] theorem State.ctlWr_ctl (x : State) (r : CtlReg) (v : BitVec 64) : (x.ctlWr r v).ctl = sput ctlDefault x.ctl r.off v := rfl
@[simp] theorem State.ctlWr_mbox (x : State) (r : CtlReg) (v : BitVec 64) : (x.ctlWr r v).mbox = x.mbox := rfl
@[simp] theorem State.ctlWr_msix (x : State) (r : CtlReg) (v : BitVec 64) : (x.ctlWr r v).msix = x.msix := rfl
@[simp] theorem State.ctlWr_msixPending (x : State) (r : CtlReg) (v : BitVec 64) : (x.ctlWr r v).msixPending = x.msixPending := rfl
@[simp] theorem State.ctlWr_l1 (x : State) (r : CtlReg) (v : BitVec 64) : (x.ctlWr r v).l1 = x.l1 := rfl
@[simp] theorem State.ctlWr_tlb (x : State) (r : CtlReg) (v : BitVec 64) : (x.ctlWr r v).tlb = x.tlb := rfl
@[simp] theorem State.ctlWr_tables (x : State) (r : CtlReg) (v : BitVec 64) : (x.ctlWr r v).tables = x.tables := rfl
@[simp] theorem State.ctlWr_walks (x : State) (r : CtlReg) (v : BitVec 64) : (x.ctlWr r v).walks = x.walks := rfl
@[simp] theorem State.ctlWr_owners (x : State) (r : CtlReg) (v : BitVec 64) : (x.ctlWr r v).owners = x.owners := rfl
@[simp] theorem State.ctlWr_walkerOwner (x : State) (r : CtlReg) (v : BitVec 64) : (x.ctlWr r v).walkerOwner = x.walkerOwner := rfl
@[simp] theorem State.ctlWr_code (x : State) (r : CtlReg) (v : BitVec 64) : (x.ctlWr r v).code = x.code := rfl
@[simp] theorem State.ctlWr_descs (x : State) (r : CtlReg) (v : BitVec 64) : (x.ctlWr r v).descs = x.descs := rfl
@[simp] theorem State.ctlWr_waves (x : State) (r : CtlReg) (v : BitVec 64) : (x.ctlWr r v).waves = x.waves := rfl
@[simp] theorem State.ctlWr_blocks (x : State) (r : CtlReg) (v : BitVec 64) : (x.ctlWr r v).blocks = x.blocks := rfl
@[simp] theorem State.ctlWr_spindles (x : State) (r : CtlReg) (v : BitVec 64) : (x.ctlWr r v).spindles = x.spindles := rfl
@[simp] theorem State.ctlWr_spnReqs (x : State) (r : CtlReg) (v : BitVec 64) : (x.ctlWr r v).spnReqs = x.spnReqs := rfl
@[simp] theorem State.ctlWr_locks (x : State) (r : CtlReg) (v : BitVec 64) : (x.ctlWr r v).locks = x.locks := rfl
@[simp] theorem State.ctlWr_launches (x : State) (r : CtlReg) (v : BitVec 64) : (x.ctlWr r v).launches = x.launches := rfl
@[simp] theorem State.ctlWr_away (x : State) (r : CtlReg) (v : BitVec 64) : (x.ctlWr r v).away = x.away := rfl
@[simp] theorem State.ctlWr_stalls (x : State) (r : CtlReg) (v : BitVec 64) : (x.ctlWr r v).stalls = x.stalls := rfl
@[simp] theorem State.ctlWr_batches (x : State) (r : CtlReg) (v : BitVec 64) : (x.ctlWr r v).batches = x.batches := rfl
@[simp] theorem State.ctlWr_emissions (x : State) (r : CtlReg) (v : BitVec 64) : (x.ctlWr r v).emissions = x.emissions := rfl
@[simp] theorem State.ctlWr_tlc (x : State) (r : CtlReg) (v : BitVec 64) : (x.ctlWr r v).tlc = x.tlc := rfl
@[simp] theorem State.ctlWr_waiters (x : State) (r : CtlReg) (v : BitVec 64) : (x.ctlWr r v).waiters = x.waiters := rfl
@[simp] theorem State.ctlWr_tags (x : State) (r : CtlReg) (v : BitVec 64) : (x.ctlWr r v).tags = x.tags := rfl
@[simp] theorem State.ctlWr_tagGen (x : State) (r : CtlReg) (v : BitVec 64) : (x.ctlWr r v).tagGen = x.tagGen := rfl
@[simp] theorem State.ctlWr_ctxs (x : State) (r : CtlReg) (v : BitVec 64) : (x.ctlWr r v).ctxs = x.ctxs := rfl
@[simp] theorem State.ctlWr_last (x : State) (r : CtlReg) (v : BitVec 64) : (x.ctlWr r v).last = x.last := rfl
@[simp] theorem State.ctlWr_lastQuarter (x : State) (r : CtlReg) (v : BitVec 64) : (x.ctlWr r v).lastQuarter = x.lastQuarter := rfl
@[simp] theorem State.ctlWr_lastCtx (x : State) (r : CtlReg) (v : BitVec 64) : (x.ctlWr r v).lastCtx = x.lastCtx := rfl
@[simp] theorem State.ctlWr_insts (x : State) (r : CtlReg) (v : BitVec 64) : (x.ctlWr r v).insts = x.insts := rfl
@[simp] theorem State.ctlWr_order (x : State) (r : CtlReg) (v : BitVec 64) : (x.ctlWr r v).order = x.order := rfl
@[simp] theorem State.ctlWr_serving (x : State) (r : CtlReg) (v : BitVec 64) : (x.ctlWr r v).serving = x.serving := rfl
@[simp] theorem State.ctlWr_bufs (x : State) (r : CtlReg) (v : BitVec 64) : (x.ctlWr r v).bufs = x.bufs := rfl
@[simp] theorem State.ctlWr_freezes (x : State) (r : CtlReg) (v : BitVec 64) : (x.ctlWr r v).freezes = x.freezes := rfl
@[simp] theorem State.ctlWr_capsules (x : State) (r : CtlReg) (v : BitVec 64) : (x.ctlWr r v).capsules = x.capsules := rfl
@[simp] theorem State.ctlWr_epochs (x : State) (r : CtlReg) (v : BitVec 64) : (x.ctlWr r v).epochs = x.epochs := rfl
@[simp] theorem State.ctlWr_macs (x : State) (r : CtlReg) (v : BitVec 64) : (x.ctlWr r v).macs = x.macs := rfl
@[simp] theorem State.ctlWr_mgmt (x : State) (r : CtlReg) (v : BitVec 64) : (x.ctlWr r v).mgmt = x.mgmt := rfl

/-! ## State.logRec -/

@[simp] theorem State.logRec_clk (x : State) (b ty fn c k d : Nat) (v : BitVec 64) : (x.logRec b ty fn c k d v).clk = x.clk := rfl
@[simp] theorem State.logRec_cyc (x : State) (b ty fn c k d : Nat) (v : BitVec 64) : (x.logRec b ty fn c k d v).cyc = x.cyc := rfl
@[simp] theorem State.logRec_free (x : State) (b ty fn c k d : Nat) (v : BitVec 64) : (x.logRec b ty fn c k d v).free = x.free := rfl
@[simp] theorem State.logRec_agenda (x : State) (b ty fn c k d : Nat) (v : BitVec 64) : (x.logRec b ty fn c k d v).agenda = x.agenda := rfl
@[simp] theorem State.logRec_cur (x : State) (b ty fn c k d : Nat) (v : BitVec 64) : (x.logRec b ty fn c k d v).cur = x.cur := rfl
@[simp] theorem State.logRec_turn (x : State) (b ty fn c k d : Nat) (v : BitVec 64) : (x.logRec b ty fn c k d v).turn = x.turn := rfl
@[simp] theorem State.logRec_out (x : State) (b ty fn c k d : Nat) (v : BitVec 64) : (x.logRec b ty fn c k d v).out = x.out := rfl
@[simp] theorem State.logRec_mem (x : State) (b ty fn c k d : Nat) (v : BitVec 64) : (x.logRec b ty fn c k d v).mem = x.mem := rfl
@[simp] theorem State.logRec_cs (x : State) (b ty fn c k d : Nat) (v : BitVec 64) : (x.logRec b ty fn c k d v).cs = x.cs := rfl
@[simp] theorem State.logRec_csMark (x : State) (b ty fn c k d : Nat) (v : BitVec 64) : (x.logRec b ty fn c k d v).csMark = x.csMark := rfl
@[simp] theorem State.logRec_poison (x : State) (b ty fn c k d : Nat) (v : BitVec 64) : (x.logRec b ty fn c k d v).poison = x.poison := rfl
@[simp] theorem State.logRec_dir (x : State) (b ty fn c k d : Nat) (v : BitVec 64) : (x.logRec b ty fn c k d v).dir = x.dir := rfl
@[simp] theorem State.logRec_routes (x : State) (b ty fn c k d : Nat) (v : BitVec 64) : (x.logRec b ty fn c k d v).routes = x.routes := rfl
@[simp] theorem State.logRec_om (x : State) (b ty fn c k d : Nat) (v : BitVec 64) : (x.logRec b ty fn c k d v).om = x.om := rfl
@[simp] theorem State.logRec_ctl (x : State) (b ty fn c k d : Nat) (v : BitVec 64) : (x.logRec b ty fn c k d v).ctl = x.ctl := rfl
@[simp] theorem State.logRec_mbox (x : State) (b ty fn c k d : Nat) (v : BitVec 64) : (x.logRec b ty fn c k d v).mbox = x.mbox := rfl
@[simp] theorem State.logRec_msix (x : State) (b ty fn c k d : Nat) (v : BitVec 64) : (x.logRec b ty fn c k d v).msix = x.msix := rfl
@[simp] theorem State.logRec_msixPending (x : State) (b ty fn c k d : Nat) (v : BitVec 64) : (x.logRec b ty fn c k d v).msixPending = x.msixPending := rfl
@[simp] theorem State.logRec_l1 (x : State) (b ty fn c k d : Nat) (v : BitVec 64) : (x.logRec b ty fn c k d v).l1 = x.l1 := rfl
@[simp] theorem State.logRec_tlb (x : State) (b ty fn c k d : Nat) (v : BitVec 64) : (x.logRec b ty fn c k d v).tlb = x.tlb := rfl
@[simp] theorem State.logRec_tables (x : State) (b ty fn c k d : Nat) (v : BitVec 64) : (x.logRec b ty fn c k d v).tables = x.tables := rfl
@[simp] theorem State.logRec_walks (x : State) (b ty fn c k d : Nat) (v : BitVec 64) : (x.logRec b ty fn c k d v).walks = x.walks := rfl
@[simp] theorem State.logRec_owners (x : State) (b ty fn c k d : Nat) (v : BitVec 64) : (x.logRec b ty fn c k d v).owners = x.owners := rfl
@[simp] theorem State.logRec_walkerOwner (x : State) (b ty fn c k d : Nat) (v : BitVec 64) : (x.logRec b ty fn c k d v).walkerOwner = x.walkerOwner := rfl
@[simp] theorem State.logRec_code (x : State) (b ty fn c k d : Nat) (v : BitVec 64) : (x.logRec b ty fn c k d v).code = x.code := rfl
@[simp] theorem State.logRec_descs (x : State) (b ty fn c k d : Nat) (v : BitVec 64) : (x.logRec b ty fn c k d v).descs = x.descs := rfl
@[simp] theorem State.logRec_waves (x : State) (b ty fn c k d : Nat) (v : BitVec 64) : (x.logRec b ty fn c k d v).waves = x.waves := rfl
@[simp] theorem State.logRec_blocks (x : State) (b ty fn c k d : Nat) (v : BitVec 64) : (x.logRec b ty fn c k d v).blocks = x.blocks := rfl
@[simp] theorem State.logRec_spindles (x : State) (b ty fn c k d : Nat) (v : BitVec 64) : (x.logRec b ty fn c k d v).spindles = x.spindles := rfl
@[simp] theorem State.logRec_spnReqs (x : State) (b ty fn c k d : Nat) (v : BitVec 64) : (x.logRec b ty fn c k d v).spnReqs = x.spnReqs := rfl
@[simp] theorem State.logRec_locks (x : State) (b ty fn c k d : Nat) (v : BitVec 64) : (x.logRec b ty fn c k d v).locks = x.locks := rfl
@[simp] theorem State.logRec_launches (x : State) (b ty fn c k d : Nat) (v : BitVec 64) : (x.logRec b ty fn c k d v).launches = x.launches := rfl
@[simp] theorem State.logRec_away (x : State) (b ty fn c k d : Nat) (v : BitVec 64) : (x.logRec b ty fn c k d v).away = x.away := rfl
@[simp] theorem State.logRec_stalls (x : State) (b ty fn c k d : Nat) (v : BitVec 64) : (x.logRec b ty fn c k d v).stalls = x.stalls := rfl
@[simp] theorem State.logRec_batches (x : State) (b ty fn c k d : Nat) (v : BitVec 64) : (x.logRec b ty fn c k d v).batches = x.batches := rfl
@[simp] theorem State.logRec_emissions (x : State) (b ty fn c k d : Nat) (v : BitVec 64) : (x.logRec b ty fn c k d v).emissions = x.emissions := rfl
@[simp] theorem State.logRec_tlc (x : State) (b ty fn c k d : Nat) (v : BitVec 64) : (x.logRec b ty fn c k d v).tlc = x.tlc := rfl
@[simp] theorem State.logRec_waiters (x : State) (b ty fn c k d : Nat) (v : BitVec 64) : (x.logRec b ty fn c k d v).waiters = x.waiters := rfl
@[simp] theorem State.logRec_tags (x : State) (b ty fn c k d : Nat) (v : BitVec 64) : (x.logRec b ty fn c k d v).tags = x.tags := rfl
@[simp] theorem State.logRec_tagGen (x : State) (b ty fn c k d : Nat) (v : BitVec 64) : (x.logRec b ty fn c k d v).tagGen = x.tagGen := rfl
@[simp] theorem State.logRec_ctxs (x : State) (b ty fn c k d : Nat) (v : BitVec 64) : (x.logRec b ty fn c k d v).ctxs = x.ctxs := rfl
@[simp] theorem State.logRec_last (x : State) (b ty fn c k d : Nat) (v : BitVec 64) : (x.logRec b ty fn c k d v).last = x.last := rfl
@[simp] theorem State.logRec_lastQuarter (x : State) (b ty fn c k d : Nat) (v : BitVec 64) : (x.logRec b ty fn c k d v).lastQuarter = x.lastQuarter := rfl
@[simp] theorem State.logRec_lastCtx (x : State) (b ty fn c k d : Nat) (v : BitVec 64) : (x.logRec b ty fn c k d v).lastCtx = x.lastCtx := rfl
@[simp] theorem State.logRec_insts (x : State) (b ty fn c k d : Nat) (v : BitVec 64) : (x.logRec b ty fn c k d v).insts = x.insts := rfl
@[simp] theorem State.logRec_order (x : State) (b ty fn c k d : Nat) (v : BitVec 64) : (x.logRec b ty fn c k d v).order = x.order := rfl
@[simp] theorem State.logRec_serving (x : State) (b ty fn c k d : Nat) (v : BitVec 64) : (x.logRec b ty fn c k d v).serving = x.serving := rfl
@[simp] theorem State.logRec_bufs (x : State) (b ty fn c k d : Nat) (v : BitVec 64) : (x.logRec b ty fn c k d v).bufs = sput (fun _ => Buf.empty) x.bufs b ((x.buf b).push (bufSize b) x.clk.toNat ty fn c k d v) := rfl
@[simp] theorem State.logRec_freezes (x : State) (b ty fn c k d : Nat) (v : BitVec 64) : (x.logRec b ty fn c k d v).freezes = x.freezes := rfl
@[simp] theorem State.logRec_capsules (x : State) (b ty fn c k d : Nat) (v : BitVec 64) : (x.logRec b ty fn c k d v).capsules = x.capsules := rfl
@[simp] theorem State.logRec_epochs (x : State) (b ty fn c k d : Nat) (v : BitVec 64) : (x.logRec b ty fn c k d v).epochs = x.epochs := rfl
@[simp] theorem State.logRec_macs (x : State) (b ty fn c k d : Nat) (v : BitVec 64) : (x.logRec b ty fn c k d v).macs = x.macs := rfl
@[simp] theorem State.logRec_mgmt (x : State) (b ty fn c k d : Nat) (v : BitVec 64) : (x.logRec b ty fn c k d v).mgmt = x.mgmt := rfl

/-! ## Wave.withS -/

@[simp] theorem Wave.withS_core (x : Wave) (n : Nat) (v : BitVec 64) : (x.withS n v).core = x.core := rfl
@[simp] theorem Wave.withS_slot (x : Wave) (n : Nat) (v : BitVec 64) : (x.withS n v).slot = x.slot := rfl
@[simp] theorem Wave.withS_partition (x : Wave) (n : Nat) (v : BitVec 64) : (x.withS n v).partition = x.partition := rfl
@[simp] theorem Wave.withS_inst (x : Wave) (n : Nat) (v : BitVec 64) : (x.withS n v).inst = x.inst := rfl
@[simp] theorem Wave.withS_ctx (x : Wave) (n : Nat) (v : BitVec 64) : (x.withS n v).ctx = x.ctx := rfl
@[simp] theorem Wave.withS_launch (x : Wave) (n : Nat) (v : BitVec 64) : (x.withS n v).launch = x.launch := rfl
@[simp] theorem Wave.withS_block (x : Wave) (n : Nat) (v : BitVec 64) : (x.withS n v).block = x.block := rfl
@[simp] theorem Wave.withS_wid (x : Wave) (n : Nat) (v : BitVec 64) : (x.withS n v).wid = x.wid := rfl
@[simp] theorem Wave.withS_kind (x : Wave) (n : Nat) (v : BitVec 64) : (x.withS n v).kind = x.kind := rfl
@[simp] theorem Wave.withS_prio (x : Wave) (n : Nat) (v : BitVec 64) : (x.withS n v).prio = x.prio := rfl
@[simp] theorem Wave.withS_placed (x : Wave) (n : Nat) (v : BitVec 64) : (x.withS n v).placed = x.placed := rfl
@[simp] theorem Wave.withS_readySince (x : Wave) (n : Nat) (v : BitVec 64) : (x.withS n v).readySince = x.readySince := rfl
@[simp] theorem Wave.withS_pc (x : Wave) (n : Nat) (v : BitVec 64) : (x.withS n v).pc = x.pc := rfl
@[simp] theorem Wave.withS_entry (x : Wave) (n : Nat) (v : BitVec 64) : (x.withS n v).entry = x.entry := rfl
@[simp] theorem Wave.withS_k (x : Wave) (n : Nat) (v : BitVec 64) : (x.withS n v).k = x.k := rfl
@[simp] theorem Wave.withS_s (x : Wave) (n : Nat) (v : BitVec 64) : (x.withS n v).s = x.s.wr n v := rfl
@[simp] theorem Wave.withS_sMark (x : Wave) (n : Nat) (v : BitVec 64) : (x.withS n v).sMark = x.cleared n x.sMark := rfl
@[simp] theorem Wave.withS_blocks (x : Wave) (n : Nat) (v : BitVec 64) : (x.withS n v).blocks = x.blocks := rfl
@[simp] theorem Wave.withS_b (x : Wave) (n : Nat) (v : BitVec 64) : (x.withS n v).b = x.b := rfl
@[simp] theorem Wave.withS_tok (x : Wave) (n : Nat) (v : BitVec 64) : (x.withS n v).tok = x.tok := rfl
@[simp] theorem Wave.withS_flight (x : Wave) (n : Nat) (v : BitVec 64) : (x.withS n v).flight = x.flight := rfl
@[simp] theorem Wave.withS_nextAcc (x : Wave) (n : Nat) (v : BitVec 64) : (x.withS n v).nextAcc = x.nextAcc := rfl
@[simp] theorem Wave.withS_ws (x : Wave) (n : Nat) (v : BitVec 64) : (x.withS n v).ws = x.ws := rfl
@[simp] theorem Wave.withS_wsat (x : Wave) (n : Nat) (v : BitVec 64) : (x.withS n v).wsat = x.wsat := rfl
@[simp] theorem Wave.withS_fflags (x : Wave) (n : Nat) (v : BitVec 64) : (x.withS n v).fflags = x.fflags := rfl
@[simp] theorem Wave.withS_tmrcmp (x : Wave) (n : Nat) (v : BitVec 64) : (x.withS n v).tmrcmp = x.tmrcmp := rfl
@[simp] theorem Wave.withS_tmrMask (x : Wave) (n : Nat) (v : BitVec 64) : (x.withS n v).tmrMask = x.tmrMask := rfl
@[simp] theorem Wave.withS_tmrPend (x : Wave) (n : Nat) (v : BitVec 64) : (x.withS n v).tmrPend = x.tmrPend := rfl
@[simp] theorem Wave.withS_uret (x : Wave) (n : Nat) (v : BitVec 64) : (x.withS n v).uret = x.uret := rfl
@[simp] theorem Wave.withS_ucause (x : Wave) (n : Nat) (v : BitVec 64) : (x.withS n v).ucause = x.ucause := rfl
@[simp] theorem Wave.withS_mode (x : Wave) (n : Nat) (v : BitVec 64) : (x.withS n v).mode = x.mode := rfl
@[simp] theorem Wave.withS_handler (x : Wave) (n : Nat) (v : BitVec 64) : (x.withS n v).handler = x.handler := rfl
@[simp] theorem Wave.withS_tepc (x : Wave) (n : Nat) (v : BitVec 64) : (x.withS n v).tepc = x.tepc := rfl
@[simp] theorem Wave.withS_tcause (x : Wave) (n : Nat) (v : BitVec 64) : (x.withS n v).tcause = x.tcause := rfl
@[simp] theorem Wave.withS_taddr (x : Wave) (n : Nat) (v : BitVec 64) : (x.withS n v).taddr = x.taddr := rfl
@[simp] theorem Wave.withS_tlanes (x : Wave) (n : Nat) (v : BitVec 64) : (x.withS n v).tlanes = x.tlanes := rfl
@[simp] theorem Wave.withS_sfq (x : Wave) (n : Nat) (v : BitVec 64) : (x.withS n v).sfq = x.sfq := rfl
@[simp] theorem Wave.withS_stseq (x : Wave) (n : Nat) (v : BitVec 64) : (x.withS n v).stseq = x.stseq := rfl
@[simp] theorem Wave.withS_sampleMark (x : Wave) (n : Nat) (v : BitVec 64) : (x.withS n v).sampleMark = x.sampleMark := rfl
@[simp] theorem Wave.withS_sampleRec (x : Wave) (n : Nat) (v : BitVec 64) : (x.withS n v).sampleRec = x.sampleRec := rfl
@[simp] theorem Wave.withS_wait (x : Wave) (n : Nat) (v : BitVec 64) : (x.withS n v).wait = x.wait := rfl
@[simp] theorem Wave.withS_answers (x : Wave) (n : Nat) (v : BitVec 64) : (x.withS n v).answers = x.answers := rfl
@[simp] theorem Wave.withS_holds (x : Wave) (n : Nat) (v : BitVec 64) : (x.withS n v).holds = x.holds := rfl
@[simp] theorem Wave.withS_latched (x : Wave) (n : Nat) (v : BitVec 64) : (x.withS n v).latched = x.latched := rfl
@[simp] theorem Wave.withS_rays (x : Wave) (n : Nat) (v : BitVec 64) : (x.withS n v).rays = x.rays := rfl
@[simp] theorem Wave.withS_cls (x : Wave) (n : Nat) (v : BitVec 64) : (x.withS n v).cls = x.cls := rfl
@[simp] theorem Wave.withS_taskWide (x : Wave) (n : Nat) (v : BitVec 64) : (x.withS n v).taskWide = x.taskWide := rfl
@[simp] theorem Wave.withS_taskSucc (x : Wave) (n : Nat) (v : BitVec 64) : (x.withS n v).taskSucc = x.taskSucc := rfl
@[simp] theorem Wave.withS_tlrel (x : Wave) (n : Nat) (v : BitVec 64) : (x.withS n v).tlrel = x.tlrel := rfl
@[simp] theorem Wave.withS_yielded (x : Wave) (n : Nat) (v : BitVec 64) : (x.withS n v).yielded = x.yielded := rfl
@[simp] theorem Wave.withS_step (x : Wave) (n : Nat) (v : BitVec 64) : (x.withS n v).step = x.step := rfl
@[simp] theorem Wave.withS_poisPend (x : Wave) (n : Nat) (v : BitVec 64) : (x.withS n v).poisPend = x.poisPend := rfl

/-! ## Wave.withK -/

@[simp] theorem Wave.withK_core (x : Wave) (n : Nat) (v : BitVec 64) : (x.withK n v).core = x.core := rfl
@[simp] theorem Wave.withK_slot (x : Wave) (n : Nat) (v : BitVec 64) : (x.withK n v).slot = x.slot := rfl
@[simp] theorem Wave.withK_partition (x : Wave) (n : Nat) (v : BitVec 64) : (x.withK n v).partition = x.partition := rfl
@[simp] theorem Wave.withK_inst (x : Wave) (n : Nat) (v : BitVec 64) : (x.withK n v).inst = x.inst := rfl
@[simp] theorem Wave.withK_ctx (x : Wave) (n : Nat) (v : BitVec 64) : (x.withK n v).ctx = x.ctx := rfl
@[simp] theorem Wave.withK_launch (x : Wave) (n : Nat) (v : BitVec 64) : (x.withK n v).launch = x.launch := rfl
@[simp] theorem Wave.withK_block (x : Wave) (n : Nat) (v : BitVec 64) : (x.withK n v).block = x.block := rfl
@[simp] theorem Wave.withK_wid (x : Wave) (n : Nat) (v : BitVec 64) : (x.withK n v).wid = x.wid := rfl
@[simp] theorem Wave.withK_kind (x : Wave) (n : Nat) (v : BitVec 64) : (x.withK n v).kind = x.kind := rfl
@[simp] theorem Wave.withK_prio (x : Wave) (n : Nat) (v : BitVec 64) : (x.withK n v).prio = x.prio := rfl
@[simp] theorem Wave.withK_placed (x : Wave) (n : Nat) (v : BitVec 64) : (x.withK n v).placed = x.placed := rfl
@[simp] theorem Wave.withK_readySince (x : Wave) (n : Nat) (v : BitVec 64) : (x.withK n v).readySince = x.readySince := rfl
@[simp] theorem Wave.withK_pc (x : Wave) (n : Nat) (v : BitVec 64) : (x.withK n v).pc = x.pc := rfl
@[simp] theorem Wave.withK_entry (x : Wave) (n : Nat) (v : BitVec 64) : (x.withK n v).entry = x.entry := rfl
@[simp] theorem Wave.withK_k (x : Wave) (n : Nat) (v : BitVec 64) : (x.withK n v).k = x.k.wr n v := rfl
@[simp] theorem Wave.withK_s (x : Wave) (n : Nat) (v : BitVec 64) : (x.withK n v).s = x.s := rfl
@[simp] theorem Wave.withK_sMark (x : Wave) (n : Nat) (v : BitVec 64) : (x.withK n v).sMark = x.sMark := rfl
@[simp] theorem Wave.withK_blocks (x : Wave) (n : Nat) (v : BitVec 64) : (x.withK n v).blocks = x.blocks := rfl
@[simp] theorem Wave.withK_b (x : Wave) (n : Nat) (v : BitVec 64) : (x.withK n v).b = x.b := rfl
@[simp] theorem Wave.withK_tok (x : Wave) (n : Nat) (v : BitVec 64) : (x.withK n v).tok = x.tok := rfl
@[simp] theorem Wave.withK_flight (x : Wave) (n : Nat) (v : BitVec 64) : (x.withK n v).flight = x.flight := rfl
@[simp] theorem Wave.withK_nextAcc (x : Wave) (n : Nat) (v : BitVec 64) : (x.withK n v).nextAcc = x.nextAcc := rfl
@[simp] theorem Wave.withK_ws (x : Wave) (n : Nat) (v : BitVec 64) : (x.withK n v).ws = x.ws := rfl
@[simp] theorem Wave.withK_wsat (x : Wave) (n : Nat) (v : BitVec 64) : (x.withK n v).wsat = x.wsat := rfl
@[simp] theorem Wave.withK_fflags (x : Wave) (n : Nat) (v : BitVec 64) : (x.withK n v).fflags = x.fflags := rfl
@[simp] theorem Wave.withK_tmrcmp (x : Wave) (n : Nat) (v : BitVec 64) : (x.withK n v).tmrcmp = x.tmrcmp := rfl
@[simp] theorem Wave.withK_tmrMask (x : Wave) (n : Nat) (v : BitVec 64) : (x.withK n v).tmrMask = x.tmrMask := rfl
@[simp] theorem Wave.withK_tmrPend (x : Wave) (n : Nat) (v : BitVec 64) : (x.withK n v).tmrPend = x.tmrPend := rfl
@[simp] theorem Wave.withK_uret (x : Wave) (n : Nat) (v : BitVec 64) : (x.withK n v).uret = x.uret := rfl
@[simp] theorem Wave.withK_ucause (x : Wave) (n : Nat) (v : BitVec 64) : (x.withK n v).ucause = x.ucause := rfl
@[simp] theorem Wave.withK_mode (x : Wave) (n : Nat) (v : BitVec 64) : (x.withK n v).mode = x.mode := rfl
@[simp] theorem Wave.withK_handler (x : Wave) (n : Nat) (v : BitVec 64) : (x.withK n v).handler = x.handler := rfl
@[simp] theorem Wave.withK_tepc (x : Wave) (n : Nat) (v : BitVec 64) : (x.withK n v).tepc = x.tepc := rfl
@[simp] theorem Wave.withK_tcause (x : Wave) (n : Nat) (v : BitVec 64) : (x.withK n v).tcause = x.tcause := rfl
@[simp] theorem Wave.withK_taddr (x : Wave) (n : Nat) (v : BitVec 64) : (x.withK n v).taddr = x.taddr := rfl
@[simp] theorem Wave.withK_tlanes (x : Wave) (n : Nat) (v : BitVec 64) : (x.withK n v).tlanes = x.tlanes := rfl
@[simp] theorem Wave.withK_sfq (x : Wave) (n : Nat) (v : BitVec 64) : (x.withK n v).sfq = x.sfq := rfl
@[simp] theorem Wave.withK_stseq (x : Wave) (n : Nat) (v : BitVec 64) : (x.withK n v).stseq = x.stseq := rfl
@[simp] theorem Wave.withK_sampleMark (x : Wave) (n : Nat) (v : BitVec 64) : (x.withK n v).sampleMark = x.sampleMark := rfl
@[simp] theorem Wave.withK_sampleRec (x : Wave) (n : Nat) (v : BitVec 64) : (x.withK n v).sampleRec = x.sampleRec := rfl
@[simp] theorem Wave.withK_wait (x : Wave) (n : Nat) (v : BitVec 64) : (x.withK n v).wait = x.wait := rfl
@[simp] theorem Wave.withK_answers (x : Wave) (n : Nat) (v : BitVec 64) : (x.withK n v).answers = x.answers := rfl
@[simp] theorem Wave.withK_holds (x : Wave) (n : Nat) (v : BitVec 64) : (x.withK n v).holds = x.holds := rfl
@[simp] theorem Wave.withK_latched (x : Wave) (n : Nat) (v : BitVec 64) : (x.withK n v).latched = x.latched := rfl
@[simp] theorem Wave.withK_rays (x : Wave) (n : Nat) (v : BitVec 64) : (x.withK n v).rays = x.rays := rfl
@[simp] theorem Wave.withK_cls (x : Wave) (n : Nat) (v : BitVec 64) : (x.withK n v).cls = x.cls := rfl
@[simp] theorem Wave.withK_taskWide (x : Wave) (n : Nat) (v : BitVec 64) : (x.withK n v).taskWide = x.taskWide := rfl
@[simp] theorem Wave.withK_taskSucc (x : Wave) (n : Nat) (v : BitVec 64) : (x.withK n v).taskSucc = x.taskSucc := rfl
@[simp] theorem Wave.withK_tlrel (x : Wave) (n : Nat) (v : BitVec 64) : (x.withK n v).tlrel = x.tlrel := rfl
@[simp] theorem Wave.withK_yielded (x : Wave) (n : Nat) (v : BitVec 64) : (x.withK n v).yielded = x.yielded := rfl
@[simp] theorem Wave.withK_step (x : Wave) (n : Nat) (v : BitVec 64) : (x.withK n v).step = x.step := rfl
@[simp] theorem Wave.withK_poisPend (x : Wave) (n : Nat) (v : BitVec 64) : (x.withK n v).poisPend = x.poisPend := rfl

/-! ## Spindle.withX -/

@[simp] theorem Spindle.withX_cluster (x : Spindle) (n : Nat) (v : BitVec 64) : (x.withX n v).cluster = x.cluster := rfl
@[simp] theorem Spindle.withX_ctx (x : Spindle) (n : Nat) (v : BitVec 64) : (x.withX n v).ctx = x.ctx := rfl
@[simp] theorem Spindle.withX_launch (x : Spindle) (n : Nat) (v : BitVec 64) : (x.withX n v).launch = x.launch := rfl
@[simp] theorem Spindle.withX_block (x : Spindle) (n : Nat) (v : BitVec 64) : (x.withX n v).block = x.block := rfl
@[simp] theorem Spindle.withX_prio (x : Spindle) (n : Nat) (v : BitVec 64) : (x.withX n v).prio = x.prio := rfl
@[simp] theorem Spindle.withX_pc (x : Spindle) (n : Nat) (v : BitVec 64) : (x.withX n v).pc = x.pc := rfl
@[simp] theorem Spindle.withX_x (x : Spindle) (n : Nat) (v : BitVec 64) : (x.withX n v).x = x.x.wr n v := rfl
@[simp] theorem Spindle.withX_xMark (x : Spindle) (n : Nat) (v : BitVec 64) : (x.withX n v).xMark = setDel n x.xMark := rfl
@[simp] theorem Spindle.withX_mode (x : Spindle) (n : Nat) (v : BitVec 64) : (x.withX n v).mode = x.mode := rfl
@[simp] theorem Spindle.withX_tepc (x : Spindle) (n : Nat) (v : BitVec 64) : (x.withX n v).tepc = x.tepc := rfl
@[simp] theorem Spindle.withX_tcause (x : Spindle) (n : Nat) (v : BitVec 64) : (x.withX n v).tcause = x.tcause := rfl
@[simp] theorem Spindle.withX_taddr (x : Spindle) (n : Nat) (v : BitVec 64) : (x.withX n v).taddr = x.taddr := rfl
@[simp] theorem Spindle.withX_scratch (x : Spindle) (n : Nat) (v : BitVec 64) : (x.withX n v).scratch = x.scratch := rfl
@[simp] theorem Spindle.withX_bcom (x : Spindle) (n : Nat) (v : BitVec 64) : (x.withX n v).bcom = x.bcom := rfl
@[simp] theorem Spindle.withX_bdone (x : Spindle) (n : Nat) (v : BitVec 64) : (x.withX n v).bdone = x.bdone := rfl
@[simp] theorem Spindle.withX_flags (x : Spindle) (n : Nat) (v : BitVec 64) : (x.withX n v).flags = x.flags := rfl
@[simp] theorem Spindle.withX_dsa (x : Spindle) (n : Nat) (v : BitVec 64) : (x.withX n v).dsa = x.dsa := rfl
@[simp] theorem Spindle.withX_stop (x : Spindle) (n : Nat) (v : BitVec 64) : (x.withX n v).stop = x.stop := rfl
@[simp] theorem Spindle.withX_fault (x : Spindle) (n : Nat) (v : BitVec 64) : (x.withX n v).fault = x.fault := rfl
@[simp] theorem Spindle.withX_ws (x : Spindle) (n : Nat) (v : BitVec 64) : (x.withX n v).ws = x.ws := rfl
@[simp] theorem Spindle.withX_wsat (x : Spindle) (n : Nat) (v : BitVec 64) : (x.withX n v).wsat = x.wsat := rfl
@[simp] theorem Spindle.withX_slots (x : Spindle) (n : Nat) (v : BitVec 64) : (x.withX n v).slots = x.slots := rfl
@[simp] theorem Spindle.withX_accs (x : Spindle) (n : Nat) (v : BitVec 64) : (x.withX n v).accs = x.accs := rfl
@[simp] theorem Spindle.withX_acc (x : Spindle) (n : Nat) (v : BitVec 64) : (x.withX n v).acc = x.acc := rfl
@[simp] theorem Spindle.withX_ops (x : Spindle) (n : Nat) (v : BitVec 64) : (x.withX n v).ops = x.ops := rfl
@[simp] theorem Spindle.withX_wait (x : Spindle) (n : Nat) (v : BitVec 64) : (x.withX n v).wait = x.wait := rfl
@[simp] theorem Spindle.withX_answers (x : Spindle) (n : Nat) (v : BitVec 64) : (x.withX n v).answers = x.answers := rfl
@[simp] theorem Spindle.withX_holds (x : Spindle) (n : Nat) (v : BitVec 64) : (x.withX n v).holds = x.holds := rfl
@[simp] theorem Spindle.withX_live (x : Spindle) (n : Nat) (v : BitVec 64) : (x.withX n v).live = x.live := rfl
@[simp] theorem Spindle.withX_yielded (x : Spindle) (n : Nat) (v : BitVec 64) : (x.withX n v).yielded = x.yielded := rfl
@[simp] theorem Spindle.withX_step (x : Spindle) (n : Nat) (v : BitVec 64) : (x.withX n v).step = x.step := rfl

end Sys2Proof.Machine
end

