-- ==== Sys2Proof/Laws/Steps.lean ====
section
/-! SUPPORT. A step as its move and the instruction that follows. -/

namespace Sys2Proof.Machine

theorem step_of {s : State} {m : Move} {rest : List Move} (h : s.agenda = m :: rest) :
    step s = answerOf ({ s with agenda := rest, cur := Agent.none, turn := none }.runMove m) := by
  unfold step runStep State.move
  rw [h]
  simp only
  generalize State.runMove _ _ = o
  cases o <;> rfl

theorem runNext_of {u t : State} {ws : List W32} (h : u.fetch = (.got ws, t)) :
    (∀ i, decode t.stream ws = .ok i → runNext u = exec i t) ∧ (∀ d, decode t.stream ws = .illegal d → runNext u = exec (.illegalInstruction d) t) := by
  refine ⟨?_, ?_⟩
  · intro i hi
    unfold runNext
    rw [h]
    simp only [runWords, hi]
  · intro i hi
    unfold runNext
    rw [h]
    simp only [runWords, hi]

end Sys2Proof.Machine
end

