-- ==== Sys2Proof/Laws/Words.lean ====
section
/-! SUPPORT. Words of an encoding: each form read back from the words written from it. -/

namespace Sys2Proof

theorem bv_eq {n : Nat} (x : BitVec n) (m : Nat) (h : m % 2 ^ n = x.toNat) : BitVec.ofNat n m = x := by
  apply BitVec.eq_of_toNat_eq
  rw [BitVec.toNat_ofNat, h]

theorem bits_eq (m lo n : Nat) (x : BitVec n) (h : m % 2 ^ 32 / 2 ^ lo % 2 ^ n = x.toNat) : bits (BitVec.ofNat 32 m) lo n = x := by
  unfold bits
  exact bv_eq _ _ (by rw [BitVec.toNat_ofNat]; exact h)

theorem readLit_words (l : BitVec 64) : readLit (BitVec.ofNat 32 l.toNat) (BitVec.ofNat 32 (l.toNat / 2 ^ 32)) = l := by
  unfold readLit
  apply bv_eq
  simp only [BitVec.toNat_ofNat]
  have := l.isLt
  omega

theorem readB3_word (f : B3) (maj : BitVec 7) (len : Nat) (hl : len < 4) :
    readB3 (f.word maj len) = f ∧ bits (f.word maj len) 2 7 = maj ∧ (f.word maj len).toNat % 4 = len := by
  have h1 := f.s2.isLt; have h2 := f.s1.isLt; have h3 := f.d.isLt; have h4 := f.osel.isLt; have h5 := maj.isLt
  unfold B3.word
  refine ⟨?_, ?_, ?_⟩
  · unfold readB3
    rw [bits_eq _ _ _ f.s2 (by omega), bits_eq _ _ _ f.s1 (by omega), bits_eq _ _ _ f.d (by omega), bits_eq _ _ _ f.osel (by omega)]
  · exact bits_eq _ _ _ _ (by omega)
  · rw [BitVec.toNat_ofNat]; omega

theorem readCF_word (f : CF) (maj : BitVec 7) :
    readCF (f.word maj) = f ∧ bits (f.word maj) 2 7 = maj ∧ (f.word maj).toNat % 4 = 0 := by
  have h1 := f.reg.isLt; have h2 := f.imm.isLt; have h5 := maj.isLt
  unfold CF.word
  refine ⟨?_, ?_, ?_⟩
  · unfold readCF
    rw [bits_eq _ _ _ f.reg (by omega), bits_eq _ _ _ f.imm (by omega)]
  · exact bits_eq _ _ _ _ (by omega)
  · rw [BitVec.toNat_ofNat]; omega

theorem readMF_word (f : MF) (maj : BitVec 7) :
    readMF (f.word maj) = f ∧ bits (f.word maj) 2 7 = maj ∧ (f.word maj).toNat % 4 = 0 := by
  have h1 := f.szsp.isLt; have h2 := f.b.isLt; have h3 := f.idx.isLt; have h4 := f.d.isLt; have h5 := maj.isLt
  unfold MF.word
  refine ⟨?_, ?_, ?_⟩
  · unfold readMF
    rw [bits_eq _ _ _ f.szsp (by omega), bits_eq _ _ _ f.b (by omega), bits_eq _ _ _ f.idx (by omega), bits_eq _ _ _ f.d (by omega)]
  · exact bits_eq _ _ _ _ (by omega)
  · rw [BitVec.toNat_ofNat]; omega

theorem readJF_word (f : BitVec 23) (maj : BitVec 7) :
    bits (JF.word ⟨f⟩ maj) 9 23 = f ∧ bits (JF.word ⟨f⟩ maj) 2 7 = maj ∧ (JF.word ⟨f⟩ maj).toNat % 4 = 0 := by
  have h1 := f.isLt; have h5 := maj.isLt
  unfold JF.word
  refine ⟨?_, ?_, ?_⟩
  · exact bits_eq _ _ _ _ (by simp only; omega)
  · exact bits_eq _ _ _ _ (by simp only; omega)
  · rw [BitVec.toNat_ofNat]; simp only; omega

theorem readXF_words (x : XF) (maj : BitVec 7) (sub : BitVec 9) (len : Nat) (hl : len < 4) (l : Option (BitVec 64)) (e : x.lit = l) :
    readXF (x.word0 maj len) x.word1 (x.word2 sub) l = x ∧ bits (x.word0 maj len) 2 7 = maj ∧ (x.word0 maj len).toNat % 4 = len
      ∧ bits (x.word2 sub) 0 9 = sub := by
  have a1 := x.disp.isLt; have a2 := x.szsp.isLt; have a3 := x.osel.isLt; have h5 := maj.isLt
  have b1 := x.sc.isLt; have b2 := x.sb.isLt; have b3 := x.sa.isLt; have b4 := x.d.isLt
  have c1 := x.mask.isLt; have c2 := x.mneg.isLt; have c3 := x.type.isLt; have c4 := x.shape.isLt; have c5 := x.rnd.isLt
  have c6 := x.sat.isLt; have c7 := x.scope.isLt; have c8 := sub.isLt
  unfold XF.word0 XF.word1 XF.word2
  refine ⟨?_, ?_, ?_, ?_⟩
  · unfold readXF
    rw [bits_eq _ _ _ x.disp (by omega), bits_eq _ _ _ x.szsp (by omega), bits_eq _ _ _ x.osel (by omega),
      bits_eq _ _ _ x.sc (by omega), bits_eq _ _ _ x.sb (by omega), bits_eq _ _ _ x.sa (by omega), bits_eq _ _ _ x.d (by omega),
      bits_eq _ _ _ x.mask (by omega), bits_eq _ _ _ x.mneg (by omega), bits_eq _ _ _ x.type (by omega), bits_eq _ _ _ x.shape (by omega),
      bits_eq _ _ _ x.rnd (by omega), bits_eq _ _ _ x.sat (by omega), bits_eq _ _ _ x.scope (by omega), ← e]
  · exact bits_eq _ _ _ _ (by omega)
  · rw [BitVec.toNat_ofNat]; omega
  · exact bits_eq _ _ _ _ (by omega)

end Sys2Proof
end

