-- ==== Sys2Proof/Tests/Slice0.lean ====
section
/-! SUPPORT. Tests: ill-formed terms, the words of every instruction laid out from the spec's encodings, and states and operands that
meet the hypotheses of the statements. -/

set_option Elab.async false

namespace Sys2Proof.Tests

open Sys2Proof Sys2Proof.Machine

/-! ## Well-formedness: a term that breaks each check of R140 -/

/-- Detail 3: icmp has SUB 0 to 5. -/
theorem test_illformed_sub : (Instr.icmpX (.ext ⟨9, XF.zero⟩)).wellFormed .simt = false := by decide
/-- Detail 2: atom admits no literal. -/
theorem test_illformed_length : (Instr.atom ⟨0, { XF.zero with szsp := 4, scope := 4, type := 1, lit := some 0 }⟩).wellFormed .simt = false := by decide
/-- Detail 4: mma runs on the Spindle stream alone. -/
theorem test_illformed_stream : (Instr.mma { XF.zero with osel := 2, sb := 1, type := 2 }).wellFormed .simt = false := by decide
/-- Detail 5: knot names no SB. -/
theorem test_illformed_stray : (Instr.knot { XF.zero with sb := 1 }).wellFormed .simt = false := by decide
/-- Detail 6: MNEG without MASK is reserved. -/
theorem test_illformed_reserved : (Instr.banyX { XF.zero with mneg := 1 }).wellFormed .simt = false := by decide
/-- Detail 7: a pair starts at an even register. -/
theorem test_illformed_pair : (Instr.imax { XF.zero with type := 2, d := 3 }).wellFormed .simt = false := by decide
/-- Detail 1: MAJ 0x7F is unassigned. -/
theorem test_illegal_opcode : decode .simt [0x000001FC] = .illegal 1 := by decide

/-! ## Decoding: words laid out from the encodings of R132 and R134 and the MAJ and SUB values of chapter 7 -/

/-- Each list of words decodes to the instruction beside it on its stream, and is what the encoder writes for it. -/
noncomputable def reads (l : List (Stream × List W32 × Instr)) : Bool := l.all (fun p => decode p.1 p.2.1 == .ok p.2.2 && encode p.2.2 == p.2.1)

theorem test_decode_integer : reads [
   (.simt, [0x20386200], .iadd ⟨16, 14, 12, 1⟩),
   (.simt, [0x00000201, 0x00100E0C, 0xB8800000], .iaddX (.ext { XF.zero with osel := 1, sb := 16, sa := 14, d := 12, mask := 11, mneg := 1, type := 2 })),
   (.simt, [0x00000201, 0x07100E0C, 0xB8C00001], .iaddc { XF.zero with osel := 1, sc := 7, sb := 16, sa := 14, d := 12, mask := 11, mneg := 1, type := 3 }),
   (.simt, [0x00000201, 0x00100E0C, 0xB8800002], .isub { XF.zero with osel := 1, sb := 16, sa := 14, d := 12, mask := 11, mneg := 1, type := 2 }),
   (.simt, [0x00000201, 0x07100E0C, 0xB8C00003], .isubb { XF.zero with osel := 1, sc := 7, sb := 16, sa := 14, d := 12, mask := 11, mneg := 1, type := 3 }),
   (.simt, [0x20386204], .imul ⟨16, 14, 12, 1⟩),
   (.simt, [0x00000205, 0x00100E0C, 0xB8800000], .imulX (.ext { XF.zero with osel := 1, sb := 16, sa := 14, d := 12, mask := 11, mneg := 1, type := 2 })),
   (.simt, [0x00000205, 0x00100E0C, 0xB8800001], .imulhi { XF.zero with osel := 1, sb := 16, sa := 14, d := 12, mask := 11, mneg := 1, type := 2 }),
   (.simt, [0x00000205, 0x00100E0C, 0xB8400002], .imulw { XF.zero with osel := 1, sb := 16, sa := 14, d := 12, mask := 11, mneg := 1, type := 1 }),
   (.simt, [0x20386208], .imad ⟨16, 14, 12, 1⟩),
   (.simt, [0x00000209, 0x12100E0C, 0xB8800000], .imadX (.ext { XF.zero with osel := 1, sc := 18, sb := 16, sa := 14, d := 12, mask := 11, mneg := 1, type := 2 })),
   (.simt, [0x00000209, 0x12100E0C, 0xB8800001], .imadhi { XF.zero with osel := 1, sc := 18, sb := 16, sa := 14, d := 12, mask := 11, mneg := 1, type := 2 }),
   (.simt, [0x00000209, 0x12100E0C, 0xB8400002], .imadw { XF.zero with osel := 1, sc := 18, sb := 16, sa := 14, d := 12, mask := 11, mneg := 1, type := 1 }),
   (.simt, [0x2038620C], .imin ⟨16, 14, 12, 1⟩),
   (.simt, [0x0000020D, 0x00100E0C, 0xB8800000], .iminX (.ext { XF.zero with osel := 1, sb := 16, sa := 14, d := 12, mask := 11, mneg := 1, type := 2 })),
   (.simt, [0x0000020D, 0x00100E0C, 0xB8800001], .imax { XF.zero with osel := 1, sb := 16, sa := 14, d := 12, mask := 11, mneg := 1, type := 2 }),
   (.simt, [0x20006210], .iabs ⟨16, 0, 12, 1⟩),
   (.simt, [0x00000211, 0x0010000C, 0xB9000000], .iabsX (.ext { XF.zero with osel := 1, sb := 16, d := 12, mask := 11, mneg := 1, type := 4 })),
   (.simt, [0x00000211, 0x0010000C, 0xB9000001], .ineg { XF.zero with osel := 1, sb := 16, d := 12, mask := 11, mneg := 1, type := 4 }),
   (.simt, [0x20386214], .and ⟨16, 14, 12, 1⟩),
   (.simt, [0x00000215, 0x00100E0C, 0xB8C00000], .andX (.ext { XF.zero with osel := 1, sb := 16, sa := 14, d := 12, mask := 11, mneg := 1, type := 3 })),
   (.simt, [0x00000215, 0x00100E0C, 0xB8C00001], .andn { XF.zero with osel := 1, sb := 16, sa := 14, d := 12, mask := 11, mneg := 1, type := 3 }),
   (.simt, [0x20386218], .or ⟨16, 14, 12, 1⟩),
   (.simt, [0x00000219, 0x00100E0C, 0xB8C00000], .orX (.ext { XF.zero with osel := 1, sb := 16, sa := 14, d := 12, mask := 11, mneg := 1, type := 3 })),
   (.simt, [0x00000219, 0x00100E0C, 0xB8C00001], .orn { XF.zero with osel := 1, sb := 16, sa := 14, d := 12, mask := 11, mneg := 1, type := 3 }),
   (.simt, [0x2038621C], .xor ⟨16, 14, 12, 1⟩),
   (.simt, [0x0000021D, 0x00100E0C, 0xB8C00000], .xorX (.ext { XF.zero with osel := 1, sb := 16, sa := 14, d := 12, mask := 11, mneg := 1, type := 3 })),
   (.simt, [0x0000021D, 0x00100E0C, 0xB8C00001], .xnor { XF.zero with osel := 1, sb := 16, sa := 14, d := 12, mask := 11, mneg := 1, type := 3 }),
   (.simt, [0x0000021D, 0x0010000C, 0xB8C00002], .not { XF.zero with osel := 1, sb := 16, d := 12, mask := 11, mneg := 1, type := 3 }),
   (.simt, [0x20386220], .shl ⟨16, 14, 12, 1⟩),
   (.simt, [0x00000221, 0x00100E0C, 0xB8C00000], .shlX (.ext { XF.zero with osel := 1, sb := 16, sa := 14, d := 12, mask := 11, mneg := 1, type := 3 })),
   (.simt, [0x00000221, 0x00100E0C, 0xB8C00001], .rotl { XF.zero with osel := 1, sb := 16, sa := 14, d := 12, mask := 11, mneg := 1, type := 3 }),
   (.simt, [0x20386224], .shr ⟨16, 14, 12, 1⟩),
   (.simt, [0x00000225, 0x00100E0C, 0xB8800000], .shrX (.ext { XF.zero with osel := 1, sb := 16, sa := 14, d := 12, mask := 11, mneg := 1, type := 2 })),
   (.simt, [0x00000225, 0x00100E0C, 0xB8C00001], .rotr { XF.zero with osel := 1, sb := 16, sa := 14, d := 12, mask := 11, mneg := 1, type := 3 }),
   (.simt, [0x20386228], .fshl ⟨16, 14, 12, 1⟩),
   (.simt, [0x00000229, 0x12100E0C, 0xB8C00000], .fshlX (.ext { XF.zero with osel := 1, sc := 18, sb := 16, sa := 14, d := 12, mask := 11, mneg := 1, type := 3 })),
   (.simt, [0x00000229, 0x12100E0C, 0xB8C00001], .fshr { XF.zero with osel := 1, sc := 18, sb := 16, sa := 14, d := 12, mask := 11, mneg := 1, type := 3 }),
   (.simt, [0x2038642C], .bfx ⟨16, 14, 12, 2⟩),
   (.simt, [0x0000042D, 0x00100E0C, 0xB8800000], .bfxX (.ext { XF.zero with osel := 2, sb := 16, sa := 14, d := 12, mask := 11, mneg := 1, type := 2 }))] = true := by decide +kernel

theorem test_decode_integer2 : reads [
   (.simt, [0x0000022D, 0x12100E0C, 0xB8C00001], .bfi { XF.zero with osel := 1, sc := 18, sb := 16, sa := 14, d := 12, mask := 11, mneg := 1, type := 3 }),
   (.simt, [0x0000022D, 0x0010000C, 0xB8C00002], .bfrev { XF.zero with osel := 1, sb := 16, d := 12, mask := 11, mneg := 1, type := 3 }),
   (.simt, [0x20006230], .popc ⟨16, 0, 12, 1⟩),
   (.simt, [0x00000231, 0x0010000C, 0xB8C00000], .popcX (.ext { XF.zero with osel := 1, sb := 16, d := 12, mask := 11, mneg := 1, type := 3 })),
   (.simt, [0x00000231, 0x0010000C, 0xB8C00001], .clz { XF.zero with osel := 1, sb := 16, d := 12, mask := 11, mneg := 1, type := 3 }),
   (.simt, [0x00000231, 0x0010000C, 0xB8C00002], .ctz { XF.zero with osel := 1, sb := 16, d := 12, mask := 11, mneg := 1, type := 3 }),
   (.simt, [0x00000231, 0x0010000C, 0xB8800003], .cls { XF.zero with osel := 1, sb := 16, d := 12, mask := 11, mneg := 1, type := 2 }),
   (.simt, [0x20381A34], .icmp ⟨16, 14, 3, 1⟩),
   (.simt, [0x00000235, 0x00100E03, 0xB8800002], .icmpX (.ext ⟨2, { XF.zero with osel := 1, sb := 16, sa := 14, d := 3, mask := 11, mneg := 1, type := 2 }⟩)),
   (.simt, [0x00000239, 0x1210050C, 0xB8000000], .sel { XF.zero with osel := 1, sc := 18, sb := 16, sa := 5, d := 12, mask := 11, mneg := 1 }),
   (.simt, [0x2000623C], .mov ⟨16, 0, 12, 1⟩),
   (.simt, [0x0000023D, 0x0010000C, 0xB8C00000], .movX (.ext { XF.zero with osel := 1, sb := 16, d := 12, mask := 11, mneg := 1, type := 3 })),
   (.simt, [0x20006240], .icvt ⟨16, 0, 12, 1⟩),
   (.simt, [0x00000241, 0x0010000C, 0xB8860000], .icvtX (.ext { XF.zero with osel := 1, sb := 16, d := 12, mask := 11, mneg := 1, type := 2, shape := 3 })),
   (.simt, [0x20386244], .prmt ⟨16, 14, 12, 1⟩),
   (.simt, [0x00000245, 0x12100E0C, 0xB8400000], .prmtX (.ext { XF.zero with osel := 1, sc := 18, sb := 16, sa := 14, d := 12, mask := 11, mneg := 1, type := 1 }))] = true := by decide +kernel

theorem test_decode_scalar : reads [
   (.simt, [0x20386260], .sadd ⟨16, 14, 12, 1⟩),
   (.simt, [0x00000261, 0x00100E0C, 0x00800000], .saddX (.ext { XF.zero with osel := 1, sb := 16, sa := 14, d := 12, type := 2 })),
   (.simt, [0x00000261, 0x00100E0C, 0x00800001], .ssub { XF.zero with osel := 1, sb := 16, sa := 14, d := 12, type := 2 }),
   (.simt, [0x20386264], .smul ⟨16, 14, 12, 1⟩),
   (.simt, [0x00000265, 0x00100E0C, 0x00800000], .smulX (.ext { XF.zero with osel := 1, sb := 16, sa := 14, d := 12, type := 2 })),
   (.simt, [0x00000265, 0x00100E0C, 0x00800001], .smulhi { XF.zero with osel := 1, sb := 16, sa := 14, d := 12, type := 2 }),
   (.simt, [0x20386268], .sand ⟨16, 14, 12, 1⟩),
   (.simt, [0x00000269, 0x00100E0C, 0x00C00000], .sandX (.ext { XF.zero with osel := 1, sb := 16, sa := 14, d := 12, type := 3 })),
   (.simt, [0x00000269, 0x00100E0C, 0x00C00001], .sandn { XF.zero with osel := 1, sb := 16, sa := 14, d := 12, type := 3 }),
   (.simt, [0x2038626C], .sor ⟨16, 14, 12, 1⟩),
   (.simt, [0x0000026D, 0x00100E0C, 0x00C00000], .sorX (.ext { XF.zero with osel := 1, sb := 16, sa := 14, d := 12, type := 3 })),
   (.simt, [0x20386270], .sxor ⟨16, 14, 12, 1⟩),
   (.simt, [0x00000271, 0x00100E0C, 0x00C00000], .sxorX (.ext { XF.zero with osel := 1, sb := 16, sa := 14, d := 12, type := 3 })),
   (.simt, [0x00000271, 0x0010000C, 0x00C00001], .snot { XF.zero with osel := 1, sb := 16, d := 12, type := 3 }),
   (.simt, [0x20386274], .sshl ⟨16, 14, 12, 1⟩),
   (.simt, [0x00000275, 0x00100E0C, 0x00C00000], .sshlX (.ext { XF.zero with osel := 1, sb := 16, sa := 14, d := 12, type := 3 })),
   (.simt, [0x00000275, 0x00100E0C, 0x00C00001], .srotl { XF.zero with osel := 1, sb := 16, sa := 14, d := 12, type := 3 }),
   (.simt, [0x20386278], .sshr ⟨16, 14, 12, 1⟩),
   (.simt, [0x00000279, 0x00100E0C, 0x00800000], .sshrX (.ext { XF.zero with osel := 1, sb := 16, sa := 14, d := 12, type := 2 })),
   (.simt, [0x00000279, 0x00100E0C, 0x00C00001], .srotr { XF.zero with osel := 1, sb := 16, sa := 14, d := 12, type := 3 }),
   (.simt, [0x2038647C], .sbfx ⟨16, 14, 12, 2⟩),
   (.simt, [0x0000047D, 0x00100E0C, 0x00800000], .sbfxX (.ext { XF.zero with osel := 2, sb := 16, sa := 14, d := 12, type := 2 })),
   (.simt, [0x0000027D, 0x12100E0C, 0x00C00001], .sbfi { XF.zero with osel := 1, sc := 18, sb := 16, sa := 14, d := 12, type := 3 }),
   (.simt, [0x20006280], .spopc ⟨16, 0, 12, 1⟩),
   (.simt, [0x00000281, 0x0010000C, 0x00C00000], .spopcX (.ext { XF.zero with osel := 1, sb := 16, d := 12, type := 3 })),
   (.simt, [0x00000281, 0x0010000C, 0x00C00001], .sclz { XF.zero with osel := 1, sb := 16, d := 12, type := 3 }),
   (.simt, [0x00000281, 0x0010000C, 0x00C00002], .sctz { XF.zero with osel := 1, sb := 16, d := 12, type := 3 }),
   (.simt, [0x20386284], .smin ⟨16, 14, 12, 1⟩),
   (.simt, [0x00000285, 0x00100E0C, 0x00800000], .sminX (.ext { XF.zero with osel := 1, sb := 16, sa := 14, d := 12, type := 2 })),
   (.simt, [0x00000285, 0x00100E0C, 0x00800001], .smax { XF.zero with osel := 1, sb := 16, sa := 14, d := 12, type := 2 }),
   (.simt, [0x20006288], .smov ⟨16, 0, 12, 1⟩),
   (.simt, [0x00000289, 0x0010000C, 0x00C00000], .smovX (.ext { XF.zero with osel := 1, sb := 16, d := 12, type := 3 })),
   (.simt, [0x19579A8C], .smovi ⟨12, 43981⟩),
   (.simt, [0xABCD008D, 0x0000000C, 0x00C00000], .smoviX { XF.zero with disp := 43981, d := 12, type := 3 }),
   (.simt, [0x00000291, 0x00100E0C, 0x00000007], .scmp ⟨7, { XF.zero with osel := 1, sb := 16, sa := 14, d := 12 }⟩)] = true := by decide +kernel

theorem test_decode_float : reads [
   (.simt, [0x203862C0], .ffma ⟨16, 14, 12, 1⟩),
   (.simt, [0x000002C1, 0x12100E0C, 0xBA80C000], .ffmaX (.ext { XF.zero with osel := 1, sc := 18, sb := 16, sa := 14, d := 12, mask := 11, mneg := 1, type := 10, rnd := 3 })),
   (.simt, [0x000002C1, 0x12100E0C, 0xBA80C001], .ffms { XF.zero with osel := 1, sc := 18, sb := 16, sa := 14, d := 12, mask := 11, mneg := 1, type := 10, rnd := 3 }),
   (.simt, [0x000002C1, 0x12100E0C, 0xBA80C002], .fnma { XF.zero with osel := 1, sc := 18, sb := 16, sa := 14, d := 12, mask := 11, mneg := 1, type := 10, rnd := 3 }),
   (.simt, [0x203862C4], .fadd ⟨16, 14, 12, 1⟩),
   (.simt, [0x000002C5, 0x00100E0C, 0xBA80C000], .faddX (.ext { XF.zero with osel := 1, sb := 16, sa := 14, d := 12, mask := 11, mneg := 1, type := 10, rnd := 3 })),
   (.simt, [0x000002C5, 0x00100E0C, 0xBA80C001], .fsub { XF.zero with osel := 1, sb := 16, sa := 14, d := 12, mask := 11, mneg := 1, type := 10, rnd := 3 }),
   (.simt, [0x203862C8], .fmul ⟨16, 14, 12, 1⟩),
   (.simt, [0x000002C9, 0x00100E0C, 0xBA80C000], .fmulX (.ext { XF.zero with osel := 1, sb := 16, sa := 14, d := 12, mask := 11, mneg := 1, type := 10, rnd := 3 })),
   (.simt, [0x203862CC], .fmin ⟨16, 14, 12, 1⟩),
   (.simt, [0x000002CD, 0x00100E0C, 0xBA800000], .fminX (.ext { XF.zero with osel := 1, sb := 16, sa := 14, d := 12, mask := 11, mneg := 1, type := 10 })),
   (.simt, [0x000002CD, 0x00100E0C, 0xBA800001], .fmax { XF.zero with osel := 1, sb := 16, sa := 14, d := 12, mask := 11, mneg := 1, type := 10 }),
   (.simt, [0x000002CD, 0x00100E0C, 0xBA800002], .fminnum { XF.zero with osel := 1, sb := 16, sa := 14, d := 12, mask := 11, mneg := 1, type := 10 }),
   (.simt, [0x000002CD, 0x00100E0C, 0xBA800003], .fmaxnum { XF.zero with osel := 1, sb := 16, sa := 14, d := 12, mask := 11, mneg := 1, type := 10 }),
   (.simt, [0x20381AD0], .fcmp ⟨16, 14, 3, 1⟩),
   (.simt, [0x000002D1, 0x00100E03, 0xBA800006], .fcmpX (.ext ⟨6, { XF.zero with osel := 1, sb := 16, sa := 14, d := 3, mask := 11, mneg := 1, type := 10 }⟩)),
   (.simt, [0x20381AD4], .fclass ⟨16, 14, 3, 1⟩),
   (.simt, [0x000002D5, 0x00100E03, 0xBA800000], .fclassX (.ext { XF.zero with osel := 1, sb := 16, sa := 14, d := 3, mask := 11, mneg := 1, type := 10 })),
   (.simt, [0x200062D8], .frnd ⟨16, 0, 12, 1⟩),
   (.simt, [0x000002D9, 0x0010000C, 0xBA80C000], .frndX (.ext { XF.zero with osel := 1, sb := 16, d := 12, mask := 11, mneg := 1, type := 10, rnd := 3 })),
   (.simt, [0x200062DC], .rcp ⟨16, 0, 12, 1⟩),
   (.simt, [0x000002DD, 0x0010000C, 0xBAC0C000], .rcpX (.ext { XF.zero with osel := 1, sb := 16, d := 12, mask := 11, mneg := 1, type := 11, rnd := 3 })),
   (.simt, [0x000002DD, 0x0010000C, 0xBAC0C001], .rsqrt { XF.zero with osel := 1, sb := 16, d := 12, mask := 11, mneg := 1, type := 11, rnd := 3 }),
   (.simt, [0x000002DD, 0x0010000C, 0xBAC0C002], .sqrt { XF.zero with osel := 1, sb := 16, d := 12, mask := 11, mneg := 1, type := 11, rnd := 3 }),
   (.simt, [0x000002DD, 0x0010000C, 0xBAC0C003], .exp2 { XF.zero with osel := 1, sb := 16, d := 12, mask := 11, mneg := 1, type := 11, rnd := 3 }),
   (.simt, [0x000002DD, 0x0010000C, 0xBAC0C004], .log2 { XF.zero with osel := 1, sb := 16, d := 12, mask := 11, mneg := 1, type := 11, rnd := 3 }),
   (.simt, [0x000002DD, 0x0010000C, 0xBAC0C005], .sinpi { XF.zero with osel := 1, sb := 16, d := 12, mask := 11, mneg := 1, type := 11, rnd := 3 }),
   (.simt, [0x000002DD, 0x0010000C, 0xBAC0C006], .cospi { XF.zero with osel := 1, sb := 16, d := 12, mask := 11, mneg := 1, type := 11, rnd := 3 }),
   (.simt, [0x200062E0], .fcvt ⟨16, 0, 12, 1⟩),
   (.simt, [0x000002E1, 0x0010000C, 0xB890C000], .fcvtX (.ext { XF.zero with osel := 1, sb := 16, d := 12, mask := 11, mneg := 1, type := 2, shape := 8, rnd := 3 })),
   (.simt, [0x000002E5, 0x12100E0C, 0xBA18C000], .fdot2 { XF.zero with osel := 1, sc := 18, sb := 16, sa := 14, d := 12, mask := 11, mneg := 1, type := 8, shape := 12, rnd := 3 }),
   (.simt, [0x000002E5, 0x12100E0C, 0xBA20C001], .fdot4 { XF.zero with osel := 1, sc := 18, sb := 16, sa := 14, d := 12, mask := 11, mneg := 1, type := 8, shape := 16, rnd := 3 }),
   (.simt, [0x200062E8], .fabs ⟨16, 0, 12, 1⟩),
   (.simt, [0x000002E9, 0x0010000C, 0xBA800000], .fabsX (.ext { XF.zero with osel := 1, sb := 16, d := 12, mask := 11, mneg := 1, type := 10 })),
   (.simt, [0x000002E9, 0x0010000C, 0xBA800001], .fneg { XF.zero with osel := 1, sb := 16, d := 12, mask := 11, mneg := 1, type := 10 })] = true := by decide +kernel

theorem test_decode_lanes : reads [
   (.simt, [0x20386300], .shfl ⟨16, 14, 12, 1⟩),
   (.simt, [0x00000301, 0x00100E0C, 0xB8C00000], .shflX (.ext { XF.zero with osel := 1, sb := 16, sa := 14, d := 12, mask := 11, mneg := 1, type := 3 })),
   (.simt, [0x00000301, 0x00100E0C, 0xB8C00001], .shflxor { XF.zero with osel := 1, sb := 16, sa := 14, d := 12, mask := 11, mneg := 1, type := 3 }),
   (.simt, [0x00000301, 0x00100E0C, 0xB8C00002], .shflup { XF.zero with osel := 1, sb := 16, sa := 14, d := 12, mask := 11, mneg := 1, type := 3 }),
   (.simt, [0x00000301, 0x00100E0C, 0xB8C00003], .shfldn { XF.zero with osel := 1, sb := 16, sa := 14, d := 12, mask := 11, mneg := 1, type := 3 }),
   (.simt, [0x20386304], .rdlane ⟨16, 14, 12, 1⟩),
   (.simt, [0x00000305, 0x00100E0C, 0x00C00000], .rdlaneX (.ext { XF.zero with osel := 1, sb := 16, sa := 14, d := 12, type := 3 })),
   (.simt, [0x00000305, 0x00100E0C, 0xB8C00001], .wrlane { XF.zero with osel := 1, sb := 16, sa := 14, d := 12, mask := 11, mneg := 1, type := 3 }),
   (.simt, [0x20006108], .redadd ⟨16, 0, 12, 0⟩),
   (.simt, [0x00000109, 0x0010000C, 0xB8800000], .redaddX (.ext { XF.zero with sb := 16, d := 12, mask := 11, mneg := 1, type := 2 })),
   (.simt, [0x00000109, 0x0010000C, 0xB8800001], .redmin { XF.zero with sb := 16, d := 12, mask := 11, mneg := 1, type := 2 }),
   (.simt, [0x00000109, 0x0010000C, 0xB8800002], .redmax { XF.zero with sb := 16, d := 12, mask := 11, mneg := 1, type := 2 }),
   (.simt, [0x00000109, 0x0010000C, 0xB8C00003], .redand { XF.zero with sb := 16, d := 12, mask := 11, mneg := 1, type := 3 }),
   (.simt, [0x00000109, 0x0010000C, 0xB8C00004], .redor { XF.zero with sb := 16, d := 12, mask := 11, mneg := 1, type := 3 }),
   (.simt, [0x00000109, 0x0010000C, 0xB8C00005], .redxor { XF.zero with sb := 16, d := 12, mask := 11, mneg := 1, type := 3 }),
   (.simt, [0x2000610C], .scanadd ⟨16, 0, 12, 0⟩),
   (.simt, [0x0000010D, 0x0010000C, 0xB8800000], .scanaddX (.ext { XF.zero with sb := 16, d := 12, mask := 11, mneg := 1, type := 2 })),
   (.simt, [0x0000010D, 0x0010000C, 0xB8800001], .scanmin { XF.zero with sb := 16, d := 12, mask := 11, mneg := 1, type := 2 }),
   (.simt, [0x0000010D, 0x0010000C, 0xB8800002], .scanmax { XF.zero with sb := 16, d := 12, mask := 11, mneg := 1, type := 2 }),
   (.simt, [0x0000010D, 0x0010000C, 0xB8C00003], .scanand { XF.zero with sb := 16, d := 12, mask := 11, mneg := 1, type := 3 }),
   (.simt, [0x0000010D, 0x0010000C, 0xB8C00004], .scanor { XF.zero with sb := 16, d := 12, mask := 11, mneg := 1, type := 3 }),
   (.simt, [0x0000010D, 0x0010000C, 0xB8C00005], .scanxor { XF.zero with sb := 16, d := 12, mask := 11, mneg := 1, type := 3 }),
   (.simt, [0x0000010D, 0x0010000C, 0xB8800010], .xscanadd { XF.zero with sb := 16, d := 12, mask := 11, mneg := 1, type := 2 }),
   (.simt, [0x0000010D, 0x0010000C, 0xB8800011], .xscanmin { XF.zero with sb := 16, d := 12, mask := 11, mneg := 1, type := 2 }),
   (.simt, [0x0000010D, 0x0010000C, 0xB8800012], .xscanmax { XF.zero with sb := 16, d := 12, mask := 11, mneg := 1, type := 2 }),
   (.simt, [0x0000010D, 0x0010000C, 0xB8C00013], .xscanand { XF.zero with sb := 16, d := 12, mask := 11, mneg := 1, type := 3 }),
   (.simt, [0x0000010D, 0x0010000C, 0xB8C00014], .xscanor { XF.zero with sb := 16, d := 12, mask := 11, mneg := 1, type := 3 }),
   (.simt, [0x0000010D, 0x0010000C, 0xB8C00015], .xscanxor { XF.zero with sb := 16, d := 12, mask := 11, mneg := 1, type := 3 }),
   (.simt, [0x0C141910], .kand ⟨6, 5, 3, 0⟩),
   (.simt, [0x00000111, 0x00060503, 0x00000000], .kandX { XF.zero with sb := 6, sa := 5, d := 3 }),
   (.simt, [0x00000111, 0x00060503, 0x00000001], .kor { XF.zero with sb := 6, sa := 5, d := 3 }),
   (.simt, [0x00000111, 0x00060503, 0x00000002], .kxor { XF.zero with sb := 6, sa := 5, d := 3 }),
   (.simt, [0x00000111, 0x00060503, 0x00000003], .kandn { XF.zero with sb := 6, sa := 5, d := 3 }),
   (.simt, [0x00000111, 0x00000503, 0x00000004], .knot { XF.zero with sa := 5, d := 3 }),
   (.simt, [0x00000111, 0x00000503, 0x00000005], .kmov { XF.zero with sa := 5, d := 3 }),
   (.simt, [0x00146114], .ktos ⟨0, 5, 12, 0⟩),
   (.simt, [0x00000115, 0x0000050C, 0x00000000], .ktosX { XF.zero with sa := 5, d := 12 }),
   (.simt, [0x00000115, 0x00000E03, 0x00000001], .stok { XF.zero with sa := 14, d := 3 }),
   (.simt, [0x00146118], .kpopc ⟨0, 5, 12, 0⟩),
   (.simt, [0x00000119, 0x0000050C, 0x00000000], .kpopcX { XF.zero with sa := 5, d := 12 })] = true := by decide +kernel

theorem test_decode_lanes2 : reads [
   (.simt, [0x00000119, 0x0000050C, 0x00000001], .kffs { XF.zero with sa := 5, d := 12 }),
   (.simt, [0x00000119, 0x0000050C, 0x00000002], .kfls { XF.zero with sa := 5, d := 12 }),
   (.simt, [0x2000191C], .ballot ⟨16, 0, 3, 0⟩),
   (.simt, [0x0000011D, 0x00100003, 0xB8C00000], .ballotX { XF.zero with sb := 16, d := 3, mask := 11, mneg := 1, type := 3 }),
   (.simt, [0x20001920], .vmatch ⟨16, 0, 3, 0⟩),
   (.simt, [0x00000121, 0x00100003, 0xB8C00000], .vmatchX { XF.zero with sb := 16, d := 3, mask := 11, mneg := 1, type := 3 }),
   (.simt, [0x00000125, 0x0010050C, 0xB8C00000], .compact { XF.zero with sb := 16, sa := 5, d := 12, mask := 11, mneg := 1, type := 3 }),
   (.simt, [0x00000125, 0x0010050C, 0xB8C00001], .expand { XF.zero with sb := 16, sa := 5, d := 12, mask := 11, mneg := 1, type := 3 })] = true := by decide +kernel

theorem test_decode_memory : reads [
   (.simt, [0x54901940], .ld ⟨10, 9, 16, 12⟩),
   (.simt, [0xABCD5341, 0x0010090C, 0xB8000000], .ldX { XF.zero with disp := 43981, szsp := 10, osel := 1, sb := 16, sa := 9, d := 12, mask := 11, mneg := 1 }),
   (.simt, [0x64901944], .st ⟨12, 9, 16, 12⟩),
   (.simt, [0xABCD6345, 0x0010090C, 0xB8000000], .stX { XF.zero with disp := 43981, szsp := 12, osel := 1, sb := 16, sa := 9, d := 12, mask := 11, mneg := 1 }),
   (.simt, [0x54901948], .lds ⟨10, 9, 16, 12⟩),
   (.simt, [0xABCD5349, 0x0010090C, 0x00000000], .ldsX { XF.zero with disp := 43981, szsp := 10, osel := 1, sb := 16, sa := 9, d := 12 }),
   (.simt, [0x6490194C], .sts ⟨12, 9, 16, 12⟩),
   (.simt, [0xABCD634D, 0x0010090C, 0x00000000], .stsX { XF.zero with disp := 43981, szsp := 12, osel := 1, sb := 16, sa := 9, d := 12 }),
   (.simt, [0xABCD2B51, 0x1210090C, 0xB8800810], .atom ⟨16, { XF.zero with disp := 43981, szsp := 5, osel := 1, sc := 18, sb := 16, sa := 9, d := 12, mask := 11, mneg := 1, type := 2, scope := 4 }⟩),
   (.simt, [0xABCD0355, 0x0010090C, 0x00000800], .acq { XF.zero with disp := 43981, osel := 1, sb := 16, sa := 9, d := 12, scope := 4 }),
   (.simt, [0xABCD0359, 0x0010090C, 0x00000800], .rel { XF.zero with disp := 43981, osel := 1, sb := 16, sa := 9, d := 12, scope := 4 }),
   (.simt, [0xABCD0359, 0x0010090C, 0x00000801], .relFresh { XF.zero with disp := 43981, osel := 1, sb := 16, sa := 9, d := 12, scope := 4 }),
   (.simt, [0xABCD0359, 0x0010090C, 0x00000802], .relAll { XF.zero with disp := 43981, osel := 1, sb := 16, sa := 9, d := 12, scope := 4 }),
   (.simt, [0x0000015D, 0x00000000, 0x00000800], .fence { XF.zero with scope := 4 }),
   (.simt, [0x0000015D, 0x00000000, 0x00000801], .fenceUn { XF.zero with scope := 4 }),
   (.simt, [0x14900160], .pref ⟨2, 9, 16, 0⟩),
   (.simt, [0xABCD1361, 0x00100900, 0xB8000000], .prefX { XF.zero with disp := 43981, szsp := 2, osel := 1, sb := 16, sa := 9, mask := 11, mneg := 1 }),
   (.simt, [0xABCD1361, 0x00100900, 0xB8000001], .evict { XF.zero with disp := 43981, szsp := 2, osel := 1, sb := 16, sa := 9, mask := 11, mneg := 1 }),
   (.simt, [0x18000764], .cwait ⟨12, 3⟩),
   (.simt, [0x00030165, 0x0000000C, 0x00000000], .cwaitX { XF.zero with disp := 3, d := 12 }),
   (.simt, [0x00000369, 0x00000E09, 0x00000000], .btrans { XF.zero with osel := 1, sa := 14, d := 9 }),
   (.simt, [0xABCD636D, 0x1210090C, 0xB8000000], .stmsk { XF.zero with disp := 43981, szsp := 12, osel := 1, sc := 18, sb := 16, sa := 9, d := 12, mask := 11, mneg := 1 }),
   (.spindle, [0xABCD1571, 0x00000E0C, 0x00000000], .xld { XF.zero with disp := 43981, szsp := 2, osel := 2, sa := 14, d := 12 }),
   (.spindle, [0xABCD2575, 0x00000E0C, 0x00000000], .xst { XF.zero with disp := 43981, szsp := 4, osel := 2, sa := 14, d := 12 }),
   (.simt, [0xABCD0379, 0x0010090C, 0x00000000], .sigadd { XF.zero with disp := 43981, osel := 1, sb := 16, sa := 9, d := 12 }),
   (.simt, [0xABCD337D, 0x0010050C, 0xB8000000], .ostore { XF.zero with disp := 43981, szsp := 6, osel := 1, sb := 16, sa := 5, d := 12, mask := 11, mneg := 1 })] = true := by decide +kernel

theorem test_decode_control : reads [
   (.simt, [0x82468B80], .br ⟨4268869⟩),
   (.simt, [0x82468B81, 0x00000000, 0x00000000], .brX { XF.zero with disp := 33350, szsp := 17, osel := 1 }),
   (.simt, [0x82468B84], .call ⟨4268869⟩),
   (.simt, [0x82468B85, 0x00000000, 0x00000000], .callX { XF.zero with disp := 33350, szsp := 17, osel := 1 }),
   (.simt, [0x82468B88], .bany ⟨4268869⟩),
   (.simt, [0x82468B89, 0x00000000, 0xB8000000], .banyX { XF.zero with disp := 33350, szsp := 17, osel := 1, mask := 11, mneg := 1 }),
   (.simt, [0x82468B8C], .ball ⟨4268869⟩),
   (.simt, [0x82468B8D, 0x00000000, 0xB8000000], .ballX { XF.zero with disp := 33350, szsp := 17, osel := 1, mask := 11, mneg := 1 }),
   (.simt, [0x82468B90], .bnone ⟨4268869⟩),
   (.simt, [0x82468B91, 0x00000000, 0xB8000000], .bnoneX { XF.zero with disp := 33350, szsp := 17, osel := 1, mask := 11, mneg := 1 }),
   (.simt, [0x82468B95, 0x00100E00, 0x00000000], .beq { XF.zero with disp := 33350, szsp := 17, osel := 1, sb := 16, sa := 14 }),
   (.simt, [0x82468B95, 0x00100E00, 0x00000001], .bne { XF.zero with disp := 33350, szsp := 17, osel := 1, sb := 16, sa := 14 }),
   (.simt, [0x82468B95, 0x00100E00, 0x00000002], .blt { XF.zero with disp := 33350, szsp := 17, osel := 1, sb := 16, sa := 14 }),
   (.simt, [0x82468B95, 0x00100E00, 0x00000003], .ble { XF.zero with disp := 33350, szsp := 17, osel := 1, sb := 16, sa := 14 }),
   (.simt, [0x82468B95, 0x00100E00, 0x00000004], .bgt { XF.zero with disp := 33350, szsp := 17, osel := 1, sb := 16, sa := 14 }),
   (.simt, [0x82468B95, 0x00100E00, 0x00000005], .bge { XF.zero with disp := 33350, szsp := 17, osel := 1, sb := 16, sa := 14 }),
   (.simt, [0x82468B95, 0x00100E00, 0x00000006], .bltu { XF.zero with disp := 33350, szsp := 17, osel := 1, sb := 16, sa := 14 }),
   (.simt, [0x82468B95, 0x00100E00, 0x00000007], .bleu { XF.zero with disp := 33350, szsp := 17, osel := 1, sb := 16, sa := 14 }),
   (.simt, [0x82468B95, 0x00100E00, 0x00000008], .bgtu { XF.zero with disp := 33350, szsp := 17, osel := 1, sb := 16, sa := 14 }),
   (.simt, [0x82468B95, 0x00100E00, 0x00000009], .bgeu { XF.zero with disp := 33350, szsp := 17, osel := 1, sb := 16, sa := 14 }),
   (.simt, [0x18000198], .jmp ⟨12, 0⟩),
   (.simt, [0x00000199, 0x0000000C, 0x00000000], .jmpX { XF.zero with d := 12 }),
   (.simt, [0x00000199, 0x0000000C, 0x00000001], .callind { XF.zero with d := 12 }),
   (.simt, [0x1800019C], .ret ⟨12, 0⟩),
   (.simt, [0x0000019D, 0x0000000C, 0x00000000], .retX { XF.zero with d := 12 }),
   (.simt, [0x82468BA1, 0x00000E00, 0x00000000], .loopnz { XF.zero with disp := 33350, szsp := 17, osel := 1, sa := 14 }),
   (.simt, [0x000003A5, 0x00000E00, 0x00000000], .yield { XF.zero with osel := 1, sa := 14 }),
   (.simt, [0x01579BA8], .sleep ⟨0, 43981⟩),
   (.simt, [0xABCD01A9, 0x00000000, 0x00000000], .sleepX { XF.zero with disp := 43981 }),
   (.simt, [0x000001AC], .nop),
   (.simt, [0x000001AD, 0x00000000, 0x00000000], .nopX),
   (.simt, [0x01579BB0], .trap ⟨0, 43981⟩),
   (.simt, [0xABCD01B1, 0x00000000, 0x00000000], .trapX { XF.zero with disp := 43981 }),
   (.simt, [0x000001B4], .trapret),
   (.simt, [0x000001B5, 0x00000000, 0x00000000], .trapretX),
   (.simt, [0x000001B8], .exit),
   (.simt, [0x000001B9, 0x00000000, 0x00000000], .exitX)] = true := by decide +kernel

theorem test_decode_sync : reads [
   (.simt, [0x000023C0], .bar ⟨0, 17⟩),
   (.simt, [0x001101C1, 0x00000000, 0x00000600], .barX { XF.zero with disp := 17, scope := 3 }),
   (.simt, [0x001101C1, 0x0000000C, 0x00000601], .bararr { XF.zero with disp := 17, d := 12, scope := 3 }),
   (.simt, [0x001101C1, 0x00000E00, 0x00000602], .barwait { XF.zero with disp := 17, sa := 14, scope := 3 }),
   (.simt, [0x000003C5, 0x12100E00, 0x00000600], .bbarr { XF.zero with osel := 1, sc := 18, sb := 16, sa := 14, scope := 3 }),
   (.simt, [0x000003C5, 0x12000E00, 0x00000601], .bbwait { XF.zero with osel := 1, sc := 18, sa := 14, scope := 3 }),
   (.simt, [0xABCD2BC9, 0x0010090C, 0x00000600], .tlinc { XF.zero with disp := 43981, szsp := 5, osel := 1, sb := 16, sa := 9, d := 12, scope := 3 }),
   (.simt, [0xABCD2BC9, 0x0010090C, 0x00000601], .tlset { XF.zero with disp := 43981, szsp := 5, osel := 1, sb := 16, sa := 9, d := 12, scope := 3 }),
   (.simt, [0xABCD2BC9, 0x0010090C, 0x00000602], .tlwait { XF.zero with disp := 43981, szsp := 5, osel := 1, sb := 16, sa := 9, d := 12, scope := 3 }),
   (.simt, [0x000003CD, 0x1C100E04, 0x00000000], .cp { XF.zero with osel := 1, sc := 28, sb := 16, sa := 14, d := 4 }),
   (.simt, [0x000003CD, 0x1C100E04, 0x02440001], .cpred { XF.zero with osel := 1, sc := 28, sb := 16, sa := 14, d := 4, type := 9, shape := 2 }),
   (.simt, [0x00014BD0], .twait ⟨0, 165⟩),
   (.simt, [0x00A501D1, 0x00000000, 0x00000000], .twaitX { XF.zero with disp := 165 }),
   (.simt, [0xABCD03D5, 0x00000E09, 0x00000000], .spawn { XF.zero with disp := 43981, osel := 1, sa := 14, d := 9 }),
   (.simt, [0x000003D5, 0x00100E00, 0x00000001], .launch { XF.zero with osel := 1, sb := 16, sa := 14 }),
   (.simt, [0x000003D5, 0x00100E00, 0x00000002], .spnrun { XF.zero with osel := 1, sb := 16, sa := 14 }),
   (.simt, [0x01579BD8], .regsurrender ⟨0, 43981⟩),
   (.simt, [0xABCD01D9, 0x00000000, 0x00000000], .regsurrenderX { XF.zero with disp := 43981 }),
   (.simt, [0x01579BDC], .regclaim ⟨0, 43981⟩),
   (.simt, [0xABCD01DD, 0x00000000, 0x00000000], .regclaimX { XF.zero with disp := 43981 })] = true := by decide +kernel

theorem test_decode_ray : reads [
   (.simt, [0x000001E1, 0x00002000, 0xB8000000], .remit { XF.zero with sa := 32, mask := 11, mneg := 1 }),
   (.simt, [0x000001E1, 0x00002000, 0xB8000001], .rcont { XF.zero with sa := 32, mask := 11, mneg := 1 }),
   (.simt, [0x000001E1, 0x00000000, 0xB8000002], .rretire { XF.zero with mask := 11, mneg := 1 }),
   (.simt, [0xABCD03E1, 0x00100914, 0xB8000003], .racc { XF.zero with disp := 43981, osel := 1, sb := 16, sa := 9, d := 20, mask := 11, mneg := 1 }),
   (.simt, [0x000001E1, 0x00000000, 0x00000004], .epend),
   (.simt, [0x000001E1, 0x0000200C, 0xB8000005], .rcell { XF.zero with sa := 32, d := 12, mask := 11, mneg := 1 }),
   (.simt, [0x000001E1, 0x0000200C, 0xB8000006], .rdircls { XF.zero with sa := 32, d := 12, mask := 11, mneg := 1 }),
   (.simt, [0x000003E1, 0x0010000C, 0xB8000007], .rhit { XF.zero with osel := 1, sb := 16, d := 12, mask := 11, mneg := 1 }),
   (.simt, [0x000003E1, 0x00100014, 0xB8000008], .rinst { XF.zero with osel := 1, sb := 16, d := 20, mask := 11, mneg := 1 }),
   (.simt, [0x000003E1, 0x00100014, 0xB8040009], .rxform { XF.zero with osel := 1, sb := 16, d := 20, mask := 11, mneg := 1, shape := 2 })] = true := by decide +kernel

theorem test_decode_matrix : reads [
   (.spindle, [0x000003E5, 0x00100500, 0x00400000], .oclaim { XF.zero with osel := 1, sb := 16, sa := 5, type := 1 }),
   (.spindle, [0x000001E5, 0x00000500, 0x00000001], .orel { XF.zero with sa := 5 }),
   (.spindle, [0x000001E5, 0x00000500, 0x00000002], .owait { XF.zero with sa := 5 }),
   (.spindle, [0x000003E9, 0x12070502, 0x02400000], .mma { XF.zero with osel := 1, sc := 18, sb := 7, sa := 5, d := 2, type := 9 }),
   (.spindle, [0x000003E9, 0x12070502, 0x02400001], .mmasp { XF.zero with osel := 1, sc := 18, sb := 7, sa := 5, d := 2, type := 9 }),
   (.spindle, [0x000003E9, 0x12070502, 0x02400002], .mmag { XF.zero with osel := 1, sc := 18, sb := 7, sa := 5, d := 2, type := 9 }),
   (.spindle, [0x000003E9, 0x12070502, 0x02400003], .mmagsp { XF.zero with osel := 1, sc := 18, sb := 7, sa := 5, d := 2, type := 9 }),
   (.spindle, [0x000001ED, 0x00000002, 0x02400000], .aclr { XF.zero with d := 2, type := 9 }),
   (.spindle, [0x000003ED, 0x00100E02, 0x0280C001], .ascale { XF.zero with osel := 1, sb := 16, sa := 14, d := 2, type := 10, rnd := 3 }),
   (.spindle, [0xABCD03ED, 0x00100E02, 0x00C0C002], .adrain { XF.zero with disp := 43981, osel := 1, sb := 16, sa := 14, d := 2, type := 3, rnd := 3 }),
   (.spindle, [0xABCD03ED, 0x00100E02, 0x00C0C003], .adraing { XF.zero with disp := 43981, osel := 1, sb := 16, sa := 14, d := 2, type := 3, rnd := 3 }),
   (.spindle, [0x000001F1, 0x00000000, 0x00000000], .batcom),
   (.spindle, [0x000003F1, 0x00000E00, 0x00000001], .batwait { XF.zero with osel := 1, sa := 14 })] = true := by decide +kernel

theorem test_decode_system : reads [
   (.simt, [0x1800C3F4], .rdsr ⟨12, 97⟩),
   (.simt, [0x006101F5, 0x0000000C, 0x00000000], .rdsrX { XF.zero with disp := 97, d := 12 }),
   (.simt, [0x006101F5, 0x0000000C, 0x00000001], .wrsr { XF.zero with disp := 97, d := 12 }),
   (.simt, [0x000003F9, 0x00000E00, 0x00000000], .tmrset { XF.zero with osel := 1, sa := 14 }),
   (.simt, [0x000003F9, 0x00100E00, 0x00000001], .tlbinv { XF.zero with osel := 1, sb := 16, sa := 14 }),
   (.simt, [0x000001F9, 0x00000000, 0x00000002], .hdlinv),
   (.simt, [0x000001F9, 0x00000000, 0x00000003], .stdrain),
   (.simt, [0x000001F9, 0x00000014, 0x00000004], .sfpop { XF.zero with d := 20 }),
   (.simt, [0x002C03F9, 0x00000E00, 0x00000005], .evmark { XF.zero with disp := 44, osel := 1, sa := 14 }),
   (.simt, [0x000001F9, 0x00000014, 0x00000006], .sample { XF.zero with d := 20 }),
   (.simt, [0x000001F9, 0x00000000, 0x00000007], .utret)] = true := by decide +kernel


/-! ## Instructions that issue -/

/-- The row and fields of an instruction that passes the checks of R140. -/
def rowOf (i : Instr) (st : Stream) : Option (Row × Norm) :=
  match i.toEnc with
  | none => none
  | some e => match e.check st, majorOf e.maj.toNat with
    | none, some mj => (mj.row (e.norm mj).sub).map (fun r => (r, e.norm mj))
    | _, _ => none

/-- An instruction passes every check before its work, and satisfies a test. -/
def issuesAnd (i : Instr) (s : State) (test : Row → Norm → Bool) : Bool :=
  match rowOf i s.stream with
  | none => false
  | some (r, n) =>
    s.hasAgent && (!privileged i || s.curMode == .supervisor)
      && (match s.curWave with
        | some w => !outOfRange w (rowRefs r s.stream n) && (hazard w (rowRefs r s.stream n)).isNone
        | none => true)
      && (ownPoison i || (s.poisonCheck r.mask (rowSources r s.stream n) n.x).isNone) && canonical (s.nextPc n.words) && test r n

theorem issues_with {i : Instr} {s : State} (H : Row → Norm → Prop) [∀ r n, Decidable (H r n)]
    (h : issuesAnd i s (fun r n => decide (H r n)) = true) : ∃ r n, Issues i s r n ∧ H r n := by
  unfold issuesAnd at h
  split at h
  · exact absurd h (by simp)
  · rename_i r n hr
    unfold rowOf at hr
    split at hr
    · exact absurd hr (by simp)
    · rename_i e he
      split at hr
      · rename_i mj hc hm
        cases hrow : mj.row (e.norm mj).sub with
        | none => rw [hrow] at hr; exact absurd hr (by simp)
        | some r' =>
          rw [hrow] at hr
          simp only [Option.map_some, Option.some.injEq, Prod.mk.injEq] at hr
          obtain ⟨rfl, rfl⟩ := hr
          simp only [Bool.and_eq_true, Bool.or_eq_true, Bool.not_eq_true', decide_eq_true_eq, beq_iff_eq] at h
          obtain ⟨⟨⟨⟨⟨h1, h2⟩, h3⟩, h4⟩, h5⟩, h6⟩ := h
          refine ⟨_, _, ⟨⟨h1, ⟨e, mj, he, hc, hm, rfl, hrow⟩, ?_, ?_, ?_, ?_⟩, h5⟩, h6⟩
          · intro hp; rcases h2 with h2 | h2
            · rw [hp] at h2; exact absurd h2 (by simp)
            · exact h2
          · intro w hw; rw [hw] at h3; simp at h3; exact h3.1
          · intro w hw; rw [hw] at h3; simp at h3; exact h3.2
          · intro hp; rcases h4 with h4 | h4
            · rw [hp] at h4; exact absurd h4 (by simp)
            · simpa using h4
      · exact absurd hr (by simp)

theorem issues_by {i : Instr} {s : State} {H : Row → Norm → Prop} (d : ∀ r n, Decidable (H r n))
    (h : issuesAnd i s (fun r n => @decide _ (d r n)) = true) : ∃ r n, Issues i s r n ∧ H r n := @issues_with i s H d h

theorem issues_of {i : Instr} {s : State} (h : issuesAnd i s (fun _ _ => decide True) = true) : ∃ r n, Issues i s r n :=
  let ⟨r, n, h, _⟩ := issues_with (fun _ _ => True) h
  ⟨r, n, h⟩

/-! Decisions of what follows from a computed outcome. -/

@[reducible] def decOk {c : Checked} {H : List (Req × List Part) → List (Nat × BitVec 64 × BitVec 64) → State → Prop}
    (d : ∀ l sf t, Decidable (H l sf t)) : Decidable (∃ l sf t, c = .ok l sf t ∧ H l sf t) :=
  match c with
  | .ends _ => .isFalse (fun ⟨_, _, _, h, _⟩ => nomatch h)
  | .ok l sf t => match d l sf t with
    | .isTrue h => .isTrue ⟨l, sf, t, rfl, h⟩
    | .isFalse h => .isFalse (fun ⟨_, _, _, e, g⟩ => by cases e; exact h g)

@[reducible] def decFound {c : Located} {H : BitVec 64 → Nat → PageKind → State → Prop} (d : ∀ v p k t, Decidable (H v p k t)) :
    Decidable (∃ v p k t, c = .found v p k t ∧ H v p k t) :=
  match c with
  | .ends _ => .isFalse (fun ⟨_, _, _, _, h, _⟩ => nomatch h)
  | .found v p k t => match d v p k t with
    | .isTrue h => .isTrue ⟨v, p, k, t, rfl, h⟩
    | .isFalse h => .isFalse (fun ⟨_, _, _, _, e, g⟩ => by cases e; exact h g)

@[reducible] def decPair {α β : Type} {c : α × β} {H : α → β → Prop} (d : ∀ a b, Decidable (H a b)) :
    Decidable (∃ a b, c = (a, b) ∧ H a b) :=
  match d c.1 c.2 with
  | .isTrue h => .isTrue ⟨c.1, c.2, rfl, h⟩
  | .isFalse h => .isFalse (fun ⟨_, _, e, g⟩ => by rw [e] at h; exact h g)

@[reducible] def decNone {α β : Type} {c : Option α × β} {H : β → Prop} (d : ∀ b, Decidable (H b)) :
    Decidable (∃ b, c = (none, b) ∧ H b) :=
  match c with
  | (some _, _) => .isFalse (fun ⟨_, h, _⟩ => nomatch h)
  | (none, b) => match d b with
    | .isTrue h => .isTrue ⟨b, rfl, h⟩
    | .isFalse h => .isFalse (fun ⟨_, e, g⟩ => by cases e; exact h g)

@[reducible] def decSome {α : Type} {c : Option α} {H : α → Prop} (d : ∀ a, Decidable (H a)) : Decidable (∃ a, c = some a ∧ H a) :=
  match c with
  | none => .isFalse (fun ⟨_, h, _⟩ => nomatch h)
  | some a => match d a with
    | .isTrue h => .isTrue ⟨a, rfl, h⟩
    | .isFalse h => .isFalse (fun ⟨_, e, g⟩ => by cases e; exact h g)

@[reducible] def decAnd {P Q : Prop} (d : Decidable P) (e : Decidable Q) : Decidable (P ∧ Q) := @instDecidableAnd P Q d e

theorem room_idle {w : Wave} (h : w.flight = []) (path : Elem → Nat) (es : List Elem) (b : Bool) : Room w path es b where
  counters := fun _ _ => by simp [Wave.counter, h]
  stores := fun _ => by simp [Wave.counter, h]
  order := fun _ a ha => by rw [h] at ha; cases ha
  apart := fun _ _ a ha => by rw [h] at ha; cases ha

/-- A wave of four lanes, alone in its block, of a launch with 4 KiB of scratchpad and two barrier slots. -/
def tRec : BitVec 512 := BitVec.ofNat 512 (2 * 2 ^ 16 + 2 ^ 24 + 2 * 2 ^ 32 + 0x10000 * 2 ^ 64 + 0x400 * 2 ^ 256)
def tW : Wave := Wave.enter 0 0 0 0 0 0 0 0 .compute 0 0 0x10000#64 0xF#64 (entryRegs 0x20000 0 0) [0, 1]
def tB : Block := Block.enter 0 0 0 0 1 0x10000 4096 2
def tP : Spindle := Spindle.enter 0 0 0 0 0 0 0x10000#64 0x20000
def tS : State :=
  { State.reset with tlb := [probeTlb], launches := [{ Launch.enter 0 0 0 0 0 0 0 tRec 0 with next := 1 }], blocks := [tB], waves := [tW],
                     cur := .wave 0 0 }
def tX : State := { tS with spindles := [tP], cur := .spindle 0 }

theorem unmarked_tS (w : Wave) (n L regs : Nat) : tS.vmarked w n L regs = false := by
  have h : tS.csMark = [] := rfl
  simp [State.vmarked, h]

/-! ## Witnesses: operands and states that meet the hypotheses of each statement -/

theorem wit_VectorIntegerLanes : ∃ f, shape (.iadd ⟨3, 1, 13, 0⟩) = .vectorInt f ∧ (∃ r n, Issues (.iadd ⟨3, 1, 13, 0⟩) tS r n) ∧
    tS.curWave = some tW := ⟨_, rfl, issues_of (by decide +kernel), rfl⟩
theorem wit_VectorFloatLanes : ∃ f, shape (.ffma ⟨3, 1, 13, 2⟩) = .vectorFloat f ∧ (∃ r n, Issues (.ffma ⟨3, 1, 13, 2⟩) tS r n) ∧
    tS.curWave = some tW := ⟨_, rfl, issues_of (by decide +kernel), rfl⟩
theorem wit_CarryLanes : ∃ r n, Issues (.iaddc { XF.zero with sc := 7, sb := 4, sa := 2, d := 6, type := 1 }) tS r n := issues_of (by decide +kernel)
theorem wit_CarryLanes_borrow : ∃ r n, Issues (.isubb { XF.zero with sc := 15, sb := 4, sa := 2, d := 6, type := 3 }) tS r n :=
  issues_of (by decide +kernel)
theorem wit_ScalarResults : (∃ f, shape (.sadd ⟨16, 14, 12, 1⟩) = .scalar f) ∧ (∃ r n, Issues (.sadd ⟨16, 14, 12, 1⟩) tS r n) ∧
    ∃ r n, Issues (.sadd ⟨16, 14, 31, 1⟩) tX r n := ⟨⟨_, rfl⟩, issues_of (by decide +kernel), issues_of (by decide +kernel)⟩
theorem wit_CompareMasks : (∃ f, shape (.fclass ⟨3, 1, 2, 2⟩) = .vectorTest f) ∧ ∃ r n, Issues (.fclass ⟨3, 1, 2, 2⟩) tS r n :=
  ⟨⟨_, rfl⟩, issues_of (by decide +kernel)⟩
theorem wit_SelectLanes : ∃ r n, Issues (.sel { XF.zero with sa := 5, sb := 2, sc := 3, d := 1 }) tS r n ∧
    poisonLanes tS tW (laneSet tW n.x &&& tW.k.rd n.x.sa.toNat) (opndRefs r.sb .simt n n.x.sb) = 0 ∧
    poisonLanes tS tW (laneSet tW n.x &&& ~~~(tW.k.rd n.x.sa.toNat)) (opndRefs r.sc .simt n n.x.sc) = 0 :=
  issues_with _ (by decide +kernel)
/-- One of each of the four forms. -/
theorem wit_ShuffleLanes : ∀ i ∈ [Instr.shfl ⟨3, 1, 2, 2⟩, .shflxor { XF.zero with osel := 1, sb := 3, sa := 2, d := 6, type := 3 },
      .shflup { XF.zero with osel := 2, sb := 63, sa := 2, d := 6, type := 1 }, .shfldn { XF.zero with osel := 0, sb := 1, sa := 2, d := 6, type := 1 }],
    shape i = .shuffle ∧ ∃ r n, Issues i tS r n ∧ poisonLanes tS tW (laneSet tW n.x) (opndRefs r.sb .simt n n.x.sb) = 0 ∧
      ∀ L, (laneSet tW n.x).getLsbD L = true → tS.vmarked tW n.x.sa.toNat L (typeRegs n.x.type.toNat) = false := by
  intro i hi
  simp only [List.mem_cons, List.not_mem_nil, or_false] at hi
  rcases hi with rfl | rfl | rfl | rfl <;>
    exact ⟨rfl, issues_by (fun _ _ => decAnd inferInstance (.isTrue (fun _ _ => unmarked_tS _ _ _ _))) (by decide +kernel)⟩
theorem wit_LaneWritesReadBack : ([(0, 1#64), (63, 2#64)].map (·.1)).Nodup ∧ ∀ p ∈ [(0, 1#64), (63, 2#64)], p.1 < 64 := by decide
theorem wit_PackLanes : ∀ i ∈ [Instr.compact { XF.zero with sa := 5, sb := 2, d := 6, type := 3 }, .expand { XF.zero with sb := 2, d := 6, type := 1 }],
    (∃ b, shape i = .pack b) ∧ (∃ r n, Issues i tS r n) ∧ ∀ n L regs, tS.vmarked tW n L regs = false := by
  intro i hi
  simp only [List.mem_cons, List.not_mem_nil, or_false] at hi
  rcases hi with rfl | rfl <;> exact ⟨⟨_, rfl⟩, issues_of (by decide +kernel), fun _ _ _ => unmarked_tS _ _ _ _⟩
theorem wit_ReadAndWriteLane : shape (.rdlane ⟨63, 1, 2, 2⟩) = .rdlane ∧
    (∃ r n, Issues (.rdlane ⟨63, 1, 2, 2⟩) tS r n ∧ tS.sourceMarked (opndRefs r.sb .simt n n.x.sb) = false ∧
      tS.vmarked tW n.x.sa.toNat ((tS.laneOpnd tW n r.sb n.x.sb 0).toNat % 2 ^ 32 % 64) (typeRegs n.x.type.toNat) = false) ∧
    ∃ r n, Issues (.wrlane { XF.zero with osel := 1, sb := 3, sa := 2, d := 6, type := 3 }) tS r n ∧
      tS.sourceMarked (opndRefs r.sb .simt n n.x.sb) = false ∧ tS.smarked n.x.sa.toNat = false :=
  ⟨rfl, issues_by (fun _ _ => decAnd inferInstance (.isTrue (unmarked_tS _ _ _ _))) (by decide +kernel), issues_with _ (by decide +kernel)⟩
theorem wit_ReductionResults : shape (.redadd ⟨2, 0, 6, 0⟩) = .reduction ∧ (∃ r n, Issues (.redadd ⟨2, 0, 6, 0⟩) tS r n) ∧
    ∀ n L regs, tS.vmarked tW n L regs = false := ⟨rfl, issues_of (by decide +kernel), fun _ _ _ => unmarked_tS _ _ _ _⟩
theorem wit_IntegerReductionsFold : ∃ r n, Issues (.redxor { XF.zero with sb := 2, d := 6, type := 3 }) tS r n ∧ n.x.type.toNat < 8 ∧ n.sub = 5 :=
  issues_with _ (by decide +kernel)
theorem wit_ScanResults : ∀ i ∈ [Instr.scanadd ⟨2, 0, 6, 0⟩, .xscanxor { XF.zero with sb := 2, d := 6, type := 3 }],
    shape i = .scan ∧ (∃ r n, Issues i tS r n) ∧ ∀ n L regs, tS.vmarked tW n L regs = false := by
  intro i hi
  simp only [List.mem_cons, List.not_mem_nil, or_false] at hi
  rcases hi with rfl | rfl <;> exact ⟨rfl, issues_of (by decide +kernel), fun _ _ _ => unmarked_tS _ _ _ _⟩
theorem wit_BallotAndMatch : ∀ i ∈ [Instr.ballot ⟨2, 0, 6, 0⟩, .vmatch ⟨2, 0, 6, 0⟩],
    (shape i = .ballot ∨ shape i = .matching) ∧ (∃ r n, Issues i tS r n) ∧ ∀ n L regs, tS.vmarked tW n L regs = false := by
  intro i hi
  simp only [List.mem_cons, List.not_mem_nil, or_false] at hi
  rcases hi with rfl | rfl
  · exact ⟨.inl rfl, issues_of (by decide +kernel), fun _ _ _ => unmarked_tS _ _ _ _⟩
  · exact ⟨.inr rfl, issues_of (by decide +kernel), fun _ _ _ => unmarked_tS _ _ _ _⟩
theorem wit_MaskRegisterResults : (∃ f, shape (.kand ⟨6, 5, 3, 0⟩) = .mask f) ∧ (∃ r n, Issues (.kand ⟨6, 5, 3, 0⟩) tS r n) ∧
    (∃ f, shape (.ktos ⟨0, 15, 127, 0⟩) = .maskValue f) ∧ (∃ r n, Issues (.ktos ⟨0, 15, 127, 0⟩) tS r n) ∧
    ∃ r n, Issues (.stok { XF.zero with sa := 127, d := 15 }) tS r n :=
  ⟨⟨_, rfl⟩, issues_of (by decide +kernel), ⟨_, rfl⟩, issues_of (by decide +kernel), issues_of (by decide +kernel)⟩

/-- The wave at another address. -/
def at_ (s : State) (pc : BitVec 64) : State := s.modWave 0 0 (fun w => { w with pc := pc })
/-- A context with a pre-emption request. -/
def tReq : State := tS.ctlWr (.pre 0) 5

theorem wit_Branches : (∃ r n, Issues (.br ⟨2⟩) tS r n ∧ always n tS = true ∧ canonical (tS.curPc + (n.x.disp ++ n.x.szsp ++ n.x.osel).signExtend 64 * 4) = true) ∧
    (∃ r n, Issues (.br ⟨2⟩) (at_ tS 0xFFFFFFFFFFFFF8) r n ∧ always n (at_ tS 0xFFFFFFFFFFFFF8) = true ∧
      canonical ((at_ tS 0xFFFFFFFFFFFFF8).curPc + (n.x.disp ++ n.x.szsp ++ n.x.osel).signExtend 64 * 4) = false) ∧
    ∃ r n, Issues (.bnone ⟨6⟩) tS r n ∧ maskCond (fun k => k == 0) n tS = false :=
  ⟨issues_with _ (by decide +kernel), issues_with _ (by decide +kernel), issues_with _ (by decide +kernel)⟩
theorem wit_LoopsCallsAndJumps :
    (∃ r n, Issues (.loopnz { XF.zero with sa := 0 }) tS r n ∧ tS.srd n.x.sa.toNat - 1 ≠ 0 ∧ canonical (tS.curPc + (n.x.disp ++ n.x.szsp ++ n.x.osel).signExtend 64 * 4) = true) ∧
    (∃ r n, Issues (.loopnz { XF.zero with sa := 6 }) (tS.swr 6 1) r n ∧ (tS.swr 6 1).srd n.x.sa.toNat - 1 = 0) ∧
    (∃ r n, Issues (.call ⟨0x7FFFFF⟩) tS r n ∧ canonical (tS.curPc + (n.x.disp ++ n.x.szsp ++ n.x.osel).signExtend 64 * 4) = true) ∧
    (∃ r n, Issues (.callind { XF.zero with d := 0 }) tS r n ∧ canonical (tS.srd n.x.d.toNat) = true ∧ tS.srd n.x.d.toNat % 4 = 0) ∧
    ∃ r n, Issues (.jmp ⟨0, 0⟩) tS r n ∧ canonical (tS.srd n.x.d.toNat) = true ∧ tS.srd n.x.d.toNat % 4 = 0 :=
  ⟨issues_with _ (by decide +kernel), issues_with _ (by decide +kernel), issues_with _ (by decide +kernel), issues_with _ (by decide +kernel),
    issues_with _ (by decide +kernel)⟩
theorem wit_NopSleepYieldExit : (∃ r n, Issues .nop tS r n) ∧ (∃ r n, Issues (.sleep ⟨0, 0⟩) tS r n ∧ n.x.disp.toNat = 0) ∧
    (∃ r n, Issues (.sleep ⟨0, 1⟩) tX r n ∧ n.x.disp.toNat ≠ 0) ∧
    (∃ r n, Issues (.yield { XF.zero with osel := 1, sa := 5 }) tS r n ∧ tS.scalOpnd n r.sa n.x.sa = 0 ∧ (tS.agentReq && tS.curMode == .user) = false) ∧
    (∃ r n, Issues (.yield { XF.zero with osel := 1, sa := 5 }) tReq r n ∧ tReq.scalOpnd n r.sa n.x.sa = 0 ∧ (tReq.agentReq && tReq.curMode == .user) = true) ∧
    (∃ r n, Issues .exit tS r n) ∧ tS.curWave = some tW ∧ (∃ r n, Issues .exit tX r n) ∧ tX.curWave = none :=
  ⟨issues_of (by decide +kernel), issues_with _ (by decide +kernel), issues_with _ (by decide +kernel), issues_with _ (by decide +kernel),
    issues_with _ (by decide +kernel), issues_of (by decide +kernel), rfl, issues_of (by decide +kernel), rfl⟩

@[reducible] def decTriple {α β γ : Type} {c : α × β × γ} {H : α → β → γ → Prop} (d : ∀ a b e, Decidable (H a b e)) :
    Decidable (∃ a b e, c = (a, b, e) ∧ H a b e) :=
  match d c.1 c.2.1 c.2.2 with
  | .isTrue h => .isTrue ⟨c.1, c.2.1, c.2.2, rfl, h⟩
  | .isFalse h => .isFalse (fun ⟨_, _, _, e, g⟩ => by rw [e] at h; exact h g)

@[reducible] def decSp {c : SpElems} {H : List Elem → State → Prop} (d : ∀ es t, Decidable (H es t)) : Decidable (∃ es t, c = .ok es t ∧ H es t) :=
  match c with
  | .ends _ => .isFalse (fun ⟨_, _, h, _⟩ => nomatch h)
  | .ok es t => match d es t with
    | .isTrue h => .isTrue ⟨es, t, rfl, h⟩
    | .isFalse h => .isFalse (fun ⟨_, _, e, g⟩ => by cases e; exact h g)

@[reducible] def decXok {c : Xlate × State} {H : TlbEntry → State → Prop} (d : ∀ e t, Decidable (H e t)) :
    Decidable (∃ e t, c = (.ok e, t) ∧ H e t) :=
  match c with
  | (.ok e, t) => match d e t with
    | .isTrue h => .isTrue ⟨e, t, rfl, h⟩
    | .isFalse h => .isFalse (fun ⟨_, _, e, g⟩ => by cases e; exact h g)
  | (.missing _, _) => .isFalse (fun ⟨_, _, h, _⟩ => nomatch h)
  | (.cow, _) => .isFalse (fun ⟨_, _, h, _⟩ => nomatch h)
  | (.cause _, _) => .isFalse (fun ⟨_, _, h, _⟩ => nomatch h)

@[reducible] def decRoom (path : Elem → Nat) (es : List Elem) (b : Bool) : Decidable (Room tW path es b) := .isTrue (room_idle rfl path es b)

/-- The state that an instruction leaves. -/
noncomputable def next (i : Instr) (s : State) : State :=
  match exec i s with
  | .next t => t
  | _ => s

/-- A store of the wave is in flight. -/
noncomputable def tBusy : State := next (.st ⟨4, 0, 1, 2⟩) tS
/-- Every page lies in the window of this die in space 5. -/
def tFar : State := { tS with tlb := [{ probeTlb with frame := 5 * 2 ^ 48 }] }

theorem wit_ChecksTouchOnlyTables : ∃ r n, Issues (.ld ⟨4, 0, 1, 2⟩) tS r n ∧ ∃ l sf t, tS.check tW .load n.x (xScratch n.x)
    (tS.laneReqs tW n (xSize n.x) (fun _ => 2 ^ (xSize n.x) - 1) (fun _ => 0) (fun _ => .load)) = .ok l sf t ∧ True :=
  issues_by (fun _ _ => decOk (fun _ _ _ => inferInstance)) (by decide +kernel)
theorem wit_TranslationsGrantNoMore : ∃ e t, tS.translate 0 0 0x3FFFFFFF { read := true, write := true, fetch := true, user := true } = (.ok e, t) ∧ True :=
  @of_decide_eq_true _ (decXok (fun _ _ => inferInstance)) (by decide +kernel)
/-- A base register that ends with the bytes of a request, for a load and for a store. -/
theorem wit_BaseRegistersTranslate : ∀ f ∈ [AccForm.load, AccForm.store],
    let b : BReg := { valid := true, vb := 0, pb := 64, limit := 8, ord := .rc, rd := true, wr := true, usr := true }
    let r : Req := { lane := none, off := 4, bytes := 4, mask := 15, data := 0, op := .load }
    b.valid = true ∧ r.off + 0 + 4 ≤ b.limit ∧ (if (f.need (tS.curMode == .user)).write then b.wr = true else b.rd = true) ∧
      ((f.need (tS.curMode == .user)).user = true → b.usr = true) := by
  intro f hf
  simp only [List.mem_cons, List.not_mem_nil, or_false] at hf
  rcases hf with rfl | rfl <;> decide
/-- The last byte of the scratchpad, and one past it. -/
theorem wit_ScratchpadChecks : tS.block? tW.launch tW.block = some tB ∧ tS.locks = [] ∧ AccForm.load.natural = false ∧ AccForm.load.cell = none ∧
    (∀ r ∈ [{ lane := none, off := 4092, bytes := 4, mask := 15, data := 0, op := .load : Req }], ¬ tB.scrSize < r.off + r.bytes) ∧
    ∀ r ∈ [{ lane := none, off := 4093, bytes := 4, mask := 15, data := 0, op := .load : Req }], tB.scrSize < r.off + r.bytes := by
  refine ⟨rfl, rfl, rfl, rfl, ?_, ?_⟩ <;> decide
theorem wit_LoadsIssue : (∃ r n, Issues (.ld ⟨4, 0, 1, 2⟩) tS r n ∧ ∃ l sf t, tS.check tW .load n.x (xScratch n.x)
      (tS.laneReqs tW n (xSize n.x) (fun _ => 2 ^ (xSize n.x) - 1) (fun _ => 0) (fun _ => .load)) = .ok l sf t ∧
      Room tW (fun e => e.path tW.core) (elemsOf (xScratch n.x) 0 l) false) ∧
    ∃ r n, Issues (.lds ⟨4, 0, 1, 2⟩) tS r n ∧ ∃ l sf t, tS.check tW .load n.x (xScratch n.x) [tS.scalarReq tW n (xSize n.x) 0 .load] = .ok l sf t ∧
      Room tW (fun e => e.path tW.core) (elemsOf (xScratch n.x) 0 l) false :=
  ⟨issues_by (fun _ _ => decOk (fun _ _ _ => decRoom _ _ _)) (by decide +kernel), issues_by (fun _ _ => decOk (fun _ _ _ => decRoom _ _ _)) (by decide +kernel)⟩
theorem wit_StoresIssue : (∃ r n, Issues (.st ⟨4, 0, 1, 2⟩) tS r n ∧ ∃ l sf t, tS.check tW .store n.x (xScratch n.x)
      (tS.laneReqs tW n (xSize n.x) (fun _ => 2 ^ (xSize n.x) - 1) (fun L => tS.vwords tW n.x.d.toNat L 1) (fun _ => .store)) = .ok l sf t ∧
      Room tW (fun e => e.path tW.core) (elemsOf (xScratch n.x) 0 l) false) ∧
    (∃ r n, Issues (.sts ⟨4, 0, 1, 2⟩) tS r n ∧ ∃ l sf t, tS.check tW .store n.x (xScratch n.x) [tS.scalarReq tW n (xSize n.x) (tS.srd n.x.d.toNat).toNat .store] = .ok l sf t ∧
      Room tW (fun e => e.path tW.core) (elemsOf (xScratch n.x) 0 l) false) ∧
    ∃ r n, Issues (.stmsk { XF.zero with szsp := 4, sb := 1, d := 2, sc := 3 }) tS r n ∧ ∃ l sf t, tS.check tW { AccForm.store with regs := false } n.x (xScratch n.x)
      (((tS.laneReqs tW n (xSize n.x) (fun L => (tS.vrd tW n.x.sc.toNat L).toNat) (fun L => tS.vwords tW n.x.d.toNat L 1) (fun _ => .store)).filter
        (fun q => q.mask != 0)).map Req.trim) = .ok l sf t ∧ Room tW (fun e => e.path tW.core) (elemsOf (xScratch n.x) 0 l) false :=
  ⟨issues_by (fun _ _ => decOk (fun _ _ _ => decRoom _ _ _)) (by decide +kernel), issues_by (fun _ _ => decOk (fun _ _ _ => decRoom _ _ _)) (by decide +kernel),
    issues_by (fun _ _ => decOk (fun _ _ _ => decRoom _ _ _)) (by decide +kernel)⟩
theorem wit_AtomicsIssue : (∃ r n, Issues (.atom ⟨0, { XF.zero with szsp := 5, scope := 4, type := 2, sb := 2, sc := 4, d := 6 }⟩) tS r n ∧ n.sub / 16 % 4 = 0 ∧
      ∃ sc, tS.scopeIn n = some sc ∧ ∃ l sf t, tS.check tW .atomic n.x (xScratch n.x) (tS.atomReqs tW n) = .ok l sf t ∧
        ∃ es x, t.askPeers ((elemsOf (xScratch n.x) sc l).map Elem.asAtomic) = (es, x) ∧ (∀ e ∈ es, x.elemPoisoned tW e = false) ∧
          Room tW (fun e => e.path tW.core) es false) ∧
    ∃ r n, Issues (.sigadd { XF.zero with osel := 2, d := 6 }) tFar r n ∧ ∃ l sf t,
      tFar.check tW .signal n.x false [tFar.scalarReq tW n 8 (tFar.srd n.x.d.toNat).toNat .sig] = .ok l sf t ∧
        Room tW (fun e => e.path tW.core) (elemsOf false 0 l) false :=
  ⟨issues_by (fun _ _ => decAnd inferInstance (decSome (fun _ => decOk (fun _ _ _ => decPair (fun _ _ => decAnd inferInstance (decRoom _ _ _)))))) (by decide +kernel),
    issues_by (fun _ _ => decOk (fun _ _ _ => decRoom _ _ _)) (by decide +kernel)⟩
theorem wit_OrderedAtomics : ∃ r n, Issues (.atom ⟨0x30, { XF.zero with szsp := 5, scope := 4, type := 2, sb := 2, sc := 4, d := 6 }⟩) tS r n ∧ n.sub / 16 % 4 ≠ 0 ∧
    ∃ sc, tS.scopeIn n = some sc ∧ ∃ l sf t, tS.check tW .orderedAtomic n.x (xScratch n.x) (tS.atomReqs tW n) = .ok l sf t ∧
      ((n.sub / 32 % 2 == 1) = true → t.releaseReady sc = true) ∧ atomCells l ≠ [] ∧ (∀ q ∈ atomCells l, t.lineBusy q.2.2.1 = false) ∧
      (∀ q ∈ atomCells l, (cellOf (t.cellRead sc q.2.1 q.2.2.1).1).reserved = false) ∧
      (∀ q ∈ atomCells l, (t.cellRead sc q.2.1 q.2.2.1).2.1 = false) ∧
      ∃ u, (if (n.sub / 32 % 2 == 1) = true then t.releaseStep sc else (none, t)) = (none, u) ∧ True :=
  issues_by (fun _ _ => decAnd inferInstance (decSome (fun _ => decOk (fun _ _ _ => decAnd inferInstance (decAnd inferInstance (decAnd inferInstance
    (decAnd inferInstance (decAnd inferInstance (decNone (fun _ => inferInstance))))))))) ) (by decide +kernel)
theorem wit_ReleasesAndAcquires : (∃ r n, Issues (.relFresh { XF.zero with osel := 2, scope := 4, d := 6 }) tS r n ∧ ∃ sc, tS.scopeIn n = some sc ∧
      ∃ va pa k t, tS.locate .release n 8 = .found va pa k t ∧ t.releaseReady sc = true ∧ t.lineBusy pa = false ∧
        ∃ x p u, t.cellRead sc va.toNat pa = (x, p, u) ∧ (cellOf x).reserved = false ∧ ∃ v, u.releaseStep sc = (none, v) ∧ True) ∧
    ∃ r n, Issues (.acq { XF.zero with osel := 2, scope := 4, d := 6 }) tX r n ∧ ∃ sc, tX.scopeIn n = some sc ∧
      ∃ va pa k t, tX.locate .acquire n 8 = .found va pa k t ∧ t.lineBusy pa = false ∧
        ∃ x p u, t.cellRead sc va.toNat pa = (x, p, u) ∧ p = false ∧ (cellOf x).reserved = false :=
  ⟨issues_by (fun _ _ => decSome (fun _ => decFound (fun _ _ _ _ => decAnd inferInstance (decAnd inferInstance (decTriple (fun _ _ _ => decAnd inferInstance
      (decNone (fun _ => inferInstance)))))))) (by decide +kernel),
    issues_by (fun _ _ => decSome (fun _ => decFound (fun _ _ _ _ => decAnd inferInstance (decTriple (fun _ _ _ => inferInstance))))) (by decide +kernel)⟩
theorem wit_FencesAndCounterWaits : (∃ r n, Issues (.fence { XF.zero with scope := 4 }) tS r n ∧ ∃ sc, tS.scopeIn n = some sc ∧ tS.releaseReady sc = true ∧
      ∃ t, tS.releaseStep sc = (none, t) ∧ True) ∧
    (∃ r n, Issues (.fence { XF.zero with scope := 4 }) tBusy r n ∧ ∃ sc, tBusy.scopeIn n = some sc ∧ tBusy.releaseReady sc = false) ∧
    (∃ r n, Issues (.fenceUn { XF.zero with scope := 3 }) tS r n ∧ ∃ sc, tS.scopeIn n = some sc ∧ tS.releaseReady sc = true ∧ scopeCluster ≤ sc ∧
      ∃ a t, tS.releaseUn 0 0 = (a, t) ∧ a = []) ∧
    (∃ r n, Issues (.fenceUn { XF.zero with scope := 2 }) tS r n ∧ ∃ sc, tS.scopeIn n = some sc ∧ tS.releaseReady sc = true ∧ sc < scopeCluster) ∧
    (∃ r n, Issues (.fenceUn { XF.zero with scope := 4 }) tBusy r n ∧ ∃ sc, tBusy.scopeIn n = some sc ∧ tBusy.releaseReady sc = false) ∧
    (∃ r n, Issues (.cwait ⟨6, 2⟩) tS r n) ∧ ∃ r n, Issues (.cwait ⟨6, 2⟩) tBusy r n ∧ ∃ w, tBusy.curWave = some w ∧ ¬ (w.counter 1 ≤ 0 ∧ w.counter 0 ≤ 0 ∧ w.counter 2 ≤ 0) :=
  ⟨issues_by (fun _ _ => decSome (fun _ => decAnd inferInstance (decNone (fun _ => inferInstance)))) (by decide +kernel),
    issues_by (fun _ _ => decSome (fun _ => inferInstance)) (by decide +kernel),
    issues_by (fun _ _ => decSome (fun _ => decAnd inferInstance (decAnd inferInstance (decPair (fun _ _ => inferInstance))))) (by decide +kernel),
    issues_by (fun _ _ => decSome (fun _ => inferInstance)) (by decide +kernel), issues_by (fun _ _ => decSome (fun _ => inferInstance)) (by decide +kernel),
    issues_of (by decide +kernel), issues_by (fun _ _ => decSome (fun _ => inferInstance)) (by decide +kernel)⟩
theorem wit_HintsComplete : (∃ r n, Issues (.pref ⟨4, 0, 1, 0⟩) tS r n) ∧ ∃ r n, Issues (.evict { XF.zero with szsp := 4, sb := 1 }) tS r n :=
  ⟨issues_of (by decide +kernel), issues_of (by decide +kernel)⟩
/-- The page translates with R, with U alone, and not at all. -/
def tPage (es : List TlbEntry) : State := { tS with tlb := es }
def tUser : List TlbEntry := [{ probeTlb with r := false, w := false, x := false }]
def asUser : Need := { read := false, write := false, fetch := false, user := true }
def xok (x : Xlate) : Bool := match x with
  | .ok _ => true
  | _ => false
theorem wit_BaseTranslation : (∃ r n, Issues (.btrans { XF.zero with osel := 1, sa := 0, d := 15 }) tS r n ∧ canonical (tS.srd n.x.sa.toNat) = true ∧
      ∃ e t, tS.translate 0 0 (tS.srd n.x.sa.toNat).toNat (Need.load false) = (.ok e, t) ∧ True) ∧
    (∀ es ∈ [tUser, []], ∃ r n, Issues (.btrans { XF.zero with osel := 1, sa := 0, d := 15 }) (tPage es) r n ∧ canonical ((tPage es).srd n.x.sa.toNat) = true ∧
      ∃ x t, (tPage es).translate 0 0 ((tPage es).srd n.x.sa.toNat).toNat (Need.load false) = (x, t) ∧ xok x = false ∧
        ∃ y u, t.translate 0 0 ((tPage es).srd n.x.sa.toNat).toNat asUser = (y, u) ∧ (xok y = true ↔ es = tUser)) ∧
    ∃ r n, Issues (.btrans { XF.zero with osel := 1, sa := 5, d := 15 }) (tS.swr 5 (1#64 <<< 60)) r n ∧ canonical ((tS.swr 5 (1#64 <<< 60)).srd n.x.sa.toNat) = false := by
  refine ⟨issues_by (fun _ _ => decAnd inferInstance (decXok (fun _ _ => inferInstance))) (by decide +kernel), ?_, issues_with _ (by decide +kernel)⟩
  intro es he
  simp only [List.mem_cons, List.not_mem_nil, or_false] at he
  rcases he with rfl | rfl <;>
    exact issues_by (fun _ _ => decAnd inferInstance (decPair (fun _ _ => decAnd inferInstance (decPair (fun _ _ => inferInstance))))) (by decide +kernel)
theorem wit_SpindleLoadsAndStores : (∃ r n, Issues (.xld { XF.zero with osel := 2, szsp := 5, sa := 0, d := 31 }) tX r n ∧
      ∃ es t, tX.spElems { AccForm.load with regs := false } n 0 .load = .ok es t ∧ ∃ v, es.foldl (fun (acc : Option (Nat × State)) e => acc.bind (fun a =>
        let b := a.2.spRead tP e
        if b.1.poison || b.1.refused then none else some (a.1 + b.1.value * 2 ^ (8 * e.at_), b.2))) (some (0, t)) = some v ∧ True) ∧
    ∃ r n, Issues (.xst { XF.zero with osel := 2, szsp := 5, sa := 0, d := 31 }) tX r n ∧
      ∃ es t, tX.spElems { AccForm.store with regs := false, imprecise := false } n (tX.srd n.x.d.toNat).toNat .store = .ok es t ∧
        ∃ v, es.foldl (fun (acc : Option State) e => acc.bind (fun a => let b := a.spWrite tP e; if b.1 then none else some b.2)) (some t) = some v ∧ True :=
  ⟨issues_by (fun _ _ => decSp (fun _ _ => decSome (fun _ => inferInstance))) (by decide +kernel),
    issues_by (fun _ _ => decSp (fun _ _ => decSome (fun _ => inferInstance))) (by decide +kernel)⟩

/-- Slot 5 of the cluster in a state, claimed for 128 bytes. -/
def tSlot (st : SlotState) (size : Nat) : State :=
  { tS with spindles := [tP.setSlot 5 { state := st, size := size, format := 0, count := 0, written := 0, fresh := 0 }] }
/-- A free slot, a ready one, one filled exactly, one overfilled, one of another core. -/
theorem wit_SlotStores :
    (∀ st ∈ [SlotState.free, .ready, .inUse], ∃ r n, Issues (.ostore { XF.zero with szsp := 7, osel := 2, sa := 5, d := 8 }) (tSlot st 128) r n ∧ n.x.sa.toNat / 16 = tW.core % 4) ∧
    (∃ r n, Issues (.ostore { XF.zero with szsp := 0x0F, osel := 0, sb := 2, sa := 5, d := 8 }) (tSlot .claimed 128) r n ∧
      (∃ L ∈ lanesOf (laneSet tW n.x), 64 < (tSlot .claimed 128).laneOff tW n.x (xSize n.x) L + xSize n.x ∨ xSize n.x * 4 ≤ 128)) ∧
    (∃ r n, Issues (.ostore { XF.zero with szsp := 7, osel := 2, sa := 5, d := 8, disp := 1 }) (tSlot .claimed 64) r n ∧ xSize n.x * 4 ≤ 64 ∧
      (tSlot .claimed 64).laneOff tW n.x (xSize n.x) 0 + xSize n.x ≤ 64) ∧
    (∃ r n, Issues (.ostore { XF.zero with szsp := 7, osel := 2, sa := 5, d := 8, disp := 120 }) (tSlot .claimed 128) r n ∧
      128 < (tSlot .claimed 128).laneOff tW n.x (xSize n.x) 0 + xSize n.x) ∧
    ∃ r n, Issues (.ostore { XF.zero with szsp := 7, osel := 2, sa := 16, d := 8 }) (tSlot .claimed 128) r n ∧ n.x.sa.toNat / 16 ≠ tW.core % 4 := by
  refine ⟨?_, issues_with _ (by decide +kernel), issues_with _ (by decide +kernel), issues_with _ (by decide +kernel), issues_with _ (by decide +kernel)⟩
  intro st hs
  simp only [List.mem_cons, List.not_mem_nil, or_false] at hs
  rcases hs with rfl | rfl | rfl <;> exact issues_with _ (by decide +kernel)

@[reducible] def decHandle {c : Handle} {H : BitVec 512 → State → Prop} (d : ∀ r t, Decidable (H r t)) : Decidable (∃ r t, c = .ok r t ∧ H r t) :=
  match c with
  | .ends _ => .isFalse (fun ⟨_, _, h, _⟩ => nomatch h)
  | .ok r t => match d r t with
    | .isTrue h => .isTrue ⟨r, t, rfl, h⟩
    | .isFalse h => .isFalse (fun ⟨_, _, e, g⟩ => by cases e; exact h g)

@[reducible] def decRec {c : RecordRead} {H : BitVec 512 → State → Prop} (d : ∀ r t, Decidable (H r t)) : Decidable (∃ r t, c = .ok r t ∧ H r t) :=
  match c with
  | .ends _ => .isFalse (fun ⟨_, _, h, _⟩ => nomatch h)
  | .ok r t => match d r t with
    | .isTrue h => .isTrue ⟨r, t, rfl, h⟩
    | .isFalse h => .isFalse (fun ⟨_, _, e, g⟩ => by cases e; exact h g)

/-- The wave of the state, changed. -/
def with_ (s : State) (f : Wave → Wave) : State := s.modWave 0 0 f
def withBlk (s : State) (f : Block → Block) : State := s.modBlock 0 0 f

theorem wit_BarrierPhases : 1 < tB.bars ∧ tB.bars ≤ 2 := by decide
/-- Past the last slot, the last slot in each of the three forms, an arrival before, a wait before, a wave with a store in flight. -/
theorem wit_BlockBarriers :
    (∃ r n, Issues (.bar ⟨0, 2⟩) tS r n ∧ tB.bars ≤ n.x.disp.toNat % 32 ∧ ∃ sc, tS.scopeIn n = some sc ∧ True) ∧
    (∃ r n, Issues (.barwait { XF.zero with disp := 1, scope := 2, sa := 5 }) tS r n ∧ n.x.disp.toNat % 32 < tB.bars ∧ n.sub = 2) ∧
    (∃ r n, Issues (.bar ⟨0, 1⟩) tS r n ∧ n.x.disp.toNat % 32 < tB.bars ∧ n.sub = 0 ∧ (tB.bar 1).arrived.getLsbD tW.wid = false ∧
      ∃ sc, tS.scopeIn n = some sc ∧ tS.releaseReady sc = true ∧ ∃ t, tS.releaseStep sc = (none, t) ∧ True) ∧
    (∃ r n, Issues (.bararr { XF.zero with disp := 1, scope := 3, d := 5 }) tS r n ∧ n.x.disp.toNat % 32 < tB.bars ∧ n.sub = 1 ∧
      ∃ sc, tS.scopeIn n = some sc ∧ tS.releaseReady sc = true ∧ ∃ t, tS.releaseStep sc = (none, t) ∧ True) ∧
    (∃ r n, Issues (.bar ⟨0, 1⟩) (withBlk tS (fun b => b.setBar 1 { phase := 0, arrived := 1 })) r n ∧ (BarSlot.mk 0 1).arrived.getLsbD tW.wid = true) ∧
    (∃ r n, Issues (.bar ⟨0, 1⟩) (with_ tS (fun w => { w with wait := .barrier 1 0 2 })) r n ∧ n.sub ≠ 2) ∧
    ∃ r n, Issues (.barX { XF.zero with disp := 1, scope := 4 }) tBusy r n ∧ ∃ sc, tBusy.scopeIn n = some sc ∧ tBusy.releaseReady sc = false :=
  ⟨issues_by (fun _ _ => decAnd inferInstance (decSome (fun _ => inferInstance))) (by decide +kernel), issues_with _ (by decide +kernel),
    issues_by (fun _ _ => decAnd inferInstance (decAnd inferInstance (decAnd inferInstance (decSome (fun _ => decAnd inferInstance (decNone (fun _ => inferInstance))))))) (by decide +kernel),
    issues_by (fun _ _ => decAnd inferInstance (decAnd inferInstance (decSome (fun _ => decAnd inferInstance (decNone (fun _ => inferInstance)))))) (by decide +kernel),
    issues_with _ (by decide +kernel), issues_with _ (by decide +kernel), issues_by (fun _ _ => decSome (fun _ => inferInstance)) (by decide +kernel)⟩

/-- The byte barrier at offset 4080, the last of the scratchpad, with a pending count; s5 holds an offset, s6 a count. -/
def tByte (off : BitVec 64) (count : BitVec 64) : State :=
  { ((tS.swr 5 off).swr 6 1) with cs := Memory.writeNat [] (0x10000 + 4080) 8 count.toNat }
theorem wit_ByteBarriers :
    (∀ c ∈ [0#64, 0xFFFFFFFFFFFFFFF9#64], ∃ r n, Issues (.bbarr { XF.zero with osel := 2, sc := 8, sb := 6, sa := 5, scope := 2 }) (tByte 4080 c) r n ∧ n.sub = 0 ∧
      (tByte 4080 c).anyPoison (6 * 2 ^ 48 + 0x10000 + 4080) 16 = false ∧ (tByte 4080 c).cs.readNat (0x10000 + 4080 + 12) 4 < 2 ∧
      ∃ sc, (tByte 4080 c).scopeIn n = some sc ∧ (tByte 4080 c).releaseReady sc = true ∧ ∃ t, (tByte 4080 c).releaseStep sc = (none, t) ∧ True) ∧
    (∃ r n, Issues (.bbarr { XF.zero with osel := 2, sc := 2, sb := 6, sa := 5, scope := 2 }) (tByte 4080 (1#64 <<< 48)) r n ∧
      2 ^ 48 < (1#64 <<< 48).toInt + 2 - ((tByte 4080 (1#64 <<< 48)).srd n.x.sb.toNat).toInt) ∧
    (∃ r n, Issues (.bbwait { XF.zero with osel := 2, sa := 5, scope := 2 }) (tByte 4080 0) r n ∧ n.sub ≠ 0) ∧
    ∃ r n, Issues (.bbwait { XF.zero with osel := 2, sa := 5, scope := 2 }) (tByte 4081 0) r n ∧ tB.scrSize < 4081 + 16 := by
  refine ⟨?_, issues_with _ (by decide +kernel), issues_with _ (by decide +kernel), issues_with _ (by decide +kernel)⟩
  intro c hc
  simp only [List.mem_cons, List.not_mem_nil, or_false] at hc
  rcases hc with rfl | rfl <;>
    exact issues_by (fun _ _ => decAnd inferInstance (decAnd inferInstance (decAnd inferInstance (decSome (fun _ => decAnd inferInstance (decNone (fun _ => inferInstance)))))))
      (by decide +kernel)
/-- A released wait; a misaligned cell; an increment; a threshold reached, s6 = 0, and one not reached, s0. -/
theorem wit_Timelines :
    (∃ r n, Issues (.tlwait { XF.zero with osel := 2, szsp := 5, scope := 4, d := 0 }) (with_ tS (fun w => { w with wait := .timeline true 4 })) r n) ∧
    (∃ r n, Issues (.tlinc { XF.zero with osel := 2, szsp := 5, scope := 4, d := 0, disp := 8 }) tS r n ∧ ∃ va pa k t,
      tS.locate (AccForm.timeline (n.sub == 2)) n 16 = .found va pa k t ∧ va.toNat % 16 ≠ 0) ∧
    (∃ r n, Issues (.tlinc { XF.zero with osel := 2, szsp := 5, scope := 4, d := 0, disp := 16 }) tS r n ∧ n.sub ≠ 2 ∧ ∃ va pa k t,
      tS.locate (AccForm.timeline (n.sub == 2)) n 16 = .found va pa k t ∧ va.toNat % 16 = 0 ∧ paSpace pa ≤ 4 ∧ t.lineBusy pa = false ∧
      (t.l1Flush 0 0 (pa / 128)).anyPoison pa 16 = false ∧ ∃ v u, (t.l1Flush 0 0 (pa / 128)).l2Read 0 pa 16 = (v, u) ∧ v / 2 ^ 96 = 0 ∧
        u.releaseReady 4 = true ∧ ∃ x, u.releaseStep 4 = (none, x) ∧ True) ∧
    ∀ d ∈ [0#8, 6#8], ∃ r n, Issues (.tlwait { XF.zero with osel := 2, szsp := 5, scope := 4, d := d, disp := 16 }) tS r n ∧ n.sub = 2 ∧ tW.tlrel = none ∧
      ∃ va pa k t, tS.locate (AccForm.timeline (n.sub == 2)) n 16 = .found va pa k t ∧ va.toNat % 16 = 0 ∧ paSpace pa ≤ 4 ∧
        ((t.srd n.x.d.toNat).toNat ≤ (t.l2Read 0 pa 16).1 % 2 ^ 64 ↔ d = 6#8) := by
  refine ⟨issues_of (by decide +kernel), issues_by (fun _ _ => decFound (fun _ _ _ _ => inferInstance)) (by decide +kernel),
    issues_by (fun _ _ => decAnd inferInstance (decFound (fun _ _ _ _ => decAnd inferInstance (decAnd inferInstance (decAnd inferInstance (decAnd inferInstance
      (decPair (fun _ _ => decAnd inferInstance (decAnd inferInstance (decNone (fun _ => inferInstance))))))))))) (by decide +kernel), ?_⟩
  intro d hd
  simp only [List.mem_cons, List.not_mem_nil, or_false] at hd
  rcases hd with rfl | rfl <;> exact issues_by (fun _ _ => decAnd inferInstance (decAnd inferInstance (decFound (fun _ _ _ _ => inferInstance)))) (by decide +kernel)

/-- A layout of two rows of 32-bit elements, box 2 by 1, its record at 64 and its descriptor, entry 0 of the table, at 0. -/
def tLay (box : Nat) (esz : Nat) : BitVec 512 :=
  BitVec.ofNat 512 (0x1000 + 1024 * 2 ^ 64 + 64 * 2 ^ 96 + 2 ^ 128 + 4 * esz * 2 ^ 160 + 4096 * 2 ^ 192 + box * 2 ^ 320 + 2 ^ 352)
def tH (box esz : Nat) : State := { tS with mem := (Memory.writeNat [] 0 16 (1 + 64 * 2 ^ 64)).writeNat 64 64 (tLay box esz).toNat }
def tCopy : XF := { XF.zero with osel := 1, sc := 8, sb := 5, sa := 5, d := 7 }
noncomputable def tBusyTok : State := next (.cp tCopy) (tH (2 + 65536) 2)
def copyOf (s : State) (n : Norm) (g : BitVec 256) (src dst : BitVec 512) : Copy :=
  { started := false, red := false, shape := n.x.shape.toNat, type := n.x.type.toNat, group := g, src := src, dst := dst, user := s.curMode == .user,
    pc := 0x10000, since := s.cyc, tags := [], answers := [], pend := [], wrote := [] }
theorem wit_CopiesIssue :
    (∃ r n, Issues (.cp tCopy) (tH (2 + 65536) 2) r n ∧ copyOperandBad false 0 = false ∧
      ∃ src t, (tH (2 + 65536) 2).handle ((tH (2 + 65536) 2).srd n.x.sa.toNat) 1 = .ok src t ∧ ∃ dst u, t.handle (t.srd n.x.sb.toNat) 1 = .ok dst u ∧
        u.copyLayoutBad 0 (copyOf u n 0 src dst) = false ∧ (copyOf u n 0 src dst).bben = false ∧ (tW.token 7).busy = false ∧
        (∀ q ∈ (copyOf u n 0 src dst).ranges, tW.storesInto q.1 q.2.1 = false) ∧ u.lockRoom 0 (copyOf u n 0 src dst) = true) ∧
    (∃ r n, Issues (.cp tCopy) tBusyTok r n ∧ ∃ w, tBusyTok.curWave = some w ∧ (w.token n.x.d.toNat).busy = true) ∧
    (∃ r n, Issues (.twait ⟨0, 0x80⟩) tBusyTok r n ∧ bit n.x.disp.toNat 7 = true ∧ ∃ w, tBusyTok.curWave = some w ∧ (w.token 7).busy = true) ∧
    ∃ r n, Issues (.twait ⟨0, 0xFF⟩) tS r n ∧ ∀ k ∈ List.range 8, (tW.token k).busy = false :=
  ⟨issues_by (fun _ _ => decAnd inferInstance (decHandle (fun _ _ => decHandle (fun _ _ => inferInstance)))) (by decide +kernel),
    issues_by (fun _ _ => decSome (fun _ => inferInstance)) (by decide +kernel),
    issues_by (fun _ _ => decAnd inferInstance (decSome (fun _ => inferInstance))) (by decide +kernel), issues_with _ (by decide +kernel)⟩

/-- A task pool whose ring of one slot holds so many tasks. -/
def tPool (held : Nat) : State :=
  { tS with launches := [{ Launch.enter 0 0 0 0 0 0 2 (BitVec.ofNat 512 (2 + 2 ^ 16 + 0x2000 * 2 ^ 64 + 0x400 * 2 ^ 256)) 0 with held := held }] }
/-- Queue 0 of the context, enabled for the device, 16 records long, with so many in it. -/
def tDevq (count : Nat) : State :=
  { tS with mem := Memory.writeNat [] 0 64 (0x3000 + (1 + 4 * 256 + 2 ^ 15) * 2 ^ 64 + count * 2 ^ 128) }
theorem wit_NewWork :
    (∃ r n, Issues (.spawn { XF.zero with osel := 1, sa := 5 }) tS r n ∧ ∃ l, tS.launch? 0 = some l ∧ l.kind ≠ 2) ∧
    (∀ h ∈ [0, 1], ∃ r n, Issues (.spawn { XF.zero with osel := 1, sa := 5 }) (tPool h) r n ∧ ∃ l, (tPool h).launch? 0 = some l ∧ l.kind = 2 ∧
      ∃ rec t, (tPool h).recordRead (tW.breg n.x.d.toNat) (tW.breg n.x.d.toNat).base (((tPool h).srd n.x.sa.toNat).toNat % 2 ^ 32 + n.x.disp.toNat) = .ok rec t ∧
        taskBad rec = false ∧ (l.ringFull = true ↔ h = 1) ∧ t.releaseReady (taskScope rec) = true ∧ ∃ u, t.releaseStep (taskScope rec) = (none, u) ∧
          ∃ m, (u.ringWrite 0 rec).launch? 0 = some m ∧ True) ∧
    (∃ r n, Issues (.launch { XF.zero with osel := 1, sa := 0, sb := 5 }) tS r n ∧ ∃ t, tS.devQueue 0 0 (tS.srd n.x.sa.toNat).toNat = (none, t) ∧ True) ∧
    (∀ c ∈ [15, 16], ∃ r n, Issues (.launch { XF.zero with osel := 1, sa := 5, sb := 5 }) (tDevq c) r n ∧ ∃ o t, (tDevq c).devQueue 0 0 ((tDevq c).srd n.x.sa.toNat).toNat = (o, t) ∧
      ∃ d, o = some d ∧ (d.1.count = 2 ^ d.1.sizelog ↔ c = 16) ∧ ∃ rec u, t.recordRead BReg.none (t.srd n.x.sb.toNat) 0 = .ok rec u ∧
        u.releaseReady scopeSystem = true ∧ ∃ x, u.releaseStep scopeSystem = (none, x) ∧
          ∃ y, (x.engineWrite tW.who rec.toNat d.2).queueWrite 0 d.1 16 8 (d.1.tail + 1).toNat = some y ∧ True) ∧
    (∃ r n, Issues (.spnrun { XF.zero with osel := 1, sa := 5, sb := 0 }) (tS.swr 5 2) r n ∧ (tS.swr 5 2).srd n.x.sa.toNat % 4 ≠ 0) ∧
    (∀ s ∈ [tS, { tX with cur := .wave 0 0 }], ∃ r n, Issues (.spnrun { XF.zero with osel := 1, sa := 0, sb := 0 }) s r n ∧ s.srd n.x.sa.toNat % 4 = 0 ∧
      canonical (s.srd n.x.sa.toNat) = true ∧ s.releaseReady scopeCluster = true ∧ ∃ t, s.releaseStep scopeCluster = (none, t) ∧
        ∃ q, (t.spnRequest tW).spnBest 0 = some q ∧ q.core = 0 ∧ q.slot = 0) := by
  refine ⟨issues_by (fun _ _ => decSome (fun _ => inferInstance)) (by decide +kernel), ?_, issues_by (fun _ _ => decNone (fun _ => inferInstance)) (by decide +kernel), ?_,
    issues_with _ (by decide +kernel), ?_⟩
  · intro h hh
    simp only [List.mem_cons, List.not_mem_nil, or_false] at hh
    rcases hh with rfl | rfl <;>
      exact issues_by (fun _ _ => decSome (fun _ => decAnd inferInstance (decRec (fun _ _ => decAnd inferInstance (decAnd inferInstance (decAnd inferInstance
        (decNone (fun _ => decSome (fun _ => inferInstance))))))))) (by decide +kernel)
  · intro c hc
    simp only [List.mem_cons, List.not_mem_nil, or_false] at hc
    rcases hc with rfl | rfl <;>
      exact issues_by (fun _ _ => decPair (fun _ _ => decSome (fun _ => decAnd inferInstance (decRec (fun _ _ => decAnd inferInstance (decNone (fun _ =>
        decSome (fun _ => inferInstance)))))))) (by decide +kernel)
  · intro s hs
    simp only [List.mem_cons, List.not_mem_nil, or_false] at hs
    rcases hs with rfl | rfl <;>
      exact issues_by (fun _ _ => decAnd inferInstance (decAnd inferInstance (decAnd inferInstance (decNone (fun _ => decSome (fun _ => inferInstance)))))) (by decide +kernel)

/-- The pool of the wave's block holds so many blocks, and the wave waits for two. -/
def tClaim (pool : List Nat) : State := withBlk (with_ tS (fun w => { w with wait := .claim 2 })) (fun b => { b with claims := [0], pool := pool })
theorem wit_RegisterBlocks :
    (∃ r n, Issues (.regsurrender ⟨0, 2⟩) tS r n ∧ tW.blocks.length ≤ n.x.disp.toNat) ∧
    (∃ r n, Issues (.regsurrender ⟨0, 1⟩) tS r n ∧ n.x.disp.toNat < tW.blocks.length ∧ tW.flight = []) ∧
    (∀ x ∈ [Wait.claim 0, .claim 31], ∃ r n, Issues (.regclaim ⟨0, 30⟩) (with_ tS (fun w => { w with wait := x })) r n) ∧
    (∃ r n, Issues (.regclaim ⟨0, 31⟩) tS r n ∧ 32 < tW.blocks.length + n.x.disp.toNat) ∧
    (∀ p ∈ [List.range 30, []], ∃ r n, Issues (.regclaim ⟨0, 30⟩) (withBlk tS (fun b => { b with pool := p })) r n ∧ tW.blocks.length + n.x.disp.toNat ≤ 32) ∧
    ∀ p ∈ [[5], [5, 7]], ∃ b w, (tClaim p).block? 0 0 = some b ∧ b.claims = [0] ∧ ((tClaim p).wavesOf 0 0).find? (fun w => w.wid == 0) = some w ∧ w.wait = .claim 2 ∧
      (b.pool.length < 2 ↔ p = [5]) := by
  refine ⟨issues_with _ (by decide +kernel), issues_with _ (by decide +kernel), ?_, issues_with _ (by decide +kernel), ?_, ?_⟩
  · intro x hx
    simp only [List.mem_cons, List.not_mem_nil, or_false] at hx
    rcases hx with rfl | rfl <;> exact issues_of (by decide +kernel)
  · intro x hx
    simp only [List.mem_cons, List.not_mem_nil, or_false] at hx
    rcases hx with rfl | rfl <;> exact issues_with _ (by decide +kernel)
  · intro x hx
    simp only [List.mem_cons, List.not_mem_nil, or_false] at hx
    rcases hx with rfl | rfl <;> exact ⟨_, _, rfl, rfl, rfl, rfl, by decide⟩

/-- The ray part of a launch whose pool of eight holds these rays. -/
def tPart (rays : List Ray) : RayLaunch := { slot := 0, cap := 8, header := 0, eptab := [], rays := rays, cold := none }
def tRay1 (slot : Nat) : Ray :=
  { slot := slot, phase := .inEpisode, record := 0, hit := 0, hitJ := 3, hitTreelet := 0, hitSlot := 0, key := (tPart []).traversalKey 0, quarter := 0, stall := 0, arrival := 0,
    order := 0, tags := [], replied := [], entry := 0, hot := false }
/-- A wave of a kind of a ray launch; lanes 0 and 3 of an episode hold rays 0 and 7, and those below `disp` have a disposition. -/
def tKind (k : WKind) (disp : Nat) : State :=
  { tS with
    waves := [{ tW with kind := k, blocks := [0, 1, 2, 3], rays := [(0, { RayLane.empty with slot := some 0, disp := if 0 < disp then 2 else 0 }), (3, { RayLane.empty with slot := some 7 })] }]
    launches := [{ Launch.enter 0 0 0 0 0 0 1 tRec 0 with next := 1, ray := some (tPart [tRay1 0, tRay1 7]) }] }
theorem wit_RayDispositions :
    (∀ k ∈ [WKind.compute, .generation, .episode], ∃ r n, Issues (.remit { XF.zero with d := 0 }) (tKind k 0) r n ∧ ∃ w, (tKind k 0).curWave = some w ∧
      recordPoison (tKind k 0) w n = none ∧ w.kind = k ∧ ∃ rl, (tKind k 0).rayPart w = some rl ∧ rl.cap = 8) ∧
    (∀ k ∈ [WKind.compute, .generation, .episode], ∃ r n, Issues (.rcont { XF.zero with d := 0 }) (tKind k 0) r n ∧ ∃ w, (tKind k 0).curWave = some w ∧
      recordPoison (tKind k 0) w n = none ∧ w.kind = k ∧ w.rayLanes n.x &&& w.rdisp = 0) ∧
    (∀ d ∈ [0, 1], ∃ r n, Issues (.rretire { XF.zero with d := 0 }) (tKind .episode d) r n ∧ ∃ w, (tKind .episode d).curWave = some w ∧
      (w.rayLanes n.x &&& w.rdisp = 0 ↔ d = 0)) ∧
    ∃ r n, Issues .epend (tKind .episode 0) r n := by
  refine ⟨?_, ?_, ?_, issues_of (by decide +kernel)⟩
  all_goals
    intro k hk
    simp only [List.mem_cons, List.not_mem_nil, or_false] at hk
  · rcases hk with rfl | rfl | rfl <;>
      exact issues_by (fun _ _ => decSome (fun _ => decAnd inferInstance (decAnd inferInstance (decSome (fun _ => inferInstance))))) (by decide +kernel)
  · rcases hk with rfl | rfl | rfl <;> exact issues_by (fun _ _ => decSome (fun _ => inferInstance)) (by decide +kernel)
  · rcases hk with rfl | rfl <;> exact issues_by (fun _ _ => decSome (fun _ => inferInstance)) (by decide +kernel)
theorem wit_KeyParts : ∀ i ∈ [Instr.rcell { XF.zero with d := 3, sa := 28 }, .rdircls { XF.zero with d := 3, sa := 0 }], ∀ k ∈ [WKind.task, .generation, .episode],
    ∃ r n, Issues i (tKind k 0) r n ∧ ∃ w, (tKind k 0).curWave = some w ∧ w.kind = k ∧ ∃ rl, (tKind k 0).rayPart w = some rl ∧ True := by
  intro i hi k hk
  simp only [List.mem_cons, List.not_mem_nil, or_false] at hi hk
  rcases hi with rfl | rfl <;> rcases hk with rfl | rfl | rfl <;>
    exact issues_by (fun _ _ => decSome (fun _ => decAnd inferInstance (decSome (fun _ => inferInstance)))) (by decide +kernel)
/-- The last vertex, read for no lane; the index that names nothing; lane 3 alone, whose accumulation entry is in flight. -/
theorem wit_SceneReadsAndSamples :
    (∃ r n, Issues (.rhit { XF.zero with osel := 2, sb := 2 }) (tKind .episode 0) r n ∧ ∃ w, (tKind .episode 0).curWave = some w ∧ w.kind = .episode ∧
      ∃ rl, (tKind .episode 0).rayPart w = some rl ∧ ((tKind .episode 0).laneOpnd w n r.sb n.x.sb 0).toNat % 2 ^ 32 ≤ 2 ∧
        ∃ l sf t, (tKind .episode 0).checkReqs .load BReg.none 0 [] = .ok l sf t ∧ elemsOf false 0 l = []) ∧
    (∃ r n, Issues (.rinst { XF.zero with osel := 1, sb := 5 }) ((tKind .generation 0).swr 5 (2 ^ 32 - 1)) r n ∧
      ∃ w, ((tKind .generation 0).swr 5 (2 ^ 32 - 1)).curWave = some w ∧
        ∀ L ∈ List.range 64, (((tKind .generation 0).swr 5 (2 ^ 32 - 1)).laneOpnd w n r.sb n.x.sb L).toNat % 2 ^ 32 = 2 ^ 32 - 1) ∧
    ∃ r n, Issues (.racc { XF.zero with osel := 0, sb := 5, d := 8 }) (tKind .episode 0) r n ∧ ∃ w, (tKind .episode 0).curWave = some w ∧
      ∃ l sf t, (tKind .episode 0).check w .accumulate n.x false ((lanesOf (laneSet w n.x)).map (fun L =>
        { lane := some L, off := 32 * (((tKind .episode 0).laneOpnd w n r.sb n.x.sb L).toNat % 2 ^ 32), bytes := 32, mask := allBytes 32, data := 0, op := .rmw 0 3 0 0 })) = .ok l sf t ∧
        (∀ e ∈ l.flatMap (accumElems (tKind .episode 0) w n), t.elemPoisoned w e = false) ∧ w.flight = [] :=
  ⟨issues_by (fun _ _ => decSome (fun _ => decAnd inferInstance (decSome (fun _ => decAnd inferInstance (decOk (fun _ _ _ => inferInstance)))))) (by decide +kernel),
    issues_by (fun _ _ => decSome (fun _ => inferInstance)) (by decide +kernel), issues_by (fun _ _ => decSome (fun _ => decOk (fun _ _ _ => inferInstance))) (by decide +kernel)⟩

/-- The Spindle program of the cluster, changed. -/
def tQ (f : Spindle → Spindle) : State := { tX with spindles := [f tP] }
/-- The least and greatest sizes, one past, and one that is no multiple; a slot of each state; batches 1 and 2 of one committed. -/
theorem wit_SlotsAndBatches :
    (∀ v ∈ [128#64, 16384#64, 16512#64, 192#64], ∃ r n, Issues (.oclaim { XF.zero with osel := 1, sa := 63, sb := 9 }) ((tQ id).swr 9 v) r n ∧
      ∃ p, ((tQ id).swr 9 v).curSpindle = some p ∧ (p.slot n.x.sa.toNat).state = .free) ∧
    (∀ st ∈ [SlotState.free, .claimed, .filling, .ready, .inUse], ∀ i ∈ [Instr.orel { XF.zero with sa := 63 }, .owait { XF.zero with sa := 63 }],
      ∃ r n, Issues i (tQ (fun p => p.setSlot 63 { OSlot.free with state := st })) r n ∧
        ∃ p, (tQ (fun p => p.setSlot 63 { OSlot.free with state := st })).curSpindle = some p ∧ (p.slot n.x.sa.toNat).state = st) ∧
    (∃ r n, Issues .batcom (tQ id) r n) ∧
    (∀ b ∈ [0, 1], ∃ r n, Issues (.batwait { XF.zero with osel := 2, sa := 1 }) (tQ (fun p => { p with bcom := 1, bdone := BitVec.ofNat 64 b })) r n ∧
      ((tQ (fun p => { p with bcom := 1, bdone := BitVec.ofNat 64 b })).scalOpnd n (r.opnds n.accum).2.1 n.x.sa).toNat = 1) ∧
    (∃ r n, Issues (.batwait { XF.zero with osel := 2, sa := 2 }) (tQ (fun p => { p with bcom := 1 })) r n) ∧
    (tP.bdone.toNat < 1 ∧ 1 ≤ { tP with bcom := 1 }.bcom.toNat) := by
  refine ⟨?_, ?_, issues_of (by decide +kernel), ?_, issues_of (by decide +kernel), by decide⟩
  · intro v hv
    simp only [List.mem_cons, List.not_mem_nil, or_false] at hv
    rcases hv with rfl | rfl | rfl | rfl <;> exact issues_by (fun _ _ => decSome (fun _ => inferInstance)) (by decide +kernel)
  · intro st hs i hi
    simp only [List.mem_cons, List.not_mem_nil, or_false] at hs hi
    rcases hs with rfl | rfl | rfl | rfl | rfl <;> rcases hi with rfl | rfl <;> exact issues_by (fun _ _ => decSome (fun _ => inferInstance)) (by decide +kernel)
  · intro b hb
    simp only [List.mem_cons, List.not_mem_nil, or_false] at hb
    rcases hb with rfl | rfl <;> exact issues_with _ (by decide +kernel)
/-- The last accumulator; one from which two do not fit; accumulators of the type and of another. -/
theorem wit_AccumulatorOperations :
    (∃ r n, Issues (.aclr { XF.zero with d := 31, type := 8 }) (tQ id) r n ∧ accCount (n.x.d.toNat % 8) (shapeM n.x.shape.toNat * shapeN n.x.shape.toNat) false = some 1) ∧
    (∀ i ∈ [Instr.aclr { XF.zero with d := 1, type := 8, shape := 28 }, .ascale { XF.zero with osel := 2, d := 1, sa := 9, type := 8, shape := 28 }],
      ∃ r n, Issues i (tQ id) r n ∧ accCount (n.x.d.toNat % 8) (shapeM n.x.shape.toNat * shapeN n.x.shape.toNat) false = none) ∧
    ∀ t ∈ [AccTy.f32, .i32], ∃ r n, Issues (.ascale { XF.zero with osel := 1, d := 31, sa := 9, sb := 10, type := 8 }) ((tQ (fun p => p.setAccTy 31 t)).swr 10 16256) r n ∧
      (((tQ (fun p => p.setAccTy 31 t)).swr 10 16256).scalOpnd n (r.opnds n.accum).2.2.1 n.x.sb).toNat = 16256 ∧ 16256 + 4 * shapeN n.x.shape.toNat = 16384 ∧
      accCount (n.x.d.toNat % 8) (shapeM n.x.shape.toNat * shapeN n.x.shape.toNat) false = some 1 := by
  refine ⟨issues_with _ (by decide +kernel), ?_, ?_⟩ <;> intro k hk <;> simp only [List.mem_cons, List.not_mem_nil, or_false] at hk <;>
    rcases hk with rfl | rfl <;> exact issues_with _ (by decide +kernel)
/-- Slots 0 and 1 in a state, of the sizes of an f32 operation of the least shape. -/
def tMma (st : SlotState) (a : Nat) : State :=
  tQ (fun p => (p.setSlot 0 { state := st, size := a, format := 0, count := 0, written := BitVec.allOnes _, fresh := 0 }).setSlot 1 { state := .ready, size := 1024, format := 0, count := 0, written := 0, fresh := 0 })
def tMul : XF := { XF.zero with osel := 2, sa := 0, sb := 1, d := 7 }
def mmaReady (s : State) (n : Norm) (pads : BitVec 64) : Bool :=
  let o := Mma.of n
  !o.illegal n pads && accCount o.acc (o.m * o.n) o.f64 == some 1 && !o.sizeBad ((s.curSpindle).getD tP) pads.toNat && !o.typeBad ((s.curSpindle).getD tP) 1
/-- Dense with both operands ready, with one not ready, and sparse with metadata of zeros, whose first group is illegal. -/
theorem wit_MatrixMultiplies :
    (∀ st ∈ [SlotState.ready, .filling], ∃ r n, Issues (.mma tMul) (tMma st 512) r n ∧
      mmaReady (tMma st 512) n ((tMma st 512).scalOpnd n (r.opnds n.accum).2.2.2 n.x.sc) = true ∧ (Mma.of n).slots = [0, 1] ∧ (Mma.of n).sparse = false) ∧
    ∃ r n, Issues (.mmasp { tMul with sc := 112 }) (tMma .ready 384) r n ∧ mmaReady (tMma .ready 384) n ((tMma .ready 384).scalOpnd n (r.opnds n.accum).2.2.2 n.x.sc) = true ∧
      ∃ b, firstBad ((Mma.of n).badGroups (tMma .ready 384) (((tMma .ready 384).curSpindle).getD tP)) = some b ∧ True := by
  refine ⟨?_, issues_by (fun _ _ => decAnd inferInstance (decSome (fun _ => inferInstance))) (by decide +kernel)⟩
  intro k hk
  simp only [List.mem_cons, List.not_mem_nil, or_false] at hk
  rcases hk with rfl | rfl <;> exact issues_with _ (by decide +kernel)
/-- A drain of the least shape to x, with so many locks of the cluster taken, in the control operand's form. -/
def tDrain (locks : Nat) : State :=
  { tH (32 + 16 * 65536) 2 with
    spindles := [tP], cur := .spindle 0
    locks := (List.range locks).map (fun k => { cluster := 0, ctx := 0, lo := 128 * k, hi := 128 * k + 128, dest := false, store := [], owner := none }) }
theorem wit_DrainsIssue :
    ∀ c ∈ [(63, 0#64, 0#64), (64, 0, 0), (0, 1024, 0), (0, 0, 1#64 <<< 63 ||| 4080#64 <<< 32)],
      let s := ((tDrain c.1).swr 9 c.2.2).swr 10 c.2.1
      ∃ r n, Issues (.adrain { XF.zero with osel := 1, sa := 9, sb := 10, d := 7 }) s r n ∧
        drainIllegal (s.srd n.x.sa.toNat).toNat false n.x.d.toNat = false ∧ accCount (n.x.d.toNat % 8) (shapeM n.x.shape.toNat * shapeN n.x.shape.toNat) false = some 1 ∧
        drainAllows n.x.type.toNat .f32 = true ∧ tP.accTy n.x.d.toNat = .f32 ∧
        ∃ rec t, s.handle (BitVec.ofNat 64 ((s.srd n.x.sa.toNat).toNat % 2 ^ 32)) 1 = .ok rec t ∧ layoutBad rec = false ∧ (Layout.of rec).kind ≠ 2 ∧
          (Layout.of rec).box = (shapeN n.x.shape.toNat, shapeM n.x.shape.toNat, 1) ∧ (Layout.of rec).esz = drainElem n.x.type.toNat ∧
          ((Layout.of rec).bound ((s.srd n.x.sb.toNat).toNat % 2 ^ 32) ((s.srd n.x.sb.toNat).toNat / 2 ^ 32) n.x.disp.toNat = none ↔ c.2.1 = 1024) ∧
          t.lockCount 0 = c.1 ∧ 4080 + 16 ≤ tB.scrSize := by
  intro c hc
  simp only [List.mem_cons, List.not_mem_nil, or_false] at hc
  rcases hc with rfl | rfl | rfl | rfl <;>
    exact issues_by (fun _ _ => decAnd inferInstance (decAnd inferInstance (decAnd inferInstance (decAnd inferInstance (decHandle (fun _ _ => inferInstance)))))) (by decide +kernel)

/-- The state with vectors in use for context 0, and one with its agent in supervisor mode in a handler. -/
def tV (s : State) : State := s.ctlWr (.tvec 0) 1
def tSup (h : Handler) (s : State) : State := with_ s (fun w => { w with mode := .supervisor, handler := h })
theorem wit_TrapsAndReturns :
    ((tV tS).curMode = .user ∧ (tV tS).ctlField (.tvec (tV tS).curCtx) 0 1 ≠ 0 ∧ (tV tS).curWave = some tW) ∧
    ((tV tX).curMode = .user ∧ (tV tX).ctlField (.tvec (tV tX).curCtx) 0 1 ≠ 0 ∧ (tV tX).curSpindle = some tP) ∧
    tS.ctlField (.tvec tS.curCtx) 0 1 = 0 ∧
    (∀ h ∈ [Handler.trap, .save], (tSup h tS).curMode = .supervisor ∧ ¬ ((tSup h tS).inHandler = true ∧ 95 / 32 = 2 ∧ (tSup h tS).inSaveRegion 0 65536 = true)) ∧
    (∃ r n, Issues (.trap ⟨0, 0xFFFF⟩) tS r n) ∧ (∃ r n, Issues (.trap ⟨0, 0xFFFF⟩) tX r n) ∧
    (tS.hasAgent = true ∧ privileged .trapret = true ∧ ∃ q, rowOf .trapret .simt = some q ∧ True) ∧
    (∀ h ∈ [Handler.trap, .save, .restore], ∃ r n, Issues .trapret (tSup h tS) r n ∧ ∃ w, (tSup h tS).curWave = some w ∧ w.handler = h ∧ w.flight = []) ∧
    (∃ r n, Issues .trapret (tSup .save tBusy) r n ∧ ∃ w, (tSup .save tBusy).curWave = some w ∧ w.flight ≠ []) ∧
    (∃ r n, Issues .trapret (tQ (fun p => { p with mode := .supervisor })) r n) ∧
    ∀ u ∈ [4#64, 2#64, 1#64 <<< 60], ∃ r n, Issues .utret (with_ tS (fun w => { w with uret := u })) r n := by
  refine ⟨by decide +kernel, by decide +kernel, by decide +kernel, by decide +kernel, issues_of (by decide +kernel), issues_of (by decide +kernel),
    ⟨rfl, rfl, @of_decide_eq_true _ (decSome (fun _ => inferInstance)) (by decide +kernel)⟩, ?_,
    issues_by (fun _ _ => decSome (fun _ => inferInstance)) (by decide +kernel), issues_of (by decide +kernel), ?_⟩
  · intro h hh
    simp only [List.mem_cons, List.not_mem_nil, or_false] at hh
    rcases hh with rfl | rfl | rfl <;> exact issues_by (fun _ _ => decSome (fun _ => inferInstance)) (by decide +kernel)
  · intro u hu
    simp only [List.mem_cons, List.not_mem_nil, or_false] at hu
    rcases hu with rfl | rfl | rfl <;> exact issues_of (by decide +kernel)
/-- A register of every wave, one of the supervisor, one without a writable field, one of a Spindle program. -/
theorem wit_SpecialRegisters :
    (∀ k ∈ [0x001#16, 0x040, 0x061], (∃ r n, Issues (.rdsr ⟨127, k⟩) tS r n) ∧ ∃ r n, Issues (.wrsr { XF.zero with d := 127, disp := k }) tS r n) ∧
    (∃ r n, Issues (.rdsr ⟨31, 0x082⟩) tX r n) ∧ ∃ r n, Issues (.wrsr { XF.zero with d := 31, disp := 0x082 }) tX r n := by
  refine ⟨?_, issues_of (by decide +kernel), issues_of (by decide +kernel)⟩
  intro k hk
  simp only [List.mem_cons, List.not_mem_nil, or_false] at hk
  rcases hk with rfl | rfl | rfl <;> exact ⟨issues_of (by decide +kernel), issues_of (by decide +kernel)⟩
theorem wit_TimersInvalidationsAndMarks :
    (∃ r n, Issues (.tmrset { XF.zero with osel := 1, sa := 9 }) tS r n) ∧
    (∀ v ∈ [0#64, 0xFFFFFFFF#64], ∃ r n, Issues (.tlbinv { XF.zero with osel := 1, sa := 8, sb := 9 }) ((tSup .trap tS).swr 9 v) r n ∧
      canonical (((tSup .trap tS).swr 9 v).srd n.x.sa.toNat) = true ∧ (((tSup .trap tS).swr 9 v).srd n.x.sb.toNat) = v) ∧
    (∃ r n, Issues .hdlinv tS r n) ∧
    (∃ r n, Issues .stdrain tS r n) ∧ (∃ r n, Issues .stdrain tBusy r n ∧ ∃ w, tBusy.curWave = some w ∧ w.counter 2 ≠ 0) ∧ (∃ r n, Issues .stdrain tX r n) ∧
    (∃ r n, Issues (.evmark { XF.zero with osel := 1, sa := 9, disp := 0xFF }) tS r n) ∧ (∃ r n, Issues (.evmark { XF.zero with osel := 1, sa := 9 }) tX r n) ∧
    ∃ r n, Issues (.sample { XF.zero with d := 124 }) tS r n := by
  refine ⟨issues_of (by decide +kernel), ?_, issues_of (by decide +kernel), issues_of (by decide +kernel), issues_by (fun _ _ => decSome (fun _ => inferInstance)) (by decide +kernel),
    issues_of (by decide +kernel), issues_of (by decide +kernel), issues_of (by decide +kernel), issues_of (by decide +kernel)⟩
  intro v hv
  simp only [List.mem_cons, List.not_mem_nil, or_false] at hv
  rcases hv with rfl | rfl <;> exact issues_with _ (by decide +kernel)
theorem wit_StoreFaultRecordsPop : ∀ q ∈ [[], [1#256, 2#256]], ∃ r n, Issues (.sfpop { XF.zero with d := 124 }) (with_ tS (fun w => { w with sfq := q })) r n ∧
    ∃ w, (with_ tS (fun w => { w with sfq := q })).curWave = some w ∧ w.sfq = q := by
  intro q hq
  simp only [List.mem_cons, List.not_mem_nil, or_false] at hq
  rcases hq with rfl | rfl <;> exact issues_by (fun _ _ => decSome (fun _ => inferInstance)) (by decide +kernel)

theorem wit_DecodeEncode : (Instr.ffmaX (.ext { XF.zero with osel := 3, d := 13, sa := 1, sb := 2, mask := 2, type := 8, rnd := 1, lit := some 0x3FC00000 })).encodable .simt = true ∧
    (Instr.mmag { XF.zero with osel := 2, sa := 15, sb := 14, d := 7 }).encodable .spindle = true := by decide +kernel
/-- A probe of each stream, the first of an instruction, the second of none; an event as the next move. -/
noncomputable def tRun (w : Nat) : State := { State.reset.withFetchWord 96 w with agenda := [] }
def gotIs (f : Words × State) (ws : List W32) : Bool := match f.1 with
  | .got vs => vs == ws
  | _ => false
theorem wit_StepRunsDecodedInstruction :
    (∀ w ∈ [0x000001B8, 0x000001FC], (State.reset.withFetchWord 32 w).agenda = [.wave 0 0] ∧
      (∃ x, (tRun w).wave? 0 0 = some x ∧ x.wait = .ready ∧ (tRun w).boundary x = none ∧ gotIs ((tRun w).waveTurn x).fetch [BitVec.ofNat 32 w] = true)) ∧
    (let w := 0x1F1; (State.reset.withFetchWord 96 w).agenda = [.spindle 0] ∧ ∃ x, (tRun w).spindle? 0 = some x ∧
      (tRun w).heldSpindle x = false ∧ x.wait.issues 0 = true) ∧
    (∃ t, exec .waiterSlotGrant { State.reset with agenda := [] } = .next t) := by
  refine ⟨?_, ?_, ⟨_, rfl⟩⟩
  · intro w hw
    simp only [List.mem_cons, List.not_mem_nil, or_false] at hw
    rcases hw with rfl | rfl <;> exact ⟨rfl, @of_decide_eq_true _ (decSome (fun _ => inferInstance)) (by decide +kernel)⟩
  · exact ⟨by decide +kernel, @of_decide_eq_true _ (decSome (fun _ => inferInstance)) (by decide +kernel)⟩
/-- The state after reset is canonical, and its step answers a next state. -/
theorem wit_MemoriesStayCanonical : State.reset.Canonical ∧ ∃ t, step State.reset = .next t ∧ t.mem = [] :=
  ⟨⟨by decide, by decide, by decide, by decide, by decide⟩, _, rfl, by decide +kernel⟩

/-- Both host links, the pair link and a peer link are up; context 0 belongs to function 0, which has a window of it. -/
def tLink : State :=
  ((((((((({ tS with cur := .none }.ctlWr (.portSts 0) 0x1F).ctlWr (.portSts 1) 0x1F).ctlWr .plkSts 1).ctlWr .ngxId 5).ctlWr (.ngxPort 7) 6).ctlWr (.ngxRoute 63) 128).ctlWr
    (.ctxMap 0) 0x20).ctlWr (.fnWin 0) 1).ctlWr (.ngxExp 15 0) 1).ctlWr (.ngxExp 15 1) 64
def tOff : State := { tLink with ctl := [] }
theorem wit_HostRegisterWrites :
    ((hostRow tLink (.schWake 31 255 1)).isSome = true ∧ (hostRow tLink (.schCtxDbgStep 0 0)).isSome = true) ∧
    tOff.hostLinked 31 = false ∧ tLink.hostLinked 0 = true ∧
    (∀ o ∈ [0x3F8000, 0x3F83FF], msixBase 0 ≤ o ∧ o < msixBase 0 + 1024) ∧
    (∀ o ∈ [0x341000, 0x341FFF], ¬ (msixBase 0 ≤ o ∧ o < msixBase 0 + 1024) ∧ mboxAt 0 o = true) ∧
    (mboxAt 0 0x340FF8 = false ∧ ctlReg (0x3FFFF8 / 8 * 8) = none ∧ mboxAt 0 0x3FFFF8 = false) ∧
    (ctlReg (0x301000 / 8 * 8) = some (.ctxMap 0) ∧ tLink.reaches 1 true true (.ctxMap 0) = false ∧ tLink.reaches 0 true true (.ctxMap 0) = true) ∧
    tLink.reaches 0 true true (.wake 0) = true ∧ tLink.reaches 0 true true (.root 0) = true := by decide +kernel

@[reducible] def decExcept {ε α β : Type} {c : Except ε α × β} {H : α → β → Prop} (d : ∀ a b, Decidable (H a b)) :
    Decidable (∃ a b, c = (.ok a, b) ∧ H a b) :=
  match c with
  | (.error _, _) => .isFalse (fun ⟨_, _, h, _⟩ => nomatch h)
  | (.ok a, b) => match d a b with
    | .isTrue h => .isTrue ⟨a, b, rfl, h⟩
    | .isFalse h => .isFalse (fun ⟨_, _, e, g⟩ => by cases e; exact h g)
def served (c : Served × State) : Bool := match c.1 with
  | .refused => false
  | _ => true
def tAsk (key : Nat) : Remote := Remote.arriving 0 key 0 8 0 0 0
theorem wit_ResetsAndLinks :
    (tS.freezes = [] ∧ tLink.hostLinked 0 = true ∧ tOff.hostLinked 0 = false ∧ tLink.ctlField (.fnWin 0) 0 1 ≠ 0 ∧ tLink.ctlField (.fnWin 1) 0 1 = 0) ∧
    (∀ n ∈ [1, 8], ∃ l t, tLink.barPlace 0 0 n { read := true, write := false, fetch := false, user := false } = (.ok l, t) ∧ t.piecesPoisoned l = none) ∧
    (∃ l t, tLink.barPlace 0 4095 8 (Need.store false) = (.ok l, t) ∧ True) ∧
    (tLink.portUp 1 = true ∧ tLink.ctlField (.portSts 1) 4 1 ≠ 0 ∧ tLink.dramExists 0 0 = true ∧ tLink.anyPoison 0 8 = false) ∧
    (tLink.pairUp = true ∧ tOff.pairUp = false) ∧
    (tLink.ngxIdNum = 5 ∧ served (tLink.serveRemote (tAsk 0)) = false) ∧
    (tLink.routePort 63 = none ∧ (tLink.ctlWr (.ngxPort 7) 7).routePort 63 = some 7) ∧
    (tLink.ctlField (.ngxPort 7) 0 1 = 0 ∧ (tLink.ctlWr (.ngxPort 7) 7).ctlField (.ngxPort 7) 0 1 ≠ 0) ∧
    (∀ d ∈ [Moesi.m, .o, .e, .s, .i], tLink.portCxl 1 = true ∧ foreignLine (4 * 2 ^ 48 / 128 + (2 ^ 41 - 1)) = true ∧
      ((tLink.setDir (4 * 2 ^ 48 / 128 + (2 ^ 41 - 1)) { tLink.dirAt 0 with own := d }).dirAt (4 * 2 ^ 48 / 128 + (2 ^ 41 - 1))).own = d) := by
  refine ⟨by decide +kernel, ?_, @of_decide_eq_true _ (decExcept (fun _ _ => inferInstance)) (by decide +kernel), by decide +kernel, by decide +kernel,
    by decide +kernel, by decide +kernel, by decide +kernel, by decide +kernel⟩
  intro n hn
  simp only [List.mem_cons, List.not_mem_nil, or_false] at hn
  rcases hn with rfl | rfl <;> exact @of_decide_eq_true _ (decExcept (fun _ _ => inferInstance)) (by decide +kernel)
/-- An answered request needs a window with its key and rights. -/
theorem wit_ResetsAndLinks_served : served (((tLink.ctlWr (.ngxExp 15 3) (7 * 2 ^ 32 + 1)).ctlWr (.ctxCtl 0) 1).serveRemote (tAsk 7)) = true := by decide +kernel

def tBuf (b : Buf) : State := { tLink with bufs := [(252, b)] }
def tFreeze (reach : List Nat) : Freeze :=
  { full := true, t := 0, cause := 0x141, reason := 0, okind := 0, oindex := 0, ctx := 0, source := 0, toReach := reach, opened := false, requester := none }
theorem wit_BrolekAndRecorder :
    (tLink.mgmt.running.find? (fun e => e.1 == 31) = none ∧
      (({ tLink with mgmt := { tLink.mgmt with running := [(31, 0, 4096)] } } : State).mgmt.running.find? (fun e => e.1 == 31)) = some (31, 0, 4096)) ∧
    (∀ p ∈ [0, 1], tLink.ctlField (.portSts p) 0 1 ≠ 0 ∧ tOff.ctlField (.portSts p) 0 1 = 0 ∧ sget (fun _ => 0) tLink.mgmt.spdm p < 1 ∧
      1 ≤ sget (fun _ => 0) [(0, 1), (1, 3)] p) ∧
    (tLink.syncDue 252 = false ∧ ({ tLink with clk := 2 ^ 24 } : State).syncDue 252 = true) ∧
    (252 < bufCount ∧ ((tBuf { Buf.empty with dropped := 1 }).buf 252).frozen = false ∧ ((tBuf { Buf.empty with dropped := 1 }).buf 252).dropped ≠ 0) ∧
    (({ tLink with freezes := [tFreeze [252]] } : State).freezes.find? (fun f => f.toReach.contains 252) = some (tFreeze [252]) ∧ (tLink.buf 252).window = none) ∧
    (∀ c ∈ [255, 256], ((tBuf { Buf.empty with window := some (0, 0, true) }).buf 252).window = some (0, 0, true) ∧ (c < 0 + 256 ↔ c = 255)) ∧
    (tLink.pairUp = true ∧ tOff.pairUp = false) ∧ (tLink.freezes = [] ∧ (tFreeze [252]).toReach ≠ []) ∧ tLink.capsules = [] ∧
    (tLink.ctlField .rasScrub 8 1 ≠ 0 ∧ paSpace (32 * (2 ^ 43 - 1)) < 2 ∧ tLink.dramExists (paSpace 0) (paOff 0) = true) := by decide +kernel

/-- Context 0 is requested to be suspended, with a deadline that passes at once, and something or nothing of it is resident. -/
def tAskS (s : State) : State := (s.ctlWr (.pre 0) 5).modCtx 0 (fun c => { c with reqHost := true })
def tEmpty : State := { tAskS tLink with waves := [], blocks := [] }
def tOp (slot : SlotState) : Spindle :=
  { tP.setSlot 63 { OSlot.free with state := slot } with ops := [{ batch := 1, reads := [63], drain := none }], wait := .retry 8 false }
def tTok (t : Token) : State := with_ tS (fun w => { w with tok := [(7, t)] })
theorem wit_ContextAndCopyEvents :
    (tS.walks = [] ∧ ({ tS with walks := [{ core := 0, ctx := 0, va := 0, write := false, read := true, fetch := false, user := true }] } : State).walks.length = 1) ∧
    (∃ w, (with_ tS (fun w => { w with wait := .retry 8 false })).wave? 0 0 = some w ∧ w.wait = .retry 8 false) ∧
    (∃ w, (with_ tS (fun w => { w with sfq := [1] })).wave? 0 0 = some w ∧ (with_ tS (fun w => { w with sfq := [1] })).held w = false ∧ w.wait = .ready ∧
      w.answers = [] ∧ w.poisPend = none ∧ w.mode = .user ∧ w.sfq ≠ []) ∧ tW.sfq = [] ∧
    (∃ x, tS.blocks.find? (fun x => x.launch == 0 && x.index % 2 ^ 32 == 0 && x.phase == .running) = some x ∧ tS.covered x.ctx x.launch (tS.blkOf x) = false) ∧
    (tS.preReq 0 = false ∧ (tAskS tLink).preReq 0 = true ∧ (tAskS tLink).preState 0 = 1 ∧ ∃ b, (tAskS tLink).blocks = [b] ∧ b.ctx = 0) ∧
    (tEmpty.preReq 0 = true ∧ tEmpty.preState 0 = 1 ∧ (tEmpty.ctx 0).stepping = false ∧ tEmpty.blocks = [] ∧ tEmpty.spindles = []) ∧
    (tS.deadlinePassed 0 0 = false ∧ ({ tAskS tLink with clk := 1700 } : State).deadlinePassed 0 0 = true) ∧ tS.hasAgent = true ∧
    (∀ k ∈ [SlotState.inUse, .ready], ∃ p, ({ tX with spindles := [tOp k] } : State).spindle? 0 = some p ∧ (p.slot 63).state = k ∧ p.wait = .retry 8 false) ∧
    ((∀ o ∈ tP.ops, o.drain.isSome = true) ∧ tP.drain? = none) ∧
    (tW.token 7).copy = none := by
  refine ⟨by decide +kernel, ?_, ?_, by decide, ?_, ?_, by decide +kernel, by decide +kernel, by decide, ?_, by decide +kernel, by decide⟩
  · exact @of_decide_eq_true _ (decSome (fun _ => inferInstance)) (by decide +kernel)
  · exact @of_decide_eq_true _ (decSome (fun _ => inferInstance)) (by decide +kernel)
  · exact @of_decide_eq_true _ (decSome (fun _ => inferInstance)) (by decide +kernel)
  · exact ⟨by decide +kernel, by decide +kernel, by decide +kernel, _, rfl, rfl⟩
  · intro k hk
    simp only [List.mem_cons, List.not_mem_nil, or_false] at hk
    rcases hk with rfl | rfl <;> exact @of_decide_eq_true _ (decSome (fun _ => inferInstance)) (by decide +kernel)
/-- A copy issued, not started. -/
theorem wit_ContextAndCopyEvents_copy : ∃ w, tBusyTok.wave? 0 0 = some w ∧ (w.token 7).state = 1 ∧ ∃ x, (w.token 7).copy = some x ∧ x.started = false :=
  @of_decide_eq_true _ (decSome (fun _ => decAnd inferInstance (decSome (fun _ => inferInstance)))) (by decide +kernel)

/-- A launch whose next block is to be placed, and one of a task pool with a queued task. -/
def tPlace : State := { State.reset with launches := [Launch.enter 0 0 0 0 0 0 0 (tRec ||| (1 : BitVec 512) <<< 128) 0] }
/-- A queue pending, a queue with a record available, a stall with 64 rays, a batch that waits for a unit. -/
def tStall : State :=
  { tLink with
    launches := [{ Launch.enter 0 0 0 0 0 0 1 tRec 0 with next := 1, ray := some { tPart ((List.range 64).map (fun k => { tRay1 k with phase := .needsTraversal })) with cap := 64 } }]
    stalls := [{ quarter := 0, index := 0, key := some ((tPart []).traversalKey 0), hint := 0, aged := none, overdue := none, born := 0 }]
    batches := [{ quarter := 3, launch := 0, stall := 0, born := 0, unit := none, rays := List.range 64, hits := [] }], ctl := tLink.ctl, clk := 2 ^ 40 }
def tWait : State :=
  { tS with waiters := [{ index := some 1023, core := 0, slot := 0, ctx := 0, va := 0, pa := 0, threshold := 1, order := 0 }]
            spnReqs := [{ cluster := 0, core := 0, slot := 0, prio := 0, order := 0 }] }
theorem wit_WorkEvents :
    State.reset.placeReqs = [] ∧
    (∃ r, tPlace.placeReqs.head? = some r ∧ r.kind = .block 0 ∧ (tPlace.tryReq (fun _ => true) r).isSome = true) ∧
    ((∃ w, tBusy.wave? 0 0 = some w ∧ w.quiet = false ∧ ∃ a, w.flight[0]? = some a ∧ a.done = false)) ∧
    (∃ w, (with_ tS (fun w => { w with wait := .ended 0 })).wave? 0 0 = some w ∧ w.quiet = true ∧ w.wait = .ended 0) ∧
    (∃ w, (with_ tS (fun w => { w with tmrPend := true })).wave? 0 0 = some w ∧ (with_ tS (fun w => { w with tmrPend := true })).held w = false ∧
      (with_ tS (fun w => { w with tmrPend := true })).timerDue w = true ∧ w.poisPend = none ∧ w.sfDue = false ∧ w.wait = .ready ∧ w.answers = []) ∧
    tS.timerDue tW = false ∧
    (∀ x ∈ [0, 1], ∃ w, (with_ tS (fun w => { w with wait := .sleep x })).wave? 0 0 = some w ∧ w.wait = .sleep x) ∧
    (∃ b, (tClaim [5, 7]).block? 0 0 = some b ∧ b.claims = [0] ∧ ∃ w, ((tClaim [5, 7]).wavesOf 0 0).find? (fun w => w.wid == 0) = some w ∧ w.claimed = some 2 ∧ 2 ≤ b.pool.length) ∧
    (∃ b, tS.block? 0 0 = some b ∧ b.claims = []) ∧
    (State.reset.launch? 0 = none ∧ (∃ x, tS.launch? 0 = some x ∧ tS.urgent x = false)) ∧
    (State.reset.emissions = [] ∧ (tS.ctx 0).pending.getLsbD 0 = false ∧ tS.freeWaiter = some 0) ∧
    (tS.waiters.find? (fun t => t.index == some 1023) = none ∧ ∃ t, tWait.waiters.find? (fun t => t.index == some 1023) = some t ∧ (tWait.l2Read t.ctx t.pa 8).1 = 0) ∧
    (∃ t, tStall.stalls = [t] ∧ t.quarter = 0 ∧ t.index = 0 ∧ (tStall.emittable t).length = 64 ∧
      ∃ p, (tStall.emittable t).head? = some p ∧ tStall.olderThan p 1 = true ∧ tStall.olderThan p 2 = true) ∧
    (tS.crierChoice 0 = none ∧ ∃ v, tStall.crierChoice 0 = some v ∧ v.oldest.2.key.episode = false) ∧
    ((95 : BitVec 7).toNat / 32 ≠ 3 ∧ (96 : BitVec 7).toNat / 32 = 3 ∧ (tStall.batches.find? (fun b => b.quarter == 3 && b.unit.isNone)).isSome = true) ∧
    (tS.raySlot? 0 = none ∧ (∃ p, tX.spindle? 0 = some p ∧ True) ∧ tWait.spindle? 0 = none ∧ (tWait.spnBest 0).isSome = true) ∧
    tS.serving.find? (fun e => e.1 == 31) = none := by
  refine ⟨by decide +kernel, ?_, ?_, ?_, ?_, by decide +kernel, ?_, ?_, ?_, ⟨by decide +kernel, ?_⟩, by decide +kernel, ⟨by decide +kernel, ?_⟩, ?_, ⟨by decide +kernel, ?_⟩,
    by decide +kernel, ⟨by decide +kernel, ?_, by decide +kernel, by decide +kernel⟩, by decide +kernel⟩
  · exact @of_decide_eq_true _ (decSome (fun _ => inferInstance)) (by decide +kernel)
  · exact @of_decide_eq_true _ (decSome (fun _ => decAnd inferInstance (decSome (fun _ => inferInstance)))) (by decide +kernel)
  · exact @of_decide_eq_true _ (decSome (fun _ => inferInstance)) (by decide +kernel)
  · exact @of_decide_eq_true _ (decSome (fun _ => inferInstance)) (by decide +kernel)
  · intro x hx
    simp only [List.mem_cons, List.not_mem_nil, or_false] at hx
    rcases hx with rfl | rfl <;> exact @of_decide_eq_true _ (decSome (fun _ => inferInstance)) (by decide +kernel)
  · exact @of_decide_eq_true _ (decSome (fun _ => decAnd inferInstance (decSome (fun _ => inferInstance)))) (by decide +kernel)
  · exact @of_decide_eq_true _ (decSome (fun _ => inferInstance)) (by decide +kernel)
  · exact @of_decide_eq_true _ (decSome (fun _ => inferInstance)) (by decide +kernel)
  · exact @of_decide_eq_true _ (decSome (fun _ => inferInstance)) (by decide +kernel)
  · exact ⟨_, rfl, by decide +kernel, by decide +kernel, by decide +kernel, @of_decide_eq_true _ (decSome (fun _ => inferInstance)) (by decide +kernel)⟩
  · exact @of_decide_eq_true _ (decSome (fun _ => inferInstance)) (by decide +kernel)
  · exact @of_decide_eq_true _ (decSome (fun _ => inferInstance)) (by decide +kernel)

/-! More witnesses: the clauses of one statement that no state above meets, and the values where two clauses meet -/

/-- A load of the wave into its second register block is in flight; the wave's block claims with nothing in its pool. -/
noncomputable def tLoad : State := next (.ld ⟨4, 0, 1, 8⟩) tS
def tStarved : State := withBlk (with_ tS (fun w => { w with wait := .claim 2 })) (fun b => { b with claims := [0] })
/-- A Spindle program with a drain left, and one that yielded in supervisor mode. -/
def tDr : Drain :=
  { type := 2, ganged := false, rows := 1, cols := 1, x0 := 0, y0 := 0, z0 := 0, record := tLay (2 + 65536) 2, bben := false, bboff := 0, data := [1], progress := 0,
    user := true, pc := 0x10000, since := 0, tags := [], answers := [], wrote := [] }
def tLeft (f : Drain → Drain) : State := tQ (fun p => { p with ops := [{ batch := 1, reads := [], drain := some (f tDr) }] })

theorem wit_StoresIssue_marks : (∃ r n, Issues (.stmsk { XF.zero with szsp := 4, sb := 1, d := 2, sc := 3 }) tS r n ∧
      poisonLanes tS tW (stmskLanes tS tW n) (rowSources r tS.stream n) = 0) ∧ (tSup .save tS).curWave.any (·.exemptPoison) = true ∧ tW.exemptPoison = false :=
  ⟨issues_with _ (by decide +kernel), by decide +kernel, by decide⟩
/-- The counters of an idle wave leave room; a copy keeps a Spindle program's fence waiting for its drain. -/
theorem wit_Counters : (∀ p ∈ List.range 6, tW.counter p < 63) ∧
    ∃ r n, Issues (.fence { XF.zero with scope := 4 }) (tLeft id) r n ∧ ∃ sc, (tLeft id).scopeIn n = some sc ∧ (tLeft id).releaseReady sc = false :=
  ⟨by decide, issues_by (fun _ _ => decSome (fun _ => inferInstance)) (by decide +kernel)⟩
/-- A slot of the wave's core that a program of another context holds. -/
def tAlien : State := { tS with spindles := [{ tP.setSlot 5 { OSlot.free with state := .claimed, size := 128 } with ctx := 1 }] }
theorem wit_SlotStores_context : ∃ r n, Issues (.ostore { XF.zero with szsp := 7, osel := 2, sa := 5, d := 8 }) tAlien r n ∧ ∃ p, tAlien.spindle? 0 = some p ∧ p.ctx ≠ tW.ctx :=
  issues_by (fun _ _ => decSome (fun _ => inferInstance)) (by decide +kernel)
/-- A wave that was saved as released at this tlwait, and one that was at another. -/
theorem wit_Timelines_saved : ∀ a ∈ [0x10000#64, 0x10010], ∃ r n, Issues (.tlwait { XF.zero with osel := 2, szsp := 5, scope := 4, d := 0, disp := 16 })
    (with_ tS (fun w => { w with tlrel := some a })) r n ∧ n.sub = 2 ∧ ∃ w, (with_ tS (fun w => { w with tlrel := some a })).curWave = some w ∧ (w.tlrel = some w.pc ↔ a = 0x10000) := by
  intro a ha
  simp only [List.mem_cons, List.not_mem_nil, or_false] at ha
  rcases ha with rfl | rfl <;> exact issues_by (fun _ _ => decAnd inferInstance (decSome (fun _ => inferInstance))) (by decide +kernel)
/-- A copy that waits keeps its records. -/
theorem wit_CopiesIssue_latched : ∃ r n, Issues (.cp tCopy) (next (.cp tCopy) (at_ tBusyTok 0x10000)) r n ∧
    ∃ w, (next (.cp tCopy) (at_ tBusyTok 0x10000)).curWave = some w ∧ w.latched.isSome = true ∧ (w.token n.x.d.toNat).busy = true :=
  issues_by (fun _ _ => decSome (fun _ => inferInstance)) (by decide +kernel)
/-- A load into the last block, which keeps it; a store in flight to memory, which does not; no block, 32 blocks and one block of two. -/
theorem wit_RegisterBlocks_surrender :
    (∃ r n, Issues (.regsurrender ⟨0, 1⟩) tLoad r n ∧ ∃ w, tLoad.curWave = some w ∧ w.blocks.length = 2 ∧
      ∃ a ∈ w.flight, a.done = false ∧ a.dest = .vec 8 4 false) ∧
    (∃ r n, Issues (.regsurrender ⟨0, 1⟩) tBusy r n ∧ ∃ w, tBusy.curWave = some w ∧ ∀ a ∈ w.flight, a.dest = .none ∧ ∀ e ∈ a.elems, paSpace e.pa ≠ 6) ∧
    (∀ k ∈ [0, 32], ∃ r n, Issues (.regsurrenderX { XF.zero with disp := k }) tS r n ∧ (n.x.disp.toNat = 0 ∨ 31 < n.x.disp.toNat)) ∧
    ∀ k ∈ [0, 32], ∃ r n, Issues (.regclaimX { XF.zero with disp := k }) tS r n ∧ (n.x.disp.toNat = 0 ∨ 31 < n.x.disp.toNat) := by
  refine ⟨issues_by (fun _ _ => decSome (fun _ => inferInstance)) (by decide +kernel), issues_by (fun _ _ => decSome (fun _ => inferInstance)) (by decide +kernel), ?_, ?_⟩ <;>
    · intro k hk
      simp only [List.mem_cons, List.not_mem_nil, or_false] at hk
      rcases hk with rfl | rfl <;> exact issues_with _ (by decide +kernel)
/-- A claim that the pool meets at once; one that it does not, which ends in the deadlock. -/
theorem wit_RegisterBlocks_claim :
    (∃ r n, Issues (.regclaim ⟨0, 30⟩) (withBlk tS (fun b => { b with pool := List.range 30 })) r n ∧
      ∃ b, (withBlk tS (fun b => { b with pool := List.range 30 })).block? 0 0 = some b ∧ b.claims = [] ∧ n.x.disp.toNat ≤ b.pool.length ∧
        ((withBlk tS (fun b => { b with pool := List.range 30 })).wavesOf 0 0).find? (fun v => v.wid == tW.wid) = some tW) ∧
    (∃ r n, Issues (.regclaim ⟨0, 30⟩) tS r n ∧ ∃ b, tS.block? 0 0 = some b ∧
      let u := (tS.setBlock { b with claims := b.claims ++ [0] }).setWait (.claim n.x.disp.toNat)
      u.grantClaim 0 0 = u ∧ u.curWave.any (fun v => v.wait == .claim 30) = true) ∧
    ∀ s ∈ [tStarved, tS], ∃ b, s.block? 0 0 = some b ∧
      ((b.claims ≠ [] ∧ s.claimGrantable b = false ∧ ∀ i ∈ List.range 64, b.alive.getLsbD i = true → i ∈ b.claims) ↔ b.claims = [0]) := by
  refine ⟨issues_by (fun _ _ => decSome (fun _ => inferInstance)) (by decide +kernel), issues_by (fun _ _ => decSome (fun _ => inferInstance)) (by decide +kernel), ?_⟩
  intro s hs
  simp only [List.mem_cons, List.not_mem_nil, or_false] at hs
  rcases hs with rfl | rfl <;> exact @of_decide_eq_true _ (decSome (fun _ => inferInstance)) (by decide +kernel)
/-- A column offset that leaves no room, an offset without columns, and a factor of more than 32 bits. -/
theorem wit_AccumulatorOperations_illegal :
    (∃ r n, Issues (.ascale { XF.zero with osel := 1, d := 31, sa := 9, sb := 10, type := 8 }) ((tQ (fun p => p.setAccTy 31 .f32)).swr 10 16260) r n ∧
      16384 < 16260 + 4 * shapeN n.x.shape.toNat) ∧
    (∃ r n, Issues (.ascale { XF.zero with osel := 2, d := 31, sa := 9, sb := 1, type := 8 }) (tQ (fun p => p.setAccTy 31 .f32)) r n ∧
      ((tQ (fun p => p.setAccTy 31 .f32)).scalOpnd n (r.opnds n.accum).2.2.1 n.x.sb).toNat ≠ 0) ∧
    ∃ r n, Issues (.ascale { XF.zero with osel := 1, d := 31, sa := 9, sb := 10, type := 8 }) ((tQ (fun p => p.setAccTy 31 .f32)).swr 9 (1#64 <<< 32)) r n ∧
      2 ^ 32 ≤ (((tQ (fun p => p.setAccTy 31 .f32)).swr 9 (1#64 <<< 32)).srd n.x.sa.toNat).toNat :=
  ⟨issues_with _ (by decide +kernel), issues_with _ (by decide +kernel), issues_with _ (by decide +kernel)⟩
/-- A context asked to suspend, its wave back from supervisor mode with a yield pending, or after the forced save. -/
def tBack (yielded forced : Bool) : State :=
  with_ ((tS.ctlWr (.pre 0) 5).modCtx 0 (fun c => { c with reqHost := true, forced := forced })) (fun w => { w with mode := .supervisor, handler := .trap, yielded := yielded, tepc := 0x10000 })
theorem wit_TrapsAndReturns_stops : ∀ b ∈ [(true, false), (false, true), (false, false)], ∃ r n, Issues .trapret (tBack b.1 b.2) r n ∧ ∃ w, (tBack b.1 b.2).curWave = some w ∧
    canonical w.tepc = true ∧ w.tepc % 4 = 0 ∧ (tBack b.1 b.2).covered w.ctx w.launch w.blk = true ∧
      ((w.yielded = true ∨ ((tBack b.1 b.2).ctx w.ctx).forced = true ∧ (w.step != some true) = true) ↔ b ≠ (false, false)) := by
  intro b hb
  simp only [List.mem_cons, List.not_mem_nil, or_false] at hb
  rcases hb with rfl | rfl | rfl <;> exact issues_by (fun _ _ => decSome (fun _ => inferInstance)) (by decide +kernel)
/-- An access in flight lies where a dropped translation may reach. -/
theorem wit_TimersInvalidations_busy : ∃ r n, Issues (.tlbinv { XF.zero with osel := 1, sa := 8, sb := 9 }) ((tSup .trap tBusy).swr 9 1) r n ∧
    ((tSup .trap tBusy).swr 9 1).usesRange 0 0 (2 ^ 39) false = true := issues_with _ (by decide +kernel)
/-- A wave alone in its partition is the one chosen. -/
theorem wit_StepRunsDecodedInstruction_turn : ∃ x, (tRun 0x000001B8).wave? 0 0 = some x ∧ ((tRun 0x000001B8).chosenFor x).core = 0 ∧ ((tRun 0x000001B8).chosenFor x).slot = 0 ∧
    x.wait.issues 0 = true ∧ ∀ y ∈ [0, 1], x.wait ≠ .sleep y := @of_decide_eq_true _ (decSome (fun _ => inferInstance)) (by decide +kernel)

/-- A register of no unit, another function's buffer and a pending-bit word; a virtual function's BAR0 shows its own context's registers and nothing past them. -/
def tVirt : State := ((tLink.ctlWr (.fnCtl 1) 0).ctlWr (.ctxMap 7) 0x21)
theorem wit_HostRegisterWrites_places :
    (∀ o ∈ [0x341000, 0x37F000, 0x3F8000, 0x3FC000], closedAt o = true) ∧ closedAt 0x340000 = false ∧
    (∀ o ∈ [msixBase 0 + 0x4000, msixBase 0 + 0x4007], ¬ (msixBase 0 ≤ o ∧ o < msixBase 0 + 1024) ∧ msixBase 0 + 0x4000 ≤ o ∧ o < msixBase 0 + 0x4008) ∧
    (mboxAt 0 0x343000 = false ∧ ctlReg (0x343000 / 8 * 8) = none) ∧
    tVirt.barReg 1 0 = some 0x107000 ∧ tVirt.barReg 1 0x1000 = none ∧ tVirt.barReg 0 0 = some 0 ∧ tVirt.barReg 0 0x400000 = none := by decide +kernel

theorem wit_ResetsAndLinks_more :
    (tFreeze [252]).toReach ≠ [] ∧
    (tLink.dramExists 0 (2 ^ 43 - 8) = false ∧ tLink.dramExists 0 0 = true) ∧
    (tLink.routePort 63 = none ∧ (tLink.ctlWr (.ngxPort 7) 7).routePort 63 = some 7 ∧ ∀ h ∈ [3, 4], (h < 4 ↔ h = 3)) ∧
    (foreignLine (2 * 2 ^ 48 / 128) = true ∧ foreignLine 0 = false) := by decide +kernel

/-- A freeze that has reached every buffer: its windows never opened, or opened and closed; a store with room, full of capsules not in flash, and
with one in flash. -/
def tCap (id : Nat) (store flash : Bool) : Capsule :=
  { id := id, freeze := tFreeze [], pair := 0, lost := 0, fw := 0, epochs := [], bufs := [], inStore := store, inFlash := flash }
def tCaps (l : List Capsule) (opened : Bool) : State := { tLink with freezes := [{ tFreeze [] with opened := opened }], capsules := l }
theorem wit_BrolekAndRecorder_capsules :
    (∀ o ∈ [true, false], ∃ f, (tCaps [] o).freezes = [f] ∧ f.toReach = [] ∧ f.opened = o ∧ (tCaps [] o).bufs = []) ∧
    (storeRoom [tCap 0 true false, tCap 1 true false]).isSome = true ∧ (storeRoom [tCap 0 true false, tCap 1 true false, tCap 2 true false]) = none ∧
    (storeRoom [tCap 0 true false, tCap 1 true true, tCap 2 true false]).isSome = true ∧
    (tCaps [tCap 0 true false] true).capsules.find? (fun c => c.inStore && !c.inFlash) = some (tCap 0 true false) ∧
    (tFreeze [252]).toReach ≠ [] := by
  refine ⟨?_, by decide +kernel, by decide +kernel, by decide +kernel, by decide +kernel, by decide⟩
  intro o ho
  simp only [List.mem_cons, List.not_mem_nil, or_false] at ho
  rcases ho with rfl | rfl <;> exact ⟨_, rfl, rfl, rfl, by decide +kernel⟩
/-- A freeze reaches a buffer whose window is open already. -/
theorem wit_BrolekAndRecorder_joins : ({ tBuf { Buf.empty with window := some (0, 5, false) } with freezes := [tFreeze [252]] } : State).freezes.find?
    (fun f => f.toReach.contains 252) = some (tFreeze [252]) ∧ ((tBuf { Buf.empty with window := some (0, 5, false) }).buf 252).window = some (0, 5, false) := by decide +kernel
/-- Units that exist and one that does not, details 1 and 5 and their neighbours. -/
theorem wit_BrolekAndRecorder_units : unitExists 0 127 = true ∧ (∀ d ∈ [0#3, 6], d = 0 ∨ 5 < d.toNat) ∧ (∀ d ∈ [1#3, 5], ¬ (d = 0 ∨ 5 < d.toNat)) ∧
    unitExists 7 0 = false := by decide +kernel

/-- A walk of a walker's own context, and one of another. -/
def tWalks : State := { tS with walks := [{ core := 0, ctx := 0, va := 0, write := false, read := true, fetch := false, user := true }] }
theorem wit_ContextAndCopyEvents_walks : (tWalks.assignWalkers.walks.find? (fun w => some w.ctx == tWalks.assignWalkers.walkerOwner[0]?)).isSome = true ∧
    (({ tWalks with launches := [] } : State).assignWalkers.walks.find? (fun (w : Walk) => some w.ctx == ({ tWalks with launches := [] } : State).assignWalkers.walkerOwner[0]?)) = none := by
  decide +kernel
/-- A covered block whose wave stands at a yield; a saved block that a core takes back. -/
def tHeld : State := with_ (tAskS tLink) (fun w => { w with wait := .stopped causeSuspendYield })
def tSaved : State :=
  { (tLink.ctlWr (.save 0) 3) with
    waves := [], blocks := []
    launches := [{ Launch.enter 0 0 0 0 0 0 0 tRec 0 with
      next := 1, saved := [{ index := 0, frame := { entry := 0, first := 4, count := 2 }, spindle := none, core := 0, since := 0, waves := [], debug := false }] }] }
theorem wit_ContextAndCopyEvents_saves :
    (∃ x, tHeld.blocks.find? (fun x => x.launch == 0 && x.index % 2 ^ 32 == 0 && x.phase == .running) = some x ∧ tHeld.covered x.ctx x.launch (tHeld.blkOf x) = true ∧
      (∀ d ∈ tHeld.unitOf x, tHeld.savable d = true)) ∧
    (∃ r, tSaved.placeReqs.head? = some r ∧ r.kind = .resume 0 0 ∧ (tSaved.tryReq (fun _ => true) r).isSome = true) :=
  ⟨@of_decide_eq_true _ (decSome (fun _ => inferInstance)) (by decide +kernel), @of_decide_eq_true _ (decSome (fun _ => inferInstance)) (by decide +kernel)⟩
/-- A drain that moves all its elements, and one whose address is not canonical; a load older than it in flight. -/
theorem wit_ContextAndCopyEvents_drains :
    (∃ p, (tLeft id).spindle? 0 = some p ∧ ∃ d, p.drain? = some d ∧ ∃ u o, (tLeft id).drainRun 0 d.total (d.total + 1) = (u, o) ∧ o = none ∧
      ∃ q, u.spindle? 0 = some q ∧ ∃ e, q.drain? = some e ∧ e.progress = e.total ∧ u.loadsPast 0 e.since = true) ∧
    (∃ u o, (tLeft (fun d => { d with record := d.record ||| (1 : BitVec 512) <<< 60 })).drainRun 0 1 2 = (u, o) ∧ o.isSome = true) ∧
    (with_ tLoad (fun w => w)).loadsPast 0 1 = false ∧ ∃ w, (with_ tS (fun w => { w with wait := .retry 2 false })).wave? 0 0 = some w ∧ w.wait = .retry 2 false := by
  refine ⟨?_, ?_, by decide +kernel, ?_⟩
  · exact @of_decide_eq_true _ (decSome (fun _ => decSome (fun _ => decPair (fun _ _ => decAnd inferInstance (decSome (fun _ => decSome (fun _ => inferInstance))))))) (by decide +kernel)
  · exact @of_decide_eq_true _ (decPair (fun _ _ => inferInstance)) (by decide +kernel)
  · exact @of_decide_eq_true _ (decSome (fun _ => inferInstance)) (by decide +kernel)
/-- A started copy that moves all its bytes, one whose source is not canonical, and one that a suspension stopped. -/
noncomputable def tMoves : State := with_ tBusyTok (fun w => w.setToken 7 { w.token 7 with copy := (w.token 7).copy.map (fun c => { c with started := true }) })
noncomputable def tFails : State := with_ tMoves (fun w => w.setToken 7 { w.token 7 with copy := (w.token 7).copy.map (fun c => { c with src := c.src ||| (1 : BitVec 512) <<< 60 }) })
noncomputable def tHalts : State := with_ tBusyTok (fun w => w.setToken 7 { w.token 7 with state := 3 })
theorem wit_ContextAndCopyEvents_copies :
    (∃ w, tMoves.wave? 0 0 = some w ∧ ∃ x, (w.token 7).copy = some x ∧ ∃ u o, tMoves.copyRun 0 0 7 x.total x.total = (u, o) ∧ o = none ∧
      ∃ v, u.wave? 0 0 = some v ∧ (v.token 7).progress = x.total ∧ (v.token 7).copy.isSome = true) ∧
    (∃ u o, tFails.copyRun 0 0 7 1 1 = (u, o) ∧ o.isSome = true) ∧
    ∃ w, tHalts.wave? 0 0 = some w ∧ (w.token 7).state = 3 ∧ ∃ x, (w.token 7).copy = some x ∧ tHalts.lockRoom 0 x = true ∧ w.wait ≠ .restored ∧
      ¬ (w.mode = .supervisor ∧ w.handler ≠ .trap) := by
  refine ⟨?_, ?_, ?_⟩
  · exact @of_decide_eq_true _ (decSome (fun _ => decSome (fun _ => decPair (fun _ _ => decAnd inferInstance (decSome (fun _ => inferInstance)))))) (by decide +kernel)
  · exact @of_decide_eq_true _ (decPair (fun _ _ => inferInstance)) (by decide +kernel)
  · exact @of_decide_eq_true _ (decSome (fun _ => decAnd inferInstance (decSome (fun _ => inferInstance)))) (by decide +kernel)

/-- A block, a task and an emission that a core has room for. -/
def tTask : State :=
  { State.reset with launches := [{ Launch.enter 0 0 0 0 0 0 2 tRec 0 with
      tasks := [{ record := 0, number := 0, time := 0, ring := 0, scope := 4, aged := false }], enqueued := 1, held := 1 }] }
def tEmit (rays : List Ray) : State :=
  { State.reset with
    launches := [{ Launch.enter 0 0 0 0 0 0 1 tRec 0 with next := 2, ray := some { tPart rays with eptab := [BitVec.ofNat 128 (0x10000 + 2 ^ 64)] } }]
    emissions := [{ quarter := 3, launch := 0, cls := 0, rays := rays.map (·.slot), time := 0, reserves := false }] }
def isHere (o : Option Found) : Bool := match o with
  | some (.here _) => true
  | _ => false
theorem wit_WorkEvents_places :
    (∃ r, tPlace.placeReqs.head? = some r ∧ ∃ m, tPlace.launch? r.num = some m ∧ unitBlocks m.record = 1 ∧
      isHere (tPlace.scan (tPlace.ctx m.ctx).paired false (fun x => tPlace.coreFor (tPlace.fnOf m.ctx) (tPlace.urgent m) x && m.allows m.next x) (recordAsk m.record)) = true) ∧
    (∃ r, tTask.placeReqs.head? = some r ∧ r.kind = .task 0 ∧ ∃ m, tTask.launch? r.num = some m ∧ ∃ t, tTask.firstTask m = some t ∧
      (tTask.firstFit 0 128 (tTask.last % 128) (fun x => tTask.coreFor (tTask.fnOf m.ctx) (tTask.urgent m) x)
        { waves := [(0, ctlVblk m.record)], pool := 0, scratch := 4096 * ctlScratch m.record, bars := ctlBars m.record, spindle := false }).isSome = true) ∧
    ∃ r, (tEmit [tRay1 0]).placeReqs.head? = some r ∧ (match r.kind with
      | .episode e => ((tEmit [tRay1 0]).emissionEntry e).isSome && ((tEmit [tRay1 0]).firstFit 96 32 ((tEmit [tRay1 0]).quarterStart 3)
          (fun x => (tEmit [tRay1 0]).coreFor 0 false x) { waves := [(0, 1)], pool := 0, scratch := 0, bars := 0, spindle := false }).isSome
      | _ => false) = true := by
  refine ⟨?_, ?_, ?_⟩
  · exact @of_decide_eq_true _ (decSome (fun _ => decSome (fun _ => inferInstance))) (by decide +kernel)
  · exact @of_decide_eq_true _ (decSome (fun _ => decAnd inferInstance (decSome (fun _ => decSome (fun _ => inferInstance))))) (by decide +kernel)
  · exact @of_decide_eq_true _ (decSome (fun _ => inferInstance)) (by decide +kernel)
/-- A wave that exits, an access that may perform, and a sleep that wakes. -/
theorem wit_WorkEvents_waves :
    (∃ w, (with_ tS (fun w => { w with wait := .exiting false })).wave? 0 0 = some w ∧ w.quiet = true ∧ w.wait = .exiting false ∧
      (((with_ tS (fun w => { w with wait := .exiting false })).exitRelease w ((with_ tS (fun w => { w with wait := .exiting false })).exitScope w)).wave? 0 0).isSome = true) ∧
    (∃ w, tBusy.wave? 0 0 = some w ∧ ∃ a, w.flight[0]? = some a ∧ a.done = false ∧ (∀ e ∈ a.elems, w.mayPerform 0 e = true) ∧ w.flight.find? (fun b => b.id == a.id) = some a) ∧
    (∃ w, (with_ tS (fun w => { w with wait := .sleep 0, tmrPend := true })).wave? 0 0 = some w ∧ w.wait = .sleep 0 ∧
      (with_ tS (fun w => { w with wait := .sleep 0, tmrPend := true })).timerDue w = true) := by
  refine ⟨?_, ?_, ?_⟩
  · exact @of_decide_eq_true _ (decSome (fun _ => inferInstance)) (by decide +kernel)
  · exact @of_decide_eq_true _ (decSome (fun _ => decSome (fun _ => inferInstance))) (by decide +kernel)
  · exact @of_decide_eq_true _ (decSome (fun _ => inferInstance)) (by decide +kernel)
/-- A launch that has waited 65,536 cycles and one that has not; a suspended ray launch, with and without room for its pool. -/
def tLate (n : Nat) : State := { tPlace with cyc := n }
def tCold (n : Nat) : State :=
  { ((tEmit [tRay1 0]).ctlWr (.pre 0) 8).ctlWr (.save 0) (BitVec.ofNat 64 n) with
    tlb := [probeTlb], emissions := []
    launches := [{ Launch.enter 0 0 0 0 0 0 1 tRec 0 with next := 1, suspended := true, ray := some (tPart [tRay1 0]) }] }
theorem wit_WorkEvents_pools :
    (∀ n ∈ [65535, 65536], ∃ r, (tLate n).placeReqs.head? = some r ∧ (r.since + 65536 ≤ (tLate n).cyc ↔ n = 65536)) ∧
    (∀ n ∈ [0, 3], ∃ m, (tCold n).launch? 0 = some m ∧ ∃ rl, m.ray = some rl ∧ m.suspended = true ∧ rl.cold = none ∧ (tCold n).preState m.ctx = 2 ∧
      (((tCold n).allocFrame m.ctx (poolFrameGranules rl.cap)).isSome = true ↔ n = 3)) := by
  refine ⟨?_, ?_⟩
  all_goals
    intro n hn
    simp only [List.mem_cons, List.not_mem_nil, or_false] at hn
  · rcases hn with rfl | rfl <;> exact @of_decide_eq_true _ (decSome (fun _ => inferInstance)) (by decide +kernel)
  · rcases hn with rfl | rfl <;> exact @of_decide_eq_true _ (decSome (fun _ => decSome (fun _ => inferInstance))) (by decide +kernel)
/-- A pending queue whose descriptor is read, and one whose descriptor lies on no page. -/
theorem wit_WorkEvents_queues : ∀ b ∈ [true, false], let s := (if b then tDevq 1 else { tDevq 1 with tlb := [] } : State).markPending 0 1
    (s.ctx 0).pending.getLsbD 0 = true ∧ ∃ d t, ((s.modCtx 0 (fun x => { x with pending := x.pending &&& ~~~(1#64 <<< 0) })).modCtx 0
      (fun x => { x with rayHead := x.rayHead.filter (fun e => e.1 != 0) })).queueDesc 0 0 0 = (d, t) ∧ (d.isSome = true ↔ b = true) := by
  intro b hb
  simp only [List.mem_cons, List.not_mem_nil, or_false] at hb
  rcases hb with rfl | rfl <;> exact @of_decide_eq_true _ (decAnd inferInstance (decPair (fun _ _ => inferInstance))) (by decide +kernel)
/-- A request that a waiter slot goes to. -/
def tAskW : State := { tS with waiters := [{ index := none, core := 0, slot := 0, ctx := 0, va := 0, pa := 0, threshold := 1, order := 0 }] }
theorem wit_WorkEvents_waiters : (tAskW.waiters.find? tAskW.mayGrant).isSome = true ∧ tAskW.freeWaiter = some 0 := by decide +kernel
/-- A trace of a ray in a batch, in its unit. -/
def tTrace : State :=
  { tLink with
    launches := [{ Launch.enter 0 0 0 0 0 0 1 tRec 0 with next := 1, ray := some (tPart [{ tRay1 0 with phase := .inTraversal }]) }]
    batches := [{ quarter := 0, launch := 0, stall := 0, born := 0, unit := some 0, rays := [0], hits := [] }] }
theorem wit_WorkEvents_traces : ∃ m, tTrace.raySlot? 0 = some m ∧ ∃ r, tTrace.ray? m.num 0 = some r ∧ m.ray.isSome = true ∧ r.phase = .inTraversal ∧ r.tags = [] ∧
    ∃ b, tTrace.batches.find? (fun b => b.launch == m.num && b.rays.contains 0) = some b ∧ b.unit = some 0 :=
  @of_decide_eq_true _ (decSome (fun _ => decSome (fun _ => decAnd inferInstance (decAnd inferInstance (decAnd inferInstance (decSome (fun _ => inferInstance))))))) (by decide +kernel)
/-- A cluster shared by two functions, served by the first; the request for an idle Spindle core waits to try again. -/
def tShared : State := { (tLink.ctlWr (.fnCtl 0) 0xFFFFFFFF00010001).ctlWr (.fnCtl 1) 0xFFFFFFFF00010001 with serving := [(0, 0, 0)], clk := 10000 }
theorem wit_WorkEvents_shares : tShared.serving.find? (fun e => e.1 == 0) = some (0, 0, 0) ∧ 1 < (tShared.sharers 0).length ∧
    (∃ w, (with_ tWait (fun w => { w with wait := .retry 6 true })).wave? 0 0 = some w ∧ w.wait = .retry 6 true) :=
  ⟨by decide +kernel, by decide +kernel, @of_decide_eq_true _ (decSome (fun _ => inferInstance)) (by decide +kernel)⟩

end Sys2Proof.Tests
end

section
/-! SUPPORT. A host's write of a device register: where the registers lie, what a write stores, and what each part of a write
leaves alone. -/

namespace Sys2Proof.Machine

/-! ## The registers at their offsets -/

theorem arrayReg_at (base count i : Nat) (f : Nat → CtlReg) (h : i < count) : arrayReg base count (base + 8 * i) f = some (f i) := by
  have hin : base ≤ base + 8 * i ∧ base + 8 * i < base + 8 * count := by omega
  simp [arrayReg, hin]

theorem ctlReg_ctxGroup (c r : Nat) (hc : c < 256) (hr : r < 0x1000) : ctlReg (0x100000 + r + 0x1000 * c) = ctxReg c r := by
  have h1 : ¬ 0x100000 + r + 0x1000 * c < 0xF0000 := by omega
  have h2 : ¬ 0x100000 + r + 0x1000 * c < 0x100000 := by omega
  have h3 : 0x100000 + r + 0x1000 * c < 0x200000 := by omega
  have hgroup : (0x100000 + r + 0x1000 * c) / 0x1000 % 0x100 = c := by omega
  have hreg : (0x100000 + r + 0x1000 * c) % 0x1000 = r := by omega
  rw [ctlReg, if_neg h1, if_neg h2, if_pos h3, hgroup, hreg]

theorem ctlReg_vmGroup (c r : Nat) (hc : c < 256) (hr : r < 0x1000) : ctlReg (0x200000 + r + 0x1000 * c) = vmReg c r := by
  have h1 : ¬ 0x200000 + r + 0x1000 * c < 0xF0000 := by omega
  have h2 : ¬ 0x200000 + r + 0x1000 * c < 0x100000 := by omega
  have h3 : ¬ 0x200000 + r + 0x1000 * c < 0x200000 := by omega
  have h4 : 0x200000 + r + 0x1000 * c < 0x300000 := by omega
  have hgroup : (0x200000 + r + 0x1000 * c) / 0x1000 % 0x100 = c := by omega
  have hreg : (0x200000 + r + 0x1000 * c) % 0x1000 = r := by omega
  rw [ctlReg, if_neg h1, if_neg h2, if_neg h3, if_pos h4, hgroup, hreg]

theorem ctlReg_ctxMap (c : Nat) (hc : c < 256) : ctlReg (0x301000 + 8 * c) = some (.ctxMap c) := by
  have h1 : ¬ 0x301000 + 8 * c < 0xF0000 := by omega
  have h2 : ¬ 0x301000 + 8 * c < 0x100000 := by omega
  have h3 : ¬ 0x301000 + 8 * c < 0x200000 := by omega
  have h4 : ¬ 0x301000 + 8 * c < 0x300000 := by omega
  have h5 : ¬ 0x301000 + 8 * c < 0x301000 := by omega
  have h6 : 0x301000 + 8 * c < 0x302000 := by omega
  rw [ctlReg, if_neg h1, if_neg h2, if_neg h3, if_neg h4, if_neg h5, if_pos h6, arrayReg_at _ _ _ _ hc]

/-! ## Registers that a host writes whole -/

/-- A register at an offset of its own, which no mailbox buffer, MSI-X table or pending bits of the function hold. -/
structure HostPlain (f : Nat) (r : CtlReg) : Prop where
  reg : ctlReg r.off = some r
  aligned : r.off % 8 = 0
  noMbox : mboxAt f r.off = false
  noTable : ¬ (msixBase f ≤ r.off ∧ r.off < msixBase f + 1024)
  noPending : ¬ (msixBase f + 0x4000 ≤ r.off ∧ r.off < msixBase f + 0x4008)

/-- Between the groups of the functions and the tables of the physical ones lies nothing of MSI-X. -/
theorem hostPlain_of {f o : Nat} {r : CtlReg} (ho : r.off = o) (hr : ctlReg o = some r) (h8 : o % 8 = 0) (hm : mboxAt f o = false)
    (hlo : 0x100000 ≤ o) (hhi : o < 0x3F8000) : HostPlain f r := by
  subst ho
  refine ⟨hr, h8, hm, ?_, ?_⟩ <;> unfold msixBase <;> split <;> omega

/-- The mailbox buffers lie above every register of a context. -/
theorem hostPlain_of_low {f o : Nat} {r : CtlReg} (ho : r.off = o) (hr : ctlReg o = some r) (h8 : o % 8 = 0) (hlo : 0x100000 ≤ o)
    (hhi : o < 0x340000) : HostPlain f r := by
  refine hostPlain_of ho hr h8 ?_ hlo (by omega)
  have hbelow : ¬ 0x341000 + 0x2000 * f ≤ o := by omega
  simp [mboxAt, hbelow]

theorem hostPlain_ctxGroup {f c r : Nat} {q : CtlReg} (hq : q.off = 0x100000 + r + 0x1000 * c) (h : ctxReg c r = some q) (hc : c < 256)
    (hr : r < 0x1000) (h8 : r % 8 = 0) : HostPlain f q :=
  hostPlain_of_low hq ((ctlReg_ctxGroup c r hc hr).trans h) (by omega) (by omega) (by omega)

theorem hostPlain_vmGroup {f c r : Nat} {q : CtlReg} (hq : q.off = 0x200000 + r + 0x1000 * c) (h : vmReg c r = some q) (hc : c < 256)
    (hr : r < 0x1000) (h8 : r % 8 = 0) : HostPlain f q :=
  hostPlain_of_low hq ((ctlReg_vmGroup c r hc hr).trans h) (by omega) (by omega) (by omega)

theorem hostPlain_wake (f c : Nat) (hc : c < 256) : HostPlain f (.wake c) :=
  hostPlain_ctxGroup (r := 0x10) rfl rfl hc (by decide) rfl

theorem hostPlain_pre (f c : Nat) (hc : c < 256) : HostPlain f (.pre c) :=
  hostPlain_ctxGroup (r := 0x28) rfl rfl hc (by decide) rfl

theorem hostPlain_dbg (f c : Nat) (hc : c < 256) : HostPlain f (.dbg c) :=
  hostPlain_ctxGroup (r := 0x30) rfl rfl hc (by decide) rfl

theorem hostPlain_root (f c : Nat) (hc : c < 256) : HostPlain f (.root c) :=
  hostPlain_vmGroup (r := 0x00) rfl rfl hc (by decide) rfl

theorem hostPlain_fqHead (f c : Nat) (hc : c < 256) : HostPlain f (.fqHead c) :=
  hostPlain_vmGroup (r := 0x20) rfl rfl hc (by decide) rfl

theorem hostPlain_reply (f c : Nat) (hc : c < 256) : HostPlain f (.reply c) :=
  hostPlain_vmGroup (r := 0x30) rfl rfl hc (by decide) rfl

theorem hostPlain_ctxMap (f c : Nat) (hc : c < 256) : HostPlain f (.ctxMap c) :=
  hostPlain_of_low (o := 0x301000 + 8 * c) rfl (ctlReg_ctxMap c hc) (by omega) (by omega) (by omega)

theorem hostPlain_ngxId (f : Nat) : HostPlain f .ngxId :=
  hostPlain_of_low rfl rfl rfl (by decide) (by decide)

theorem hostPlain_mgtPwrcap (f : Nat) : HostPlain f .mgtPwrcap :=
  hostPlain_of_low rfl rfl rfl (by decide) (by decide)

theorem hostPlain_evrCtl (f : Nat) (hf : f < 32) : HostPlain f .evrCtl :=
  have hm : ∀ g < 32, mboxAt g 0x380000 = false := by decide
  hostPlain_of rfl rfl rfl (hm f hf) (by decide) (by decide)

theorem hostPlain_mgtMbox (f : Nat) (hf : f < 32) : HostPlain f (.mgtMbox f) :=
  have hr : ∀ g < 32, ctlReg (0x340000 + 0x2000 * g) = some (.mgtMbox g) := by decide
  have hm : ∀ g < 32, mboxAt g (0x340000 + 0x2000 * g) = false := by decide
  hostPlain_of (o := 0x340000 + 0x2000 * f) rfl (hr f hf) (by omega) (hm f hf) (by omega) (by omega)

theorem hostRow_exec {i : Instr} {s : State} {f n v : Nat} {r : CtlReg} (h : hostRow s i = some (f, r, n, v)) :
    exec i s = .next (s.hostWrite f r.off n v) := by
  unfold hostRow at h
  split at h <;> cases h <;> rfl

theorem hostRow_plain {i : Instr} {s : State} {f n v : Nat} {r : CtlReg} (h : hostRow s i = some (f, r, n, v)) :
    f < 32 ∧ HostPlain f r := by
  unfold hostRow at h
  split at h <;> cases h <;> refine ⟨BitVec.isLt _, ?_⟩
  case h_1 => exact hostPlain_wake _ _ (BitVec.isLt _)
  case h_2 => exact hostPlain_root _ _ (BitVec.isLt _)
  case h_3 => exact hostPlain_reply _ _ (BitVec.isLt _)
  case h_4 => exact hostPlain_fqHead _ _ (BitVec.isLt _)
  case h_5 | h_6 | h_7 => exact hostPlain_pre _ _ (BitVec.isLt _)
  case h_8 | h_9 => exact hostPlain_dbg _ _ (BitVec.isLt _)
  case h_10 => exact hostPlain_ctxMap _ _ (BitVec.isLt _)
  case h_11 => exact hostPlain_ngxId _
  case h_12 => exact hostPlain_mgtPwrcap _
  case h_13 => exact hostPlain_evrCtl _ (BitVec.isLt _)
  all_goals exact hostPlain_mgtMbox _ (BitVec.isLt _)

/-! ## What a write stores -/

/-- A register that the device corrects after a write: the enable of BAR2's window, the power cap, the scrub period. -/
def CtlReg.Clamped (r : CtlReg) : Prop := (∃ g, r = .fnWin g) ∨ r = .mgtPwrcap ∨ r = .rasScrub

theorem regClamp_of_not_clamped (s : State) {r : CtlReg} (h : ¬ r.Clamped) : s.regClamp r = s := by
  unfold State.regClamp
  split
  · exact absurd (Or.inl ⟨_, rfl⟩) h
  · exact absurd (Or.inr (Or.inl rfl)) h
  · exact absurd (Or.inr (Or.inr rfl)) h
  · rfl

theorem ctlRd_ctlStore (s : State) (r : CtlReg) (v sel : BitVec 64) :
    (s.ctlStore r v sel).ctlRd r = (s.ctlRd r &&& ~~~(r.maskOf (· == .rw) &&& sel)) ||| (v &&& (r.maskOf (· == .rw) &&& sel))
      ||| (v &&& (r.maskOf (· == .w1s) &&& sel)) :=
  (ctlRd_ctlWr s r r _).trans (if_pos rfl)

theorem ctlRd_ctlSet_other (s : State) {r q : CtlReg} (lo n x : Nat) (h : q.off ≠ r.off) : (s.ctlSet r lo n x).ctlRd q = s.ctlRd q :=
  (ctlRd_ctlWr s r q _).trans (if_neg h)

theorem ctlRd_regClamp_other (s : State) {r q : CtlReg} (h : q.off ≠ r.off) : (s.regClamp r).ctlRd q = s.ctlRd q := by
  unfold State.regClamp
  split
  · split
    · rfl
    · exact ctlRd_ctlSet_other s _ _ _ h
  · exact ctlRd_ctlSet_other s _ _ _ h
  · split
    · exact ctlRd_ctlSet_other s _ _ _ h
    · rfl
  · rfl

/-- A write of which the register takes no bit leaves at most a record: that of a rejected HIF_CTXMAP write. -/
theorem regStore_of_takes_none {s : State} {u : RegUser} {r : CtlReg} {v sel : BitVec 64} (h : s.regTakes r v sel = 0) :
    ∃ l, s.regStore u r v sel = { s with bufs := l } := by
  unfold State.regStore
  simp only [h, BEq.rfl, if_true, Bool.true_and]
  split
  · split
    · exact ⟨_, rfl⟩
    · exact ⟨_, rfl⟩
  · exact ⟨_, rfl⟩

theorem regStore_of_takes {s : State} {u : RegUser} {r : CtlReg} {v sel : BitVec 64} (h : s.regTakes r v sel ≠ 0) :
    s.regStore u r v sel = (s.ctlStore r v (s.regTakes r v sel)).regClamp r := by
  unfold State.regStore
  simp only [beq_eq_false_iff_ne.2 h, Bool.false_and, Bool.false_eq_true, if_false]
  split <;> rfl

theorem ctlRd_regStore (s : State) (u : RegUser) (r : CtlReg) (v sel : BitVec 64) (hr : ¬ r.Clamped) :
    (s.regStore u r v sel).ctlRd r = if s.regTakes r v sel = 0 then s.ctlRd r
      else (s.ctlRd r &&& ~~~(r.maskOf (· == .rw) &&& s.regTakes r v sel)) ||| (v &&& (r.maskOf (· == .rw) &&& s.regTakes r v sel))
        ||| (v &&& (r.maskOf (· == .w1s) &&& s.regTakes r v sel)) := by
  by_cases h : s.regTakes r v sel = 0
  · obtain ⟨l, hl⟩ := regStore_of_takes_none (u := u) h
    rw [if_pos h, hl]
    rfl
  · rw [if_neg h, regStore_of_takes h, regClamp_of_not_clamped _ hr, ctlRd_ctlStore]

theorem ctlRd_regStore_other (s : State) (u : RegUser) {r q : CtlReg} (v sel : BitVec 64) (h : q.off ≠ r.off) :
    (s.regStore u r v sel).ctlRd q = s.ctlRd q := by
  by_cases ht : s.regTakes r v sel = 0
  · obtain ⟨l, hl⟩ := regStore_of_takes_none (u := u) ht
    rw [hl]
    rfl
  · rw [regStore_of_takes ht, ctlRd_regClamp_other _ h]
    exact (ctlRd_ctlWr s r q _).trans (if_neg h)

/-- A write that a register takes, and that the device does not correct, changes the device registers alone. -/
theorem regStore_rest {s : State} {u : RegUser} {r : CtlReg} {v sel : BitVec 64} (hr : ¬ r.Clamped) (h : s.regTakes r v sel ≠ 0) :
    s.regStore u r v sel = { s with ctl := (s.regStore u r v sel).ctl } := by
  rw [regStore_of_takes h, regClamp_of_not_clamped _ hr]
  rfl

/-! ## The places a host's write reaches -/

/-- A host that accesses a register through a function's BAR. -/
def hostUser (f : Nat) : RegUser := { fn := f, host := true, ctx := 0, slot := 0x46 }

theorem hostWrite_unlinked {s : State} {f : Nat} (h : s.hostLinked f = false) (off n v : Nat) : s.hostWrite f off n v = s := by
  simp [State.hostWrite, h]

theorem hostWrite_table {s : State} {f off : Nat} (hl : s.hostLinked f = true) (h : msixBase f ≤ off ∧ off < msixBase f + 1024) (n v : Nat) :
    s.hostWrite f off n v = s.msixWrite f (off - msixBase f) n v := by
  simp [State.hostWrite, hl, h]

theorem hostWrite_pendingBits {s : State} {f off : Nat} (hl : s.hostLinked f = true)
    (h : msixBase f + 0x4000 ≤ off ∧ off < msixBase f + 0x4008) (n v : Nat) : s.hostWrite f off n v = s := by
  have ht : ¬ off < msixBase f + 1024 := by omega
  simp [State.hostWrite, hl, h, ht]

/-- A register stores what it takes of a write, and then does what it does. -/
def State.regWritten (s : State) (f : Nat) (r : CtlReg) (v sel : BitVec 64) : State :=
  if r.acts = true then (s.regStore (hostUser f) r v sel).regActs f r.off (s.ctlRd r) v sel else s.regStore (hostUser f) r v sel

theorem regWritten_of_acts {r : CtlReg} (h : r.acts = true) (s : State) (f : Nat) (v sel : BitVec 64) :
    s.regWritten f r v sel = (s.regStore (hostUser f) r v sel).regActs f r.off (s.ctlRd r) v sel := if_pos h

/-! An offset that is neither of the MSI-X table nor of the pending bits is one of space 7. -/

section Space7

variable {s : State} {f off : Nat} (hl : s.hostLinked f = true) (ht : ¬ (msixBase f ≤ off ∧ off < msixBase f + 1024))
  (hp : ¬ (msixBase f + 0x4000 ≤ off ∧ off < msixBase f + 0x4008))

include hl ht hp

theorem hostWrite_regPut (n v : Nat) :
    s.hostWrite f off n v = (s.regPut (hostUser f) off n v).1.act (s.regPut (hostUser f) off n v).2 := by
  simp [State.hostWrite, hl, ht, hp, hostUser]

theorem hostWrite_mailbox (hm : mboxAt f off = true) (n v : Nat) :
    s.hostWrite f off n v = { s with mbox := s.mbox.writeNat (4096 * f + (off - 0x341000 - 0x2000 * f)) n v } := by
  rw [hostWrite_regPut hl ht hp]
  simp [State.regPut, hostUser, hm, State.act]

theorem hostWrite_noRegister (hm : mboxAt f off = false) (hr : ctlReg (off / 8 * 8) = none) (n v : Nat) :
    s.hostWrite f off n v = if closedAt off then s.logDenied f 0 0x46 0 off else s := by
  rw [hostWrite_regPut hl ht hp]
  simp [State.regPut, hostUser, hm, hr, State.act]

theorem hostWrite_outOfReach {r : CtlReg} (hm : mboxAt f off = false) (hr : ctlReg (off / 8 * 8) = some r)
    (hreach : s.reaches f true true r = false) (n v : Nat) : s.hostWrite f off n v = s.logDenied f 0 0x46 0 off := by
  rw [hostWrite_regPut hl ht hp]
  simp [State.regPut, hostUser, hm, hr, hreach, State.act]

theorem hostWrite_register {r : CtlReg} (hm : mboxAt f off = false) (hr : ctlReg (off / 8 * 8) = some r)
    (hreach : s.reaches f true true r = true) (n v : Nat) :
    s.hostWrite f off n v = s.regWritten f r (BitVec.ofNat 64 (v * 2 ^ (8 * (off % 8))))
      (BitVec.ofNat 64 ((2 ^ (8 * n) - 1) * 2 ^ (8 * (off % 8)))) := by
  rw [hostWrite_regPut hl ht hp]
  simp only [State.regPut, hostUser, hm, hr, hreach, State.regWritten, regLow, Bool.false_eq_true, if_false, Bool.not_true]
  split <;> rfl

end Space7

/-- A host's write of a whole register that it reaches. -/
theorem hostReg_eq {s : State} {f : Nat} {r : CtlReg} (hr : HostPlain f r) (hl : s.hostLinked f = true)
    (hreach : s.reaches f true true r = true) (v : BitVec 64) : s.hostReg f r v = s.regWritten f r v (BitVec.allOnes 64) := by
  have hoff : r.off / 8 * 8 = r.off := by have := hr.aligned; omega
  unfold State.hostReg
  rw [hostWrite_register hl hr.noTable hr.noPending hr.noMbox (hoff.symm ▸ hr.reg) hreach, hr.aligned]
  simp

/-! ## SCH_WAKE and VM_CTX_ROOT -/

theorem fnOf_of_ownsCtx {s : State} {f c : Nat} (h : s.ownsCtx f c = true) : s.fnOf c = f := by
  obtain ⟨-, howner⟩ := Bool.and_eq_true_iff.1 h
  exact beq_iff_eq.1 howner

theorem pending_markPending (s : State) (c : Nat) (mask : BitVec 64) :
    ((s.markPending c mask).ctx c).pending
      = (s.ctx c).pending ||| (mask &&& BitVec.ofNat 64 (2 ^ (s.ctlField (.qtab c) 0 6 + 1) - 1)) :=
  congrArg Ctx.pending (sget_sput_self _ s.ctxs c _)

theorem not_inReset_of_hostLinked {s : State} {f : Nat} (h : s.hostLinked f = true) : s.mgmt.flr.contains f = false := by
  obtain ⟨hup, -⟩ := Bool.and_eq_true_iff.1 h
  obtain ⟨-, hreset⟩ := Bool.and_eq_true_iff.1 hup
  simpa using hreset

theorem regActs_wake {c : Nat} (hc : c < 256) (s : State) (f : Nat) (old v sel : BitVec 64) :
    s.regActs f (CtlReg.wake c).off old v sel = if s.mgmt.flr.contains (s.fnOf c) then s else s.markPending c (v &&& sel) := by
  unfold State.regActs
  rw [(hostPlain_wake f c hc).reg]

theorem regActs_root {c : Nat} (hc : c < 256) (s : State) (f : Nat) (old v sel : BitVec 64) :
    s.regActs f (CtlReg.root c).off old v sel = s.rootWritten c := by
  unfold State.regActs
  rw [(hostPlain_root f c hc).reg]

theorem tlb_of_tlbDrop_all {s : State} {c : Nat} : ∀ e ∈ (s.tlbDrop c none true).tlb, e.ctx ≠ c := by
  intro e he
  simpa [State.tlbDrop, TlbEntry.dropped] using (List.mem_filter.1 he).2

/-- The queues named by a write of SCH_WAKE, as far as the context has them, become pending: the owner of a context whose link
carries the write is not under reset. -/
theorem pending_hostReg_wake {s : State} {f c : Nat} (hc : c < 256) (hl : s.hostLinked f = true)
    (hreach : s.reaches f true true (.wake c) = true) (mask : BitVec 64) :
    ((s.hostReg f (.wake c) mask).ctx c).pending
      = (s.ctx c).pending ||| (mask &&& BitVec.ofNat 64 (2 ^ (s.ctlField (.qtab c) 0 6 + 1) - 1)) := by
  rw [hostReg_eq (hostPlain_wake f c hc) hl hreach, regWritten_of_acts rfl, regActs_wake hc]
  have htakes : s.regTakes (.wake c) mask (BitVec.allOnes 64) ≠ 0 := show BitVec.allOnes 64 ≠ 0 by decide
  have hrest := regStore_rest (u := hostUser f) (by simp [CtlReg.Clamped]) htakes
  have hmap := ctlRd_regStore_other s (hostUser f) (r := .wake c) (q := .ctxMap c) mask (BitVec.allOnes 64)
    (by simp only [CtlReg.off]; omega)
  have hqtab := ctlRd_regStore_other s (hostUser f) (r := .wake c) (q := .qtab c) mask (BitVec.allOnes 64)
    (by simp only [CtlReg.off]; omega)
  generalize s.regStore (hostUser f) (.wake c) mask (BitVec.allOnes 64) = t at hrest hmap hqtab
  have hmgmt : t.mgmt = s.mgmt := by rw [hrest]
  have hctx : t.ctx c = s.ctx c := by rw [hrest]; rfl
  have howner : t.fnOf c = f := by
    rw [← fnOf_of_ownsCtx hreach]
    simp only [State.fnOf, State.ctlField, hmap]
  have hreset : t.mgmt.flr.contains (t.fnOf c) = false := by rw [hmgmt, howner, not_inReset_of_hostLinked hl]
  rw [hreset, if_neg Bool.false_ne_true, pending_markPending, hctx, BitVec.and_allOnes]
  simp only [State.ctlField, hqtab]

/-- A write of VM_CTX_ROOT, whose register has no W1S bit, replaces its RW bits. -/
theorem ctlRd_regStore_root (s : State) (u : RegUser) (c : Nat) (v : BitVec 64) :
    (s.regStore u (.root c) v (BitVec.allOnes 64)).ctlRd (.root c)
      = v &&& CtlReg.maskOf (.root c) (· == .rw) ||| (s.ctlRd (.root c) &&& ~~~CtlReg.maskOf (.root c) (· == .rw)) := by
  have htakes : s.regTakes (.root c) v (BitVec.allOnes 64) = BitVec.allOnes 64 := rfl
  have hw1s : CtlReg.maskOf (.root c) (· == .w1s) = 0 := rfl
  rw [ctlRd_regStore _ _ _ _ _ (by simp [CtlReg.Clamped]), htakes, if_neg (by decide), hw1s, BitVec.and_allOnes]
  simp [BitVec.or_comm]

theorem hostReg_root {s : State} {f c : Nat} (hc : c < 256) (hl : s.hostLinked f = true)
    (hreach : s.reaches f true true (.root c) = true) (v : BitVec 64) :
    s.hostReg f (.root c) v = (s.regStore (hostUser f) (.root c) v (BitVec.allOnes 64)).rootWritten c := by
  rw [hostReg_eq (hostPlain_root f c hc) hl hreach, regWritten_of_acts rfl, regActs_root hc]

/-- Settles O56: each event of a host is one write of a plain register (`hostRow_exec`, `hostRow_plain`); a write is split by the
place it reaches and by what the register takes of it. -/
theorem hostRegisterWrites : Obligations.HostRegisterWrites := by
  unfold Obligations.HostRegisterWrites
  refine ⟨?rows, fun fn off v s => rfl, ?places, ?stored, ?wake, ?root⟩
  case rows =>
    intro i s f r n v h
    obtain ⟨hf, hr⟩ := hostRow_plain h
    exact ⟨hostRow_exec h, hf, hr.reg, hr.aligned, hr.noMbox, hr.noTable, hr.noPending⟩
  case places =>
    intro s f off n v
    exact ⟨fun hl => hostWrite_unlinked hl off n v,
      fun hl ht => hostWrite_table hl ht n v,
      fun hl hlo hhi => hostWrite_pendingBits hl ⟨hlo, hhi⟩ n v,
      fun hl ht hp => ⟨fun hm => hostWrite_mailbox hl ht hp hm n v,
        fun hm hr => hostWrite_noRegister hl ht hp hm hr n v,
        fun r hm hr => ⟨fun hreach => hostWrite_outOfReach hl ht hp hm hr hreach n v,
          fun hreach => hostWrite_register hl ht hp hm hr hreach n v⟩⟩⟩
  case stored =>
    intro s u r val sel hwin hcap hscrub
    refine ctlRd_regStore s u r val sel ?_
    rintro (⟨g, h⟩ | h | h)
    · exact hwin g h
    · exact hcap h
    · exact hscrub h
  case wake =>
    intro fn c mask s hl hreach
    exact ⟨_, rfl, pending_hostReg_wake c.isLt hl hreach mask⟩
  case root =>
    intro fn c v s hl hreach
    have htakes : s.regTakes (.root c.toNat) v (BitVec.allOnes 64) ≠ 0 := show BitVec.allOnes 64 ≠ 0 by decide
    refine ⟨_, s.regStore (hostUser fn.toNat) (.root c.toNat) v (BitVec.allOnes 64), rfl, hostReg_root c.isLt hl hreach v,
      regStore_rest (by simp [CtlReg.Clamped]) htakes, ctlRd_regStore_root s _ _ v, ?_⟩
    rw [hostReg_root c.isLt hl hreach]
    exact tlb_of_tlbDrop_all

end Sys2Proof.Machine
end

section
/-! SUPPORT. The events of work, one lemma for each case of what an event does: what it changes when it is due, and that it changes
nothing when it is not. -/

namespace Sys2Proof.Machine

/-! ## Placing the request of a launch (R27, R32, R309, R310) -/

theorem num_of_launch? {s : State} {n : Nat} {m : Launch} (h : s.launch? n = some m) : m.num = n := by
  simpa using List.find?_some h

theorem tryReq_block {s : State} {r : PlaceReq} {m : Launch} {n : Nat} (hm : s.launch? r.num = some m) (hk : r.kind = .block n) :
    s.tryReq (fun _ => true) r = s.placeNext m (s.coreFor (s.fnOf m.ctx) (s.urgent m)) := by
  simp [State.tryReq, State.tryFresh, hk, hm]

theorem tryReq_task {s : State} {r : PlaceReq} {m : Launch} {n : Nat} {t : Task} (hm : s.launch? r.num = some m)
    (hk : r.kind = .task n) (ht : s.firstTask m = some t) :
    s.tryReq (fun _ => true) r = s.placeTask m t (s.coreFor (s.fnOf m.ctx) (s.urgent m)) := by
  simp [State.tryReq, State.tryFresh, hk, hm, ht]

theorem tryReq_episode {s : State} {r : PlaceReq} {m : Launch} {e : Emission} (hm : s.launch? r.num = some m)
    (hk : r.kind = .episode e) : s.tryReq (fun _ => true) r = s.placeEpisode e (s.coreFor (s.fnOf m.ctx) (s.urgent m)) := by
  simp [State.tryReq, State.tryFresh, hk, hm]

/-- Without co-residency a launch places one block at a time. -/
theorem placeNext_of_single {s : State} {m : Launch} (h : unitBlocks m.record = 1) (ok : Nat → Bool) :
    s.placeNext m ok = (s.placeBlock false m.num m.next ok).map (fun t => t.modLaunch m.num (fun l =>
      { l with next := l.next + 1, since := s.cyc, reserves := false })) := by
  simp [State.placeNext, State.placeBlocks, h]

/-! ## The end and the waits of a wave (R25, R37, R207, R311) -/

section
variable {s : State} {c k : Nat} {w : Wave}

theorem finishWave_none (h : s.wave? c k = none) : s.finishWave c k = s := by
  simp [State.finishWave, h]

theorem finishWave_not_due (h : s.wave? c k = some w)
    (hw : w.quiet = false ∨ ((∀ x, w.wait ≠ .ended x) ∧ ∀ x, w.wait ≠ .exiting x)) : s.finishWave c k = s := by
  simp only [State.finishWave, h]
  rcases hw with hq | ⟨hended, hexiting⟩
  · simp [hq]
  · cases hwait : w.wait with
    | ended x => exact absurd hwait (hended x)
    | exiting x => exact absurd hwait (hexiting x)
    | _ => exact ite_self s

theorem finishWave_ended {x : Nat} (h : s.wave? c k = some w) (hq : w.quiet = true) (hwait : w.wait = .ended x) :
    s.finishWave c k = s.waveLeaves w x := by
  simp [State.finishWave, h, hq, hwait]

/-- What the release that an exit implies leaves, and the completion of a task's wave after it (R25, R33). -/
theorem finishWave_exiting {x : Bool} {u : State} {v : Wave} (h : s.wave? c k = some w) (hq : w.quiet = true)
    (hwait : w.wait = .exiting x)
    (hu : (if w.kind = .task then (s.exitRelease w (s.exitScope w)).completeTask w else s.exitRelease w (s.exitScope w)) = u)
    (hv : u.wave? c k = some v) : s.finishWave c k = u.waveLeaves v 0 := by
  subst hu
  simp [State.finishWave, h, hq, hwait, hv]

theorem userTimerTrap_none (h : s.wave? c k = none) : s.userTimerTrap c k = s := by
  simp [State.userTimerTrap, h]

/-- A user timer trap is pending, and neither a stop nor an event that R273 takes first stands before it. -/
def State.timerFirst (s : State) (w : Wave) : Prop :=
  s.held w = false ∧ s.timerDue w = true ∧ w.poisPend = none ∧ w.sfDue = false

theorem timerGuard_iff : (s.held w || !s.timerDue w || w.poisPend.isSome || w.sfDue) = true ↔ ¬ s.timerFirst w := by
  simp only [State.timerFirst, Bool.or_eq_true, Bool.not_eq_true', Classical.not_and_iff_not_or_not, or_assoc,
    Bool.not_eq_false, Bool.not_eq_true, Option.isSome_iff_ne_none, ne_eq]

theorem between_iff : w.between = true ↔ w.wait = .ready ∧ w.answers = [] := by
  simp [Wave.between]

theorem userTimerTrap_between (h : s.wave? c k = some w) (hd : s.timerFirst w) (hwait : w.wait = .ready) (ha : w.answers = []) :
    s.userTimerTrap c k = s.takeTimer w := by
  have hb : w.between = true := between_iff.2 ⟨hwait, ha⟩
  simp only [State.userTimerTrap, h, timerGuard_iff, not_not_intro hd, hwait, hb, if_true, if_false]

theorem userTimerTrap_sleep {x : Nat} (h : s.wave? c k = some w) (hd : s.timerFirst w) (hwait : w.wait = .sleep x) :
    s.userTimerTrap c k = s.takeTimer { w with wait := .ready, readySince := s.cyc } := by
  simp only [State.userTimerTrap, h, timerGuard_iff, not_not_intro hd, hwait, if_false]
  rfl

theorem userTimerTrap_not_due (h : s.wave? c k = some w)
    (hd : ¬ s.timerFirst w ∨ ((∀ x, w.wait ≠ .sleep x) ∧ ¬ (w.wait = .ready ∧ w.answers = []))) : s.userTimerTrap c k = s := by
  simp only [State.userTimerTrap, h]
  rcases hd with hd | ⟨hsleep, hbetween⟩
  · exact if_pos (timerGuard_iff.2 hd)
  · split
    · rfl
    · split
      · rename_i x hwait
        exact absurd hwait (hsleep x)
      · exact if_neg (mt between_iff.1 hbetween)

theorem sleepEnds_none (h : s.wave? c k = none) : s.sleepEnds c k = s := by
  simp [State.sleepEnds, h]

theorem sleepEnds_sleep {x : Nat} (h : s.wave? c k = some w) (hwait : w.wait = .sleep x) :
    s.sleepEnds c k = s.setWave (if x ≤ s.cyc ∧ s.held w = false then { w with wait := .ready, readySince := s.cyc } else w) := by
  simp [State.sleepEnds, State.awake, h, hwait]

theorem sleepEnds_awake (h : s.wave? c k = some w) (hwait : ∀ x, w.wait ≠ .sleep x) : s.sleepEnds c k = s.setWave w := by
  have hsame : s.awake w = w := by
    unfold State.awake
    split
    · rename_i x hsleep
      exact absurd hsleep (hwait x)
    · rfl
  simp [State.sleepEnds, h, hsame]

theorem readyAged_none (h : s.wave? c k = none) : s.readyAged c k = s := by
  simp [State.readyAged, h]

theorem readyAged_some (h : s.wave? c k = some w) :
    s.readyAged c k = if w.wait = .ready ∧ w.readySince + agedAt ≤ s.cyc then { s with agenda := .wave c k :: s.agenda } else s := by
  simp [State.readyAged, h]

/-! ## Accesses and lines (R96, R110) -/

theorem accessCompletes_none {j : Nat} (h : ∀ w, s.wave? c k = some w → w.flight[j]? = none) : s.accessCompletes c k j = s := by
  unfold State.accessCompletes
  split
  · rfl
  · rename_i w hw
    rw [h w hw]

theorem accessCompletes_some {j : Nat} {a : Access} (h : s.wave? c k = some w) (ha : w.flight[j]? = some a) :
    s.accessCompletes c k j =
      if a.done = false ∧ (∀ e ∈ a.elems, w.mayPerform j e = true) then s.performAll c k a.id a.elems else s := by
  simp [State.accessCompletes, h, ha]

theorem performAll_nil {id : Nat} {a : Access} (h : s.wave? c k = some w) (ha : w.flight.find? (fun a => a.id == id) = some a)
    (helems : a.elems = []) (hdone : a.done = false) : s.performAll c k id [] = s.completeAccess c k a := by
  simp [State.performAll, h, ha, helems, hdone]

theorem performAll_cons {id : Nat} {a : Access} (h : s.wave? c k = some w) (ha : w.flight.find? (fun a => a.id == id) = some a)
    (e : Elem) (rest : List Elem) :
    s.performAll c k id (e :: rest) = ((s.performElem w a e).2.modWave c k (fun x =>
      x.setAccess { (s.performElem w a e).1 with elems := (s.performElem w a e).1.elems.erase e })).performAll c k id rest := by
  simp [State.performAll, h, ha]

/-! ## An agent tries again (R310) -/

theorem retryWave_due {ok : Wait → Bool} (h : s.wave? c k = some w) (hok : ok w.wait = true) :
    s.retryWave c k ok = { s with agenda := .wave c k :: s.agenda } := by
  simp [State.retryWave, h, hok]

theorem retryWave_not_due {ok : Wait → Bool} (h : ∀ w, s.wave? c k = some w → ok w.wait = false) : s.retryWave c k ok = s := by
  unfold State.retryWave
  split
  · rename_i w hw
    simp [h w hw]
  · rfl

end

theorem isRetry_iff {n : Nat} {x : Wait} : x.isRetry n = true ↔ ∃ y, x = .retry n y := by
  cases x <;> simp [Wait.isRetry]

theorem spindleStart_busy {s : State} {cl : Nat} {p : Spindle} (h : s.spindle? cl = some p) : s.spindleStart cl = s := by
  simp [State.spindleStart, h]

theorem spindleStart_none {s : State} {cl : Nat} (h : s.spnBest cl = none) : s.spindleStart cl = s := by
  unfold State.spindleStart
  rw [h]
  cases s.spindle? cl <;> rfl

theorem spindleStart_idle {s : State} {cl : Nat} {q : SpnReq} (hidle : s.spindle? cl = none) (hq : s.spnBest cl = some q) :
    s.spindleStart cl = s.retryWave q.core q.slot (Wait.isRetry 6) := by
  simp [State.spindleStart, hidle, hq]

theorem lineAges_none {s : State} {c j : Nat} (h : (s.l1.filter (fun l => l.core == c))[j]? = none) : s.lineAges c j = s := by
  simp [State.lineAges, h]

theorem lineAges_some {s : State} {c j : Nat} {l : L1Line} (h : (s.l1.filter (fun l => l.core == c))[j]? = some l) :
    s.lineAges c j = if l.kind ≠ .un ∧ l.dirty ≠ 0 ∧ l.dirtySince + 4096 ≤ s.cyc then s.writeBackRouted l else s := by
  simp [State.lineAges, h, and_assoc]

/-! ## Claims, tasks and reservations (R32, R35, R309) -/

section
variable {s : State} {l b : Nat}

theorem grantClaim_none (h : s.block? l b = none) : s.grantClaim l b = s := by
  simp [State.grantClaim, h]

theorem grantClaim_empty {x : Block} (h : s.block? l b = some x) (hx : x.claims = []) : s.grantClaim l b = s := by
  simp [State.grantClaim, h, hx]

theorem grantClaim_oldest {x : Block} {wid n : Nat} {rest : List Nat} {w : Wave} (h : s.block? l b = some x)
    (hx : x.claims = wid :: rest) (hw : (s.wavesOf l b).find? (fun w => w.wid == wid) = some w) (hn : w.claimed = some n) :
    s.grantClaim l b = if x.pool.length < n then s
      else ((s.setBlock { x with claims := rest, pool := x.pool.drop n }).clearBlocks w.core (x.pool.take n)).modWave
        w.core w.slot (fun v => { v with blocks := v.blocks ++ x.pool.take n, wait := .claim 0 }) := by
  simp [State.grantClaim, h, hx, hw, hn]

end

/-- The emissions of a launch that have waited 65,536 cycles reserve. -/
def State.agedEmissions (s : State) (num : Nat) : List Emission :=
  s.emissions.map (fun (e : Emission) => if e.launch = num ∧ e.time + 65536 ≤ s.cyc then { e with reserves := true } else e)

theorem agedEmissions_eq (s : State) (num : Nat) : s.emissions.map (fun (e : Emission) =>
    if e.launch == num && e.time + 65536 ≤ s.cyc then { e with reserves := true } else e) = s.agedEmissions num := by
  simp [State.agedEmissions]

/-- A request of a launch's next block has waited 65,536 cycles. -/
def State.blockWaited (s : State) (num : Nat) : Prop :=
  ∃ r ∈ s.placeReqs, r.num = num ∧ r.since + 65536 ≤ s.cyc ∧ ∃ n, r.kind = .block n

theorem placementReservation_due {s : State} {num : Nat} (h : State.blockWaited { s with emissions := s.agedEmissions num } num) :
    s.placementReservation num =
      State.modLaunch { s with emissions := s.agedEmissions num } num (fun l => { l with reserves := true }) := by
  obtain ⟨r, hr, hnum, hold, n, hk⟩ := h
  unfold State.placementReservation
  rw [agedEmissions_eq]
  exact if_pos (List.any_eq_true.2 ⟨r, hr, by simp [hnum, hold, hk]⟩)

theorem placementReservation_not_due {s : State} {num : Nat} (h : ¬ State.blockWaited { s with emissions := s.agedEmissions num } num) :
    s.placementReservation num = { s with emissions := s.agedEmissions num } := by
  unfold State.placementReservation
  rw [agedEmissions_eq]
  refine if_neg fun hany => h ?_
  obtain ⟨r, hr, hguard⟩ := List.any_eq_true.1 hany
  simp only [Bool.and_eq_true, beq_iff_eq, decide_eq_true_eq] at hguard
  obtain ⟨⟨hnum, hold⟩, hkind⟩ := hguard
  refine ⟨r, hr, hnum, hold, ?_⟩
  cases hk : r.kind with
  | block n => exact ⟨n, rfl⟩
  | _ => simp [hk] at hkind

theorem ageTasks_eq (s : State) (num : Nat) : s.ageTasks num = s.modLaunch num (fun l =>
    { l with tasks := l.tasks.map (fun (t : Task) => { t with aged := t.aged || t.time + 65536 ≤ s.cyc }) }) := rfl

/-! ## The cold records of a suspended ray launch (R347) -/

/-- The cold allocation of a launch is to be reclaimed: it is a suspended ray launch that still holds it. -/
def State.coldDue (s : State) (m : Launch) (rl : RayLaunch) : Prop :=
  m.suspended = true ∧ rl.cold = none ∧ s.preState m.ctx = 2

/-- What the ray pool frame of a launch then holds: its header, and each ray's record and metadata; `none` after a fault. -/
def State.poolWritten (s : State) (m : Launch) (rl : RayLaunch) (f : Frame) : Option State :=
  let va (o : Nat) : BitVec 64 := s.frameVa m.ctx f o
  let base := 65536 + 128 * rl.cap
  let head := s.saveWrite m.ctx (va 0) 64 (rl.cap + 2 ^ 32 * rl.slot)
  let zeroed := (List.range (16 * rl.cap / 4096)).foldl (fun (o : Option State) i =>
    o.bind (fun t => t.saveWrite m.ctx (va (base + 4096 * i)) 4096 0)) head
  rl.rays.foldl (fun (o : Option State) r => o.bind (fun t =>
    (t.saveWrite m.ctx (va (65536 + 128 * r.slot)) 128 r.record.toNat).bind (fun t =>
      t.saveWrite m.ctx (va (base + 16 * r.slot)) 16 r.metadata))) zeroed

section
variable {s : State} {num : Nat} {m : Launch} {rl : RayLaunch}

theorem coldGuard_iff : (!m.suspended || rl.cold.isSome || s.preState m.ctx != 2) = true ↔ ¬ s.coldDue m rl := by
  simp only [State.coldDue, Bool.or_eq_true, Bool.not_eq_true', Classical.not_and_iff_not_or_not, or_assoc,
    Bool.not_eq_true, Option.isSome_iff_ne_none, bne_iff_ne, ne_eq]

theorem coldGuard_of_due (h : s.coldDue m rl) : (!m.suspended || rl.cold.isSome || s.preState m.ctx != 2) = false :=
  Bool.eq_false_iff.2 (mt coldGuard_iff.1 (not_not_intro h))

theorem coldReclaim_not_due (h : ∀ m rl, s.launch? num = some m → m.ray = some rl → ¬ s.coldDue m rl) : s.coldReclaim num = s := by
  unfold State.coldReclaim
  cases hm : s.launch? num with
  | none => rfl
  | some m =>
    cases hr : m.ray with
    | none => simp [hr]
    | some rl => simp [hr, coldGuard_iff.2 (h m rl hm hr)]

theorem coldReclaim_full (hm : s.launch? num = some m) (hr : m.ray = some rl) (hd : s.coldDue m rl)
    (hf : s.allocFrame m.ctx (poolFrameGranules rl.cap) = none) : s.coldReclaim num = s.terminate m.ctx causeSaveFull := by
  simp [State.coldReclaim, hm, hr, coldGuard_of_due hd, hf]

theorem coldReclaim_fault {f : Frame} (hm : s.launch? num = some m) (hr : m.ray = some rl) (hd : s.coldDue m rl)
    (hf : s.allocFrame m.ctx (poolFrameGranules rl.cap) = some f)
    (hw : (s.poolWritten m rl f).bind (fun t => t.writeEntry m.ctx f 0 m.num 2) = none) : s.coldReclaim num = s.saveFault m.ctx := by
  unfold State.poolWritten at hw
  simp only [State.coldReclaim, hm, hr, coldGuard_of_due hd, hf, hw]
  rfl

theorem coldReclaim_written {f : Frame} {t : State} (hm : s.launch? num = some m) (hr : m.ray = some rl) (hd : s.coldDue m rl)
    (hf : s.allocFrame m.ctx (poolFrameGranules rl.cap) = some f)
    (hw : (s.poolWritten m rl f).bind (fun t => t.writeEntry m.ctx f 0 m.num 2) = some t) :
    s.coldReclaim num = t.modRayLaunch num (fun r => { r with cold := some f }) := by
  unfold State.poolWritten at hw
  simp only [State.coldReclaim, hm, hr, coldGuard_of_due hd, hf, hw]
  rfl

/-! ## An urgent launch (R316) -/

/-- The first request of a launch that fits nowhere. -/
def State.stuckReq (s : State) (num : Nat) : Option PlaceReq :=
  s.placeReqs.find? (fun r => r.num == num && !s.placedWithout r [])

theorem urgentPreemption_none (h : s.launch? num = none) : s.urgentPreemption num = s := by
  simp [State.urgentPreemption, h]

theorem urgentPreemption_not_due (hm : s.launch? num = some m) (h : s.stuckReq num = none ∨ s.urgent m = false) :
    s.urgentPreemption num = s := by
  unfold State.stuckReq at h
  simp only [State.urgentPreemption, hm]
  split
  · rfl
  · rename_i r hr
    have hu : s.urgent m = false := h.resolve_left (by simp [hr])
    simp [hu]

theorem urgentPreemption_due {r : PlaceReq} (hm : s.launch? num = some m) (hr : s.stuckReq num = some r) (hu : s.urgent m = true) :
    s.urgentPreemption num = ((s.without ((s.holders m r).filter s.preReq)).enough r [] (s.victims m r)).elim s (fun cs =>
      ((s.without ((s.holders m r).filter s.preReq)).needed r [] cs).foldl
        (fun s c => s.raiseReq c (fun x => { x with reqSched := true })) s) := by
  unfold State.stuckReq at hr
  simp only [State.urgentPreemption, hm, hr, hu]
  cases (s.without ((s.holders m r).filter s.preReq)).enough r [] (s.victims m r) <;> rfl

end

/-! ## Queues and waiters (R306, R307, R313, R236) -/

theorem rayActivation_eq (s : State) (c q : Nat) : s.rayActivation c q =
    if (∃ e ∈ (s.ctx c).rayHead, e.1 = q) ∧ s.nextService = some (c, q) then s.takeFrom c q else s := by
  simp [State.rayActivation]

theorem queueScan_idle {s : State} {c q : Nat} (h : (s.ctx c).pending.getLsbD q = false) : s.queueScan c q = s := by
  simp [State.queueScan, h]

/-- The scan of a queue begins: it is pending no longer, and no ray launch waits at its head. -/
def State.scanBegun (s : State) (c q : Nat) : State :=
  (s.modCtx c (fun x => { x with pending := x.pending &&& ~~~(1#64 <<< q) })).modCtx c
    (fun x => { x with rayHead := x.rayHead.filter (fun e => e.1 != q) })

theorem queueScan_unread {s t : State} {c q : Nat} (h : (s.ctx c).pending.getLsbD q = true)
    (hd : (s.scanBegun c q).queueDesc 0 c q = (none, t)) : s.queueScan c q = t.queueFault c q causeQueueDesc := by
  unfold State.scanBegun at hd
  simp [State.queueScan, h, hd]

theorem queueScan_read {s t : State} {c q : Nat} {d : QDesc} (h : (s.ctx c).pending.getLsbD q = true)
    (hd : (s.scanBegun c q).queueDesc 0 c q = (some d, t)) : s.queueScan c q =
      if d.good = false then t.queueFault c q causeQueueDesc
      else if d.enabled = false then t.queueIdle c q
      else if 2 ^ d.sizelog < d.count then t.queueFault c q causeQueueOverrun
      else t.modCtx c (fun x => { x with avail := sput (fun _ => 0) x.avail q d.count,
                                         scanned := sput (fun _ => 0) x.scanned q d.bytes }) := by
  unfold State.scanBegun at hd
  simp only [State.queueScan, h, hd, Bool.not_true, Bool.false_eq_true, if_false, Bool.not_eq_true']

theorem grantWaiter_none {s : State} (h : s.waiters.find? s.mayGrant = none ∨ s.freeWaiter = none) : s.grantWaiter = s := by
  unfold State.grantWaiter
  rcases h with h | h <;> rw [h]
  cases s.waiters.find? s.mayGrant <;> rfl

theorem grantWaiter_some {s u : State} {t : Waiter} {i v : Nat} (ht : s.waiters.find? s.mayGrant = some t) (hi : s.freeWaiter = some i)
    (hread : State.l2Read { s with waiters := s.waiters.map (fun (u : Waiter) =>
      if u.order = t.order then { u with index := some i } else u) } t.ctx t.pa 8 = (v, u)) :
    s.grantWaiter = if t.threshold.toNat ≤ v then u.releaseWaiter t else u := by
  simp [State.grantWaiter, ht, hi, hread]

theorem pollWaiter_none {s : State} {i : Nat} (h : s.waiters.find? (fun t => t.index == some i) = none) : s.pollWaiter i = s := by
  simp [State.pollWaiter, h]

theorem pollWaiter_some {s u : State} {i v : Nat} {t : Waiter} (h : s.waiters.find? (fun t => t.index == some i) = some t)
    (hread : s.l2Read t.ctx t.pa 8 = (v, u)) : s.pollWaiter i = if t.threshold.toNat ≤ v then u.releaseWaiter t else u := by
  simp [State.pollWaiter, h, hread]

/-! ## Stalls, emissions and batches (R49, R50) -/

/-- A stall of a quarter whose oldest ray to be emitted is older than so many age limits. -/
def State.ages (s : State) (q k limits : Nat) (t : Stall) (p : Nat × Ray) : Prop :=
  t.quarter = q ∧ t.index = k ∧ (s.emittable t).head? = some p ∧ s.olderThan p limits = true

/-- The mark of an age or of two on a stall, by its oldest ray. -/
def Stall.marked (limits : Nat) (p : Nat × Ray) (t : Stall) : Stall :=
  if limits = 1 then { t with aged := some p.2.order } else { t with overdue := some p.2.order }

/-- Marking a stall changes the stalls alone: those of the quarter and index whose oldest ray is old enough. -/
theorem markStall_eq (s : State) (q k limits : Nat) : ∃ u, s.markStall q k limits = u ∧ u = { s with stalls := u.stalls } ∧
    u.stalls.length = s.stalls.length ∧ ∀ (n : Nat) (t : Stall), s.stalls[n]? = some t →
      (∀ p, s.ages q k limits t p → u.stalls[n]? = some (t.marked limits p)) ∧
      ((∀ p, ¬ s.ages q k limits t p) → u.stalls[n]? = some t) := by
  refine ⟨_, rfl, rfl, List.length_map _, fun n t ht => ⟨fun p hp => ?_, fun hp => ?_⟩⟩
  · obtain ⟨hq, hk, hhead, hold⟩ := hp
    obtain ⟨rest, hrest⟩ := List.head?_eq_some_iff.1 hhead
    simp [State.markStall, ht, hq, hk, hrest, hold, Stall.marked]
  · simp only [State.markStall, List.getElem?_map, ht, Option.map_some, Option.some.injEq]
    split
    · rename_i hat
      obtain ⟨hq, hk⟩ := Bool.and_eq_true_iff.1 hat
      split
      · rename_i p rest hrest
        exact if_neg fun hold => hp p ⟨beq_iff_eq.1 hq, beq_iff_eq.1 hk, by rw [hrest]; rfl, hold⟩
      · rfl
    · rfl

theorem emissionRays_length (s : State) (v : StallView) : (s.emissionRays v).length ≤ 64 :=
  Nat.le_trans (List.length_filter_le _ _) (List.length_take_le _ _)

theorem emissionRays_key {s : State} {v : StallView} {p : Nat × Ray} (h : p ∈ s.emissionRays v) :
    p.1 = v.oldest.1 ∧ p.2.key = v.oldest.2.key := by
  simpa using (List.mem_filter.1 h).2

/-- Taking rays from their stall changes the launches alone. -/
theorem takeRays_rest (phase : RayPhase) (rays : List (Nat × Ray)) (s : State) :
    s.takeRays phase rays = { s with launches := (s.takeRays phase rays).launches } := by
  unfold State.takeRays
  induction rays generalizing s with
  | nil => rfl
  | cons p rays ih => rw [List.foldl_cons, ih, setRay_rest]

theorem crierEmission_none {s : State} {q : Nat} (h : s.crierChoice q = none) : s.crierEmission q = s := by
  simp [State.crierEmission, h]

theorem crierEmission_batch {s : State} {q : Nat} {v : StallView} (h : s.crierChoice q = some v) (hk : v.oldest.2.key.episode = false) :
    s.crierEmission q = State.sweepStalls { s.takeRays .inTraversal (s.emissionRays v) with
      batches := s.batches ++ [
        ({ quarter := q, launch := v.oldest.1, stall := v.stall.index, born := v.stall.born, unit := none,
           rays := (s.emissionRays v).map (fun (p : Nat × Ray) => p.2.slot), hits := [] } : Batch)] } := by
  have hb : (s.takeRays .inTraversal (s.emissionRays v)).batches = s.batches := by rw [takeRays_rest]
  simp [State.crierEmission, h, hk, hb]

theorem crierEmission_episode {s : State} {q : Nat} {v : StallView} (h : s.crierChoice q = some v) (hk : v.oldest.2.key.episode = true) :
    ∃ u : State, s.crierEmission q = u.sweepStalls ∧ u = { s.takeRays .inEpisode (s.emissionRays v) with
      emissions := s.emissions ++ [
        ({ quarter := q, launch := v.oldest.1, cls := v.oldest.2.key.cell,
           rays := (s.emissionRays v).map (fun (p : Nat × Ray) => p.2.slot), time := s.cyc, reserves := false } : Emission)],
      bufs := u.bufs } := by
  have he : (s.takeRays .inEpisode (s.emissionRays v)).emissions = s.emissions := by rw [takeRays_rest]
  have hc : (s.takeRays .inEpisode (s.emissionRays v)).cyc = s.cyc := by rw [takeRays_rest]
  simp only [State.crierEmission, h, hk, he, hc, if_true]
  refine ⟨_, rfl, ?_⟩
  split <;> rfl

theorem batchStart_other {s : State} {q u : Nat} (h : u / 32 ≠ q) : s.batchStart q u = s := by
  simp [State.batchStart, h]

theorem batchStart_none {s : State} {q u : Nat} (h : s.batches.find? (fun b => b.quarter == q && b.unit.isNone) = none) :
    s.batchStart q u = s := by
  unfold State.batchStart
  rw [h]
  exact ite_self s

theorem batchStart_some {s : State} {q u : Nat} {b : Batch} (hq : u / 32 = q)
    (h : s.batches.find? (fun b => b.quarter == q && b.unit.isNone) = some b) :
    s.batchStart q u = if ((s.batches.filter (fun b => b.unit == some u)).foldl (fun a b => a + b.rays.length) 0) + b.rays.length ≤ 512
      then { s with batches := replaceFirst (fun c => c == b) { b with unit := some u } s.batches } else s := by
  simp [State.batchStart, hq, h]

/-! ## Traces (R57, R58) -/

theorem traceCompletion_none {s : State} {l k : Nat} (h : s.raySlot? l = none) : s.traceCompletion l k = s := by
  simp [State.traceCompletion, h]

section
variable {s : State} {l k : Nat} {m : Launch} {r : Ray} {rl : RayLaunch} {b : Batch} {unit : Nat}

theorem traceCompletion_not_due (hm : s.raySlot? l = some m) (hr : s.ray? m.num k = some r) (hrl : m.ray = some rl)
    (hb : s.batches.find? (fun b => b.launch == m.num && b.rays.contains k) = some b) (hu : b.unit = some unit)
    (h : r.phase ≠ .inTraversal ∨ r.tags ≠ []) : s.traceCompletion l k = s := by
  have hg : (r.phase != .inTraversal || !r.tags.isEmpty) = true := by simpa using h
  simp only [State.traceCompletion, hm, hr, hrl, hb, hu, hg, if_true]

/-- What follows the end of a trace: a fault tag or a retired ray, or the episode phase with its hit record. -/
def TraceEnd.after (m : Launch) (r : Ray) (k unit : Nat) : TraceEnd → State
  | .missing a v t => t.traceMisses m unit r a v
  | .fault v t => t.traceFails m unit r eventSceneFault v
  | .error v t => t.traceFails m unit r eventSceneError v
  | .miss t => (t.leaveBatch m.num k none).toEpisode m.num r (missRecord (rayMissCls r.record)) 3 0 0 (rayMissCls r.record) noIndex
  | .occluded h t => (t.leaveBatch m.num k none).toEpisode m.num r (occludedRecord (rayOccCls r.record)) h.j h.treelet h.slot
      (rayOccCls r.record) noIndex
  | .hit h t => (t.leaveBatch m.num k (some h.treelet)).toEpisode m.num r h.record.1 h.j h.treelet h.slot h.record.2 h.treelet

theorem traceCompletion_due (hm : s.raySlot? l = some m) (hr : s.ray? m.num k = some r) (hrl : m.ray = some rl)
    (hb : s.batches.find? (fun b => b.launch == m.num && b.rays.contains k) = some b) (hu : b.unit = some unit)
    (hphase : r.phase = .inTraversal) (htags : r.tags = []) :
    s.traceCompletion l k = (s.trace (32 * b.quarter) m.ctx rl.header r.record).after m r k unit := by
  have hg : (r.phase != .inTraversal || !r.tags.isEmpty) = false := by simp [hphase, htags]
  simp only [State.traceCompletion, hm, hr, hrl, hb, hu, hg]
  cases s.trace (32 * b.quarter) m.ctx rl.header r.record <;> rfl

end

/-! ## Sharing a cluster (R315) -/

theorem quantumExpiry_none {s : State} {cl : Nat} (h : s.serving.find? (fun e => e.1 == cl) = none) : s.quantumExpiry cl = s := by
  simp [State.quantumExpiry, h]

/-- A function has held a shared cluster for its quantum, and another waits. -/
def State.quantumOver (s : State) (f cl at_ : Nat) : Prop :=
  1 < (s.sharers cl).length ∧ s.ctlField (.fnCtl f) 16 16 ≠ 0 ∧ s.ctlField (.fnCtl f) 16 16 * ticksPerMicro ≤ s.since at_ ∧
    s.waitedFor f cl = true

theorem quantumOver_iff {s : State} {f cl at_ : Nat} :
    ((s.sharers cl).length ≤ 1 || s.ctlField (.fnCtl f) 16 16 == 0 || s.since at_ < s.ctlField (.fnCtl f) 16 16 * ticksPerMicro
      || !s.waitedFor f cl) = true ↔ ¬ s.quantumOver f cl at_ := by
  simp only [State.quantumOver, Bool.or_eq_true, decide_eq_true_eq, beq_iff_eq, Bool.not_eq_true',
    Classical.not_and_iff_not_or_not, Nat.not_lt, Nat.not_le, ne_eq, Classical.not_not, Bool.not_eq_true, or_assoc]

theorem quantumExpiry_not_due {s : State} {cl c f at_ : Nat} (h : s.serving.find? (fun e => e.1 == cl) = some (c, f, at_))
    (hd : ¬ s.quantumOver f cl at_) : s.quantumExpiry cl = s := by
  simp only [State.quantumExpiry, h]
  exact if_pos (quantumOver_iff.2 hd)

theorem quantumExpiry_due {s t : State} {cl c f at_ : Nat} (h : s.serving.find? (fun e => e.1 == cl) = some (c, f, at_))
    (hd : s.quantumOver f cl at_)
    (ht : (s.ctxsOn f cl).foldl (fun s c => s.raiseReq c (fun x => { x with reqSched := true })) s = t) :
    s.quantumExpiry cl =
      { t with serving := t.serving.map (fun e => if e.1 = cl then (cl, s.nextSharer f cl, s.clk.toNat) else e) } := by
  subst ht
  simp only [State.quantumExpiry, h]
  rw [if_neg (mt quantumOver_iff.1 (not_not_intro hd))]
  simp only [beq_iff_eq]

/-! ## The events -/

theorem next_congr {s t : State} (h : s = t) : (.next s : Host.Outcome State Fault Refusal) = .next t := congrArg _ h

/-- Settles O60: each event is one operation of the state, which is split by what makes it due. -/
theorem workEvents : Obligations.WorkEvents := by
  unfold Obligations.WorkEvents
  refine ⟨?noRequest, ?firstRequest, ?placed, ?noWave, ?wave, ?access, ?elements, ?claims, ?launches, ?queues, ?service, ?waiters,
    ?stalls, ?crier, ?batches, ?traces, ?clusters⟩
  case noRequest =>
    intro s l q h
    exact ⟨next_congr (placeFor_nil h _), next_congr (placeFor_nil h _), next_congr (placeFor_nil h _)⟩
  case firstRequest =>
    intro s t l q r rest h ht
    have hfirst := placeFor_cons h ht
    refine ⟨next_congr ((hfirst _).trans (if_bool beq_iff_eq _ _)), next_congr ((hfirst _).trans (if_bool beq_iff_eq _ _)),
      fun e hk => next_congr ((hfirst _).trans (by simp [hk])), fun hk => next_congr ((hfirst _).trans (if_neg ?_))⟩
    cases hr : r.kind with
    | episode e => exact absurd hr (hk e)
    | _ => exact Bool.false_ne_true
  case placed =>
    intro s r m seat hm
    have hself : s.launch? m.num = some m := num_of_launch? hm ▸ hm
    refine ⟨fun hk hone hscan => ?blockSeat, fun t hk ht hfit => ?taskSeat, fun e rl t hk he hfit => ?episodeSeat⟩
    case blockSeat =>
      rw [tryReq_block hm hk, placeNext_of_single hone]
      simp only [State.placeBlock, hself, hscan, Option.map_some, beq_iff_eq]
    case taskSeat =>
      rw [tryReq_task hm hk ht]
      simp only [State.placeTask, hfit]
    case episodeSeat =>
      rw [tryReq_episode hm hk]
      cases hwaves : seat.waves with
      | nil => simp only [State.placeEpisode, he, hfit, hwaves]
      | cons x rest => simp only [State.placeEpisode, he, hfit, hwaves]
  case noWave =>
    intro s c k h
    exact ⟨next_congr (congrArg State.settleEnds <| finishWave_none h), next_congr (userTimerTrap_none h), next_congr (sleepEnds_none h),
      next_congr (readyAged_none h)⟩
  case wave =>
    intro s c k w h
    refine ⟨fun hw => next_congr (congrArg State.settleEnds <| finishWave_not_due h hw),
      fun x hq hx => next_congr (congrArg State.settleEnds <| finishWave_ended h hq hx),
      fun x v hq hx hv => next_congr (congrArg State.settleEnds <| finishWave_exiting h hq hx rfl hv), ⟨?_, ?_, ?_⟩,
      fun x hx => next_congr (sleepEnds_sleep h hx), fun hx => next_congr (sleepEnds_awake h hx), next_congr (readyAged_some h)⟩
    · exact fun hd hready hans => next_congr (userTimerTrap_between h hd hready hans)
    · exact fun x hd hx => next_congr (userTimerTrap_sleep h hd hx)
    · exact fun hd => next_congr (userTimerTrap_not_due h hd)
  case access =>
    intro s c k j
    refine ⟨fun h => next_congr (accessCompletes_none h), fun w a h ha => next_congr (accessCompletes_some h ha), next_congr ?_⟩
    cases hl : (s.l1.filter (fun l => l.core == c.toNat))[j.toNat]? with
    | none => exact lineAges_none hl
    | some l => exact lineAges_some hl
  case elements =>
    exact fun s c k id w a h ha => ⟨performAll_nil h ha, performAll_cons h ha⟩
  case claims =>
    intro s l b
    exact ⟨fun x wid rest w n h hx hw hn => next_congr (grantClaim_oldest h hx hw hn), fun h => next_congr (grantClaim_none h),
      fun x h hx => next_congr (grantClaim_empty h hx)⟩
  case launches =>
    intro s l
    refine ⟨next_congr (ageTasks_eq s l.toNat), ⟨s.agedEmissions l.toNat, rfl, fun h => next_congr (placementReservation_due h),
      fun h => next_congr (placementReservation_not_due h)⟩, fun h => next_congr (coldReclaim_not_due fun m rl hm hr hd => ?_), ?_, ?_⟩
    · obtain ⟨hsusp, hcold, hpre⟩ := hd
      simpa [hsusp, hcold, hpre] using h m rl hm hr
    · intro m rl hm hr hsusp hcold hpre
      have hd : s.coldDue m rl := ⟨hsusp, hcold, hpre⟩
      exact ⟨fun hf => next_congr (coldReclaim_full hm hr hd hf), fun f hf => ⟨fun hw => next_congr (coldReclaim_fault hm hr hd hf hw),
        fun t hw => next_congr (coldReclaim_written hm hr hd hf hw)⟩⟩
    · refine ⟨fun m hm h => next_congr (urgentPreemption_not_due hm h), fun h => next_congr (urgentPreemption_none h),
        fun m r hm hr hu => ⟨fun hc => next_congr ?_, fun cs hc => next_congr ?_⟩⟩
      · exact (urgentPreemption_due hm hr hu).trans (by rw [hc]; rfl)
      · exact (urgentPreemption_due hm hr hu).trans (by rw [hc]; rfl)
  case queues =>
    intro s c q
    exact ⟨next_congr (rayActivation_eq s c.toNat q.toNat), fun h => next_congr (queueScan_idle h), fun h =>
      ⟨fun t hd => next_congr (queueScan_unread h hd), fun d t hd => next_congr (queueScan_read h hd)⟩⟩
  case service =>
    exact fun s => ⟨rfl, fun h => next_congr (grantWaiter_none h), fun t i v u ht hi hread => next_congr (grantWaiter_some ht hi hread)⟩
  case waiters =>
    exact fun s i => ⟨rfl, fun h => next_congr (pollWaiter_none h), fun t v u h hread => next_congr (pollWaiter_some h hread)⟩
  case stalls =>
    intro s q k
    obtain ⟨u, hu, hone⟩ := markStall_eq s q.toNat k.toNat 1
    obtain ⟨v, hv, htwo⟩ := markStall_eq s q.toNat k.toNat 2
    exact ⟨⟨u, next_congr hu, hone⟩, ⟨v, next_congr hv, htwo⟩⟩
  case crier =>
    intro s q
    refine ⟨fun h => next_congr (crierEmission_none h), fun v h => ⟨⟨emissionRays_length s v, fun p hp => emissionRays_key hp⟩,
      fun hk => next_congr (crierEmission_batch h hk), fun hk => ?_⟩⟩
    obtain ⟨u, hu, hrest⟩ := crierEmission_episode h hk
    exact ⟨u, next_congr hu, hrest⟩
  case batches =>
    intro s q u
    exact ⟨fun h => next_congr (batchStart_other h), fun h => next_congr (batchStart_none h),
      fun b hq h => next_congr (batchStart_some hq h)⟩
  case traces =>
    intro s l k
    refine ⟨fun h => next_congr (traceCompletion_none h), fun m r rl b unit hm hr hrl hb hu =>
      ⟨fun h => next_congr (traceCompletion_not_due hm hr hrl hb hu h), fun hphase htags => ?_⟩⟩
    refine next_congr ((traceCompletion_due hm hr hrl hb hu hphase htags).trans ?_)
    cases s.trace (32 * b.quarter) m.ctx rl.header r.record <;> rfl
  case clusters =>
    intro s cl
    refine ⟨⟨fun p h => next_congr (spindleStart_busy h), fun h => next_congr (spindleStart_none h)⟩, fun q hidle hq => ⟨?_, ?_⟩,
      fun h => next_congr (quantumExpiry_none h), fun c f at_ h => ⟨fun hd => next_congr (quantumExpiry_not_due h hd),
        fun hd => next_congr (quantumExpiry_due h hd rfl)⟩⟩
    · intro w x hw hx
      exact next_congr ((spindleStart_idle hidle hq).trans (retryWave_due hw (isRetry_iff.2 ⟨x, hx⟩)))
    · intro h
      refine next_congr ((spindleStart_idle hidle hq).trans (retryWave_not_due fun w hw => ?_))
      exact Bool.eq_false_iff.2 fun hok => (isRetry_iff.1 hok).elim fun x hx => h w x hw hx

end Sys2Proof.Machine
end

section
/-! SUPPORT. Decoding the words of an encoding: the reader gives back the major and fields that the words were written from, and
these name one instruction (06 R130 to R140, 07 R146). -/

namespace Sys2Proof.Laws.Fields

/-- The family covers every instruction: one lemma for each constructor, in their order. -/
theorem statement (i : Instr) : Statement i :=
  i.rec
    iadd iaddX iaddc isub isubb imul imulX imulhi imulw imad imadX imadhi imadw imin iminX imax iabs iabsX ineg and andX andn or
    orX orn xor xorX xnor not shl shlX rotl shr shrX rotr fshl fshlX fshr bfx bfxX bfi bfrev popc popcX clz ctz cls icmp icmpX
    sel mov movX icvt icvtX prmt prmtX sadd saddX ssub smul smulX smulhi sand sandX sandn sor sorX sxor sxorX snot sshl sshlX
    srotl sshr sshrX srotr sbfx sbfxX sbfi spopc spopcX sclz sctz smin sminX smax smov smovX smovi smoviX scmp ffma ffmaX ffms
    fnma fadd faddX fsub fmul fmulX fmin fminX fmax fminnum fmaxnum fcmp fcmpX fclass fclassX frnd frndX rcp rcpX rsqrt sqrt exp2
    log2 sinpi cospi fcvt fcvtX fdot2 fdot4 fabs fabsX fneg shfl shflX shflxor shflup shfldn rdlane rdlaneX wrlane redadd redaddX
    redmin redmax redand redor redxor scanadd scanaddX scanmin scanmax scanand scanor scanxor xscanadd xscanmin xscanmax xscanand
    xscanor xscanxor kand kandX kor kxor kandn knot kmov ktos ktosX stok kpopc kpopcX kffs kfls ballot ballotX vmatch vmatchX
    compact expand ld ldX st stX lds ldsX sts stsX atom acq rel relFresh relAll fence fenceUn pref prefX evict cwait cwaitX
    btrans stmsk xld xst sigadd ostore br brX call callX bany banyX ball ballX bnone bnoneX beq bne blt ble bgt bge bltu bleu
    bgtu bgeu jmp jmpX callind ret retX loopnz yield sleep sleepX nop nopX trap trapX trapret trapretX exit exitX bar barX bararr
    barwait bbarr bbwait tlinc tlset tlwait cp cpred twait twaitX spawn launch spnrun regsurrender regsurrenderX regclaim
    regclaimX remit rcont rretire racc epend rcell rdircls rhit rinst rxform oclaim orel owait mma mmasp mmag mmagsp aclr ascale
    adrain adraing batcom batwait rdsr rdsrX wrsr tmrset tlbinv hdlinv stdrain sfpop evmark sample utret blockPlacement
    waveExitComplete taskDispatch taskPriorityAging regclaimGrant userTimerTrap rayLaunchActivation remitResume stallAgeExpiry
    stallOverdue crierEmission traversalBatchStart traceCompletion episodePlacement coldPoolReclaim spindleStart matrixOpIssue
    slotReadFinish matrixOpComplete slotWriteRetry drainIssue drainComplete drainFault accessCompletion lineAgingWriteback
    copyStart copyEnd copyFault sleepExpiry schWake queueScan launchTake placementReservation waveReadyAged waiterSlotGrant
    tlwaitRelease waiterSlotPoll quantumExpiry urgentPreemption vmCtxRootWrite vmCtxReply vmCtxFqheadWrite pageWalk
    faultTagAllocation storeFaultTrap schCtxPreReq schCtxPreResume schCtxPreKill blockSave suspensionComplete forcedSave
    forcedSaveTimeout blockResume schCtxDbgStop schCtxDbgStep powerOn watchdogExpiry firmwareRollback portReset hostLinkUp
    functionLevelReset flrComplete hifCtxmapWrite bar2Read bar2Write hdmAccess pairLinkFailure ngxIdWrite remoteRequest
    ngxPortDown machineCheck thermalTrip governorStep mgtPwrcapWrite stage activate reset poolcfg mailboxCompletion caplist
    capread capture capclear logread getVersion getCapabilities negotiateAlgorithms getDigests getCertificate challenge
    getMeasurements timeSync lossRecord freezeArrival freezeWindowClose pairFreezeMessage capsuleStored capsuleFlashCopy
    evrCtlLock patrolScrubRead registerWrite illegalInstruction ngxPortUp pairLinkRequest cxlCacheSnoop

end Sys2Proof.Laws.Fields

namespace Sys2Proof

/-! ## Reading the words of an encoding -/

theorem majorOf_of_check {st : Stream} {e : Enc} (h : e.check st = none) :
    ∃ m, majorOf e.maj.toNat = some m ∧ m.allows e.form = true := by
  unfold Enc.check at h
  split at h
  · cases h
  next m hm =>
    split at h
    · cases h
    next ha => exact ⟨m, hm, by simpa using ha⟩

theorem readEnc_base {w : W32} {rest : List W32} {maj : BitVec 7} {m : Major} {f : Form} (hm : majorOf maj.toNat = some m)
    (hmaj : bits w 2 7 = maj) (hlen : w.toNat % 4 = 0) (hf : readBase m.fmt w = some f) : readEnc (w :: rest) = .ok ⟨maj, f⟩ := by
  subst hmaj
  simp only [readEnc, hm, hlen, hf]

theorem readEnc_words_lit {maj : BitVec 7} {m : Major} {f : B3} {l : BitVec 64} (hm : majorOf maj.toNat = some m)
    (ha : m.allows (.lit f l) = true) (more : List W32) : readEnc ((Enc.mk maj (.lit f l)).words ++ more) = .ok ⟨maj, .lit f l⟩ := by
  obtain ⟨hf, hmaj, hlen⟩ := readB3_word f maj 2 (by decide)
  rw [Major.allows] at ha
  simp only [Enc.words, litWords, List.cons_append, readEnc, hmaj, hm, hlen, ha, if_true, hf, readLit_words]

theorem readEnc_words_ext {maj : BitVec 7} {m : Major} {sub : BitVec 9} {x : XF} (hm : majorOf maj.toNat = some m)
    (more : List W32) : readEnc ((Enc.mk maj (.ext sub x)).words ++ more) = .ok ⟨maj, .ext sub x⟩ := by
  cases hl : x.lit with
  | none =>
    obtain ⟨hx, hmaj, hlen, hsub⟩ := readXF_words x maj sub 1 (by decide) none hl
    simp only [Enc.words, hl, List.cons_append, readEnc, hmaj, hm, hlen, hx, hsub]
  | some l =>
    obtain ⟨hx, hmaj, hlen, hsub⟩ := readXF_words x maj sub 3 (by decide) (some l) hl
    simp only [Enc.words, hl, litWords, List.cons_append, readEnc, hmaj, hm, hlen, readLit_words, hx, hsub]

/-- The words of an encoding whose major is assigned and allows its form are read back as that encoding. -/
theorem readEnc_words {e : Enc} {m : Major} (hm : majorOf e.maj.toNat = some m) (ha : m.allows e.form = true)
    (more : List W32) : readEnc (e.words ++ more) = .ok e := by
  obtain ⟨maj, form⟩ := e
  cases form with
  | b3 f =>
    obtain ⟨hf, hmaj, hlen⟩ := readB3_word f maj 0 (by decide)
    have hfmt : m.fmt = .b3 := eq_of_beq ha
    exact readEnc_base hm hmaj hlen (by simp only [readBase, hfmt, hf])
  | lit f l => exact readEnc_words_lit hm ha more
  | c f =>
    obtain ⟨hf, hmaj, hlen⟩ := readCF_word f maj
    have hfmt : m.fmt = .c := eq_of_beq ha
    exact readEnc_base hm hmaj hlen (by simp only [readBase, hfmt, hf])
  | m f =>
    obtain ⟨hf, hmaj, hlen⟩ := readMF_word f maj
    have hfmt : m.fmt = .m := eq_of_beq ha
    exact readEnc_base hm hmaj hlen (by simp only [readBase, hfmt, hf])
  | j f =>
    obtain ⟨hf, hmaj, hlen⟩ := readJF_word f.off maj
    have hfmt : m.fmt = .j := eq_of_beq ha
    exact readEnc_base hm hmaj hlen (by simp only [readBase, hfmt, readJF, hf])
  | n rest =>
    obtain ⟨hf, hmaj, hlen⟩ := readJF_word rest maj
    have hfmt : m.fmt = .n := eq_of_beq ha
    exact readEnc_base hm hmaj hlen (by simp only [readBase, hfmt, hf])
  | ext sub x => exact readEnc_words_ext hm more

theorem encodable_iff {st : Stream} {i : Instr} : i.encodable st = true ↔ ∃ e, i.toEnc = some e ∧ e.check st = none := by
  unfold Instr.encodable Instr.wellFormed
  cases i.toEnc <;> simp

/-- Settles O51: the reader gives back the encoding (`readEnc_words`), which passes the checks and names the instruction
(`Laws.Fields.statement`). -/
theorem decodeEncode : Obligations.DecodeEncode := by
  unfold Obligations.DecodeEncode
  intro st i more h
  obtain ⟨e, he, hcheck⟩ := encodable_iff.1 h
  obtain ⟨m, hm, ha⟩ := majorOf_of_check hcheck
  simp only [decode, encode, he, readEnc_words hm ha more, hcheck, Laws.Fields.statement i e he]

/-! ## The words that the spec writes out -/

/-- Settles O52: each of the spec's words is read, checked and named by evaluation of the decoder. -/
theorem specWordsDecode : Obligations.SpecWordsDecode := by
  unfold Obligations.SpecWordsDecode
  refine ⟨rfl, rfl, rfl, rfl, rfl, rfl, rfl, rfl, fun st => ?_, rfl, rfl, rfl, rfl, rfl⟩
  cases st <;> rfl

end Sys2Proof
end

section
/-! SUPPORT. The turn of an agent: a wave or a Spindle program that nothing holds back runs what its fetched words decode to, the
words fetched are as many as LEN of the first says, and each is read where its translation lands (01 R14; 06 R130, R131, R140;
20 R311). -/

namespace Sys2Proof.Machine

/-! ## The turn of an agent -/

theorem awake_of_not_asleep {s : State} {w : Wave} (h : ∀ y, w.wait ≠ .sleep y) : s.awake w = w := by
  unfold State.awake
  split
  next y hy => exact absurd hy (h y)
  · rfl

theorem issueWave_of_clear {s : State} {core slot : Nat} {w : Wave} (hw : s.wave? core slot = some w)
    (hawake : ∀ y, w.wait ≠ .sleep y) (hclear : s.boundary w = none) (hissues : w.wait.issues s.cyc = true) :
    s.issueWave core slot = markOutcome w (runNext (s.waveTurn w)) := by
  simp only [State.issueWave, hw, awake_of_not_asleep hawake, hclear, hissues, if_true]

theorem waveMove_of_chosen {s : State} {c k : Nat} {v : Wave} (hv : s.wave? c k = some v) :
    s.waveMove c k = (if (s.chosenFor v).slot = v.slot then s else s.passedOver v).issueWave (s.chosenFor v).core (s.chosenFor v).slot := by
  simp only [State.waveMove, hv, beq_iff_eq]

theorem issueSpindle_of_clear {s : State} {cl : Nat} {p : Spindle} (hp : s.spindle? cl = some p) (hfree : s.heldSpindle p = false)
    (hissues : p.wait.issues s.cyc = true) : s.issueSpindle cl = runNext (s.spindleTurn p) := by
  simp only [State.issueSpindle, hp, hfree, hissues, if_true, Bool.false_eq_true, if_false]

theorem runNext_of_ends {u t : State} {r : Res} (h : u.fetch = (.ends r, t)) : runNext u = .next (t.finish 1 r) := by
  unfold runNext
  rw [h]

/-- A step that comes down to the agent's next instruction, whose outcome `mark` may note, runs what the fetched words decode to. -/
theorem step_of_runNext {s u : State} {mark : Host.Outcome State Fault Refusal → Host.Outcome State Fault Refusal}
    (h : step s = answerOf (mark (runNext u))) (t : State) :
    (∀ ws, u.fetch = (.got ws, t) →
        (∀ i, decode t.stream ws = .ok i → step s = answerOf (mark (exec i t))) ∧
        (∀ d, decode t.stream ws = .illegal d → step s = answerOf (mark (exec (.illegalInstruction d) t)))) ∧
      ∀ r, u.fetch = (.ends r, t) → step s = answerOf (mark (.next (t.finish 1 r))) := by
  refine ⟨fun ws hf => ?_, fun r hf => by rw [h, runNext_of_ends hf]⟩
  obtain ⟨hok, hillegal⟩ := runNext_of hf
  exact ⟨fun i hi => by rw [h, hok i hi], fun d hd => by rw [h, hillegal d hd]⟩

theorem step_event {s t : State} {i : Instr} {rest : List Move} (h : s.agenda = .event i :: rest)
    (he : exec i { s with agenda := rest, cur := .none, turn := none } = .next t) : step s = .next t.after := by
  rw [step_of h]
  simp only [State.runMove, State.runEvent, he, answerOf]

/-! ## The words of an instruction (R130, R131) -/

theorem fetchRest_word {s t : State} {va pc : BitVec 64} {i n : Nat} {w : W32} (h : s.fetchWord va = (.word w, t))
    (hva : pc + BitVec.ofNat 64 (4 * i) = va) (acc : List W32) :
    s.fetchRest pc i acc (n + 1) = t.fetchRest pc (i + 1) (acc ++ [w]) n := by
  subst hva
  simp only [State.fetchRest, h]

/-- The first word says how many more are fetched behind it. -/
theorem fetch_of_first {s t : State} {w : W32} (h : s.fetchWord s.curPc = (.word w, t)) :
    s.fetch = t.fetchRest s.curPc 1 [w] (lenWords w - 1) := by
  have hfirst : s.fetchRest s.curPc 0 [] 1 = (.got [w], t) := fetchRest_word h (BitVec.add_zero _) []
  simp only [State.fetch, hfirst]

/-! ## A word of this die's memory -/

theorem foreignLine_of_dram {pa : Nat} (h : paSpace pa = 0 ∨ paSpace pa = 1) : foreignLine (pa / 128) = false := by
  have hsame : paSpace (128 * (pa / 128)) = paSpace pa := by unfold paSpace; omega
  rcases h with h | h <;> simp [foreignLine, hsame, h]

theorem linesOf_word {pa : Nat} (h : pa % 4 = 0) : linesOf pa 4 = [pa / 128] := by
  have hone : (pa + 3) / 128 = pa / 128 := by omega
  simp [linesOf, hone]

theorem mem_l2Fetch {s : State} {line : Nat} (h : foreignLine line = false) (c : Nat) : (s.l2Fetch c line).mem = s.mem := by
  simp only [State.l2Fetch, h, Bool.false_eq_true, if_false]
  split <;> rfl

theorem mem_traffic (s : State) (c pa n : Nat) (write : Bool) : (s.traffic c pa n write).mem = s.mem := by
  unfold State.traffic
  split <;> rfl

/-- A word of GDDR-7 or LPDDR-6 is read as memory holds it, and memory stays as it is. -/
theorem l2Read_word {s : State} {pa : Nat} (hdram : paSpace pa = 0 ∨ paSpace pa = 1) (halign : pa % 4 = 0) (c : Nat) :
    ∃ u, s.l2Read c pa 4 = (s.mem.readNat pa 4, u) ∧ u.mem = s.mem := by
  have hhome : ∀ t : State, t.hostDirect pa = false := fun t => by
    rcases hdram with h | h <;> simp [State.hostDirect, h]
  have hmem : ((s.traffic c pa 4 false).l2FetchRange c pa 4).mem = s.mem := by
    rw [State.l2FetchRange, linesOf_word halign]
    exact (mem_l2Fetch (foreignLine_of_dram hdram) c).trans (mem_traffic s c pa 4 false)
  refine ⟨_, ?_, hmem⟩
  simp only [State.l2Read, hhome, Bool.false_eq_true, if_false, hmem]

theorem codeWord_of_dram {s : State} {c pa : Nat} (hdram : paSpace pa = 0 ∨ paSpace pa = 1) (halign : pa % 4 = 0)
    (hcold : s.code.find? (fun e => e.1 == c && e.2.1 == pa) = none) (hclean : s.poisoned pa = false) :
    ∃ u, s.codeWord c pa = (.word (BitVec.ofNat 32 (s.mem.readNat pa 4)), u) ∧ u.mem = s.mem := by
  obtain ⟨u, hread, hmem⟩ := l2Read_word hdram halign c
  refine ⟨{ u with code := (c, pa, BitVec.ofNat 32 (s.mem.readNat pa 4)) :: u.code }, ?_, hmem⟩
  rcases hdram with h | h <;> simp [State.codeWord, hcold, hclean, h, hread]

theorem fetchWord_of_dram {s t : State} {va : BitVec 64} {e : TlbEntry} (hva : canonical va = true)
    (hx : s.xlate va.toNat (Need.ifetch (s.curMode == .user)) = (.ok e, t))
    (hframe : t.frameCause s.curCtx (e.pa va.toNat) (s.curMode == .user) = none)
    (hdram : paSpace (e.pa va.toNat) = 0 ∨ paSpace (e.pa va.toNat) = 1) :
    s.fetchWord va = t.codeWord s.curCtx (e.pa va.toNat) := by
  rcases hdram with h | h <;> simp [State.fetchWord, hva, hx, hframe, h]

/-! ## The obligation -/

/-- Settles O53: a wave's or a Spindle program's move comes down to its next instruction (`issueWave_of_clear`,
`issueSpindle_of_clear`), and the words of that instruction to the single words fetched. -/
theorem stepRunsDecodedInstruction : Obligations.StepRunsDecodedInstruction := by
  unfold Obligations.StepRunsDecodedInstruction
  refine ⟨?wave, ?spindle, fun s rest i t h he => step_event h he, ?words, ?word⟩
  case wave =>
    intro s x m rest core slot w h u hmove hw hawake hclear hissues
    have hturn : u.runMove m = x.issueWave core slot := by
      rcases hmove with ⟨rfl, rfl⟩ | ⟨c, k, v, rfl, hv, rfl, rfl, rfl⟩
      · rfl
      · exact waveMove_of_chosen hv
    have hstep : step s = answerOf (markOutcome w (runNext (x.waveTurn w))) := by
      rw [step_of h, ← issueWave_of_clear hw hawake hclear hissues, ← hturn]
    exact step_of_runNext hstep
  case spindle =>
    intro s rest cl p h u hp hfree hissues
    have hstep : step s = answerOf (id (runNext (u.spindleTurn p))) := by
      rw [step_of h, id, ← issueSpindle_of_clear hp hfree hissues]
      rfl
    exact step_of_runNext hstep
  case words =>
    intro s t w h
    refine ⟨fun hlen => ?_, fun w1 w2 t1 t2 h1 h2 => ⟨fun hlen => ?_, fun w3 w4 t3 t4 h3 h4 hlen => ?_⟩⟩
    · rw [fetch_of_first h, hlen]
      rfl
    · rw [fetch_of_first h, hlen, fetchRest_word h1 rfl, fetchRest_word h2 rfl]
      rfl
    · rw [fetch_of_first h, hlen, fetchRest_word h1 rfl, fetchRest_word h2 rfl, fetchRest_word h3 rfl, fetchRest_word h4 rfl]
      rfl
  case word =>
    intro s t va e hva hx hframe hdram halign hcold hclean
    rw [fetchWord_of_dram hva hx hframe hdram]
    exact codeWord_of_dram hdram halign hcold hclean

end Sys2Proof.Machine
end

section
/-! ## Integer reductions (R164, R199)

The tree's value is the fold of its operation for two reasons: on the patterns of an integer type's width each operation is
associative with its identity (`comb_monoid`), and there a node of the tree is that operation with no flag (`comb_eq`). So every
level of the tree folds to the same value, and the identities of the lanes outside the lane set fall away (`tree_fold`). -/

namespace Sys2Proof.Machine

theorem lowBits_lt (v : BitVec 64) (wd : Nat) : lowBits v wd < 2 ^ wd := Nat.mod_lt _ (Nat.two_pow_pos wd)

/-- Settles O12: the tree is the fold over the lane set (`tree_fold`), as each operation is a monoid on the type's patterns
(`comb_monoid`) that a node computes without a flag (`comb_eq`). -/
theorem integerReductionsFold : Obligations.IntegerReductionsFold := by
  unfold Obligations.IntegerReductionsFold
  intro s w n op t ht hop wd elem value comb tree
  have hmonoid : Monoid' comb (identityOf op t) (fun x => x < 2 ^ wd) := comb_monoid op t ht hop
  have hnode : ∀ a b, a < 2 ^ wd → b < 2 ^ wd →
      combineOf op t n.x.rnd.toNat (ctlFtz (s.recordOf w.launch)) a b = (comb a b, 0) :=
    comb_eq op t _ _ ht hop
  have helem : ∀ L, elem L < 2 ^ wd := fun L => lowBits_lt _ wd
  have htree : tree.2 = treeLevels (combineOf op t n.x.rnd.toNat (ctlFtz (s.recordOf w.launch)))
      ((List.range 64).map (fun L => if (laneSet w n.x).getLsbD L then elem L else identityOf op t)) 6 := treeOf_snd s w n op
  rw [htree]
  exact tree_fold hmonoid hnode (fun L => (laneSet w n.x).getLsbD L) elem helem

end Sys2Proof.Machine
end

section
/-! ## Integer instructions and the compares (09 R171 to R183; 10 R188, R189; 15 R258)

The instructions of a shape share one work (`Shape.work`). For each work one lemma says with which state it ends, and the
completion of that state is what the statements name: `lanesWritten_finish` where lanes of a vector register are written,
`finish_modAgent` where the agent alone changes. -/

namespace Sys2Proof.Machine

/-! ### Tagged lanes and their masks -/

/-- The lanes whose tag passes a test. -/
theorem map_fst_filter_tagged {β : Type} (l : List Nat) (g : Nat → β) (q : β → Bool) :
    ((l.map (fun L => (L, g L))).filter (fun p => q p.2)).map (·.1) = l.filter (fun L => q (g L)) := by
  rw [List.filter_map, List.map_map]
  exact List.map_id _

theorem ite_one_beq_one (b : Prop) [Decidable b] {α : Type} [BEq α] [LawfulBEq α] [OfNat α 0] [OfNat α 1] (h : (0 : α) ≠ 1) :
    ((if b then (1 : α) else 0) == 1) = decide b := by
  by_cases hb : b <;> simp [hb, h]

/-- The bits of a lane set are replaced in a mask, and the other bits stay. -/
theorem isMask_replace (k lanes : BitVec 64) (p : Nat → Bool) :
    IsMask ((k &&& ~~~lanes) ||| maskOf ((lanesOf lanes).filter p)) (fun L => if lanes.getLsbD L then p L else k.getLsbD L) := by
  intro L hL
  rw [BitVec.getLsbD_or, isMask_filter lanes p L hL, BitVec.getLsbD_and, BitVec.getLsbD_not]
  dsimp only
  cases lanes.getLsbD L <;> simp [hL]

/-! ### Completions -/

theorem withK_place (d : Nat) (m : BitVec 64) : Places (fun v => v.withK d m) := fun _ => ⟨rfl, rfl⟩

theorem flagged_place (f : Nat) : Places (fun v => v.flagged f) := fun _ => ⟨rfl, rfl⟩

theorem flagged_stay (f : Nat) : Stays (fun p => p.flagged f) := fun _ => rfl

/-- Work that writes lanes and changes the agent, and falls through. -/
theorem lanesWritten_finish {s : State} {w : Wave} (hw : s.curWave = some w) (words d regs : Nat) (lanes : BitVec 64)
    (val : Nat → BitVec 64) {fw : Wave → Wave} {fp : Spindle → Spindle} (hfw : Places fw) (hfp : Stays fp)
    (h : canonical (s.nextPc words) = true) :
    LanesWritten s (s.finish words (.done ((s.vputAll w d regs ((lanesOf lanes).map (fun L => (L, val L)))).modAgent fw fp)))
      w d regs lanes val fw (s.nextPc words) := by
  rw [finish_done _ _ _ h]
  exact lanesWritten_of s w hw d regs lanes val fw fp hfw hfp _

/-- Work that writes a mask register and sets flags, and falls through. -/
theorem finish_maskFlags {s : State} {w : Wave} (hw : s.curWave = some w) (words d f : Nat) (m : BitVec 64)
    (h : canonical (s.nextPc words) = true) :
    s.finish words (.done ((s.kwr d m).orFlags f))
      = s.complete (s.nextPc words) (fun v => (v.withK d m).flagged f) (fun p => p) := by
  rw [kwr_eq, orFlags_eq, modAgent_modAgent _ _ _ _ _ (withK_place d m) (flagged_place f) stays_id (flagged_stay f),
    finish_modAgent s words _ _ (places_comp (flagged_place f) (withK_place d m)) (flagged_stay f) h]
  exact complete_wave hw rfl

/-! ### The works -/

theorem vecMap_plain_work {s : State} {w : Wave} (hw : s.curWave = some w)
    (f : Norm → BitVec 64 → BitVec 64 → BitVec 64 → BitVec 64) (r : Row) (n : Norm) :
    vecMap (plain f) r n s = .done (s.vputAll w n.x.d.toNat (destRegs (r.opnds n.accum).1 n)
      ((lanesOf (laneSet w n.x)).map (fun L => (L, f n (s.srcA w r n L) (s.srcB w r n L) (s.srcC w r n L))))) := by
  rw [vecMap_work hw]
  simp only [plain, flagsOver_zero, orFlags_zero]

theorem scalMap_work (f : Norm → BitVec 64 → BitVec 64 → BitVec 64 → BitVec 64) (r : Row) (n : Norm) (s : State) :
    scalMap f r n s = .done (s.swr n.x.d.toNat (f n (s.scalOpnd n (r.opnds n.accum).2.1 n.x.sa)
      (s.scalOpnd n (r.opnds n.accum).2.2.1 n.x.sb) (s.scalOpnd n (r.opnds n.accum).2.2.2 n.x.sc))) := rfl

theorem vecTest_work {s : State} {w : Wave} (hw : s.curWave = some w) (f : Norm → BitVec 64 → BitVec 64 → Bool × Nat)
    (r : Row) (n : Norm) :
    vecTest f r n s = .done ((s.kwr n.x.d.toNat (maskOf ((lanesOf (laneSet w n.x)).filter
        (fun L => (f n (s.srcA w r n L) (s.srcB w r n L)).1)))).orFlags
      (flagsOver (laneSet w n.x) (fun L => (f n (s.srcA w r n L) (s.srcB w r n L)).2))) := by
  simp only [vecTest, hw, laneVals_eq]
  rw [map_fst_filter_tagged _ _ (fun v : BitVec 64 × Nat => v.1 == 1),
    flagsOver_eq _ (fun L => (if (f n (s.srcA w r n L) (s.srcB w r n L)).1 then 1 else 0, (f n (s.srcA w r n L) (s.srcB w r n L)).2))]
  simp only [ite_one_beq_one _ (by decide : (0 : BitVec 64) ≠ 1), Bool.decide_eq_true]

theorem fvecTest_work {s : State} {w : Wave} (hw : s.curWave = some w) (f : Bool → Norm → BitVec 64 → BitVec 64 → Bool × Nat)
    (r : Row) (n : Norm) : fvecTest f r n s = vecTest (f (ctlFtz (s.recordOf w.launch))) r n s := by
  simp only [fvecTest, hw]

/-- The exact sum of iaddc, or difference of isubb, in lane L: a + b + c or a - b - c with the lane's bit c of k (R174). -/
def carrySum (sub : Bool) (t : Nat) (k a b : BitVec 64) (L : Nat) : Int :=
  let c : Int := if k.getLsbD L then 1 else 0
  if sub then ival t a - ival t b - c else ival t a + ival t b + c

theorem carryMap_work {s : State} {w : Wave} (hw : s.curWave = some w) (sub : Bool) (r : Row) (n : Norm) :
    let t := n.x.type.toNat
    let k := w.k.rd n.x.sc.toNat
    let y (L : Nat) : Int := carrySum sub t k (s.srcA w r n L) (s.srcB w r n L) L
    carryMap sub r n s = .done ((s.vputAll w n.x.d.toNat (typeRegs t)
        ((lanesOf (laneSet w n.x)).map (fun L => (L, extendPat t (fit t false (y L)))))).kwr n.x.sc.toNat
      ((k &&& ~~~(laneSet w n.x)) ||| maskOf ((lanesOf (laneSet w n.x)).filter
        (fun L => decide (y L < 0 ∨ 2 ^ typeWidth t ≤ y L))))) := by
  intro t k y
  simp only [carryMap, hw, laneVals_eq]
  rw [map_fst_filter_tagged _ _ (fun v : BitVec 64 × Nat => v.2 == 1)]
  simp only [ite_one_beq_one _ Nat.zero_ne_one, List.map_map, Bool.or_eq_true, decide_eq_true_eq]
  rfl

/-- sel meets no mark where the sources that its lanes select carry none. -/
theorem selMap_work {s : State} {w : Wave} (hw : s.curWave = some w) (r : Row) (n : Norm)
    (hb : poisonLanes s w (laneSet w n.x &&& w.k.rd n.x.sa.toNat) (opndRefs r.sb .simt n n.x.sb) = 0)
    (hc : poisonLanes s w (laneSet w n.x &&& ~~~(w.k.rd n.x.sa.toNat)) (opndRefs r.sc .simt n n.x.sc) = 0) :
    selMap r n s = .done (s.vputAll w n.x.d.toNat 1 ((lanesOf (laneSet w n.x)).map
      (fun L => (L, if (w.k.rd n.x.sa.toNat).getLsbD L then s.srcB w r n L else s.srcC w r n L)))) := by
  have hclean : ((0 ||| 0 : BitVec 64) != 0 && !w.exemptPoison) = false := rfl
  simp only [selMap, hw, hb, hc, hclean, Bool.false_eq_true, if_false, laneVals_eq, List.map_map]
  rfl

/-! ### The obligations -/

/-- Settles O1: the work writes the lanes with no flag (`vecMap_plain_work`), and the wave goes on. -/
theorem vectorIntegerLanes : Obligations.VectorIntegerLanes := by
  unfold Obligations.VectorIntegerLanes
  intro i f s w r n hshape hi hw
  refine ⟨_, issue_eq hi hshape nofun, ?_⟩
  rw [Shape.work, vecMap_plain_work hw]
  exact lanesMoved hw _ _ _ _ _ hi.next

/-- Settles O3: the work writes the sums and then k[SC] (`carryMap_work`), whose bits outside the lane set stay
(`isMask_replace`). -/
theorem carryLanes : Obligations.CarryLanes := by
  unfold Obligations.CarryLanes
  intro i sub s w r n hshape hi hw k y
  refine ⟨_, _, issue_eq hi hshape nofun, ?_,
    isMask_replace k (laneSet w n.x) (fun L => decide (y L < 0 ∨ 2 ^ typeWidth n.x.type.toNat ≤ y L))⟩
  rw [Shape.work, carryMap_work hw, kwr_eq]
  exact lanesWritten_finish hw _ _ _ _ _ (withK_place _ _) stays_id hi.next

/-- Settles O4: the work writes the register of the agent, whichever agent it is (`swr_eq`), and nothing else. -/
theorem scalarResults : Obligations.ScalarResults := by
  unfold Obligations.ScalarResults
  intro i f s r n hshape hi v
  rw [issue_eq hi hshape nofun, Shape.work, scalMap_work, swr_eq,
    finish_modAgent _ _ _ _ (withS_place _ _) (withX_place _ _) hi.next]

/-- Settles O5: the work writes the mask of the lanes that pass and their flags (`vecTest_work`). -/
theorem compareMasks : Obligations.CompareMasks := by
  unfold Obligations.CompareMasks
  intro i f s w r n hshape hi hw g
  refine ⟨_, isMask_filter (laneSet w n.x) (fun L => (g L).1), ?_⟩
  rw [issue_eq hi hshape nofun, Shape.work, fvecTest_work hw, vecTest_work hw, finish_maskFlags hw _ _ _ _ hi.next]

/-- Settles O6: no selected source is marked, so the work writes the lanes (`selMap_work`), and the wave goes on. -/
theorem selectLanes : Obligations.SelectLanes := by
  unfold Obligations.SelectLanes
  intro f s w r n hi hw k hb hc
  refine ⟨_, exec_admitted hi.toAdmitted, ?_⟩
  rw [show work (.sel f) = selMap from rfl, selMap_work hw r n hb hc]
  exact lanesMoved hw _ _ _ _ _ hi.next

end Sys2Proof.Machine
end

section
/-! ## Vector floating-point instructions (10 R184 to R194; 08 R161)

The instructions share one work, `fvecMap`: it reads the FTZ bit of the launch, and then goes on as the work of a vector
instruction, whose flags are those of the lane set. -/

namespace Sys2Proof.Machine

/-- The work of a vector floating-point instruction is that of its operation under the FTZ bit of the wave's launch. -/
theorem fvecMap_work {s : State} {w : Wave} (hw : s.curWave = some w)
    (f : Bool → Norm → BitVec 64 → BitVec 64 → BitVec 64 → BitVec 64 × Nat) (r : Row) (n : Norm) :
    fvecMap f r n s = vecMap (f (ctlFtz (s.recordOf w.launch))) r n s := by
  simp only [fvecMap, hw]

/-- Settles O2: the work writes the lanes and then sets the flags of the lane set (`fvecMap_work`, `vecMap_work`), and the wave
goes on (`lanesWritten_finish`). -/
theorem vectorFloatLanes : Obligations.VectorFloatLanes := by
  unfold Obligations.VectorFloatLanes
  intro i f s w r n hshape hi hw
  refine ⟨_, issue_eq hi hshape nofun, ?_⟩
  rw [Shape.work, fvecMap_work hw, vecMap_work hw, orFlags_eq]
  exact lanesWritten_finish hw _ _ _ _ _ (flagged_place _) (flagged_stay _) hi.next

end Sys2Proof.Machine
end

section
/-! ## Cross-lane instructions and mask registers (11 R196 to R202; 08 R164, R165)

Each work checks the marks of the elements that it uses and then writes: lanes of a vector register (`laneMoves_unmarked`), or one
register of the wave (`finish_ofWave`). One lemma for each work says what it writes where it meets no mark. -/

namespace Sys2Proof.Machine

/-! ### Marks, completions and flags -/

/-- Lanes that use no marked element are written. -/
theorem laneMoves_unmarked {s : State} {w : Wave} {d regs : Nat} {used : List (Nat × Bool)} (vals : List (Nat × BitVec 64))
    (h : ∀ p ∈ used, p.2 = false) : laneMoves s w d regs used vals = .done (s.vputAll w d regs vals) := by
  have hnone : used.filter (·.2) = [] := List.filter_eq_nil_iff.2 fun p hp => by simp [h p hp]
  simp [laneMoves, hnone]

/-- Where a wave is the agent, a completion names only the change of the wave. -/
theorem finish_ofWave {s : State} {w : Wave} (hw : s.curWave = some w) (words : Nat) {fw : Wave → Wave} {fp : Spindle → Spindle}
    (hfw : Places fw) (hfp : Stays fp) (h : canonical (s.nextPc words) = true) :
    s.finish words (.done (s.modAgent fw fp)) = s.complete (s.nextPc words) fw (fun p => p) := by
  rw [finish_modAgent s words fw fp hfw hfp h]
  exact complete_wave hw rfl

theorem foldl_flags (lanes : BitVec 64) (g : Nat → Nat) (f : Nat) :
    (lanesOf lanes).foldl (fun a L => a ||| g L) f = f ||| flagsOver lanes g := by
  unfold flagsOver
  generalize lanesOf lanes = l
  induction l generalizing f with
  | nil => simp
  | cons L l ih => rw [List.foldl_cons, List.foldl_cons, ih, ih (0 ||| g L), Nat.zero_or, Nat.or_assoc]

/-! ### The works that write lanes -/

theorem shflOp_work {s : State} {w : Wave} (hw : s.curWave = some w) (r : Row) (n : Norm)
    (hidx : poisonLanes s w (laneSet w n.x) (opndRefs r.sb .simt n n.x.sb) = 0) :
    let j (L : Nat) : Nat := shflIndex n.sub L (amount (s.laneOpnd w n r.sb n.x.sb L))
    let regs := typeRegs n.x.type.toNat
    (∀ L, (laneSet w n.x).getLsbD L = true → s.vmarked w n.x.sa.toNat (j L) regs = false) →
    shflOp r n s = .done (s.vputAll w n.x.d.toNat regs
      ((lanesOf (laneSet w n.x)).map (fun L => (L, s.vget w n.x.sa.toNat (j L) regs)))) := by
  intro j regs hsrc
  simp only [shflOp, hw, hidx]
  refine laneMoves_unmarked _ fun p hp => ?_
  obtain ⟨L, hL, rfl⟩ := List.mem_map.1 hp
  simpa using hsrc L ((mem_lanesOf _ _).1 hL)

theorem packOp_work {s : State} {w : Wave} (hw : s.curWave = some w) (expand : Bool) (r : Row) (n : Norm) :
    let moves := packPairs expand (laneSet w n.x) (w.k.rd n.x.sa.toNat)
    let regs := typeRegs n.x.type.toNat
    (∀ p ∈ moves, s.vmarked w n.x.sb.toNat p.2 regs = false) →
    packOp expand r n s = .done (s.vputAll w n.x.d.toNat regs (moves.map (fun p => (p.1, s.vget w n.x.sb.toNat p.2 regs)))) := by
  intro moves regs hsrc
  simp only [packOp, hw]
  refine laneMoves_unmarked _ fun q hq => ?_
  obtain ⟨p, hp, rfl⟩ := List.mem_map.1 hq
  exact hsrc p hp

/-- Restricted to lane j, a lane set holds that lane or none. -/
theorem lanesOf_and_single (m : BitVec 64) {j : Nat} (hj : j < 64) :
    lanesOf (m &&& 1#64 <<< j) = if m.getLsbD j then [j] else [] := by
  have hbit : ∀ L ∈ List.range 64, (m &&& 1#64 <<< j).getLsbD L = (m.getLsbD j && L == j) := fun L hL => by
    have hsingle := getLsbD_maskOf [j] L (List.mem_range.1 hL)
    rw [BitVec.getLsbD_and, show 1#64 <<< j = maskOf [j] from (BitVec.zero_or).symm, hsingle]
    by_cases he : L = j <;> simp [he]
  rw [lanesOf, List.filter_congr hbit]
  cases m.getLsbD j
  · exact List.filter_eq_nil_iff.2 fun _ _ => Bool.false_ne_true
  · simp only [Bool.true_and, List.filter_beq, List.count_range, hj, if_true, List.replicate_one]

/-- The lane that wrlane names is written if it is in the lane set. -/
theorem wrlaneOp_work {s : State} {w : Wave} (hw : s.curWave = some w) (r : Row) (n : Norm)
    (hidx : s.sourceMarked (opndRefs r.sb .simt n n.x.sb) = false) (hsrc : s.smarked n.x.sa.toNat = false) :
    let j := amount (s.laneOpnd w n r.sb n.x.sb 0) % 64
    wrlaneOp r n s = .done (s.vputAll w n.x.d.toNat (typeRegs n.x.type.toNat)
      ((lanesOf (laneSet w n.x &&& 1#64 <<< j)).map (fun L => (L, w.s.rd n.x.sa.toNat)))) := by
  intro j
  rw [lanesOf_and_single _ (Nat.mod_lt _ (by decide))]
  simp only [wrlaneOp, hw, hidx, hsrc, Bool.false_and, Bool.and_false, Bool.false_eq_true, if_false]
  split <;> rfl

/-! ### Scans -/

/-- The value and the flags of a scan in lane L, from the tree's combination and levels (R165). -/
def scanLane (n : Norm) (tree : Combine × List (List Nat) × Nat) (L : Nat) : Nat × Nat :=
  if 16 ≤ n.sub then (if L = 0 then (identityOf (n.sub % 16) n.x.type.toNat, 0) else scanIncl tree.1 tree.2.1 (L - 1))
  else scanIncl tree.1 tree.2.1 L

/-- A lane with its scanned value, as the work reckons it. -/
theorem scanLane_tagged (n : Norm) (tree : Combine × List (List Nat) × Nat) (L : Nat) :
    (if (decide (16 ≤ n.sub) && L == 0) = true then (L, identityOf (n.sub % 16) n.x.type.toNat, 0)
      else (L, scanIncl tree.1 tree.2.1 (if 16 ≤ n.sub then L - 1 else L))) = (L, scanLane n tree L) := by
  unfold scanLane
  by_cases hexcl : 16 ≤ n.sub
  · by_cases hL : L = 0 <;> simp [hexcl, hL]
  · simp [hexcl]

theorem scanOp_work {s : State} {w : Wave} (hw : s.curWave = some w) (r : Row) (n : Norm) (hclean : markedLanes s w n = []) :
    let tree := treeOf s w n (n.sub % 16)
    scanOp r n s = .done ((s.vputAll w n.x.d.toNat (typeRegs n.x.type.toNat) ((lanesOf (laneSet w n.x)).map (fun L =>
      (L, laneResult (ctlFtz (s.recordOf w.launch)) n.x.type.toNat (scanLane n tree L).1)))).orFlags
        (tree.2.2 ||| flagsOver (laneSet w n.x) (fun L => (scanLane n tree L).2))) := by
  intro tree
  have hmoves : ∀ vals, laneMoves s w n.x.d.toNat (typeRegs n.x.type.toNat) ((lanesOf (laneSet w n.x)).map (fun L =>
      (L, (markedLanes s w n).any (fun m => if 16 ≤ n.sub then m < L else m ≤ L)))) vals
      = .done (s.vputAll w n.x.d.toNat (typeRegs n.x.type.toNat) vals) := fun vals => by
    refine laneMoves_unmarked vals fun p hp => ?_
    obtain ⟨L, -, rfl⟩ := List.mem_map.1 hp
    rw [hclean]
    rfl
  simp only [scanOp, hw, hmoves, scanLane_tagged n (treeOf s w n (n.sub % 16)), List.map_map, List.foldl_map, foldl_flags]
  rfl

/-! ### The works that write one register -/

theorem rdlaneOp_work {s : State} {w : Wave} (hw : s.curWave = some w) (r : Row) (n : Norm)
    (hidx : s.sourceMarked (opndRefs r.sb .simt n n.x.sb) = false) :
    let j := amount (s.laneOpnd w n r.sb n.x.sb 0) % 64
    let regs := typeRegs n.x.type.toNat
    s.vmarked w n.x.sa.toNat j regs = false → rdlaneOp r n s = .done (s.swr n.x.d.toNat (s.vget w n.x.sa.toNat j regs)) := by
  intro j regs hsrc
  simp only [rdlaneOp, hw, hidx, Bool.false_and, Bool.false_eq_true, if_false]
  exact if_neg (by simp [hsrc, j, regs])

theorem reduceOp_work {s : State} {w : Wave} (hw : s.curWave = some w) (r : Row) (n : Norm) (hclean : markedLanes s w n = []) :
    let tree := treeOf s w n n.sub
    reduceOp r n s = .done ((s.swr n.x.d.toNat (laneResult (ctlFtz (s.recordOf w.launch)) n.x.type.toNat
      ((tree.2.1.getD 6 []).getD 0 0))).orFlags tree.2.2) := by
  simp [reduceOp, hw, hclean]

theorem ballotOp_work {s : State} {w : Wave} (hw : s.curWave = some w) (r : Row) (n : Norm) (hclean : markedLanes s w n = []) :
    ballotOp r n s = .done (s.kwr n.x.d.toNat (maskOf ((lanesOf (laneSet w n.x)).filter
      (fun L => s.vget w n.x.sb.toNat L (typeRegs n.x.type.toNat) != 0)))) := by
  simp [ballotOp, hw, hclean]

theorem headD_mem {l : List Nat} (h : l ≠ []) (d : Nat) : l.headD d ∈ l := by
  cases l with
  | nil => exact absurd rfl h
  | cons a l => exact List.mem_cons_self

/-- The lowest lane of a lane set is one of its lanes, so that match meets no mark where no lane carries one. -/
theorem matchOp_work {s : State} {w : Wave} (hw : s.curWave = some w) (r : Row) (n : Norm)
    (hclean : ∀ L, (laneSet w n.x).getLsbD L = true → s.vmarked w n.x.sb.toNat L (typeRegs n.x.type.toNat) = false) :
    let e (L : Nat) : BitVec 64 := s.vget w n.x.sb.toNat L (typeRegs n.x.type.toNat)
    matchOp r n s = .done (s.kwr n.x.d.toNat (maskOf ((lanesOf (laneSet w n.x)).filter
      (fun L => e L == e ((lanesOf (laneSet w n.x)).headD 0))))) := by
  intro e
  have hlane : ∀ L ∈ lanesOf (laneSet w n.x), s.vmarked w n.x.sb.toNat L (typeRegs n.x.type.toNat) = false :=
    fun L hL => hclean L ((mem_lanesOf _ _).1 hL)
  have hnone : (lanesOf (laneSet w n.x)).filter (fun L => s.vmarked w n.x.sb.toNat L (typeRegs n.x.type.toNat)
      || s.vmarked w n.x.sb.toNat ((lanesOf (laneSet w n.x)).headD 0) (typeRegs n.x.type.toNat)) = [] :=
    List.filter_eq_nil_iff.2 fun L hL => by
      simp [hlane L hL, hlane _ (headD_mem (List.ne_nil_of_mem hL) 0), -List.headD_eq_head?_getD]
  simp only [matchOp, hw, hnone, ite_self, List.isEmpty_nil, Bool.not_true, Bool.false_eq_true, if_false]
  rfl

/-! ### The obligations -/

/-- Settles O7: no lane uses a marked element, so the work writes the lanes (`shflOp_work`), and the wave goes on. -/
theorem shuffleLanes : Obligations.ShuffleLanes := by
  unfold Obligations.ShuffleLanes
  intro i s w r n hshape hi hw k j regs hsrc hidx
  refine ⟨_, issue_eq hi hshape nofun, ?_⟩
  have hj : (fun L => shflIndex n.sub L (amount (s.laneOpnd w n r.sb n.x.sb L))) = j := rfl
  rw [Shape.work, shflOp_work hw r n hidx (hj ▸ hsrc)]
  exact lanesMoved hw _ _ _ _ _ hi.next

/-- Settles O9: the moves are the pairs of `packPairs`, and none reads a marked element (`packOp_work`). -/
theorem packLanes : Obligations.PackLanes := by
  unfold Obligations.PackLanes
  intro i expand s w r n hshape hi hw lanes k regs moves hsrc
  rw [issue_eq hi hshape nofun, Shape.work, packOp_work hw expand r n hsrc, finish_done _ _ _ hi.next]
  rfl

/-- Settles O10: rdlane writes the scalar register (`rdlaneOp_work`), wrlane its one lane or none (`wrlaneOp_work`). -/
theorem readAndWriteLane : Obligations.ReadAndWriteLane := by
  unfold Obligations.ReadAndWriteLane
  refine ⟨?rdlane, ?wrlane⟩
  case rdlane =>
    intro i s w r n hshape hi hw j regs hidx hsrc
    rw [issue_eq hi hshape nofun, Shape.work, rdlaneOp_work hw r n hidx hsrc, swr_eq,
      finish_ofWave hw _ (withS_place _ _) (withX_place _ _) hi.next]
    rfl
  case wrlane =>
    intro f s w r n hi hw j hidx hsrc
    refine ⟨_, exec_admitted hi.toAdmitted, ?_⟩
    rw [show work (.wrlane f) = wrlaneOp from rfl, wrlaneOp_work hw r n hidx hsrc]
    exact lanesMoved hw _ _ _ _ _ hi.next

/-- Settles O11: the work writes the root of the tree and takes the tree's flags (`reduceOp_work`). -/
theorem reductionResults : Obligations.ReductionResults := by
  unfold Obligations.ReductionResults
  intro i s w r n hshape hi hw hclean tree
  rw [issue_eq hi hshape nofun, Shape.work, reduceOp_work hw r n (markedLanes_nil hclean), swr_eq, orFlags_eq,
    modAgent_modAgent _ _ _ _ _ (withS_place _ _) (flagged_place _) (withX_place _ _) (flagged_stay _),
    finish_ofWave hw _ (places_comp (flagged_place _) (withS_place _ _)) (stays_comp (flagged_stay _) (withX_place _ _)) hi.next]

/-- Settles O13: the work writes the scanned lanes and takes the flags of the tree and of those lanes (`scanOp_work`). -/
theorem scanResults : Obligations.ScanResults := by
  unfold Obligations.ScanResults
  intro i s w r n hshape hi hw hclean t tree val
  refine ⟨_, issue_eq hi hshape nofun, ?_⟩
  rw [Shape.work, scanOp_work hw r n (markedLanes_nil hclean), orFlags_eq]
  exact lanesWritten_finish hw _ _ _ _ _ (flagged_place _) (flagged_stay _) hi.next

/-- Settles O14: both works write the mask of the lanes that pass their test (`ballotOp_work`, `matchOp_work`). -/
theorem ballotAndMatch : Obligations.BallotAndMatch := by
  unfold Obligations.BallotAndMatch
  intro i s w r n hi hw hclean e
  refine ⟨fun hshape => ⟨_, isMask_filter _ _, ?_⟩, fun hshape => ⟨_, isMask_filter _ _, ?_⟩⟩
  · rw [issue_eq hi hshape nofun, Shape.work, ballotOp_work hw r n (markedLanes_nil hclean), kwr_eq,
      finish_modAgent _ _ _ _ (withK_place _ _) stays_id hi.next]
  · rw [issue_eq hi hshape nofun, Shape.work, matchOp_work hw r n hclean, kwr_eq,
      finish_modAgent _ _ _ _ (withK_place _ _) stays_id hi.next]

/-- Settles O15: each work writes one register of its agent from sources read before (`kwr_eq`, `swr_eq`). -/
theorem maskRegisterResults : Obligations.MaskRegisterResults := by
  unfold Obligations.MaskRegisterResults
  intro i s r n hi
  refine ⟨fun f hshape => ?mask, fun f hshape => ?maskValue, ?stok⟩
  case mask =>
    rw [issue_eq hi hshape nofun, Shape.work, maskOp, kwr_eq, finish_modAgent _ _ _ _ (withK_place _ _) stays_id hi.next]
  case maskValue =>
    rw [issue_eq hi hshape nofun, Shape.work, maskToScalar, swr_eq,
      finish_modAgent _ _ _ _ (withS_place _ _) (withX_place _ _) hi.next]
  case stok =>
    rintro ⟨x, rfl⟩
    rw [exec_admitted hi.toAdmitted, show work (.stok x) = stokOp from rfl, stokOp, kwr_eq,
      finish_modAgent _ _ _ _ (withK_place _ _) stays_id hi.next]

end Sys2Proof.Machine
end

section
/-! ## Control flow (11 R203 to R208; 14 R253)

The work of a control-flow instruction changes its agent alone and then goes to a target, falls through or waits. -/

namespace Sys2Proof.Machine

theorem goTo_noncanonical (s t : State) {a : BitVec 64} (h : canonical a = false) : goTo s t a = .trap s causeNoncanonical a 0 := by
  simp [goTo, h]

/-- A transfer of control that changes nothing but the program counter. -/
theorem jump_same (s : State) (words : Nat) (pc : BitVec 64) :
    s.finish words (.jump s pc) = s.complete pc (fun w => w) (fun p => p) := finish_jump s s words pc

theorem branchOp_taken {c : Norm → State → Bool} {n : Norm} {s : State} (r : Row) (h : c n s = true) :
    branchOp c r n s = goTo s s (s.curPc + branchOff n.x) := if_pos h

theorem branchOp_not_taken {c : Norm → State → Bool} {n : Norm} {s : State} (r : Row) (h : c n s = false) :
    branchOp c r n s = .done s := if_neg (by simp [h])

theorem loopOp_taken {n : Norm} {s : State} (r : Row) (h : s.srd n.x.sa.toNat - 1 ≠ 0) :
    loopOp r n s = goTo s (s.swr n.x.sa.toNat (s.srd n.x.sa.toNat - 1)) (s.curPc + branchOff n.x) :=
  if_pos (bne_iff_ne.2 h)

theorem loopOp_ended {n : Norm} {s : State} (r : Row) (h : s.srd n.x.sa.toNat - 1 = 0) :
    loopOp r n s = .done (s.swr n.x.sa.toNat (s.srd n.x.sa.toNat - 1)) :=
  if_neg (by simpa using h)

/-- Settles O16: a branch is `branchOp` of its condition: taken it goes to its target, or meets the cause, and else it falls
through. -/
theorem branches : Obligations.Branches := by
  unfold Obligations.Branches
  intro i c s r n hshape ha target
  have hexec : exec i s = .next (s.finish n.words (branchOp c r n s)) := adm_eq ha hshape nofun
  have htarget : s.curPc + branchOff n.x = target := rfl
  refine ⟨fun hc ht => ?_, fun hc ht => ?_, fun hc hnext => ?_⟩
  · rw [hexec, branchOp_taken r hc, htarget, goTo_ok s s ht, jump_same]
  · rw [hexec, branchOp_taken r hc, htarget, goTo_noncanonical s s ht]
    rfl
  · rw [hexec, branchOp_not_taken r hc, finish_same s _ hnext]

/-- Settles O17: each transfer goes on at its target with the register that it wrote (`jump_modAgent`, `link_eq`). -/
theorem loopsCallsAndJumps : Obligations.LoopsCallsAndJumps := by
  unfold Obligations.LoopsCallsAndJumps
  intro i s r n ha target reg link v
  have htarget : s.curPc + branchOff n.x = target := rfl
  refine ⟨?taken, ?ended, fun hshape ht => ?call, ?callind, fun hshape hreg h4 => ?jump⟩
  case taken =>
    rintro ⟨x, rfl⟩ hv ht
    rw [exec_admitted ha, show work (.loopnz x) = loopOp from rfl, loopOp_taken r hv, htarget, goTo_ok _ _ ht, swr_eq,
      jump_modAgent _ _ _ _ (withS_place _ _) (withX_place _ _)]
  case ended =>
    rintro ⟨x, rfl⟩ hv hnext
    rw [exec_admitted ha, show work (.loopnz x) = loopOp from rfl, loopOp_ended r hv, swr_eq,
      finish_modAgent _ _ _ _ (withS_place _ _) (withX_place _ _) hnext]
  case call =>
    rw [adm_eq ha hshape nofun, Shape.work, callOp, htarget, goTo_ok _ _ ht, link_eq,
      jump_modAgent _ _ _ _ (withS_place _ _) (withX_place _ _)]
  case callind =>
    rintro ⟨x, rfl⟩ hreg h4
    rw [exec_admitted ha, show work (.callind x) = callindOp from rfl, callindOp, goReg_ok _ _ hreg h4, link_eq,
      jump_modAgent _ _ _ _ (withS_place _ _) (withX_place _ _)]
  case jump =>
    rw [adm_eq ha hshape nofun, Shape.work, jmpOp, goReg_ok _ _ hreg h4, jump_same]

/-! ### nop, sleep, yield and exit -/

theorem wait_place (x : Wait) : Places (fun w => { w with wait := x }) := fun _ => ⟨rfl, rfl⟩

theorem live_stay (m : BitVec 24) : Stays (fun p => { p with live := m }) := fun _ => rfl

theorem yielded_place : Places (fun w => { w with yielded := true }) := fun _ => ⟨rfl, rfl⟩

theorem yielded_stay (m : BitVec 24) : Stays (fun p => { p with yielded := some m }) := fun _ => rfl

/-- An instruction leaves the agent in a wait that outlasts it, and a Spindle program changed as `fp` says. -/
theorem finish_setWait (s : State) (words : Nat) {fp : Spindle → Spindle} (hfp : Stays fp) (x : Wait)
    (h : canonical (s.nextPc words) = true) :
    s.finish words (.done ((s.modCurSpindle fp).setWait x))
      = s.complete (s.nextPc words) (fun w => { w with wait := x }) (fun p => { fp p with wait := x }) := by
  have hstay : Stays (fun p => { p with wait := x }) := fun _ => rfl
  rw [modCurSpindle_eq, setWait_eq, modAgent_modAgent s _ _ fp _ places_id (wait_place x) hfp hstay,
    finish_modAgent s words _ _ (wait_place x) (stays_comp hstay hfp) h]

theorem sleepOp_zero {n : Norm} (h : n.x.disp.toNat = 0) (r : Row) (s : State) : sleepOp r n s = .done s := by
  simp [sleepOp, h]

theorem sleepOp_work {n : Norm} (h : n.x.disp.toNat ≠ 0) (r : Row) (s : State) :
    sleepOp r n s = .done ((s.modCurSpindle (fun p => { p with live := 0 })).setWait (.sleep (s.cyc + 16 * n.x.disp.toNat))) := by
  simp [sleepOp, h]

/-- yield with a legal operand: a live mask of 24 bits, and of none on a wave. -/
theorem yieldOp_legal {s : State} {n : Norm} {r : Row} (hm : (s.scalOpnd n r.sa n.x.sa).toNat < 2 ^ 24)
    (hsimt : s.stream = .simt → s.scalOpnd n r.sa n.x.sa = 0) :
    yieldOp r n s =
      if s.agentReq = false then .done s
      else if s.curMode = .user then
        .done ((s.modCurSpindle (fun p => { p with live := (s.scalOpnd n r.sa n.x.sa).setWidth 24 })).setWait
          (.stopped causeSuspendYield))
      else .done (s.modAgent (fun w => { w with yielded := true })
        (fun p => { p with yielded := some ((s.scalOpnd n r.sa n.x.sa).setWidth 24) })) := by
  have hlegal : (decide (2 ^ 24 ≤ (s.scalOpnd n r.sa n.x.sa).toNat) ||
      (decide (s.stream = .simt) && s.scalOpnd n r.sa n.x.sa != 0)) = false := by
    rw [Bool.or_eq_false_iff, Bool.and_eq_false_imp]
    exact ⟨by simpa using hm, fun hs => by simpa using hsimt (of_decide_eq_true hs)⟩
  simp only [yieldOp, hlegal, Bool.false_eq_true, if_false, Bool.not_eq_true', beq_iff_eq]
  rfl

/-- Settles O18: nop and sleep 0 fall through; sleep and a yield that stops leave the agent in a wait (`finish_setWait`); exit
waits where it is. -/
theorem nopSleepYieldExit : Obligations.NopSleepYieldExit := by
  unfold Obligations.NopSleepYieldExit
  intro i s r n ha next d m
  have hyield : (∃ x, i = .yield x) → exec i s = .next (s.finish n.words (yieldOp r n s)) := by
    rintro ⟨x, rfl⟩
    exact exec_admitted ha
  refine ⟨fun hshape hnext => ?nop, fun hshape hnext hd => ?sleepZero, fun hshape hnext hd => ?sleep,
    fun hi hnext hm hsimt hreq => ?goesOn, fun hi hnext hm hsimt hreq hmode => ?stops,
    fun hi hnext hm hsimt hreq hmode => ?noted, fun hshape w hw => ?exitWave, fun hshape hw => ?exitSpindle⟩
  case nop => rw [adm_eq ha hshape nofun, Shape.work, nopOp, finish_same s _ hnext]
  case sleepZero => rw [adm_eq ha hshape nofun, Shape.work, sleepOp_zero hd, finish_same s _ hnext]
  case sleep => rw [adm_eq ha hshape nofun, Shape.work, sleepOp_work hd, finish_setWait s _ (live_stay 0) _ hnext]
  case goesOn => rw [hyield hi, yieldOp_legal hm hsimt, if_pos hreq, finish_same s _ hnext]
  case stops =>
    rw [hyield hi, yieldOp_legal hm hsimt, if_neg (by simp [hreq]), if_pos hmode, finish_setWait s _ (live_stay _) _ hnext]
  case noted =>
    rw [hyield hi, yieldOp_legal hm hsimt, if_neg (by simp [hreq]), if_neg (by simp [hmode]),
      finish_modAgent s _ _ _ yielded_place (yielded_stay _) hnext]
  case exitWave =>
    rw [adm_eq ha hshape nofun, Shape.work]
    simp only [exitOp, hw]
    rfl
  case exitSpindle =>
    rw [adm_eq ha hshape nofun, Shape.work]
    simp only [exitOp, hw]
    rfl

end Sys2Proof.Machine
end

section
/-! ## Checks, and accesses put in flight (12 R212 to R218, R224) -/

namespace Sys2Proof.Machine

/-- Settles O19: the checks change what a walk changes alone (`check_ok`). -/
theorem checksTouchOnlyTables : Obligations.ChecksTouchOnlyTables := by
  unfold Obligations.ChecksTouchOnlyTables
  intro s t w f x scratch reqs l sf h
  have hwalk : Retranslated s t := check_ok h
  exact ⟨hwalk.rest, hwalk.wf, hwalk.bytes⟩

theorem loadReqs_of_check {s t : State} {w : Wave} {n : Norm} {reqs : List Req} {l : List (Req × List Part)}
    {sf : List (Nat × BitVec 64 × BitVec 64)} (h : s.check w .load n.x (xScratch n.x) reqs = .ok l sf t) (dest : Dest) (lanes : BitVec 64) :
    loadReqs s w n reqs dest lanes = issueElems t w (elemsOf (xScratch n.x) 0 l) dest lanes [] w.stseq := by
  simp only [loadReqs, h]

theorem storeReqs_of_check {s t : State} {w : Wave} {f : AccForm} {n : Norm} {reqs : List Req} {l : List (Req × List Part)}
    {sf : List (Nat × BitVec 64 × BitVec 64)} (h : s.check w f n.x (xScratch n.x) reqs = .ok l sf t) :
    storeReqs s w f n reqs
      = issueElems t w (elemsOf (xScratch n.x) 0 l) .none 0 (sfRecords w (w.stseq + 1) sf) (w.stseq + 1) := by
  simp only [storeReqs, h]

/-- An instruction whose work is a load of requests. -/
theorem accessIssues_of_loadReqs {i : Instr} {s : State} {w : Wave} {r : Row} {n : Norm} {reqs : List Req} {dest : Dest} {lanes : BitVec 64}
    (h : Issues i s r n) (hw : s.curWave = some w) (hwork : work i r n s = loadReqs s w n reqs dest lanes) :
    AccessIssues i s w n .load (xScratch n.x) reqs 0 dest lanes false w.stseq :=
  access_of h hw (fun _ _ _ hc => hwork.trans (loadReqs_of_check hc dest lanes))

/-- An instruction whose work is a store of requests. -/
theorem accessIssues_of_storeReqs {i : Instr} {s : State} {w : Wave} {r : Row} {n : Norm} {f : AccForm} {reqs : List Req}
    (h : Issues i s r n) (hw : s.curWave = some w) (hwork : work i r n s = storeReqs s w f n reqs) :
    AccessIssues i s w n f (xScratch n.x) reqs 0 .none 0 true (w.stseq + 1) :=
  access_of h hw (fun _ _ _ hc => hwork.trans (storeReqs_of_check hc))

theorem ldOp_work {s : State} {w : Wave} (hw : s.curWave = some w) (r : Row) (n : Norm) :
    ldOp r n s = loadReqs s w n (s.laneReqs w n (xSize n.x) (fun _ => 2 ^ xSize n.x - 1) (fun _ => 0) (fun _ => .load))
      (.vec n.x.d.toNat (xSize n.x) (xSigned n.x)) (laneSet w n.x) := by
  simp only [ldOp, hw, allBytes]

theorem ldsOp_work {s : State} {w : Wave} (hw : s.curWave = some w) (r : Row) (n : Norm) :
    ldsOp r n s = loadReqs s w n [s.scalarReq w n (xSize n.x) 0 .load] (.scal n.x.d.toNat (xSize n.x) (xSigned n.x)) 0 := by
  simp only [ldsOp, hw]

theorem stOp_work {s : State} {w : Wave} (hw : s.curWave = some w) (r : Row) (n : Norm) :
    stOp r n s = storeReqs s w .store n (s.laneReqs w n (xSize n.x) (fun _ => 2 ^ xSize n.x - 1)
      (fun L => s.vwords w n.x.d.toNat L ((xSize n.x + 3) / 4)) (fun _ => .store)) := by
  simp only [stOp, hw, allBytes, State.storeData]

theorem stsOp_work {s : State} {w : Wave} (hw : s.curWave = some w) (r : Row) (n : Norm) :
    stsOp r n s = storeReqs s w .store n [s.scalarReq w n (xSize n.x) (s.srd n.x.d.toNat).toNat .store] := by
  simp only [stsOp, hw]

/-- stmsk whose sources carry no mark that it reads, or in a save or restore handler. -/
theorem stmskOp_clean {s : State} {w : Wave} (hw : s.curWave = some w) {r : Row} {n : Norm}
    (hclean : w.exemptPoison = true ∨ poisonLanes s w (stmskLanes s w n) (rowSources r s.stream n) = 0) :
    stmskOp r n s = storeReqs s w { AccForm.store with regs := false } n
      (((s.laneReqs w n (xSize n.x) (fun L => (s.vrd w n.x.sc.toNat L).toNat)
        (fun L => s.vwords w n.x.d.toNat L ((xSize n.x + 3) / 4)) (fun _ => .store)).filter (fun q => q.mask != 0)).map Req.trim) := by
  have hnone : (if w.exemptPoison = true then 0 else poisonLanes s w (stmskLanes s w n) (rowSources r s.stream n)) = 0 := by
    split
    · rfl
    · exact hclean.resolve_left ‹_›
  simp only [stmskOp, hw, hnone, bne_self_eq_false, Bool.false_eq_true, if_false, State.storeData]

/-- Settles O23: a load that passes its checks puts its elements in flight (`access_of`). -/
theorem loadsIssue : Obligations.LoadsIssue := by
  unfold Obligations.LoadsIssue
  intro i s w r n h hw size
  refine ⟨fun hshape => ?_, fun hshape => ?_⟩
  · have hwork : work i = ldOp := work_of_shape hshape nofun
    exact accessIssues_of_loadReqs h hw (by rw [hwork, ldOp_work hw])
  · have hwork : work i = ldsOp := work_of_shape hshape nofun
    exact accessIssues_of_loadReqs h hw (by rw [hwork, ldsOp_work hw])

/-- Settles O24: a store that passes its checks puts its elements and records in flight (`access_of`). -/
theorem storesIssue : Obligations.StoresIssue := by
  unfold Obligations.StoresIssue
  intro s w r n hw size
  refine ⟨fun i hshape h => ?_, fun i hshape h => ?_, fun f h hclean => ?_⟩
  · have hwork : work i = stOp := work_of_shape hshape nofun
    exact accessIssues_of_storeReqs h hw (by rw [hwork, stOp_work hw])
  · have hwork : work i = stsOp := work_of_shape hshape nofun
    exact accessIssues_of_storeReqs h hw (by rw [hwork, stsOp_work hw])
  · exact accessIssues_of_storeReqs h hw (stmskOp_clean hw hclean)

end Sys2Proof.Machine
end

section
/-! ## Atomics and remote signals (12 R217 to R220, R224; 05 R118, R119) -/

namespace Sys2Proof.Machine

theorem askPeers_frame (es : List Elem) : ∀ s : State, ∃ k, (s.askPeers es).2 = { s with free := k } := by
  induction es with
  | nil => exact fun s => ⟨s.free, rfl⟩
  | cons e es ih =>
    intro s
    unfold State.askPeers
    dsimp only
    split
    · exact ih { s with free := s.free + 1 }
    · exact ih s

theorem curWave_askPeers (s : State) (es : List Elem) : (s.askPeers es).2.curWave = s.curWave := by
  obtain ⟨k, hk⟩ := askPeers_frame es s
  rw [hk]
  rfl

/-- An instruction whose work is to put elements in flight, with room for them. -/
theorem exec_inFlight {i : Instr} {s t : State} {w : Wave} {r : Row} {n : Norm} {es : List Elem} {dest : Dest} {lanes : BitVec 64}
    {faults : List SfRec} {seq : BitVec 32} (h : Issues i s r n) (hw : t.curWave = some w)
    (hroom : Room w (fun e => e.path w.core) es (!faults.isEmpty))
    (hwork : work i r n s = issueElems t w es dest lanes faults seq) :
    ∃ u, exec i s = .next u ∧ InFlight (fun e => e.path w.core) t u w es dest lanes faults seq (s.nextPc n.words) := by
  obtain ⟨u, hu, hfly⟩ := issueOn_inFlight (dest := dest) (lanes := lanes) (seq := seq) hw hroom (s.nextPc n.words)
  refine ⟨_, ?_, hfly⟩
  rw [exec_admitted h.toAdmitted, hwork, issueElems, hu, finish_done _ _ _ h.next]

theorem atomOp_relaxed {s : State} {w : Wave} {n : Norm} {sc : Nat} (hw : s.curWave = some w) (hscope : s.scopeIn n = some sc)
    (hord : n.sub / 16 % 4 = 0) (r : Row) : atomOp r n s = atomRelaxed n s w sc := by
  simp only [atomOp, hw, hscope, hord, beq_self_eq_true, if_true]

theorem atomOp_ordered {s : State} {w : Wave} {n : Norm} {sc : Nat} (hw : s.curWave = some w) (hscope : s.scopeIn n = some sc)
    (hord : n.sub / 16 % 4 ≠ 0) (r : Row) : atomOp r n s = atomOrdered n s w sc := by
  simp only [atomOp, hw, hscope, beq_iff_eq, hord, if_false]

/-- The requests of an atomic name the operand and, for cas, the compare value of each lane (R217). -/
theorem atomReqs_eq (s : State) (w : Wave) (n : Norm) :
    s.atomReqs w n = s.laneReqs w n (xSize n.x) (fun _ => 2 ^ xSize n.x - 1) (fun _ => 0) (fun L =>
      .rmw (n.sub % 16) n.x.type.toNat
        (if n.sub % 16 = 7 then s.vget w (n.x.sc.toNat + typeRegs n.x.type.toNat) L (typeRegs n.x.type.toNat)
          else s.vget w n.x.sc.toNat L (typeRegs n.x.type.toNat))
        (if n.sub % 16 = 7 then s.vget w n.x.sc.toNat L (typeRegs n.x.type.toNat) else 0)) := by
  by_cases hcas : n.sub % 16 = 7 <;> simp [State.atomReqs, State.atomOperands, allBytes, hcas]

theorem atomRelaxed_clean {s t x : State} {w : Wave} {n : Norm} {sc : Nat} {l : List (Req × List Part)}
    {sf : List (Nat × BitVec 64 × BitVec 64)} {es : List Elem}
    (hcheck : s.check w .atomic n.x (xScratch n.x) (s.atomReqs w n) = .ok l sf t)
    (hask : t.askPeers ((elemsOf (xScratch n.x) sc l).map Elem.asAtomic) = (es, x))
    (hclean : ∀ e ∈ es, x.elemPoisoned w e = false) :
    atomRelaxed n s w sc = issueElems x w es (.vec n.x.d.toNat (xSize n.x) false) (laneSet w n.x) [] w.stseq := by
  have hnone : es.any (x.elemPoisoned w) = false := by simpa using hclean
  simp only [atomRelaxed, hcheck, hask, hnone, Bool.false_eq_true, if_false]

theorem sigaddOp_of_check {s t : State} {w : Wave} {n : Norm} {l : List (Req × List Part)} {sf : List (Nat × BitVec 64 × BitVec 64)}
    (hw : s.curWave = some w)
    (hcheck : s.check w .signal n.x false [s.scalarReq w n 8 (s.srd n.x.d.toNat).toNat .sig] = .ok l sf t) (r : Row) :
    sigaddOp r n s = issueElems t w (elemsOf false 0 l) .none 0 (sfRecords w (w.stseq + 1) sf) (w.stseq + 1) := by
  simp only [sigaddOp, hw, hcheck]

/-- Settles O25: a relaxed atomic that meets no poison, and a signal, put their elements in flight (`issueOn_inFlight`). -/
theorem atomicsIssue : Obligations.AtomicsIssue := by
  unfold Obligations.AtomicsIssue
  refine ⟨?atomic, fun f s w r n h hw => ?signal⟩
  case atomic =>
    intro f s w r n sc l sf t x es h hw hord hscope size c regs op hcheck hask hclean hroom
    have hcheck' : s.check w .atomic n.x (xScratch n.x) (s.atomReqs w n) = .ok l sf t := by rw [atomReqs_eq]; exact hcheck
    have hagent : x.curWave = some w := by
      have hasked := curWave_askPeers t ((elemsOf (xScratch n.x) sc l).map Elem.asAtomic)
      rw [hask] at hasked
      rw [hasked, frame_curWave (check_ok hcheck), hw]
    have hwork : work (.atom f) r n s = issueElems x w es (.vec n.x.d.toNat size false) (laneSet w n.x) [] w.stseq :=
      (atomOp_relaxed hw hscope hord r).trans (atomRelaxed_clean hcheck' hask hclean)
    exact exec_inFlight h hagent hroom hwork
  case signal =>
    exact access_of h hw (fun _ _ _ hcheck => sigaddOp_of_check hw hcheck r)

/-- The state in which an ordered atomic has acted on its cells in order: the signature and the count change once, after the last
lane (R219). -/
def State.orderedDone (u : State) (n : Norm) (w : Wave) (sc : Nat) (cells : List (Nat × Nat × Nat × BitVec 64 × BitVec 64)) : State :=
  let acq := n.sub / 16 % 2 == 1
  let rel := n.sub / 32 % 2 == 1
  let a := cells.foldl (atomCell n w sc rel acq u.curSig.1 u.curSig.2) { s := u, sig := 0, sat := false }
  let v := if rel then a.s.clearSig sc else a.s
  let x := if acq then (v.acquireDrop sc a.sig a.sat).mergeSig sc a.sig a.sat else v
  match cells with
  | q :: _ => (x.sampleNow 3 q.2.1 (paSpace q.2.2.1)).countDone w 3
  | [] => x

/-- An ordered atomic that has nothing to wait for, and meets no reserved bit and no poison. -/
theorem atomOrdered_done {s t u : State} {w : Wave} {n : Norm} {sc : Nat} {l : List (Req × List Part)}
    {sf : List (Nat × BitVec 64 × BitVec 64)}
    (hcheck : s.check w .orderedAtomic n.x (xScratch n.x) (s.atomReqs w n) = .ok l sf t)
    (hcount : w.counter 3 < 63) (hready : (n.sub / 32 % 2 == 1) = true → t.releaseReady sc = true)
    (hidle : ∀ q ∈ atomCells l, t.lineBusy q.2.2.1 = false)
    (hlegal : ∀ q ∈ atomCells l, (cellOf (t.cellRead sc q.2.1 q.2.2.1).1).reserved = false)
    (hrelease : (if n.sub / 32 % 2 == 1 then t.releaseStep sc else (none, t)) = (none, u))
    (hclean : ∀ q ∈ atomCells l, (t.cellRead sc q.2.1 q.2.2.1).2.1 = false) :
    atomOrdered n s w sc = .done (u.orderedDone n w sc (atomCells l)) := by
  unfold atomOrdered State.orderedDone
  simp only [hcheck]
  generalize atomCells l = cells at hidle hlegal hclean ⊢
  have hwait : ((n.sub / 32 % 2 == 1) && !t.releaseReady sc || cells.any (fun q => t.lineBusy q.2.2.1)) = false := by
    rw [Bool.or_eq_false_iff, Bool.and_eq_false_imp, List.any_eq_false]
    exact ⟨fun hrel => by simp [hready hrel], fun q hq => by simp [hidle q hq]⟩
  have hroom : (!cells.isEmpty && w.pathFull 3) = false := by simp [Wave.pathFull, hcount]
  have hbad : cells.filter (fun q => (cellOf (t.cellRead sc q.2.1 q.2.2.1).1).reserved) = [] := by
    rw [List.filter_eq_nil_iff]
    exact fun q hq => by simp [hlegal q hq]
  have hunp : cells.filter (fun q => (t.cellRead sc q.2.1 q.2.2.1).2.1) = [] := by
    rw [List.filter_eq_nil_iff]
    exact fun q hq => by simp [hclean q hq]
  have hgood : cells.filter (fun q => !(t.cellRead sc q.2.1 q.2.2.1).2.1) = cells := by
    rw [List.filter_eq_self]
    exact fun q hq => by simp [hclean q hq]
  simp only [hwait, hroom, hbad, hunp, hgood, hrelease, List.isEmpty_nil, if_true, Bool.false_eq_true, if_false]
  cases cells <;> rfl

/-- Settles O26: `atomOrdered_done`. -/
theorem orderedAtomics : Obligations.OrderedAtomics := by
  unfold Obligations.OrderedAtomics
  intro f s w r n sc l sf t u h hw hord hscope hcheck acq rel cells hcount hready hidle hlegal hrelease hclean a v x
  have hwork : work (.atom f) r n s = .done (u.orderedDone n w sc cells) :=
    (atomOp_ordered hw hscope hord r).trans (atomOrdered_done hcheck hcount hready hidle hlegal hrelease hclean)
  rw [exec_admitted h.toAdmitted, hwork, finish_done _ _ _ h.next]
  rfl

end Sys2Proof.Machine
end

section
/-! ## Sync cells, releases, acquires, fences and counter waits (12 R221, R222, R228; 05 R113, R117 to R119, R122) -/

namespace Sys2Proof.Machine

/-! ### The fields of a cell -/

section
variable (value : BitVec 64) (sat : Bool) (epoch : BitVec 32) (sig : Sig)

theorem cellOf_cellBits_value : (cellOf (cellBits value sat epoch sig)).value = value := by
  apply BitVec.eq_of_toNat_eq
  simp only [cellOf, cellBits, BitVec.toNat_ofNat]
  have := value.isLt
  split <;> omega

theorem cellOf_cellBits_reserved : (cellOf (cellBits value sat epoch sig)).reserved = false := by
  simp only [cellOf, cellBits, Bool.or_eq_false_iff, bne_eq_false_iff_eq]
  have := value.isLt
  have := epoch.isLt
  constructor <;> split <;> omega

theorem cellOf_cellBits_sig : (cellOf (cellBits value sat epoch sig)).sig = sig := by
  apply BitVec.eq_of_toNat_eq
  simp only [cellOf, cellBits, BitVec.toNat_ofNat]
  have := value.isLt
  have := epoch.isLt
  have := sig.isLt
  split <;> omega

theorem cellOf_cellBits_epoch : (cellOf (cellBits value sat epoch sig)).epoch = epoch := by
  apply BitVec.eq_of_toNat_eq
  simp only [Cell.epoch, cellOf, cellBits, BitVec.extractLsb'_toNat, BitVec.toNat_ofNat]
  have := value.isLt
  have := epoch.isLt
  split <;> omega

theorem cellOf_cellBits_sat : (cellOf (cellBits value sat epoch sig)).sat = sat := by
  have := value.isLt
  have := epoch.isLt
  have hbit : cellBits value sat epoch sig / 2 ^ 64 / 2 ^ 32 = sat.toNat + 2 * (2 ^ 415 * sig.toNat) := by
    rw [Nat.div_div_eq_div_mul, cellBits]
    cases sat <;> simp only [if_true, if_false, Bool.false_eq_true, Bool.toNat_true, Bool.toNat_false] <;> omega
  simp only [Cell.sat, cellOf, BitVec.getLsbD_ofNat, Nat.testBit_eq_decide_div_mod_eq, hbit, Nat.add_mul_mod_self_left]
  cases sat <;> rfl

end

/-- The bytes that a release writes in a cell (R118). -/
theorem release_eq_cellBits (c : Cell) (mode : Nat) (x : BitVec 64) (ws : Sig) (wsat : Bool) :
    c.release mode x ws wsat = cellBits x
      (if mode = 2 then true else if mode = 1 then wsat || sigHeavy ws else c.sat || wsat || sigHeavy (c.sig ||| ws))
      (c.epoch + 1) (if mode = 1 then ws else c.sig ||| ws) := by
  by_cases hfresh : mode = 1 <;> simp only [Cell.release, beq_iff_eq, hfresh, if_true, if_false]

/-- What a release writes in a cell, field by field (R118). -/
theorem cellOf_release (c : Cell) (mode : Nat) (x : BitVec 64) (ws : Sig) (wsat : Bool) :
    let d := cellOf (c.release mode x ws wsat)
    d.value = x ∧ d.epoch = c.epoch + 1 ∧ d.reserved = false ∧
    d.sig = (if mode = 1 then ws else c.sig ||| ws) ∧
    d.sat = (if mode = 2 then true else if mode = 1 then wsat || sigHeavy ws else c.sat || wsat || sigHeavy (c.sig ||| ws)) := by
  rw [release_eq_cellBits]
  exact ⟨cellOf_cellBits_value _ _ _ _, cellOf_cellBits_epoch _ _ _ _, cellOf_cellBits_reserved _ _ _ _, cellOf_cellBits_sig _ _ _ _,
    cellOf_cellBits_sat _ _ _ _⟩

/-! ### The works -/

theorem relOp_done {s t u v : State} {n : Norm} {sc : Nat} {va : BitVec 64} {pa : Nat} {k : PageKind} {x : Nat} {p : Bool}
    (hscope : s.scopeIn n = some sc) (hfound : s.locate .release n 8 = .found va pa k t) (hready : t.releaseReady sc = true)
    (hidle : t.lineBusy pa = false) (hread : t.cellRead sc va.toNat pa = (x, p, u)) (hlegal : (cellOf x).reserved = false)
    (hrelease : u.releaseStep sc = (none, v)) (r : Row) :
    relOp r n s = .done ((v.cellWrite sc va.toNat pa ((cellOf x).release n.sub (v.srd n.x.d.toNat) v.curSig.1 v.curSig.2) cellMask).clearSig
      sc) := by
  simp only [relOp, hscope, hfound, hready, hidle, hread, hlegal, hrelease, Bool.not_true, Bool.or_false, Bool.false_eq_true, if_false]

theorem acqOp_done {s t u : State} {n : Norm} {sc : Nat} {va : BitVec 64} {pa : Nat} {k : PageKind} {x : Nat}
    (hscope : s.scopeIn n = some sc) (hfound : s.locate .acquire n 8 = .found va pa k t) (hidle : t.lineBusy pa = false)
    (hread : t.cellRead sc va.toNat pa = (x, false, u)) (hlegal : (cellOf x).reserved = false) (r : Row) :
    acqOp r n s = .done (((u.acquireDrop sc (cellOf x).sig (cellOf x).sat).mergeSig sc (cellOf x).sig (cellOf x).sat).swr
      n.x.d.toNat (cellOf x).value) := by
  simp only [acqOp, hscope, hfound, hidle, hread, hlegal, Bool.false_eq_true, if_false]

theorem fenceOp_waits {s : State} {n : Norm} {sc : Nat} (hscope : s.scopeIn n = some sc) (hready : s.releaseReady sc = false) (r : Row) :
    fenceOp r n s = .wait s (.retry 6 true) := by
  simp only [fenceOp, hscope, hready, Bool.not_false, if_true]

theorem fenceOp_done {s t : State} {n : Norm} {sc : Nat} (hscope : s.scopeIn n = some sc) (hready : s.releaseReady sc = true)
    (hrelease : s.releaseStep sc = (none, t)) (r : Row) : fenceOp r n s = .done (t.acquireEvery sc) := by
  simp only [fenceOp, hscope, hready, hrelease, Bool.not_true, Bool.false_eq_true, if_false]

theorem fenceUnOp_waits {s : State} {n : Norm} {sc : Nat} (hscope : s.scopeIn n = some sc) (hready : s.releaseReady sc = false) (r : Row) :
    fenceUnOp r n s = .wait s (.retry 6 true) := by
  simp only [fenceUnOp, hscope, hready, Bool.not_false, if_true]

theorem fenceUnOp_drops {s t : State} {w : Wave} {n : Norm} {sc : Nat} (hscope : s.scopeIn n = some sc) (hready : s.releaseReady sc = true)
    (hw : s.curWave = some w) (hwide : scopeCluster ≤ sc) (hrelease : s.releaseUn w.core w.ctx = ([], t)) (r : Row) :
    fenceUnOp r n s = .done (t.dropUn w.core w.ctx) := by
  simp only [fenceUnOp, hscope, hready, hw, hrelease, Nat.not_lt.2 hwide, Bool.not_true, Bool.false_eq_true, if_false, List.foldl_nil]

/-- At a scope within the core, and on a Spindle program, which has no L1, there is no line to drop (R113, R222). -/
theorem fenceUnOp_same {s : State} {n : Norm} {sc : Nat} (hscope : s.scopeIn n = some sc) (hready : s.releaseReady sc = true)
    (hnarrow : s.curWave = none ∨ sc < scopeCluster) (r : Row) : fenceUnOp r n s = .done s := by
  simp only [fenceUnOp, hscope, hready, Bool.not_true, Bool.false_eq_true, if_false]
  cases hw : s.curWave with
  | none => rfl
  | some w => exact if_pos (hnarrow.resolve_left (by simp [hw]))

theorem cwaitOp_work {s : State} {w : Wave} (hw : s.curWave = some w) (r : Row) (n : Norm) :
    cwaitOp r n s = if 63 ≤ (s.srd n.x.d.toNat).toNat ∨ w.counter (n.x.disp.toNat % 8) ≤ (s.srd n.x.d.toNat).toNat then .done s
      else .wait s (.retry 6 true) := by
  simp only [cwaitOp, hw, Bool.or_eq_true, decide_eq_true_eq]

/-! ### The obligations -/

/-- Settles O27: the fields of a released cell (`cellOf_release`), and what rel and acq do on a cell that they can reach
(`relOp_done`, `acqOp_done`). -/
theorem releasesAndAcquires : Obligations.ReleasesAndAcquires := by
  unfold Obligations.ReleasesAndAcquires
  refine ⟨fun v mode x ws wsat => cellOf_release (cellOf v) mode x ws wsat, ?release, ?acquire⟩
  case release =>
    intro i s r n sc va pa k t u v x p hshape h hscope hfound hready hidle hread hlegal hrelease
    rw [issue_eq h hshape nofun, Shape.work, relOp_done hscope hfound hready hidle hread hlegal hrelease r, finish_done _ _ _ h.next]
  case acquire =>
    intro f s r n sc va pa k t u x h hscope hfound hidle hread hlegal c
    have hwork : work (.acq f) r n s = .done (((u.acquireDrop sc c.sig c.sat).mergeSig sc c.sig c.sat).swr n.x.d.toNat c.value) :=
      acqOp_done hscope hfound hidle hread hlegal r
    rw [exec_admitted h.toAdmitted, hwork, finish_done _ _ _ h.next, swr_eq,
      complete_modAgent _ _ _ _ _ _ (withS_place _ _) places_id (withX_place _ _) stays_id]

/-- Settles O28: each either completes with its write-back and drop made, or waits where it is. -/
theorem fencesAndCounterWaits : Obligations.FencesAndCounterWaits := by
  unfold Obligations.FencesAndCounterWaits
  refine fun s r n => ⟨fun f sc h hscope => ?fence, fun f sc h hscope => ?fenceUn, fun i w hshape h hw => ?countWait⟩
  case fence =>
    have hexec : exec (.fence f) s = .next (s.finish n.words (fenceOp r n s)) := exec_admitted h.toAdmitted
    refine ⟨fun t hready hrelease => ?_, fun hready => ?_⟩
    · rw [hexec, fenceOp_done hscope hready hrelease, finish_done _ _ _ h.next]
    · rw [hexec, fenceOp_waits hscope hready, finish_wait]
  case fenceUn =>
    have hexec : exec (.fenceUn f) s = .next (s.finish n.words (fenceUnOp r n s)) := exec_admitted h.toAdmitted
    refine ⟨fun w t hready hw hwide hrelease => ?_, fun hready hnarrow => ?_, fun hready => ?_⟩
    · rw [hexec, fenceUnOp_drops hscope hready hw hwide hrelease, finish_done _ _ _ h.next]
    · rw [hexec, fenceUnOp_same hscope hready hnarrow, finish_same _ _ h.next]
    · rw [hexec, fenceUnOp_waits hscope hready, finish_wait]
  case countWait =>
    rw [issue_eq h hshape nofun, Shape.work, cwaitOp_work hw, apply_ite (s.finish n.words), finish_same _ _ h.next, finish_wait]

end Sys2Proof.Machine
end

section
/-! ## Cache hints and base translation (12 R226, R227; 04 R93, R94) -/

namespace Sys2Proof.Machine

/-! ### Hints -/

theorem hintLines_frame (s : State) (w : Wave) (n : Norm) : Retranslated s (s.hintLines w n).2 := placeAll_frame _ _ _ _ s

theorem prefOp_done {s : State} {w : Wave} (hw : s.curWave = some w) (r : Row) (n : Norm) :
    ∃ t, prefOp r n s = .done t ∧ Calm s t := by
  simp only [prefOp, hw]
  refine ⟨_, rfl, (hintLines_frame s w n).calm.trans (calm_foldl _ (fun t q => ?_) _ _)⟩
  split
  · exact Calm.refl t
  · exact calm_l1Get t _ _ _ _ _

theorem evictOp_done {s : State} {w : Wave} (hw : s.curWave = some w) (r : Row) (n : Norm) :
    ∃ t, evictOp r n s = .done t ∧ Calm s t := by
  simp only [evictOp, hw]
  exact ⟨_, rfl, (hintLines_frame s w n).calm.trans (calm_foldl _ (fun t q => calm_l1Flush t _ _ _) _ _)⟩

/-- Waves that are alike complete alike, but for the store-fault queue. -/
theorem Wave.Like.completed {w v : Wave} (h : w.Like v) (pc : BitVec 64) :
    v.completed pc = { w.completed pc with sfq := (v.completed pc).sfq } := by
  obtain ⟨hrest, hwait⟩ := h
  unfold Wave.completed
  rw [hwait, hrest]

theorem om_complete (s : State) (pc : BitVec 64) (f : Wave → Wave) (g : Spindle → Spindle) : (s.complete pc f g).om = s.om := by
  rw [complete_eq, modAgent_rest]

theorem cs_complete (s : State) (pc : BitVec 64) (f : Wave → Wave) (g : Spindle → Spindle) : (s.complete pc f g).cs = s.cs := by
  rw [complete_eq, modAgent_rest]

/-- Settles O29: a hint ends in a state that is calm (`prefOp_done`, `evictOp_done`), and the wave goes on in it. -/
theorem hintsComplete : Obligations.HintsComplete := by
  unfold Obligations.HintsComplete
  intro i s w r n hi h hw
  have hwork : ∃ t, work i r n s = .done t ∧ Calm s t := by
    rcases hi with hshape | ⟨f, rfl⟩
    · rw [work_of_shape hshape nofun]
      exact prefOp_done hw r n
    · exact evictOp_done hw r n
  obtain ⟨t, hdone, hcalm⟩ := hwork
  obtain ⟨v, hv, hlike⟩ := hcalm.curWave hw
  have hplaces : Places (fun x : Wave => x.completed (s.nextPc n.words)) := fun _ => ⟨rfl, rfl⟩
  refine ⟨t.complete (s.nextPc n.words) (fun x => x) (fun p => p), v.completed (s.nextPc n.words), ?_,
    curWave_modAgent hv _ _ hplaces, ?_, ?_, ?_, hlike.completed _⟩
  · rw [exec_admitted h.toAdmitted, hdone, finish_done _ _ _ h.next]
  · rw [cs_complete, hcalm.cs]
  · rw [complete_marks, hcalm.csMark]
  · rw [om_complete, hcalm.om]

/-! ### Base translation -/

/-- The base translation register that a found page gives (R226). -/
def TlbEntry.bregAt (e : TlbEntry) (v : BitVec 64) : BReg :=
  { valid := true, vb := v.toNat % 2 ^ 57, pb := e.pa v.toNat, limit := min (e.va + e.size - v.toNat % 2 ^ 57) (2 ^ 32 - 1), ord := e.ord,
    rd := e.r, wr := e.w && e.d, usr := e.u }

/-- A wave whose base translation register has been set. -/
def Wave.withB (w : Wave) (d : Nat) (b : BReg) : Wave := { w with b := sput (fun _ => BReg.none) w.b d b }

/-- A page that only its own user may use (R226). -/
def Need.userOnly : Need := { read := false, write := false, fetch := false, user := true }

section
variable {s t u : State} {w : Wave} {n : Norm} (hw : s.curWave = some w)
include hw

theorem btransOp_noncanonical (hv : canonical (s.srd n.x.sa.toNat) = false) (r : Row) :
    btransOp r n s = .trap s causeNoncanonical (s.srd n.x.sa.toNat) 0 := by
  simp only [btransOp, hw, hv, Bool.not_false, if_true]

variable (hv : canonical (s.srd n.x.sa.toNat) = true)
include hv

theorem btransOp_readable {e : TlbEntry}
    (ht : s.translate w.core w.ctx (s.srd n.x.sa.toNat).toNat (Need.load false) = (.ok e, t)) (r : Row) :
    btransOp r n s = .done (t.modCurWave (fun w => w.withB n.x.d.toNat (e.bregAt (s.srd n.x.sa.toNat)))) := by
  simp only [btransOp, hw, hv, ht, Bool.not_true, Bool.false_eq_true, if_false]
  rfl

variable {x : Xlate} (ht : s.translate w.core w.ctx (s.srd n.x.sa.toNat).toNat (Need.load false) = (x, t)) (hx : ∀ e, x ≠ .ok e)
include ht hx

theorem btransOp_user {e : TlbEntry} (hu : t.translate w.core w.ctx (s.srd n.x.sa.toNat).toNat Need.userOnly = (.ok e, u)) (r : Row) :
    btransOp r n s = .done (u.modCurWave (fun w => w.withB n.x.d.toNat (e.bregAt (s.srd n.x.sa.toNat)))) := by
  unfold Need.userOnly at hu
  simp only [btransOp, hw, hv, ht, hu, Bool.not_true, Bool.false_eq_true, if_false]
  rfl

theorem btransOp_neither {y : Xlate} (hu : t.translate w.core w.ctx (s.srd n.x.sa.toNat).toNat Need.userOnly = (y, u))
    (hy : ∀ e, y ≠ .ok e) (r : Row) :
    btransOp r n s = .done (u.modCurWave (fun w =>
      w.withB n.x.d.toNat { BReg.none with vb := (s.srd n.x.sa.toNat).toNat % 2 ^ 57 })) := by
  unfold Need.userOnly at hu
  simp only [btransOp, hw, hv, ht, hu, Bool.not_true, Bool.false_eq_true, if_false]
  rfl

end

theorem withB_place (d : Nat) (b : BReg) : Places (fun w => w.withB d b) := fun _ => ⟨rfl, rfl⟩

/-- An instruction whose work sets a base translation register. -/
theorem finish_withB (s t : State) (words d : Nat) (b : BReg) (h : canonical (s.nextPc words) = true) :
    s.finish words (.done (t.modCurWave (fun w => w.withB d b)))
      = t.complete (s.nextPc words) (fun w => w.withB d b) (fun p => p) := by
  rw [finish_done _ _ _ h, modCurWave_eq, complete_modAgent _ _ _ _ _ _ (withB_place d b) places_id stays_id stays_id]

/-- Settles O30: the register is set from the first of the two translations that finds the page, or cleared. -/
theorem baseTranslation : Obligations.BaseTranslation := by
  unfold Obligations.BaseTranslation
  intro f s t u w r n h hw v vb asUser put
  have hexec : exec (.btrans f) s = .next (s.finish n.words (btransOp r n s)) := exec_admitted h.toAdmitted
  refine ⟨fun hv => ?noncanonical, fun hv e ht => ?readable, fun hv x ht hx => ⟨fun e hu => ?user, fun y hu hy => ?neither⟩⟩
  case noncanonical =>
    rw [hexec, btransOp_noncanonical hw hv]
    rfl
  case readable =>
    rw [hexec, btransOp_readable hw hv ht, finish_withB _ _ _ _ _ h.next]
    rfl
  case user =>
    rw [hexec, btransOp_user hw hv ht hx hu, finish_withB _ _ _ _ _ h.next]
    rfl
  case neither =>
    rw [hexec, btransOp_neither hw hv ht hx hu hy, finish_withB _ _ _ _ _ h.next]
    rfl

end Sys2Proof.Machine
end

section
/-! ## Data accesses of the Spindle stream (12 R229; 05 R125)

xld and xst act element by element. While no element meets poison or a refusal, the fold of the instruction agrees with one that
fails at the first such element (`foldl_of_bind`). -/

namespace Sys2Proof.Machine

theorem foldl_bind_none {α β : Type} (f : β → α → Option β) (l : List α) :
    l.foldl (fun (acc : Option β) a => acc.bind (fun b => f b a)) none = none := by
  induction l with
  | nil => rfl
  | cons a l ih => exact ih

/-- A fold whose steps follow those of one that may fail: where the latter ends, the former ends. -/
theorem foldl_of_bind {α β γ : Type} {f : β → α → Option β} {g : γ → α → γ} {k : β → γ}
    (hstep : ∀ b a b', f b a = some b' → g (k b) a = k b') (l : List α) :
    ∀ b b', l.foldl (fun (acc : Option β) a => acc.bind (fun b => f b a)) (some b) = some b' → l.foldl g (k b) = k b' := by
  induction l with
  | nil =>
    intro b b' h
    cases h
    rfl
  | cons a l ih =>
    intro b b' h
    rw [List.foldl_cons, Option.bind_some] at h
    cases hf : f b a with
    | none =>
      rw [hf, foldl_bind_none] at h
      cases h
    | some c =>
      rw [hf] at h
      rw [List.foldl_cons, hstep b a c hf]
      exact ih c b' h

/-! ### One element -/

/-- What an element of xld brings when it meets no poison and no refusal: the value read so far, and the state. -/
def Spindle.readClean (p : Spindle) (a : Nat × State) (e : Elem) : Option (Nat × State) :=
  let b := a.2.spRead p e
  if b.1.poison || b.1.refused then none else some (a.1 + b.1.value * 2 ^ (8 * e.at_), b.2)

/-- One element of xld, whatever it meets: the value so far, whether an element was marked, and the state (log entry 80). -/
def Spindle.readElem (p : Spindle) (acc : Nat × Bool × State) (e : Elem) : Nat × Bool × State :=
  let (b, t) := acc.2.2.spRead p e
  let bad := b.poison || b.refused
  let (x, t) := if bad then t.takeBytes e.bytes else (b.value, t)
  let t := if b.refused then t.logSpindle p 0x55 causeRemoteRefused (BitVec.ofNat 64 (e.va.getD 0)) else t
  (acc.1 + x * 2 ^ (8 * e.at_), acc.2.1 || bad, t)

theorem readElem_of_readClean {p : Spindle} {a b : Nat × State} {e : Elem} (h : p.readClean a e = some b) :
    p.readElem (a.1, false, a.2) e = (b.1, false, b.2) := by
  unfold Spindle.readClean at h
  dsimp only at h
  split at h
  · cases h
  next hgood =>
    cases h
    rw [Bool.or_eq_true, not_or, Bool.not_eq_true, Bool.not_eq_true] at hgood
    obtain ⟨hpoison, hrefused⟩ := hgood
    simp only [Spindle.readElem, hpoison, hrefused, Bool.or_self, Bool.false_eq_true, if_false]

/-- An element of xst that no peer refuses. -/
def Spindle.writeClean (p : Spindle) (s : State) (e : Elem) : Option State :=
  let b := s.spWrite p e
  if b.1 then none else some b.2

/-- One element of xst: the address of the first that was refused, and the state. -/
def Spindle.writeElem (p : Spindle) (acc : Option (BitVec 64) × State) (e : Elem) : Option (BitVec 64) × State :=
  let (r, t) := acc.2.spWrite p e
  (if r && acc.1.isNone then some (BitVec.ofNat 64 (e.va.getD 0)) else acc.1, t)

theorem writeElem_of_writeClean {p : Spindle} {s t : State} {e : Elem} (h : p.writeClean s e = some t) :
    p.writeElem (none, s) e = (none, t) := by
  unfold Spindle.writeClean at h
  dsimp only at h
  split at h
  · cases h
  next hgood =>
    cases h
    simp only [Spindle.writeElem, hgood, Bool.false_and, Bool.false_eq_true, if_false]

/-! ### The works -/

/-- The state in which xld ends: x[D] holds the value read, marked if an element was. -/
def xldEnd (n : Norm) (q : Nat × Bool × State) : State :=
  let t := q.2.2.swr n.x.d.toNat (BitVec.ofNat 64 (extendBytes q.1 (xSize n.x) (xSigned n.x) 64))
  if q.2.1 then t.modCurSpindle (fun y => { y with xMark := setAdd n.x.d.toNat y.xMark }) else t

/-- How xst ends: a refusal is precise, and else the lines of RC stores join WS. -/
def xstEnd (p : Spindle) (es : List Elem) (q : Option (BitVec 64) × State) : Res :=
  match q.1 with
  | some a => .trap (q.2.logSpindle p 0x55 causeRemoteRefused a) causeRemoteRefused a 0
  | none => .done (q.2.setSig ((es.filter q.2.signs).foldl (fun g e => sigAdd e.line g) q.2.curSig.1) q.2.curSig.2)

section
variable {s t u : State} {p : Spindle} {n : Norm} {es : List Elem} (hp : s.curSpindle = some p)
include hp

section
variable (helems : s.spElems { AccForm.load with regs := false } n 0 .load = .ok es t)
include helems

theorem xldOp_elems (r : Row) : xldOp r n s = .done (xldEnd n (es.foldl p.readElem (0, false, t))) := by
  simp only [xldOp, hp, helems]
  rfl

theorem xldOp_clean {v : Nat} (hread : es.foldl (fun acc e => acc.bind (fun a => p.readClean a e)) (some (0, t)) = some (v, u)) (r : Row) :
    xldOp r n s = .done (u.swr n.x.d.toNat (BitVec.ofNat 64 (extendBytes v (xSize n.x) (xSigned n.x) 64))) := by
  have hfold : es.foldl p.readElem (0, false, t) = (v, false, u) :=
    foldl_of_bind (k := fun a : Nat × State => (a.1, false, a.2)) (fun _ _ _ => readElem_of_readClean) es (0, t) (v, u) hread
  rw [xldOp_elems hp helems, hfold]
  rfl

end

section
variable (helems : s.spElems { AccForm.store with regs := false, imprecise := false } n (s.srd n.x.d.toNat).toNat .store = .ok es t)
include helems

theorem xstOp_elems (r : Row) : xstOp r n s = xstEnd p es (es.foldl p.writeElem (none, t)) := by
  simp only [xstOp, hp, helems]
  rfl

theorem xstOp_clean (hwrite : es.foldl (fun acc e => acc.bind (fun a => p.writeClean a e)) (some t) = some u) (r : Row) :
    xstOp r n s = .done (u.setSig ((es.filter u.signs).foldl (fun g e => sigAdd e.line g) u.curSig.1) u.curSig.2) := by
  have hfold : es.foldl p.writeElem (none, t) = (none, u) :=
    foldl_of_bind (k := fun a : State => ((none : Option (BitVec 64)), a)) (fun _ _ _ => writeElem_of_writeClean) es t u hwrite
  rw [xstOp_elems hp helems, hfold]
  rfl

end
end

/-- Settles O31: xld and xst complete with what their elements brought (`xldOp_clean`, `xstOp_clean`). -/
theorem spindleLoadsAndStores : Obligations.SpindleLoadsAndStores := by
  unfold Obligations.SpindleLoadsAndStores
  refine ⟨fun f s p r n es t u v h hp helems hread => ?load, fun f s p r n es t u h hp helems hwrite => ?store⟩
  case load =>
    have hexec : exec (.xld f) s = .next (s.finish n.words (xldOp r n s)) := exec_admitted h.toAdmitted
    rw [hexec, xldOp_clean hp helems hread, finish_done _ _ _ h.next, swr_eq,
      complete_modAgent _ _ _ _ _ _ (withS_place _ _) places_id (withX_place _ _) stays_id]
  case store =>
    have hexec : exec (.xst f) s = .next (s.finish n.words (xstOp r n s)) := exec_admitted h.toAdmitted
    rw [hexec, xstOp_clean hp helems hwrite, finish_done _ _ _ h.next]

end Sys2Proof.Machine
end

section
/-! ## Slot stores (12 R225; 03 R70, R71) -/

namespace Sys2Proof.Machine

/-! ### One write into a slot -/

/-- The bytes of the pieces of a slot write, later pieces over earlier ones (R71). -/
def slotPut (m : Memory) (cl i : Nat) (pieces : List (Nat × Nat × Nat)) : Memory :=
  pieces.foldl (fun m q => m.writeNat (slotAddr cl i + q.1) (pieceRoom q) (q.2.2 % 2 ^ (8 * pieceRoom q))) m

/-- How many bytes the pieces of a slot write count (R70). -/
def slotCount (pieces : List (Nat × Nat × Nat)) : Nat := pieces.foldl (fun a (q : Nat × Nat × Nat) => a + q.2.1) 0

section
variable {s : State} {p : Spindle} {o : OSlot} {ctx cl i : Nat} (hp : s.spindle? cl = some p) (ho : p.slot i = o)
  (pieces : List (Nat × Nat × Nat))
include hp ho

theorem slotWrite_state (h : p.ctx ≠ ctx ∨ o.state = .free) : s.slotWrite ctx cl i pieces = .cause causeSlotState := by
  have hcause : (p.ctx != ctx || o.state == .free) = true := by simpa using h
  simp only [State.slotWrite, hp, ho, hcause, if_true]

variable (hctx : p.ctx = ctx)
include hctx

theorem slotWrite_waits (h : o.state = .ready ∨ o.state = .inUse) : s.slotWrite ctx cl i pieces = .waits := by
  rcases h with h | h <;> simp [State.slotWrite, hp, ho, hctx, h]

variable (hfree : o.state ≠ .free) (hready : o.state ≠ .ready) (huse : o.state ≠ .inUse)
include hfree hready huse

/-- A slot that is filling or allocated takes a write that it has room for, and no other. -/
theorem slotWrite_open :
    s.slotWrite ctx cl i pieces =
      if o.size < o.count + slotCount pieces then .cause causeSlotOverfill
      else .done (({ s with om := slotPut s.om cl i pieces }).modSpindle cl
        (fun q => q.setSlot i (o.accept (slotCount pieces) pieces))) := by
  simp only [State.slotWrite, hp, ho, hctx, slotPut, slotCount, bne_self_eq_false, Bool.false_or, Bool.or_eq_true, beq_iff_eq, hfree,
    hready, huse, or_self, if_false]
  rfl

end

/-! ### The pieces of ostore -/

/-- The piece of a slot that each lane writes: its offset, length and value. -/
def ostorePieces (s : State) (w : Wave) (n : Norm) : List (Nat × Nat × Nat) :=
  (lanesOf (laneSet w n.x)).map (fun L =>
    (s.laneOff w n.x (xSize n.x) L, xSize n.x, s.vwords w n.x.d.toNat L ((xSize n.x + 3) / 4)))

/-- The lanes whose bytes pass a slot's declared size. -/
def ostorePast (s : State) (w : Wave) (n : Norm) (bound : Nat) : List Nat :=
  (lanesOf (laneSet w n.x)).filter (fun L => bound < s.laneOff w n.x (xSize n.x) L + xSize n.x)

/-- Pieces of one length count that length each. -/
theorem foldl_add_const {α : Type} (c : Nat) (l : List α) : ∀ a, l.foldl (fun a _ => a + c) a = a + c * l.length := by
  induction l with
  | nil => exact fun _ => rfl
  | cons x l ih =>
    intro a
    rw [List.foldl_cons, ih, List.length_cons, Nat.mul_succ]
    omega

theorem slotCount_ostorePieces (s : State) (w : Wave) (n : Norm) :
    slotCount (ostorePieces s w n) = xSize n.x * (lanesOf (laneSet w n.x)).length := by
  rw [slotCount, ostorePieces, List.foldl_map, foldl_add_const, Nat.zero_add]

theorem ostorePast_eq_nil_iff (s : State) (w : Wave) (n : Norm) (bound : Nat) :
    ostorePast s w n bound = [] ↔ ∀ L ∈ lanesOf (laneSet w n.x), s.laneOff w n.x (xSize n.x) L + xSize n.x ≤ bound := by
  simp [ostorePast, List.filter_eq_nil_iff]

/-! ### The work -/

theorem modCurWave_of_place {s : State} {c k : Nat} (h : s.cur = .wave c k) (f : Wave → Wave) : s.modCurWave f = s.modWave c k f := by
  rw [State.modCurWave, h]

section
variable {s : State} {w : Wave} {n : Norm} (hw : s.curWave = some w)
include hw

theorem ostoreOp_foreign (hcore : n.x.sa.toNat / 16 ≠ w.core % 4) (r : Row) : ostoreOp r n s = .trap s causeIllegalOperand 0 0 := by
  simp only [ostoreOp, hw, bne_iff_ne, ne_eq, hcore, not_false_eq_true, if_true]

variable (hcount : w.counter 2 < 63) (hcore : n.x.sa.toNat / 16 = w.core % 4)
include hcount hcore

theorem ostoreOp_waits (h : s.slotWrite w.ctx (w.core / 4) n.x.sa.toNat (ostorePieces s w n) = .waits) (r : Row) :
    ostoreOp r n s = .wait s (.retry 8 true) := by
  unfold ostorePieces at h
  simp only [ostoreOp, State.storeData, Wave.pathFull, hw, hcore, Nat.not_le.2 hcount, h, bne_self_eq_false, Bool.false_eq_true,
    decide_false, if_false]

variable {p : Spindle} {o : OSlot} (hp : s.spindle? (w.core / 4) = some p) (ho : p.slot n.x.sa.toNat = o)
include hp ho

theorem ostoreOp_cause {c : Nat} (h : s.slotWrite w.ctx (w.core / 4) n.x.sa.toNat (ostorePieces s w n) = .cause c) (r : Row) :
    ostoreOp r n s = .trap s c 0 (maskOf (if c == causeSlotOverfill then ostorePast s w n o.size else [])) := by
  unfold ostorePieces at h
  simp only [ostoreOp, State.storeData, Wave.pathFull, hw, hp, ho, hcore, Nat.not_le.2 hcount, h, bne_self_eq_false, Bool.false_eq_true,
    decide_false, if_false, ostorePast]

section
variable {t : State} (h : s.slotWrite w.ctx (w.core / 4) n.x.sa.toNat (ostorePieces s w n) = .done t)
include h

theorem ostoreOp_accepted (hpast : ostorePast s w n o.size = []) (r : Row) :
    ostoreOp r n s = .done ((t.modCurWave (fun w => { w with stseq := w.stseq + 1 })).countDone w 2) := by
  unfold ostorePieces at h
  unfold ostorePast at hpast
  simp only [ostoreOp, State.storeData, Wave.pathFull, hw, hp, ho, hcore, Nat.not_le.2 hcount, h, hpast, bne_self_eq_false,
    Bool.false_eq_true, decide_false, if_false, List.isEmpty_nil, Bool.not_true]

theorem ostoreOp_past (hpast : ostorePast s w n o.size ≠ []) (r : Row) :
    ostoreOp r n s = .trap s causeSlotOverfill 0 (maskOf (ostorePast s w n o.size)) := by
  unfold ostorePieces at h
  unfold ostorePast at hpast
  simp only [ostoreOp, State.storeData, Wave.pathFull, hw, hp, ho, hcore, Nat.not_le.2 hcount, h, List.isEmpty_eq_false_iff.2 hpast,
    bne_self_eq_false, Bool.false_eq_true, decide_false, if_false, Bool.not_false, if_true, ostorePast]

end

variable (hctx : p.ctx = w.ctx) (hfree : o.state ≠ .free) (hready : o.state ≠ .ready) (huse : o.state ≠ .inUse)
include hctx hfree hready huse

/-- A write past the slot's declared size, in its count or in a lane's place, names the lanes whose bytes pass it. -/
theorem ostoreOp_overfill
    (hfits : ¬ (o.count + slotCount (ostorePieces s w n) ≤ o.size ∧ ostorePast s w n o.size = [])) (r : Row) :
    ostoreOp r n s = .trap s causeSlotOverfill 0 (maskOf (ostorePast s w n o.size)) := by
  have hwrite := slotWrite_open hp ho (ostorePieces s w n) hctx hfree hready huse
  by_cases hsum : o.count + slotCount (ostorePieces s w n) ≤ o.size
  · exact ostoreOp_past hw hcount hcore hp ho (hwrite.trans (if_neg (Nat.not_lt.2 hsum))) (fun hpast => hfits ⟨hsum, hpast⟩) r
  · rw [ostoreOp_cause hw hcount hcore hp ho (hwrite.trans (if_pos (Nat.not_le.1 hsum)))]
    rfl

theorem ostoreOp_fits (hsum : o.count + slotCount (ostorePieces s w n) ≤ o.size) (hpast : ostorePast s w n o.size = []) (r : Row) :
    ostoreOp r n s = .done (((({ s with om := slotPut s.om (w.core / 4) n.x.sa.toNat (ostorePieces s w n) }).modSpindle (w.core / 4)
      (fun q => q.setSlot n.x.sa.toNat (o.accept (slotCount (ostorePieces s w n)) (ostorePieces s w n)))).modWave
        w.core w.slot (fun v => { v with stseq := v.stseq + 1 })).countDone w 2) := by
  have hcur : ∀ m g, (({ s with om := m } : State).modSpindle (w.core / 4) g).cur = .wave w.core w.slot := fun m g => by
    rw [modSpindle_cur]
    exact curWave_place hw
  have hwrite := (slotWrite_open hp ho (ostorePieces s w n) hctx hfree hready huse).trans (if_neg (Nat.not_lt.2 hsum))
  rw [ostoreOp_accepted hw hcount hcore hp ho hwrite hpast, modCurWave_of_place (hcur _ _)]

end

/-- Settles O32: ostore ends as the slot's state says (`slotWrite_state`, `slotWrite_waits`,
`slotWrite_open`), and its lanes' pieces are the bytes written. -/
theorem slotStores : Obligations.SlotStores := by
  unfold Obligations.SlotStores
  intro f s w p r n h hw hp hcount i size lanes o total fits om written
  have hexec : exec (.ostore f) s = .next (s.finish n.words (ostoreOp r n s)) := exec_admitted h.toAdmitted
  have htotal : slotCount (ostorePieces s w n) = total := slotCount_ostorePieces s w n
  have hfits : fits ↔ o.count + slotCount (ostorePieces s w n) ≤ o.size ∧ ostorePast s w n o.size = [] := by
    rw [htotal, ostorePast_eq_nil_iff]
  refine ⟨fun hcore => ?foreign, fun hcore hstate => ?state, fun hcore hctx hstate => ?waits,
    fun hcore hctx hfree hready huse hno => ?overfill, fun hcore hctx hfree hready huse hyes => ?fits⟩
  case foreign =>
    rw [hexec, ostoreOp_foreign hw hcore]
    rfl
  case state =>
    rw [hexec, ostoreOp_cause hw hcount hcore hp rfl (slotWrite_state hp rfl _ hstate)]
    rfl
  case waits =>
    rw [hexec, ostoreOp_waits hw hcount hcore (slotWrite_waits hp rfl _ hctx hstate)]
    rfl
  case overfill =>
    refine ⟨maskOf (ostorePast s w n o.size), isMask_filter _ _, ?_⟩
    rw [hexec, ostoreOp_overfill hw hcount hcore hp rfl hctx hfree hready huse (fun hc => hno (hfits.2 hc))]
    rfl
  case fits =>
    obtain ⟨hsum, hpast⟩ := hfits.1 hyes
    have hom : slotPut s.om (w.core / 4) i (ostorePieces s w n) = om := List.foldl_map
    have hslot : o.accept (slotCount (ostorePieces s w n)) (ostorePieces s w n)
        = { o with count := o.count + total, state := if o.count + total = o.size then .ready else .filling, written := written } := by
      rw [OSlot.accept, htotal, ostorePieces, List.foldl_map]
      simp only [beq_iff_eq]
      rfl
    rw [hexec, ostoreOp_fits hw hcount hcore hp rfl hctx hfree hready huse hsum hpast, finish_done _ _ _ h.next, hom, hslot]

end Sys2Proof.Machine
end

section
/-! ## Block barriers and byte barriers (13 R231 to R234; 04 R99, R100; 05 R120) -/

namespace Sys2Proof.Machine

/-! ### A slot after an arrival and after an exit (R232) -/

theorem bar_arrive (b : Block) (i wid j : Nat) :
    (b.arrive i wid).bar j = if j = i then BarSlot.test b.alive { b.bar i with arrived := (b.bar i).arrived ||| (1#64 <<< wid) }
      else b.bar j :=
  bar_setBar b i j _

/-- The waves expected after one has left. -/
def Block.aliveWithout (b : Block) (wid : Nat) : BitVec 64 := b.alive &&& ~~~(1#64 <<< wid)

theorem alive_leave (b : Block) (wid : Nat) : (b.leave wid).alive = b.aliveWithout wid :=
  (leave_fold (b.aliveWithout wid) wid b.bars { b with alive := b.aliveWithout wid } 0).2

theorem bar_leave (b : Block) (wid i : Nat) :
    (b.leave wid).bar i = if i < b.bars
      then BarSlot.test (b.aliveWithout wid) { b.bar i with arrived := (b.bar i).arrived &&& ~~~(1#64 <<< wid) } else b.bar i :=
  (leave_fold (b.aliveWithout wid) wid b.bars { b with alive := b.aliveWithout wid } i).1

/-- Settles O33: arriving and leaving are tests of a slot (`bar_arrive`, `bar_leave`), and a test is what R232 says (`test_slot`). -/
theorem barrierPhases : Obligations.BarrierPhases := by
  unfold Obligations.BarrierPhases
  refine ⟨?arrive, ?leave⟩
  case arrive =>
    intro b i j wid all
    refine ⟨?_, fun hj => ?_⟩
    · rw [bar_arrive, if_pos rfl, test_slot]
    · rw [bar_arrive, if_neg hj]
  case leave =>
    intro b i wid alive left
    refine ⟨alive_leave b wid, fun hi => ?_, fun hi => ?_⟩
    · rw [bar_leave, if_pos hi, test_slot]
      rfl
    · rw [bar_leave, if_neg (Nat.not_lt.2 hi)]

/-! ### bar, bararr and barwait (R233) -/

section
variable {s : State} {w : Wave} {b : Block} {n : Norm} {sc : Nat}

theorem barOp_eq (hscope : s.scopeIn n = some sc) (hw : s.curWave = some w) (hb : s.block? w.launch w.block = some b) (r : Row) :
    barOp r n s = if b.bars ≤ barNum n then .trap s causeBarrierSlot 0 0 else barrierWork n s w b sc := by
  simp only [barOp, hscope, hw, hb]

theorem barrierWork_barwait (hsub : n.sub = 2) :
    barrierWork n s w b sc = if (s.srd n.x.sa.toNat).setWidth 32 = (b.bar (barNum n)).phase
      then .wait s (.barrier (barNum n) (b.bar (barNum n)).phase sc) else .done (s.acquire120 sc) := by
  simp only [barrierWork, hsub, beq_self_eq_true, if_true, beq_iff_eq]

theorem barrierWork_waiting (hsub : n.sub ≠ 2) {a d : Nat} {phase : BitVec 32} (hwait : w.wait = .barrier a phase d) :
    barrierWork n s w b sc = if phase = (b.bar (barNum n)).phase then .wait s w.wait else .done (s.acquire120 sc) := by
  simp only [barrierWork, beq_iff_eq, hsub, if_false, hwait]

variable (hsub : n.sub ≠ 2) (hwait : ∀ a c d, w.wait ≠ .barrier a c d)
include hsub hwait

theorem barrierWork_rearrive (harrived : (b.bar (barNum n)).arrived.getLsbD w.wid = true) :
    barrierWork n s w b sc = .trap s causeRearrive 0 0 := by
  simp only [barrierWork, beq_iff_eq, hsub, if_false, harrived, if_true]

variable (hfirst : (b.bar (barNum n)).arrived.getLsbD w.wid = false)
include hfirst

theorem barrierWork_unready (hready : s.releaseReady sc = false) : barrierWork n s w b sc = .wait s (.retry 5 true) := by
  simp only [barrierWork, beq_iff_eq, hsub, if_false, hfirst, Bool.false_eq_true, release120, hready, Bool.not_false, if_true]

variable {t : State} (hready : s.releaseReady sc = true) (hrelease : s.releaseStep sc = (none, t))
include hready hrelease

theorem barrierWork_bararr (hsub1 : n.sub = 1) :
    barrierWork n s w b sc = .done ((t.modBlock w.launch w.block (fun b => b.arrive (barNum n) w.wid)).swr n.x.d.toNat
      ((b.bar (barNum n)).phase.setWidth 64)) := by
  rw [hsub1] at hsub
  simp only [barrierWork, beq_iff_eq, hsub1, hsub, if_false, hfirst, Bool.false_eq_true, release120_done hready hrelease, if_true]

theorem barrierWork_bar (hsub1 : n.sub ≠ 1) {c : Block}
    (hc : (t.modBlock w.launch w.block (fun b => b.arrive (barNum n) w.wid)).block? w.launch w.block = some c) :
    barrierWork n s w b sc = if (c.bar (barNum n)).phase ≠ (b.bar (barNum n)).phase
      then .done ((t.modBlock w.launch w.block (fun b => b.arrive (barNum n) w.wid)).acquire120 sc)
      else .wait (t.modBlock w.launch w.block (fun b => b.arrive (barNum n) w.wid)) (.barrier (barNum n) (b.bar (barNum n)).phase sc) := by
  simp only [barrierWork, beq_iff_eq, bne_iff_ne, hsub, if_false, hfirst, Bool.false_eq_true, release120_done hready hrelease, hsub1, hc]

end

/-- Settles O34: each case of the statement is one end of the instruction's work (`barOp_eq` and the cases of `barrierWork`). -/
theorem blockBarriers : Obligations.BlockBarriers := by
  unfold Obligations.BlockBarriers
  intro i s w b r n sc hshape h hw hb hscope j now pc
  have hexec : exec i s = .next (s.finish n.words (barOp r n s)) := issue_eq h hshape nofun
  rw [barOp_eq hscope hw hb] at hexec
  have hwork : j < b.bars → exec i s = .next (s.finish n.words (barrierWork n s w b sc)) := fun hj =>
    hexec.trans (by rw [if_neg (Nat.not_le.2 hj : ¬ b.bars ≤ barNum n)])
  refine ⟨fun hj => ?slot, fun hj hsub => ?barwait,
    fun hj hsub hwait => ⟨fun harrived => ?rearrive, fun t hfirst hready hrelease => ⟨fun hsub1 => ?bararr, fun c hsub1 hc => ?bar⟩,
      fun hfirst hready => ?unready⟩, fun hj hsub a phase d hwait => ?waiting⟩
  case slot =>
    rw [hexec, if_pos (show b.bars ≤ barNum n from hj)]
    rfl
  case barwait =>
    rw [hwork hj, barrierWork_barwait hsub, apply_ite (s.finish n.words), finish_wait, finish_done _ _ _ h.next]
    rfl
  case rearrive =>
    rw [hwork hj, barrierWork_rearrive hsub hwait harrived]
    rfl
  case bararr =>
    rw [hwork hj, barrierWork_bararr hsub hwait hfirst hready hrelease hsub1, finish_done _ _ _ h.next, swr_eq,
      complete_modAgent _ _ _ _ _ _ (withS_place _ _) places_id (withX_place _ _) stays_id]
    rfl
  case bar =>
    rw [hwork hj, barrierWork_bar hsub hwait hfirst hready hrelease hsub1 hc, apply_ite (s.finish n.words), finish_wait,
      finish_done _ _ _ h.next]
    rfl
  case unready => rw [hwork hj, barrierWork_unready hsub hwait hfirst hready, finish_wait]
  case waiting =>
    rw [hwork hj, barrierWork_waiting hsub hwait, apply_ite (s.finish n.words), finish_wait, finish_done _ _ _ h.next, hwait]
    rfl

/-! ### The sixteen bytes of a byte barrier (R99, R100) -/

/-- The bytes of a byte barrier: its pending count, its phase, and whether it is armed. -/
def byteCell (count : BitVec 64) (phase : Nat) (armed : Bool) : Nat :=
  count.toNat + 2 ^ 64 * (phase % 2 ^ 32) + (if armed then 2 ^ 96 else 0)

section
variable (m : Memory) (a : Nat) (count : BitVec 64) (phase : Nat) (armed : Bool)

theorem read_byteCell_outside {x : Nat} (h : x < a ∨ a + 16 ≤ x) : (m.writeNat a 16 (byteCell count phase armed)).read x = m.read x := by
  rw [read_writeNat, if_neg (by omega)]

theorem count_byteCell : BitVec.ofNat 64 ((m.writeNat a 16 (byteCell count phase armed)).readNat a 8) = count := by
  rw [show a = a + 0 from rfl, readNat_part m (a + 0) 16 _ 0 8 (by omega)]
  apply BitVec.eq_of_toNat_eq
  rw [BitVec.toNat_ofNat, byteCell]
  have := count.isLt
  split <;> omega

theorem phase_byteCell : (m.writeNat a 16 (byteCell count phase armed)).readNat (a + 8) 4 = phase % 2 ^ 32 := by
  rw [readNat_part m a 16 _ 8 4 (by omega), byteCell]
  have := count.isLt
  split <;> omega

theorem armed_byteCell : (m.writeNat a 16 (byteCell count phase armed)).readNat (a + 12) 4 = if armed then 1 else 0 := by
  rw [readNat_part m a 16 _ 12 4 (by omega), byteCell]
  have := count.isLt
  cases armed
  · simp only [Bool.false_eq_true, if_false]
    omega
  · simp only [if_true]
    omega

end

/-! ### bb_arrive (R100) -/

/-- The barrier at an address is armed, or the arrival arms it. -/
def Memory.bbArmed (m : Memory) (a : Nat) (e : Int) : Bool := m.readNat (a + 12) 4 == 1 || decide (0 < e)

/-- The pending count after an arrival. -/
def Memory.bbCount (m : Memory) (a : Nat) (n e : Int) : Int := (BitVec.ofNat 64 (m.readNat a 8)).toInt + e - n

/-- The arrival turns the barrier's phase: the barrier is armed and its count is zero. -/
def Memory.bbTurns (m : Memory) (a : Nat) (n e : Int) : Bool := m.bbArmed a e && m.bbCount a n e == 0

/-- The bytes of the barrier after an arrival. -/
def Memory.bbCell (m : Memory) (a : Nat) (n e : Int) : Nat :=
  byteCell (BitVec.ofInt 64 (m.bbCount a n e)) (if m.bbTurns a n e then m.readNat (a + 8) 4 + 1 else m.readNat (a + 8) 4)
    (m.bbArmed a e && !m.bbTurns a n e)

theorem bbArmed_iff {m : Memory} {a : Nat} {e : Int} : m.bbArmed a e = true ↔ m.readNat (a + 12) 4 = 1 ∨ 0 < e := by
  rw [Memory.bbArmed, Bool.or_eq_true, beq_iff_eq, decide_eq_true_eq]

section
variable {s : State} {a off : Nat} {n e : Int} (halign : off % 16 = 0) (hflags : s.cs.readNat (a + 12) 4 < 2)
include halign hflags

theorem bbArrive_legal : (off % 16 != 0 || decide (2 ≤ s.cs.readNat (a + 12) 4)) = false := by
  rw [halign, bne_self_eq_false, Bool.false_or, decide_eq_false (Nat.not_le.2 hflags)]

theorem bbArrive_overflow (h : 2 ^ 48 < s.cs.bbCount a n e ∨ s.cs.bbCount a n e < -(2 ^ 48)) :
    s.bbArrive a off n e = (some causeByteOverflow, s) := by
  have hpast : (decide (2 ^ 48 < s.cs.bbCount a n e) || decide (s.cs.bbCount a n e < -(2 ^ 48))) = true := by
    rwa [Bool.or_eq_true, decide_eq_true_eq, decide_eq_true_eq]
  unfold Memory.bbCount at hpast
  simp only [State.bbArrive, bbArrive_legal halign hflags, hpast, Bool.false_eq_true, if_false, if_true]

theorem bbArrive_done (hlow : -(2 ^ 48) ≤ s.cs.bbCount a n e) (hhigh : s.cs.bbCount a n e ≤ 2 ^ 48) :
    s.bbArrive a off n e = (none, { s with cs := s.cs.writeNat a 16 (s.cs.bbCell a n e) }) := by
  have hwithin : (decide (2 ^ 48 < s.cs.bbCount a n e) || decide (s.cs.bbCount a n e < -(2 ^ 48))) = false := by
    rw [decide_eq_false (Int.not_lt.2 hhigh), decide_eq_false (Int.not_lt.2 hlow), Bool.or_self]
  unfold Memory.bbCount at hwithin
  simp only [State.bbArrive, bbArrive_legal halign hflags, hwithin, Bool.false_eq_true, if_false]
  rfl

end

/-! ### bbarr and bbwait (R234) -/

/-- The offset of a byte barrier in the block's scratchpad. -/
def bbOff (n : Norm) (s : State) : Nat := (s.srd n.x.sa.toNat).toNat % 2 ^ 32

/-- The last operand: the bytes that bbarr expects, or the phase that bbwait names. -/
def bbLast (r : Row) (n : Norm) (s : State) : BitVec 64 := s.scalOpnd n (r.opnds n.accum).2.2.2 n.x.sc

/-- The counts of bbarr lie between 0 and 2^48. -/
def bbCounts (r : Row) (n : Norm) (s : State) : Prop :=
  (0 ≤ (s.srd n.x.sb.toNat).toInt ∧ (s.srd n.x.sb.toNat).toInt ≤ 2 ^ 48) ∧ 0 ≤ (bbLast r n s).toInt ∧ (bbLast r n s).toInt ≤ 2 ^ 48

theorem bbCounts_pass {r : Row} {n : Norm} {s : State} (h : bbCounts r n s) :
    (decide ((s.srd n.x.sb.toNat).toInt < 0) || decide (2 ^ 48 < (s.srd n.x.sb.toNat).toInt) || decide ((bbLast r n s).toInt < 0)
      || decide (2 ^ 48 < (bbLast r n s).toInt)) = false := by
  obtain ⟨⟨hcnt, hcnt'⟩, hlast, hlast'⟩ := h
  simp only [Int.not_lt.2 hcnt, Int.not_lt.2 hcnt', Int.not_lt.2 hlast, Int.not_lt.2 hlast', decide_false, Bool.or_self]

section
variable {s : State} {w : Wave} {b : Block} {r : Row} {n : Norm} {sc : Nat} (hscope : s.scopeIn n = some sc) (hw : s.curWave = some w)
  (hb : s.block? w.launch w.block = some b)
include hscope hw hb

theorem bbOp_outside (hcounts : n.sub = 0 → bbCounts r n s) (hout : b.scrSize < bbOff n s + 16) :
    bbOp r n s = .trap s causeScratchRange 0 0 := by
  unfold bbOff at hout
  by_cases hsub : n.sub = 0
  · have hpass := bbCounts_pass (hcounts hsub)
    unfold bbLast at hpass
    simp only [bbOp, hscope, hw, hb, hsub, beq_self_eq_true, if_true, hpass, hout, Bool.false_eq_true, if_false]
  · simp only [bbOp, hscope, hw, hb, beq_iff_eq, hsub, hout, if_true, if_false]

variable (hin : bbOff n s + 16 ≤ b.scrSize) (hclean : s.anyPoison (6 * 2 ^ 48 + b.scratchAddr (bbOff n s)) 16 = false)
include hin hclean

theorem bbOp_bbwait (hsub : n.sub ≠ 0) (halign : bbOff n s % 16 = 0) (hflags : s.cs.readNat (b.scratchAddr (bbOff n s) + 12) 4 < 2) :
    bbOp r n s = if s.cs.readNat (b.scratchAddr (bbOff n s) + 8) 4 = (bbLast r n s).toNat % 2 ^ 32 then .wait s (.retry 5 true)
      else .done (s.acquire120 sc) := by
  have hlegal := bbArrive_legal halign hflags
  unfold bbOff at hin hclean hlegal
  simp only [bbOp, hscope, hw, hb, beq_iff_eq, hsub, if_false, Nat.not_lt.2 hin, hclean, hlegal, Bool.false_eq_true]
  rfl

variable (hsub : n.sub = 0) (hcounts : bbCounts r n s)
include hsub hcounts

theorem bbOp_cause {c : Nat}
    (hc : (s.bbArrive (b.scratchAddr (bbOff n s)) (bbOff n s) (s.srd n.x.sb.toNat).toInt (bbLast r n s).toInt).1 = some c) :
    bbOp r n s = .trap s c 0 0 := by
  have hpass := bbCounts_pass hcounts
  unfold bbOff at hin hclean hc
  unfold bbLast at hpass hc
  simp only [bbOp, hscope, hw, hb, hsub, beq_self_eq_true, if_true, hpass, Nat.not_lt.2 hin, hclean, Bool.false_eq_true, if_false]
  split
  next heq => rw [heq] at hc; cases hc; rfl
  next heq => rw [heq] at hc; cases hc

theorem bbOp_arrives {t : State} (hready : s.releaseReady sc = true) (hrelease : s.releaseStep sc = (none, t))
    (hc : (s.bbArrive (b.scratchAddr (bbOff n s)) (bbOff n s) (s.srd n.x.sb.toNat).toInt (bbLast r n s).toInt).1 = none) :
    bbOp r n s = .done (t.bbArrive (b.scratchAddr (bbOff n s)) (bbOff n s) (s.srd n.x.sb.toNat).toInt (bbLast r n s).toInt).2 := by
  have hpass := bbCounts_pass hcounts
  unfold bbOff at hin hclean hc ⊢
  unfold bbLast at hpass hc ⊢
  simp only [bbOp, hscope, hw, hb, hsub, beq_self_eq_true, if_true, hpass, Nat.not_lt.2 hin, hclean, Bool.false_eq_true, if_false]
  split
  next heq => rw [heq] at hc; cases hc
  next heq => rw [release120_done hready hrelease]

end

section
variable (m : Memory) (a : Nat) (n e : Int)

theorem bbCell_turns (harmed : m.bbArmed a e = true) (hzero : m.bbCount a n e = 0) :
    m.bbCell a n e = byteCell (BitVec.ofInt 64 (m.bbCount a n e)) (m.readNat (a + 8) 4 + 1) false := by
  simp only [Memory.bbCell, Memory.bbTurns, harmed, hzero, beq_self_eq_true, Bool.and_self, if_true, Bool.not_true, Bool.and_false]

theorem bbCell_keeps (h : ¬ (m.bbArmed a e = true ∧ m.bbCount a n e = 0)) :
    m.bbCell a n e = byteCell (BitVec.ofInt 64 (m.bbCount a n e)) (m.readNat (a + 8) 4) (m.bbArmed a e) := by
  have hstays : m.bbTurns a n e = false := by
    rwa [← Bool.not_eq_true, Memory.bbTurns, Bool.and_eq_true, beq_iff_eq]
  simp only [Memory.bbCell, hstays, Bool.false_eq_true, if_false, Bool.not_false, Bool.and_true]

end

/-- A change that leaves the Core Stores, such as the write-back of a release, leaves what an arrival writes. -/
theorem bbArrive_of_same_store {s t : State} {a off : Nat} {n e : Int} (hcs : t.cs = s.cs) (halign : off % 16 = 0)
    (hflags : s.cs.readNat (a + 12) 4 < 2) (hlow : -(2 ^ 48) ≤ s.cs.bbCount a n e) (hhigh : s.cs.bbCount a n e ≤ 2 ^ 48) :
    (t.bbArrive a off n e).2 = { t with cs := s.cs.writeNat a 16 (s.cs.bbCell a n e) } := by
  rw [← hcs] at hflags hlow hhigh ⊢
  rw [bbArrive_done halign hflags hlow hhigh]

/-- Settles O35: bb_arrive refuses a sum past 2^48 and else writes the sixteen bytes of the barrier (`bbArrive_overflow`,
`bbArrive_done`), which the release before it leaves as they were (`calm_releaseStep`). -/
theorem byteBarriers : Obligations.ByteBarriers := by
  unfold Obligations.ByteBarriers
  intro i s w b r n sc hshape h hw hb hscope off a last cnt c phase flags pc
  have hexec : exec i s = .next (s.finish n.words (bbOp r n s)) := issue_eq h hshape nofun
  refine ⟨fun hsub hcnt hcnt' hlast hlast' hin hclean halign hflags => ⟨fun hpast => ?overflow, fun t hlow hhigh hready hrelease => ?arrives⟩,
    fun hsub hin hclean halign hflags => ?bbwait, fun hout hcounts => ?outside⟩
  case overflow =>
    have hcause : (s.bbArrive a off cnt last.toInt).1 = some causeByteOverflow := by rw [bbArrive_overflow halign hflags hpast]
    rw [hexec, bbOp_cause hscope hw hb hin hclean hsub ⟨⟨hcnt, hcnt'⟩, hlast, hlast'⟩ hcause]
    rfl
  case arrives =>
    have hcs : t.cs = s.cs := by
      have := (calm_releaseStep s sc).cs
      rwa [hrelease] at this
    have hnone : (s.bbArrive a off cnt last.toInt).1 = none := by rw [bbArrive_done halign hflags hlow hhigh]
    have hdone : (t.bbArrive a off cnt last.toInt).2 = { t with cs := s.cs.writeNat a 16 (s.cs.bbCell a cnt last.toInt) } :=
      bbArrive_of_same_store hcs halign hflags hlow hhigh
    have hphase : phase % 2 ^ 32 = phase := Nat.mod_eq_of_lt (readNat_lt 4 s.cs (a + 8))
    refine ⟨{ t.complete pc (fun v => v) (fun p => p) with cs := s.cs.writeNat a 16 (s.cs.bbCell a cnt last.toInt) }, ?_, rfl,
      fun x hx => read_byteCell_outside _ _ _ _ _ hx, count_byteCell _ _ _ _ _, fun hturn => ?_, fun hkeep => ?_, fun hfree => ?_⟩
    · rw [hexec, bbOp_arrives hscope hw hb hin hclean hsub ⟨⟨hcnt, hcnt'⟩, hlast, hlast'⟩ hready hrelease hnone,
        finish_done _ _ _ h.next]
      exact congrArg _ ((congrArg (fun u => State.complete u pc _ _) hdone).trans (complete_cs t pc _))
    · rw [bbCell_turns _ _ _ _ (bbArmed_iff.2 hturn.1) hturn.2]
      exact ⟨phase_byteCell _ _ _ _ _, armed_byteCell _ _ _ _ _⟩
    · rw [bbCell_keeps _ _ _ _ (fun hturn => hkeep.2 hturn.2), bbArmed_iff.2 hkeep.1]
      exact ⟨(phase_byteCell _ _ _ _ _).trans hphase, armed_byteCell _ _ _ _ _⟩
    · have hunarmed : s.cs.bbArmed a last.toInt = false := by
        rw [← Bool.not_eq_true, bbArmed_iff]
        exact hfree
      rw [bbCell_keeps _ _ _ _ (fun hturn => hfree (bbArmed_iff.1 hturn.1)), hunarmed]
      exact ⟨(phase_byteCell _ _ _ _ _).trans hphase, armed_byteCell _ _ _ _ _⟩
  case bbwait =>
    rw [hexec, bbOp_bbwait hscope hw hb hin hclean hsub halign hflags, apply_ite (s.finish n.words), finish_wait, finish_done _ _ _ h.next]
    rfl
  case outside =>
    rw [hexec, bbOp_outside hscope hw hb (fun hsub => ?_) hout]
    · rfl
    · obtain ⟨hcnt, hcnt', hlast⟩ := hcounts hsub
      exact ⟨⟨hcnt, hcnt'⟩, hlast⟩

end Sys2Proof.Machine
end

section
/-! ## Timelines (13 R235, R236; 20 R313, R314) -/

namespace Sys2Proof.Machine

/-- A tlwait that goes on: its acquire, and the mark of a saved release taken away. -/
theorem finish_tlwaitDone {s : State} {words : Nat} (h : canonical (s.nextPc words) = true) (t : State) (sc : Nat) :
    s.finish words (tlwaitDone t sc)
      = (t.acquire120 sc).complete (s.nextPc words) (fun w => { w with tlrel := none }) (fun p => p) := by
  rw [tlwaitDone, finish_done _ _ _ h, modCurWave_eq,
    complete_modAgent _ _ (fun w => { w with tlrel := none }) _ _ _ (fun _ => ⟨rfl, rfl⟩) places_id stays_id stays_id]

section
variable {s : State} {w : Wave} {n : Norm} {sc : Nat} (hscope : s.scopeIn n = some sc) (hw : s.curWave = some w)
include hscope hw

theorem timelineOp_released {x : Nat} (hwait : w.wait = .timeline true x) (r : Row) : timelineOp r n s = tlwaitDone s sc := by
  simp only [timelineOp, hscope, hw, hwait]

variable (hwait : ∀ a x, w.wait ≠ .timeline a x)
include hwait

theorem timelineOp_saved (hsub : n.sub = 2) (hrel : w.tlrel = some w.pc) (r : Row) : timelineOp r n s = tlwaitDone s sc := by
  simp only [timelineOp, hscope, hw, hsub, hrel, beq_self_eq_true, Bool.and_self, if_true]
  split
  next heq => exact absurd heq (hwait _ _)
  next heq => exact absurd heq (hwait _ _)
  next => rfl

theorem timelineOp_located {va : BitVec 64} {pa : Nat} {k : PageKind} {t : State} (hrel : n.sub = 2 → w.tlrel ≠ some w.pc)
    (hfound : s.locate (AccForm.timeline (n.sub == 2)) n 16 = .found va pa k t) (r : Row) :
    timelineOp r n s = timelineWork n t w sc va pa := by
  have hreads : (n.sub == 2 && w.tlrel == some w.pc) = false := by
    rw [← Bool.not_eq_true, Bool.and_eq_true, beq_iff_eq, beq_iff_eq]
    exact fun h => hrel h.1 h.2
  simp only [timelineOp, hscope, hw, hreads, Bool.false_eq_true, if_false, hfound]
  split
  next heq => exact absurd heq (hwait _ _)
  next heq => exact absurd heq (hwait _ _)
  next => rfl

end

/-! ### The located cell -/

/-- The request for a waiter slot that a wave makes in tlwait (R313). -/
def State.waiterRequest (u : State) (w : Wave) (va : BitVec 64) (pa : Nat) (threshold : BitVec 64) : Waiter :=
  { index := none, core := w.core, slot := w.slot, ctx := w.ctx, va := va.toNat, pa := pa, threshold := threshold, order := u.order }

section
variable {t u : State} {w : Wave} {n : Norm} {va : BitVec 64} {pa v : Nat}

theorem timelineWork_noCell (sc : Nat) (h : va.toNat % 16 ≠ 0 ∨ 4 < paSpace pa) :
    timelineWork n t w sc va pa = .trap t causeTimelineCell va 0 := by
  simp only [timelineWork, bne_iff_ne, Bool.or_eq_true, decide_eq_true_eq, h, if_true]

variable (halign : va.toNat % 16 = 0) (hspace : paSpace pa ≤ 4) (hidle : t.lineBusy pa = false)
  (hclean : (t.l1Flush w.core w.ctx (pa / 128)).anyPoison pa 16 = false)
  (hread : (t.l1Flush w.core w.ctx (pa / 128)).l2Read w.ctx pa 16 = (v, u)) (hlegal : v / 2 ^ 96 = 0)
include halign hspace hidle hclean hread hlegal

/-- Past its checks, tlinc or tlset writes after its release, and tlwait goes on or asks for a waiter slot. -/
theorem timelineWork_cell (sc : Nat) : timelineWork n t w sc va pa =
    if n.sub ≠ 2 then release120 u 6 sc (fun x => .done (x.timelineWrite w.who va.toNat pa (n.sub == 0) (t.srd n.x.d.toNat)))
    else if (t.srd n.x.d.toNat).toNat ≤ v % 2 ^ 64 then tlwaitDone u sc
    else .wait ((({ u with waiters := u.waiters ++ [u.waiterRequest w va pa (t.srd n.x.d.toNat)], order := u.order + 1 } : State).setWait
      (.timeline false sc)).grantWaiter) (.timeline false sc) := by
  simp only [timelineWork, halign, bne_self_eq_false, Nat.not_lt.2 hspace, decide_false, Bool.or_self, Bool.false_eq_true, if_false,
    hidle, hclean, hread, hlegal, bne_iff_ne]
  rfl

end

/-- Settles O36: a released wave goes on (`timelineOp_released`, `timelineOp_saved`); any other acts on its located cell
(`timelineOp_located`, `timelineWork_cell`). -/
theorem timelines : Obligations.Timelines := by
  unfold Obligations.Timelines
  intro i s w r n sc hshape h hw hscope pc goes
  have hexec : exec i s = .next (s.finish n.words (timelineOp r n s)) := issue_eq h hshape nofun
  refine ⟨fun x hwait => ?released, fun hwait hsub hrel => ?saved, fun va pa k t hwait hrel hfound => ?located⟩
  case released => rw [hexec, timelineOp_released hscope hw hwait, finish_tlwaitDone h.next]
  case saved => rw [hexec, timelineOp_saved hscope hw hwait hsub hrel, finish_tlwaitDone h.next]
  case located =>
    rw [timelineOp_located hscope hw hwait hrel hfound] at hexec
    refine ⟨fun hno => ?noCell, ?cell⟩
    case noCell =>
      rw [hexec, timelineWork_noCell sc hno]
      rfl
    intro v u halign hspace hidle hclean hread hlegal a
    rw [timelineWork_cell halign hspace hidle hclean hread hlegal] at hexec
    refine ⟨fun x hsub hready hrelease => ?write, fun hsub hvalue => ?reached, ?waits⟩
    case write => rw [hexec, if_pos hsub, release120_done hready hrelease, finish_done _ _ _ h.next]
    case reached => rw [hexec, if_neg (Classical.not_not.2 hsub), if_pos hvalue, finish_tlwaitDone h.next]
    case waits =>
      intro hsub hvalue q
      rw [hexec, if_neg (Classical.not_not.2 hsub), if_neg (Nat.not_le.2 hvalue), finish_wait]
      rfl

end Sys2Proof.Machine
end

section
/-! ## Copies and copy tokens (13 R237, R239, R241; 04 R98, R105; 05 R124) -/

namespace Sys2Proof.Machine

/-! ### Issuing a copy whose records are at hand -/

/-- A store of the wave into the copy's source is still in flight. -/
def Copy.Late (c : Copy) (w : Wave) : Prop := ∃ q ∈ c.ranges, q.2.2 = false ∧ w.storesInto q.1 q.2.1 = true

/-- The state once a copy's ranges are locked and its source's dirty lines are written back. -/
def State.copyLocked (s : State) (w : Wave) (tok : Nat) (c : Copy) : State :=
  (c.ranges.filter (fun q => !q.2.2)).foldl (fun s q => s.writeBackRange w.core w.ctx q.1 q.2.1) (s.lockCopy w tok c)

/-- WS with the lines of a copy's destination. -/
def State.copySig (x : State) (w : Wave) (c : Copy) : Sig :=
  (c.ranges.filter (fun q => q.2.2)).foldl (fun g q => x.destSig w.core w.ctx q.1 q.2.1 c.user g) w.ws

/-- The wave whose token is busy with a copy. -/
def Wave.startsCopy (w : Wave) (tok : Nat) (c : Copy) (ws : Sig) : Wave :=
  { w.setToken tok { state := 1, cause := 0, progress := 0, copy := some c } with ws := ws }

theorem late_iff {c : Copy} {w : Wave} : c.ranges.any (fun q => !q.2.2 && w.storesInto q.1 q.2.1) = true ↔ c.Late w := by
  simp only [Copy.Late, List.any_eq_true, Bool.and_eq_true, Bool.not_eq_true']

section
variable {s : State} {w : Wave} {tok : Nat} {c : Copy}

theorem issueCopy_waits (h : (w.token tok).busy = true ∨ c.Late w ∨ s.lockRoom (w.core / 4) c = false) :
    issueCopy s w tok c = .wait (s.modCurWave (fun v => { v with latched := some c })) (.retry 8 true) := by
  have hwaits : ((w.token tok).busy || c.ranges.any (fun q => !q.2.2 && w.storesInto q.1 q.2.1) || !s.lockRoom (w.core / 4) c) = true := by
    rw [Bool.or_eq_true, Bool.or_eq_true, Bool.not_eq_true', late_iff, or_assoc]
    exact h
  simp only [issueCopy, hwaits, if_true]

theorem issueCopy_starts (hidle : (w.token tok).busy = false) (hlate : ¬ c.Late w) (hroom : s.lockRoom (w.core / 4) c = true) :
    issueCopy s w tok c
      = .done ((s.copyLocked w tok c).modCurWave (fun v => v.startsCopy tok c ((s.copyLocked w tok c).copySig w c))) := by
  have hearly : c.ranges.any (fun q => !q.2.2 && w.storesInto q.1 q.2.1) = false := by
    rwa [← Bool.not_eq_true, late_iff]
  have hback : (s.copyLocked w tok c) = c.ranges.foldl (fun s q => if q.2.2 then s else s.writeBackRange w.core w.ctx q.1 q.2.1)
      (s.lockCopy w tok c) := by
    rw [State.copyLocked, foldl_filter]
    congr 1
    funext s q
    cases q.2.2 <;> rfl
  have hsig : (s.copyLocked w tok c).copySig w c = c.ranges.foldl (fun g q =>
      if q.2.2 then (s.copyLocked w tok c).destSig w.core w.ctx q.1 q.2.1 c.user g else g) w.ws := by
    rw [State.copySig, foldl_filter]
  simp only [issueCopy, hidle, hearly, hroom, Bool.not_true, Bool.or_self, Bool.false_eq_true, if_false, ← hback, ← hsig]
  rfl

end

/-! ### The first issue, and a later one -/

section
variable {s : State} {w : Wave} {n : Norm} (hw : s.curWave = some w)
include hw

theorem cpOp_latched {c : Copy} (hlatched : w.latched = some c) (r : Row) : cpOp r n s = issueCopy s w n.x.d.toNat c := by
  simp only [cpOp, hw, hlatched]

theorem cpOp_first (hfresh : w.latched = none) (r : Row) : cpOp r n s = cpFirst n s w := by
  simp only [cpOp, hw, hfresh]

end

/-- The control word and origins of a copy, in s[SC] to s[SC+3]. -/
def copyGroup (n : Norm) (s : State) : BitVec 256 :=
  words4 (s.srd n.x.sc.toNat) (s.srd (n.x.sc.toNat + 1)) (s.srd (n.x.sc.toNat + 2)) (s.srd (n.x.sc.toNat + 3))

/-- The copy that cp and cpred read, in the state that follows the reading of its layout records. -/
def copyRead (n : Norm) (s u : State) (w : Wave) (src dst : BitVec 512) : Copy :=
  { started := false, red := n.sub == 1, shape := n.x.shape.toNat, type := n.x.type.toNat, group := copyGroup n s, src := src, dst := dst,
    user := u.curMode == .user, pc := w.pc, since := u.cyc, tags := [], answers := [], pend := [], wrote := [] }

theorem withLayout_ok {s t : State} {h : BitVec 64} {x : BitVec 512} (hh : s.handle h 1 = .ok x t) (k : BitVec 512 → State → Res) :
    withLayout s h k = k x t := by
  rw [withLayout, hh]

/-- The byte barrier of a copy lies in the scratchpad of the wave's block. -/
theorem copyBarrier_inside {s : State} {w : Wave} {c : Copy} {size : Nat}
    (h : c.bben = true → ∃ b, s.block? w.launch w.block = some b ∧ c.bboff + 16 ≤ b.scrSize)
    (hsize : ∀ b, s.block? w.launch w.block = some b → size = b.scrSize) : (c.bben && decide (size < c.bboff + 16)) = false := by
  cases hbben : c.bben with
  | false => rfl
  | true =>
    obtain ⟨b, hb, hin⟩ := h hbben
    rw [hsize b hb, Bool.true_and, decide_eq_false_iff_not]
    exact Nat.not_lt.2 hin

section
variable {s t u : State} {w : Wave} {n : Norm} {src dst : BitVec 512}

theorem cpFirst_issues (hclean : (s.poisonCheck false (copySources n (copyGroup n s)) n.x).isSome = false)
    (hoperand : copyOperandBad (n.sub == 1) (copyGroup n s) = false) (hsrc : s.handle (s.srd n.x.sa.toNat) 1 = .ok src t)
    (hdst : if bit (copyGroup n s).toNat 192 = true then dst = 0 ∧ u = t else t.handle (t.srd n.x.sb.toNat) 1 = .ok dst u)
    (hlayout : u.copyLayoutBad (w.core / 4) (copyRead n s u w src dst) = false)
    (hbarrier : (copyRead n s u w src dst).bben = true →
      ∃ b, s.block? w.launch w.block = some b ∧ (copyRead n s u w src dst).bboff + 16 ≤ b.scrSize) :
    cpFirst n s w = issueCopy u w n.x.d.toNat (copyRead n s u w src dst) := by
  have hsize : ∀ b, s.block? w.launch w.block = some b → (match s.block? w.launch w.block with
      | some b => b.scrSize
      | none => 0) = b.scrSize := fun b hb => by rw [hb]
  have hinside := copyBarrier_inside hbarrier hsize
  unfold copyRead copyGroup at *
  unfold cpFirst
  simp only [hclean, hoperand, withLayout_ok hsrc, Nat.add_zero, Bool.false_eq_true, if_false]
  split at hdst
  next hslot =>
    obtain ⟨rfl, rfl⟩ := hdst
    rw [if_pos hslot]
    simp only [hlayout, Bool.false_eq_true, if_false]
    exact if_neg (Bool.eq_false_iff.1 hinside)
  next hslot =>
    rw [if_neg hslot, withLayout_ok hdst]
    simp only [hlayout, Bool.false_eq_true, if_false]
    exact if_neg (Bool.eq_false_iff.1 hinside)

end

theorem startsCopy_place (tok : Nat) (c : Copy) (ws : Sig) : Places (fun v => v.startsCopy tok c ws) := fun _ => ⟨rfl, rfl⟩

/-! ### Waiting for tokens (R241) -/

theorem twaitOp_work {s : State} {w : Wave} (hw : s.curWave = some w) (r : Row) (n : Norm) :
    twaitOp r n s = if (List.range 8).any (fun k => bit n.x.disp.toNat k && (w.token k).busy) then .wait s (.retry 6 true) else .done s := by
  simp only [twaitOp, hw]

theorem tokensBusy_iff {w : Wave} {mask : Nat} :
    (List.range 8).any (fun k => bit mask k && (w.token k).busy) = true ↔ ∃ k, k < 8 ∧ bit mask k = true ∧ (w.token k).busy = true := by
  simp only [List.any_eq_true, List.mem_range, Bool.and_eq_true]

/-- Settles O37: a copy read at once (`cpFirst_issues`) or kept from an earlier issue (`cpOp_latched`) starts or waits
(`issueCopy_starts`, `issueCopy_waits`). -/
theorem copiesIssue : Obligations.CopiesIssue := by
  unfold Obligations.CopiesIssue
  refine ⟨?copy, ?tokens⟩
  case copy =>
    intro i s u w r n c hshape h hw red g tok first hread late x ws
    have hwork : cpOp r n s = issueCopy u w tok c := by
      rcases hread with ⟨hfresh, hclean, hoperand, src, dst, t, hsrc, hdst, hc, hlayout, hbarrier⟩ | ⟨hlatched, hu⟩
      · rw [cpOp_first hw hfresh]
        subst hc
        exact cpFirst_issues hclean hoperand hsrc hdst hlayout hbarrier
      · rw [cpOp_latched hw hlatched, hu]
    have hexec : exec i s = .next (s.finish n.words (issueCopy u w tok c)) := by
      rw [issue_eq h hshape nofun, Shape.work, hwork]
    refine ⟨fun hidle hlate hroom => ?starts, fun hwaits => ?waits⟩
    case starts =>
      rw [hexec, issueCopy_starts hidle hlate hroom, finish_done _ _ _ h.next, modCurWave_eq,
        complete_modAgent _ _ _ _ _ _ (startsCopy_place _ _ _) places_id stays_id stays_id]
      rfl
    case waits =>
      rw [hexec, issueCopy_waits hwaits, finish_wait]
  case tokens =>
    intro i s w r n hshape h hw held
    have hexec : exec i s = .next (s.finish n.words (twaitOp r n s)) := issue_eq h hshape nofun
    rw [twaitOp_work hw] at hexec
    refine ⟨fun hheld => ?_, fun hfree => ?_⟩
    · rw [hexec, if_pos (tokensBusy_iff.2 hheld), finish_wait]
    · rw [hexec, if_neg (fun hbusy => hfree (tokensBusy_iff.1 hbusy)), finish_same _ _ h.next]

end Sys2Proof.Machine
end

section
/-! ## New work: spawn, launch and spnrun (13 R242 to R244; 01 R32; 20 R308; 03 R68) -/

namespace Sys2Proof.Machine

/-! ### spawn (R32, R242) -/

section
variable {s : State} {w : Wave} {n : Norm} {l : Launch}

theorem spawnOp_outside (hw : s.curWave = some w) (hl : s.launch? w.launch = some l) (hk : l.kind ≠ 2) (r : Row) :
    spawnOp r n s = .trap s causeSpawnContext 0 0 := by
  simp only [spawnOp, hw, hl, bne_iff_ne, ne_eq, hk, not_false_eq_true, if_true]

/-- The task that a record becomes, with its pool's next number. -/
def Launch.nextTask (m : Launch) (rec : BitVec 512) (scope time : Nat) : Task :=
  { record := rec, number := m.enqueued, time := time, ring := (m.ringVa m.enqueued).toNat, scope := scope, aged := false }

theorem queueTask_good {num scope : Nat} {rec : BitVec 512} (hl : s.launch? num = some l) (hrec : taskBad rec = false) :
    s.queueTask num rec scope
      = s.setLaunch { l with enqueued := l.enqueued + 1, held := l.held + 1, tasks := l.tasks ++ [l.nextTask rec scope s.cyc] } := by
  simp only [State.queueTask, hl, hrec, Bool.false_eq_true, if_false]
  rfl

variable {rec : BitVec 512} {t : State} (hw : s.curWave = some w) (hl : s.launch? w.launch = some l) (hk : l.kind = 2)
  (hread : s.recordRead (w.breg n.x.d.toNat) (w.breg n.x.d.toNat).base ((s.srd n.x.sa.toNat).toNat % 2 ^ 32 + n.x.disp.toNat) = .ok rec t)
  (halign : ((w.breg n.x.d.toNat).base + BitVec.ofNat 64 ((s.srd n.x.sa.toNat).toNat % 2 ^ 32 + n.x.disp.toNat)).toNat % 64 = 0)
  (hrec : taskBad rec = false)
include hw hl hk hread halign hrec

theorem spawnOp_full (hfull : l.ringFull = true) (r : Row) : spawnOp r n s = .trap t causeRingFull 0 0 := by
  simp only [spawn_row hw hl hk hread, halign, hrec, hfull, bne_self_eq_false, Bool.or_self, Bool.false_eq_true, if_false, if_true]

theorem spawnOp_queues {u : State} (hroom : l.ringFull = false) (hready : t.releaseReady (taskScope rec) = true)
    (hrelease : t.releaseStep (taskScope rec) = (none, u)) (r : Row) :
    spawnOp r n s = .done ((u.ringWrite w.launch rec).queueTask w.launch rec (taskScope rec)) := by
  simp only [spawn_row hw hl hk hread, halign, hrec, hroom, bne_self_eq_false, Bool.or_self, Bool.false_eq_true, if_false,
    release120_done hready hrelease]

end

/-! ### launch (R243, R308) -/

section
variable {s t : State} {w : Wave} {n : Norm} (hw : s.curWave = some w)
include hw

theorem launchOp_noQueue (hqueue : s.devQueue w.core w.ctx (s.srd n.x.sa.toNat).toNat = (none, t)) (r : Row) :
    launchOp r n s = .trap t causeLaunchQueue 0 0 := by
  simp only [launchOp, hw, hqueue]

variable {d : QDesc} {ps : List Piece} {rec : BitVec 512} {u : State}
  (hqueue : s.devQueue w.core w.ctx (s.srd n.x.sa.toNat).toNat = (some (d, ps), t))
  (hread : t.recordRead BReg.none (s.srd n.x.sb.toNat) 0 = .ok rec u)
include hqueue hread

theorem launchOp_full (hfull : d.count = 2 ^ d.sizelog) (r : Row) : launchOp r n s = .trap u causeQueueFull 0 0 := by
  simp only [launchOp, hw, hqueue, hread, hfull, beq_self_eq_true, if_true]

theorem launchOp_appends {x y : State} (hroom : d.count ≠ 2 ^ d.sizelog) (hready : u.releaseReady scopeSystem = true)
    (hrelease : u.releaseStep scopeSystem = (none, x))
    (hwrite : (x.engineWrite w.who rec.toNat ps).queueWrite w.ctx d 16 8 (d.tail + 1).toNat = some y) (r : Row) :
    launchOp r n s = .done (y.markPending w.ctx (1#64 <<< (s.srd n.x.sa.toNat).toNat)) := by
  simp only [launchOp, hw, hqueue, hread, beq_iff_eq, hroom, if_false, release120_done hready hrelease, hwrite]

end

/-! ### spnrun (R68, R244) -/

/-- The wave's request comes before every other of its cluster. -/
def State.spnFirst (u : State) (w : Wave) : Prop := ∃ q, u.spnBest (w.core / 4) = some q ∧ q.core = w.core ∧ q.slot = w.slot

section
variable {s t : State} {w : Wave} {n : Norm} (hw : s.curWave = some w)
include hw

theorem spnrunOp_misaligned (halign : s.srd n.x.sa.toNat % 4 ≠ 0) (r : Row) : spnrunOp r n s = .trap s causeMisalignedPc 0 0 := by
  simp only [spnrunOp, hw, bne_iff_ne, ne_eq, halign, not_false_eq_true, if_true]

variable (halign : s.srd n.x.sa.toNat % 4 = 0) (hentry : canonical (s.srd n.x.sa.toNat) = true) (hready : s.releaseReady scopeCluster = true)
  (hrelease : s.releaseStep scopeCluster = (none, t))
include halign hentry hready hrelease

theorem spnrunOp_starts (hidle : (t.spnRequest w).spindle? (w.core / 4) = none) (hfirst : (t.spnRequest w).spnFirst w) (r : Row) :
    spnrunOp r n s = .done { (t.spnRequest w).dropSpnRequest w.core w.slot with
      spindles := (t.spnRequest w).spindles ++ [Spindle.enter (w.core / 4) w.ctx w.launch w.block w.blk w.prio (s.srd n.x.sa.toNat)
        ((t.spnRequest w).srd n.x.sb.toNat)] } := by
  obtain ⟨q, hbest, hcore, hslot⟩ := hfirst
  simp only [spnrunOp, hw, halign, hentry, bne_self_eq_false, Bool.not_true, Bool.false_eq_true, if_false, release120_done hready hrelease,
    hidle, hbest, hcore, hslot, beq_self_eq_true, Bool.and_self, Option.isSome_none, Bool.or_self]
  rfl

theorem spnrunOp_waits (h : (t.spnRequest w).spindle? (w.core / 4) ≠ none ∨ ¬ (t.spnRequest w).spnFirst w) (r : Row) :
    spnrunOp r n s = .wait (t.spnRequest w) (.retry 6 true) := by
  simp only [spnrunOp, hw, halign, hentry, bne_self_eq_false, Bool.not_true, Bool.false_eq_true, if_false, release120_done hready hrelease]
  refine if_pos ?_
  rw [Bool.or_eq_true, Option.isSome_iff_ne_none]
  refine h.imp_right (fun hno => ?_)
  rw [Bool.not_eq_true', ← Bool.not_eq_true]
  intro hmine
  apply hno
  split at hmine
  next q hbest =>
    rw [Bool.and_eq_true, beq_iff_eq, beq_iff_eq] at hmine
    exact ⟨q, hbest, hmine⟩
  next => cases hmine

end

/-- Settles O38: the record read and the release made, spawn queues a task, launch appends to the queue and spnrun starts the
program (`spawnOp_queues`, `launchOp_appends`, `spnrunOp_starts`). -/
theorem newWork : Obligations.NewWork := by
  unfold Obligations.NewWork
  refine ⟨?spawn, ?launch, ?spnrun⟩
  case spawn =>
    intro f s w r n h hw off va
    have hexec : exec (.spawn f) s = .next (s.finish n.words (spawnOp r n s)) := exec_admitted h.toAdmitted
    refine ⟨fun l hl hk => ?outside, fun l rec t hl hk hread halign hrec => ⟨fun hfull => ?full, fun u m hroom hready hrelease hm => ?queues⟩⟩
    case outside =>
      rw [hexec, spawnOp_outside hw hl hk]
      rfl
    case full =>
      rw [hexec, spawnOp_full hw hl hk hread halign hrec hfull]
      rfl
    case queues =>
      rw [hexec, spawnOp_queues hw hl hk hread halign hrec hroom hready hrelease, finish_done _ _ _ h.next, queueTask_good hm hrec]
      rfl
  case launch =>
    intro f s w r n h hw q
    have hexec : exec (.launch f) s = .next (s.finish n.words (launchOp r n s)) := exec_admitted h.toAdmitted
    refine ⟨fun t hqueue => ?noQueue, fun d ps t rec u hqueue hread => ⟨fun hfull => ?full, fun x y hroom hready hrelease hwrite => ?appends⟩⟩
    case noQueue =>
      rw [hexec, launchOp_noQueue hw hqueue]
      rfl
    case full =>
      rw [hexec, launchOp_full hw hqueue hread hfull]
      rfl
    case appends =>
      rw [hexec, launchOp_appends hw hqueue hread hroom hready hrelease hwrite, finish_done _ _ _ h.next]
  case spnrun =>
    intro f s t w r n h hw entry cl
    have hexec : exec (.spnrun f) s = .next (s.finish n.words (spnrunOp r n s)) := exec_admitted h.toAdmitted
    refine ⟨fun halign => ?misaligned, fun halign hentry hready hrelease => ⟨fun hidle hfirst => ?starts, fun hwaits => ?waits⟩⟩
    case misaligned =>
      rw [hexec, spnrunOp_misaligned hw halign]
      rfl
    case starts =>
      rw [hexec, spnrunOp_starts hw halign hentry hready hrelease hidle hfirst, finish_done _ _ _ h.next]
    case waits =>
      rw [hexec, spnrunOp_waits hw halign hentry hready hrelease hwaits, finish_wait]

end Sys2Proof.Machine
end

section
/-! ## Register blocks (13 R245; 01 R35, R36) -/

namespace Sys2Proof.Machine

/-! ### Blocks of waves, and the bytes of register blocks -/

theorem block?_at {s : State} {l i : Nat} {b : Block} (h : s.block? l i = some b) : b.launch = l ∧ b.index = i := by
  have := List.find?_some h
  simpa [Block.at] using this

theorem modBlock_some {s : State} {l i : Nat} {b : Block} (h : s.block? l i = some b) (f : Block → Block) :
    s.modBlock l i f = s.setBlock (f b) := by
  rw [State.modBlock, h]

theorem block?_setBlock {s : State} {l i : Nat} {b c : Block} (h : s.block? l i = some b) (hl : c.launch = l) (hi : c.index = i) :
    (s.setBlock c).block? l i = some c := by
  subst hl hi
  exact find_replaceFirst _ c b s.blocks h (by simp [Block.at])

theorem setBlock_setBlock (s : State) (b c : Block) (hl : c.launch = b.launch) (hi : c.index = b.index) :
    (s.setBlock b).setBlock c = s.setBlock c := by
  simp only [State.setBlock, hl, hi]
  rw [replaceFirst_twice _ b c s.blocks (by simp [Block.at])]

/-- A state with other blocks of waves, and other bytes, marks and poison of the Core Stores. -/
def State.withStores (s : State) (bs : List Block) (cs : Memory) (marks poison : List Nat) : State :=
  { s with blocks := bs, cs := cs, csMark := marks, poison := poison }

theorem modAgent_withStores (s : State) (bs : List Block) (cs : Memory) (marks poison : List Nat) (fw : Wave → Wave) (fp : Spindle → Spindle) :
    (s.withStores bs cs marks poison).modAgent fw fp = (s.modAgent fw fp).withStores bs cs marks poison := by
  cases hcur : s.cur with
  | none => rw [modAgent_none hcur, modAgent_none (s := s.withStores bs cs marks poison) hcur]
  | wave c k =>
    rw [modAgent_wave hcur, modAgent_wave (s := s.withStores bs cs marks poison) hcur, State.modWave, State.modWave,
      show (s.withStores bs cs marks poison).wave? c k = s.wave? c k from rfl]
    cases s.wave? c k <;> rfl
  | spindle cl =>
    rw [modAgent_spindle hcur, modAgent_spindle (s := s.withStores bs cs marks poison) hcur, State.modSpindle, State.modSpindle,
      show (s.withStores bs cs marks poison).spindle? cl = s.spindle? cl from rfl]
    cases s.spindle? cl <;> rfl

theorem setBlock_modAgent (s : State) (b : Block) (fw : Wave → Wave) (fp : Spindle → Spindle) :
    (s.modAgent fw fp).setBlock b = (s.setBlock b).modAgent fw fp := by
  refine Eq.trans ?_ (modAgent_withStores s (s.setBlock b).blocks s.cs s.csMark s.poison fw fp).symm
  rw [modAgent_rest]
  rfl

theorem clearStore_modAgent (s : State) (a n : Nat) (fw : Wave → Wave) (fp : Spindle → Spindle) :
    (s.modAgent fw fp).clearStore a n = (s.clearStore a n).modAgent fw fp := by
  refine Eq.trans ?_ (modAgent_withStores s s.blocks (s.clearStore a n).cs (s.clearStore a n).csMark (s.clearStore a n).poison fw fp).symm
  rw [modAgent_rest]
  rfl

theorem clearBlocks_modAgent (core : Nat) (gone : List Nat) (fw : Wave → Wave) (fp : Spindle → Spindle) :
    ∀ s : State, (s.modAgent fw fp).clearBlocks core gone = (s.clearBlocks core gone).modAgent fw fp := by
  induction gone with
  | nil => exact fun _ => rfl
  | cons g gone ih =>
    intro s
    simp only [State.clearBlocks, List.foldl_cons, clearStore_modAgent] at ih ⊢
    exact ih _

theorem curWave_clearBlocks (core : Nat) (gone : List Nat) : ∀ s : State, (s.clearBlocks core gone).curWave = s.curWave := by
  induction gone with
  | nil => exact fun _ => rfl
  | cons g gone ih =>
    intro s
    exact (ih (s.clearStore (core * 2 ^ 20 + 2048 * g) 2048)).trans rfl

/-! ### regsurrender (R35, R245) -/

/-- An element of an access lies in one of a list of register blocks of a core. -/
def Elem.inBlocks (e : Elem) (core : Nat) (gone : List Nat) : Bool :=
  paSpace e.pa == 6 && gone.any (fun g =>
    let a := core * 2 ^ 20 + 2048 * g
    a < paOff e.pa + e.bytes && paOff e.pa < a + 2048)

/-- A surrender waits for an access: it is in flight, and its destination or an element lies in the blocks given up. -/
def Access.holdsBlocks (a : Access) (core keep : Nat) (gone : List Nat) : Bool :=
  !a.done && (match a.dest with
    | .vec reg bytes _ => 8 * keep < reg + (bytes + 3) / 4 || a.elems.any (fun e => e.inBlocks core gone)
    | _ => a.elems.any (fun e => e.inBlocks core gone))

theorem inBlocks_eq_false_iff {e : Elem} {core : Nat} {gone : List Nat} : e.inBlocks core gone = false ↔
    (paSpace e.pa = 6 → ∀ g ∈ gone, paOff e.pa + e.bytes ≤ core * 2 ^ 20 + 2048 * g ∨ core * 2 ^ 20 + 2048 * g + 2048 ≤ paOff e.pa) := by
  simp only [Elem.inBlocks, Bool.and_eq_false_imp, beq_iff_eq, List.any_eq_false, Bool.and_eq_true, decide_eq_true_eq,
    Classical.not_and_iff_not_or_not, Nat.not_lt]

theorem holdsBlocks_eq_false_iff {a : Access} {core keep : Nat} {gone : List Nat} : a.holdsBlocks core keep gone = false ↔
    (a.done = false → (∀ reg bytes sg, a.dest = .vec reg bytes sg → reg + (bytes + 3) / 4 ≤ 8 * keep) ∧
      ∀ e ∈ a.elems, e.inBlocks core gone = false) := by
  rw [Access.holdsBlocks, Bool.and_eq_false_imp, Bool.not_eq_true']
  refine imp_congr_right (fun _ => ?_)
  cases a.dest with
  | vec reg bytes sg =>
    simp only [Bool.or_eq_false_iff, decide_eq_false_iff_not, Nat.not_lt, List.any_eq_false, Bool.not_eq_true, Dest.vec.injEq]
    exact and_congr_left' ⟨fun h _ _ _ ⟨hreg, hbytes, _⟩ => hreg ▸ hbytes ▸ h, fun h => h _ _ _ ⟨rfl, rfl, rfl⟩⟩
  | none => simp only [List.any_eq_false, Bool.not_eq_true, reduceCtorEq, false_implies, implies_true, true_and]
  | scal => simp only [List.any_eq_false, Bool.not_eq_true, reduceCtorEq, false_implies, implies_true, true_and]

/-- A word of a Core Store lies in one of a list of register blocks of a core. -/
def wordInBlocks (core : Nat) (gone : List Nat) (key : Nat) : Bool :=
  gone.any (fun g =>
    let a := core * 2 ^ 20 + 2048 * g
    a ≤ 4 * key && 4 * key < a + 2048)

theorem wordInBlocks_eq_false_iff {core key : Nat} {gone : List Nat} : wordInBlocks core gone key = false ↔
    ∀ g ∈ gone, 4 * key < core * 2 ^ 20 + 2048 * g ∨ core * 2 ^ 20 + 2048 * g + 2048 ≤ 4 * key := by
  simp only [wordInBlocks, List.any_eq_false, Bool.and_eq_true, decide_eq_true_eq, Classical.not_and_iff_not_or_not, Nat.not_le, Nat.not_lt]

/-- A wave's block takes register blocks into its pool, the highest first. -/
def State.poolGiven (s : State) (w : Wave) (gone : List Nat) : State :=
  s.modBlock w.launch w.block (fun b => { b with pool := b.pool ++ gone.reverse })

theorem csMark_poolGiven (s : State) (w : Wave) (gone : List Nat) : (s.poolGiven w gone).csMark = s.csMark := by
  rw [State.poolGiven, State.modBlock]
  split <;> rfl

/-- The words of register blocks lose their poison marks. -/
def State.unmarkBlocks (s : State) (core : Nat) (gone : List Nat) : State :=
  { s with csMark := s.csMark.filter (fun key => !wordInBlocks core gone key) }

section
variable {s : State} {w : Wave} {n : Norm} (hw : s.curWave = some w)
include hw

theorem regsurrenderOp_illegal (h : n.x.disp.toNat = 0 ∨ 31 < n.x.disp.toNat ∨ w.blocks.length ≤ n.x.disp.toNat) (r : Row) :
    regsurrenderOp r n s = .trap s causeIllegalOperand 0 0 := by
  simp only [regsurrenderOp, hw]
  refine if_pos ?_
  simp only [Bool.or_eq_true, beq_iff_eq, decide_eq_true_eq]
  omega

variable {keep : Nat} (hlow : 1 ≤ n.x.disp.toNat) (hhigh : n.x.disp.toNat ≤ 31) (hleft : n.x.disp.toNat < w.blocks.length)
  (hkeep : w.blocks.length - n.x.disp.toNat = keep)
include hlow hhigh hleft hkeep

theorem regsurrenderOp_legal (r : Row) : regsurrenderOp r n s =
    if w.flight.any (fun a => a.holdsBlocks w.core keep (w.blocks.drop keep)) then .wait s (.retry 10 true)
    else .done (((s.poolGiven w (w.blocks.drop keep)).unmarkBlocks w.core (w.blocks.drop keep)).modCurWave
      (fun w => { w with blocks := w.blocks.take keep })) := by
  subst hkeep
  simp only [regsurrenderOp, hw]
  refine (if_neg ?_).trans rfl
  simp only [Bool.or_eq_true, beq_iff_eq, decide_eq_true_eq]
  omega

end

theorem take_blocks_place (keep : Nat) : Places (fun w => { w with blocks := w.blocks.take keep }) := fun _ => ⟨rfl, rfl⟩

/-! ### regclaim (R35, R36, R245) -/

/-- The state in which a wave has joined its block's claims and waits. -/
def State.claimJoined (s : State) (w : Wave) (k : Nat) : State :=
  (s.modBlock w.launch w.block (fun b => { b with claims := b.claims ++ [w.wid] })).setWait (.claim k)

section
variable {s : State} {w : Wave} {n : Norm} (hw : s.curWave = some w)
include hw

theorem regclaimOp_granted (hwait : w.wait = .claim 0) (r : Row) : regclaimOp r n s = .done s := by
  simp only [regclaimOp, hw, hwait]

theorem regclaimOp_waiting {m : Nat} (hm : m ≠ 0) (hwait : w.wait = .claim m) (r : Row) : regclaimOp r n s = .wait s (.claim m) := by
  simp only [regclaimOp, hw, hwait]

variable (hfresh : ∀ m, w.wait ≠ .claim m)
include hfresh

theorem regclaimOp_illegal (h : n.x.disp.toNat = 0 ∨ 31 < n.x.disp.toNat ∨ 32 < w.blocks.length + n.x.disp.toNat) (r : Row) :
    regclaimOp r n s = .trap s causeIllegalOperand 0 0 := by
  have hbad : (n.x.disp.toNat == 0 || decide (31 < n.x.disp.toNat) || decide (32 < w.blocks.length + n.x.disp.toNat)) = true := by
    simpa only [Bool.or_eq_true, beq_iff_eq, decide_eq_true_eq, or_assoc] using h
  simp only [regclaimOp, hw, hbad, if_true]
  split
  next heq => exact absurd heq (hfresh _)
  next heq => exact absurd heq (hfresh _)
  next => rfl

variable (hlow : 1 ≤ n.x.disp.toNat) (hhigh : n.x.disp.toNat ≤ 31) (hroom : w.blocks.length + n.x.disp.toNat ≤ 32) {t : State} {v : Wave}
  (ht : (s.claimJoined w n.x.disp.toNat).grantClaim w.launch w.block = t) (hv : t.curWave = some v)
include hlow hhigh hroom ht hv

theorem regclaimOp_joined (r : Row) : regclaimOp r n s =
    if v.wait = .claim 0 then .done t
    else .wait (t.claimDeadlock w.launch w.block) (((t.claimDeadlock w.launch w.block).curWave.map (·.wait)).getD .ready) := by
  have hgood : (n.x.disp.toNat == 0 || decide (31 < n.x.disp.toNat) || decide (32 < w.blocks.length + n.x.disp.toNat)) = false := by
    rw [← Bool.not_eq_true, Bool.or_eq_true, Bool.or_eq_true, beq_iff_eq, decide_eq_true_eq, decide_eq_true_eq]
    omega
  unfold State.claimJoined at ht
  simp only [regclaimOp, hw, hgood, Bool.false_eq_true, if_false, ht, hv, beq_iff_eq]
  split
  next heq => exact absurd heq (hfresh _)
  next heq => exact absurd heq (hfresh _)
  next => rfl

end

/-! ### A claim that is granted at once -/

/-- Where two tests find the same element first, the one finds what replaces it for the other. -/
theorem find_replaceFirst_both {α : Type} {p q : α → Bool} {x v : α} {l : List α} (hp : l.find? p = some x) (hq : l.find? q = some x)
    (hv : q v = true) : (replaceFirst p v l).find? q = some v := by
  induction l with
  | nil => cases hp
  | cons a l ih =>
    rw [replaceFirst]
    split
    next hpa => exact List.find?_cons_of_pos hv
    next hpa =>
      rw [List.find?_cons_of_neg hpa] at hp
      have hqa : ¬ q a = true := by
        intro hqa
        rw [List.find?_cons_of_pos hqa] at hq
        cases hq
        exact hpa (List.find?_some hp)
      rw [List.find?_cons_of_neg hqa] at hq ⊢
      exact ih hp hq

/-- The wave of a number in a block, after the agent's wave, which it is, has changed. -/
theorem find_wavesOf_setWave {s : State} {w v : Wave} (hw : s.wave? w.core w.slot = some w)
    (hfind : (s.wavesOf w.launch w.block).find? (fun x => x.wid == w.wid) = some w) (hcore : v.core = w.core) (hslot : v.slot = w.slot)
    (hlaunch : v.launch = w.launch) (hblock : v.block = w.block) (hwid : v.wid = w.wid) :
    ((s.setWave v).wavesOf w.launch w.block).find? (fun x => x.wid == w.wid) = some v := by
  unfold State.wavesOf at hfind ⊢
  rw [List.find?_filter] at hfind ⊢
  rw [State.setWave_waves, hcore, hslot]
  exact find_replaceFirst_both hw hfind (by simp [hlaunch, hblock, hwid])

theorem wave?_of_curWave {s : State} {w : Wave} (h : s.curWave = some w) : s.wave? w.core w.slot = some w := by
  have hcur := curWave_place h
  rwa [State.curWave, hcur] at h

theorem claimJoined_setWave {s : State} {w : Wave} {b : Block} (hw : s.curWave = some w) (hb : s.block? w.launch w.block = some b) (k : Nat) :
    s.claimJoined w k = (s.setBlock { b with claims := b.claims ++ [w.wid] }).setWave { w with wait := .claim k } := by
  have hcur : (s.setBlock { b with claims := b.claims ++ [w.wid] }).cur = .wave w.core w.slot := curWave_place hw
  have hwave : (s.setBlock { b with claims := b.claims ++ [w.wid] }).wave? w.core w.slot = some w := wave?_of_curWave hw
  rw [State.claimJoined, modBlock_some hb, setWait_eq, modAgent_wave hcur, State.modWave, hwave]

/-- A wave that has been granted register blocks, behind its own. -/
def Wave.granted (w : Wave) (blocks : List Nat) (wait : Wait) : Wave := { w with blocks := w.blocks ++ blocks, wait := wait }

@[simp] theorem wait_granted (w : Wave) (blocks : List Nat) (x : Wait) : (w.granted blocks x).wait = x := rfl

theorem granted_place (blocks : List Nat) (x : Wait) : Places (fun v => v.granted blocks x) := fun _ => ⟨rfl, rfl⟩

/-- The state whose pool has given the register blocks that entered it earliest, cleared. -/
def State.poolTaken (s : State) (b : Block) (core k : Nat) : State :=
  (s.setBlock { b with pool := b.pool.drop k }).clearBlocks core (b.pool.take k)

theorem curWave_poolTaken {s : State} {w : Wave} (hw : s.curWave = some w) (b : Block) (core k : Nat) :
    (s.poolTaken b core k).curWave = some w :=
  (curWave_clearBlocks _ _ _).trans hw

/-- A claim that stands alone leaves no trace in its block once it has been granted. -/
theorem claimJoined_poolTaken {s : State} {w : Wave} {b : Block} (hb : s.block? w.launch w.block = some b) (hempty : b.claims = []) (k : Nat) :
    ((s.claimJoined w k).setBlock { b with claims := [], pool := b.pool.drop k }).clearBlocks w.core (b.pool.take k)
      = (s.poolTaken b w.core k).modAgent (fun v => { v with wait := .claim k }) (fun p => { p with wait := .claim k }) := by
  have hrest : ({ b with claims := [], pool := b.pool.drop k } : Block) = { b with pool := b.pool.drop k } := by rw [← hempty]
  rw [State.claimJoined, modBlock_some hb, setWait_eq, setBlock_modAgent, clearBlocks_modAgent, hrest,
    setBlock_setBlock s { b with claims := b.claims ++ [w.wid] } { b with pool := b.pool.drop k } rfl rfl]
  rfl

/-- A claim that stands alone before a pool with enough blocks is granted where it joins. -/
theorem grantClaim_joined {s : State} {w : Wave} {b : Block} {k : Nat} (hw : s.curWave = some w) (hb : s.block? w.launch w.block = some b)
    (hempty : b.claims = []) (hpool : k ≤ b.pool.length)
    (hfind : (s.wavesOf w.launch w.block).find? (fun v => v.wid == w.wid) = some w) :
    (s.claimJoined w k).grantClaim w.launch w.block
      = (s.poolTaken b w.core k).modAgent (fun v => v.granted (b.pool.take k) (.claim 0)) (fun p => { p with wait := .claim k }) := by
  obtain ⟨hlaunch, hindex⟩ := block?_at hb
  have hjoined := claimJoined_setWave hw hb k
  have hblock : (s.claimJoined w k).block? w.launch w.block = some { b with claims := b.claims ++ [w.wid] } := by
    rw [hjoined]
    exact block?_setBlock hb hlaunch hindex
  have hfound : ((s.claimJoined w k).wavesOf w.launch w.block).find? (fun v => v.wid == w.wid) = some { w with wait := .claim k } := by
    rw [hjoined]
    exact find_wavesOf_setWave (wave?_of_curWave hw) hfind rfl rfl rfl rfl rfl
  have hcur : ((s.poolTaken b w.core k).modAgent (fun v => { v with wait := .claim k }) (fun p => { p with wait := .claim k })).cur
      = .wave w.core w.slot := by
    rw [modAgent_cur]
    exact curWave_place (curWave_poolTaken hw b _ _)
  rw [grantClaim_oldest hblock (by rw [hempty]; rfl) hfound rfl, if_neg (Nat.not_lt.2 hpool)]
  refine (congrArg (fun u => State.modWave u w.core w.slot (fun v => v.granted (b.pool.take k) (.claim 0)))
    (claimJoined_poolTaken hb hempty k)).trans ?_
  rw [← modAgent_wave hcur _ (fun p => p)]
  exact modAgent_modAgent _ _ _ _ _ (wait_place _) (granted_place _ _) (fun _ => rfl) stays_id

/-- A granted claim is over with its instruction. -/
theorem complete_granted {s : State} {w : Wave} (hw : s.curWave = some w) (pc : BitVec 64) (blocks : List Nat) (fp : Spindle → Spindle)
    (hfp : Stays fp) : (s.modAgent (fun v => v.granted blocks (.claim 0)) fp).complete pc (fun v => v) (fun p => p)
      = s.complete pc (fun v => v.granted blocks .ready) (fun p => p) := by
  rw [complete_modAgent _ _ _ _ _ _ (granted_place _ _) places_id hfp stays_id, complete_eq, complete_eq,
    modAgent_wave (curWave_place hw), modAgent_wave (curWave_place hw)]
  rfl

/-! ### The deadlock of a block's claims (R36) -/

/-- Every wave of a block that has not exited waits in regclaim, and no claim can be granted. -/
def State.ClaimsDead (s : State) (b : Block) : Prop :=
  b.claims ≠ [] ∧ s.claimGrantable b = false ∧ ∀ i, i < 64 → b.alive.getLsbD i = true → i ∈ b.claims

section
variable {s : State} {l i : Nat} {b : Block} (hb : s.block? l i = some b)

theorem claimsDead_iff : (b.claims.isEmpty || s.claimGrantable b
    || !((List.range 64).filter (fun i => b.alive.getLsbD i)).all (fun i => b.claims.contains i)) = false ↔ s.ClaimsDead b := by
  simp only [State.ClaimsDead, Bool.or_eq_false_iff, Bool.not_eq_false', List.isEmpty_eq_false_iff, List.all_eq_true, List.mem_filter,
    List.mem_range, List.contains_iff_mem, and_imp, and_assoc, ne_eq]

include hb

theorem claimDeadlock_alive (h : ¬ s.ClaimsDead b) : s.claimDeadlock l i = s := by
  rw [← claimsDead_iff, Bool.not_eq_false] at h
  simp only [State.claimDeadlock, hb, h, if_true]

theorem claimDeadlock_dead (h : s.ClaimsDead b) : s.claimDeadlock l i = (s.wavesOf l i).foldl (fun t w => if w.claimed.isSome = true
    then t.forWave w.core w.slot (fun u => (u.takeTrap causeClaimDeadlock w.pc 0 0).settle) else t) (s.setBlock { b with claims := [] }) := by
  rw [← claimsDead_iff] at h
  simp only [State.claimDeadlock, hb, h, Bool.false_eq_true, if_false]
  rfl

end

theorem claimed_of_wait {w : Wave} {n : Nat} (h : w.wait = .claim n) : w.claimed = some n := by
  rw [Wave.claimed, h]

/-- Settles O39: what a surrender waits for is what the statement names (`holdsBlocks_eq_false_iff`), and a claim alone before a
pool with enough blocks is granted where it joins (`grantClaim_joined`). -/
theorem registerBlocks : Obligations.RegisterBlocks := by
  unfold Obligations.RegisterBlocks
  refine ⟨?surrender, ?claim, ?grant, ?deadlock⟩
  case surrender =>
    intro i s w r n hshape h hw k keep gone free
    have hexec : exec i s = .next (s.finish n.words (regsurrenderOp r n s)) := issue_eq h hshape nofun
    have hfree : w.flight.any (fun a => a.holdsBlocks w.core keep gone) = false ↔ free := by
      simp only [List.any_eq_false, Bool.not_eq_true, holdsBlocks_eq_false_iff, inBlocks_eq_false_iff]
      rfl
    refine ⟨fun hbad => ?illegal, fun hlow hhigh hleft hbusy => ?waits, fun hlow hhigh hleft hidle => ?gives⟩
    case illegal =>
      rw [hexec, regsurrenderOp_illegal hw hbad]
      rfl
    case waits =>
      have hholds : w.flight.any (fun a => a.holdsBlocks w.core keep gone) = true := by rwa [← Bool.not_eq_false, hfree]
      rw [hexec, regsurrenderOp_legal hw hlow hhigh hleft rfl, if_pos hholds, finish_wait]
    case gives =>
      refine ⟨{ (s.poolGiven w gone).complete (s.nextPc n.words) (fun w => { w with blocks := w.blocks.take keep }) (fun p => p) with
        csMark := (s.poolGiven w gone).csMark.filter (fun key => !wordInBlocks w.core gone key) }, ?_, rfl, fun m => ?_⟩
      · rw [hexec, regsurrenderOp_legal hw hlow hhigh hleft rfl, if_neg (Bool.eq_false_iff.1 (hfree.2 hidle)), finish_done _ _ _ h.next,
          State.unmarkBlocks, done_marks _ _ _ (take_blocks_place keep)]
      · rw [List.mem_filter, csMark_poolGiven, Bool.not_eq_true', wordInBlocks_eq_false_iff]
  case claim =>
    intro i s w r n hshape h hw k
    have hexec : exec i s = .next (s.finish n.words (regclaimOp r n s)) := issue_eq h hshape nofun
    refine ⟨fun hwait => ?granted, fun m hm hwait => ?waiting, fun hfresh hbad => ?illegal,
      fun hfresh hlow hhigh hroom b hb => ⟨fun hempty hpool hfind => ?taken, ?queued⟩⟩
    case granted => rw [hexec, regclaimOp_granted hw hwait, finish_same _ _ h.next]
    case waiting => rw [hexec, regclaimOp_waiting hw hm hwait, finish_wait]
    case illegal =>
      rw [hexec, regclaimOp_illegal hw hfresh hbad]
      rfl
    case taken =>
      have hplace := curWave_poolTaken hw b w.core n.x.disp.toNat
      rw [hexec, regclaimOp_joined hw hfresh hlow hhigh hroom (grantClaim_joined hw hb hempty hpool hfind)
        (curWave_modAgent hplace _ _ (granted_place _ _)), if_pos (wait_granted _ _ _), finish_done _ _ _ h.next]
      exact congrArg _ (complete_granted hplace _ _ _ (fun _ => rfl))
    case queued =>
      intro u d v hstays hv hwait
      have hjoined : s.claimJoined w k = u := by rw [State.claimJoined, modBlock_some hb]
      rw [hexec, regclaimOp_joined hw hfresh hlow hhigh hroom ((congrArg (fun x => State.grantClaim x _ _) hjoined).trans hstays) hv,
        if_neg hwait, finish_wait]
  case grant =>
    intro s launch block wid n rest b w hb hclaims hfind hwait
    rw [grantClaim_oldest hb hclaims hfind (claimed_of_wait hwait)]
    exact ⟨fun hshort => if_pos hshort, fun henough => if_neg (Nat.not_lt.2 henough)⟩
  case deadlock =>
    intro s launch block b hb dead
    exact ⟨fun hno => claimDeadlock_alive hb hno, fun hyes => claimDeadlock_dead hb hyes⟩

end Sys2Proof.Machine
end

section
/-! ## Ray dispositions (14 R248 to R250, R253; 02 R46, R61)

rcont and rretire are one work, `dispositionWork`, and differ in what they do with the ray of one lane. -/

namespace Sys2Proof.Machine

theorem ofRayLaunch_iff {w : Wave} : w.ofRayLaunch = true ↔ w.kind = .generation ∨ w.kind = .episode := by
  simp only [Wave.ofRayLaunch, Bool.or_eq_true, decide_eq_true_eq]

theorem ofRayLaunch_eq_false {w : Wave} (hgen : w.kind ≠ .generation) (hep : w.kind ≠ .episode) : w.ofRayLaunch = false := by
  rw [← Bool.not_eq_true, ofRayLaunch_iff]
  exact fun h => h.elim hgen hep

/-! ### remit (R46, R249) -/

/-- Rays that a launch's pool would hold with the valid records of the lanes that act. -/
def State.raysWanted (s : State) (w : Wave) (n : Norm) (rl : RayLaunch) : Nat :=
  rl.rays.length + ((lanesOf (w.rayLanes n.x)).filter (fun L => rayCheck (s.laneRecord w n L) == 0)).length

/-- The state in which the lanes that act have emitted, in lane order, behind the wave's earlier accesses. -/
def State.remitted (s : State) (w : Wave) (n : Norm) : State :=
  ((lanesOf (w.rayLanes n.x)).foldl (remitLane n w) s).countDone w 5

section
variable {s : State} {w : Wave} {n : Norm} (hw : s.curWave = some w) (hclean : recordPoison s w n = none)
include hw hclean

theorem remitOp_outside (hgen : w.kind ≠ .generation) (hep : w.kind ≠ .episode) (r : Row) :
    remitOp r n s = .trap s causeRayContext 0 0 := by
  simp only [remitOp, hw, hclean, ofRayLaunch_eq_false hgen hep]

variable {rl : RayLaunch} (hrl : s.rayPart w = some rl) (hcount : w.counter 5 < 63)
include hrl hcount

theorem remitOp_generation (hk : w.kind = .generation) (r : Row) : remitOp r n s =
    if 7 * rl.cap < 8 * s.raysWanted w n rl then .wait s (.retry 8 true) else .done (s.remitted w n) := by
  simp only [remitOp, hw, hclean, ofRayLaunch_iff.2 (.inl hk), hrl, Wave.pathFull, Nat.not_le.2 hcount, hk, State.raysWanted,
    Bool.and_eq_true, decide_eq_true_eq, decide_false, true_and, reduceCtorEq, false_and, Bool.false_eq_true, if_false]
  rfl

theorem remitOp_episode (hk : w.kind = .episode) (r : Row) : remitOp r n s =
    if rl.cap < s.raysWanted w n rl then .trap s causeRayPoolExhausted 0 0 else .done (s.remitted w n) := by
  simp only [remitOp, hw, hclean, ofRayLaunch_iff.2 (.inr hk), hrl, Wave.pathFull, Nat.not_le.2 hcount, hk, State.raysWanted,
    Bool.and_eq_true, decide_eq_true_eq, decide_false, true_and, reduceCtorEq, false_and, Bool.false_eq_true, if_false]
  rfl

end

/-! ### rcont and rretire (R61, R250) -/

/-- One lane of rretire. -/
def rretireLane (w : Wave) (s : State) (L : Nat) : State :=
  match (w.ray L).slot with
  | some slot => (s.retireRay w.launch slot).dispose w L 2
  | none => s

/-- The work of an instruction that gives the lanes that act their disposition, one by one. -/
def dispositionWork (s : State) (w : Wave) (n : Norm) (act : State → Nat → State) : Res :=
  if w.kind != .episode then .trap s causeRayContext 0 0
  else if w.disposed n.x then .trap s causeRayDisposition 0 0
  else if w.pathFull 5 then .wait s (.retry 9 false)
  else .done (((lanesOf (w.rayLanes n.x)).foldl act s).countDone w 5)

theorem rcontOp_work {s : State} {w : Wave} {n : Norm} (hw : s.curWave = some w) (hclean : recordPoison s w n = none) (r : Row) :
    rcontOp r n s = dispositionWork s w n (rcontLane n w) := by
  simp only [rcontOp, hw, hclean, dispositionWork]

theorem rretireOp_work {s : State} {w : Wave} (hw : s.curWave = some w) (r : Row) (n : Norm) :
    rretireOp r n s = dispositionWork s w n (rretireLane w) := by
  simp only [rretireOp, hw, dispositionWork]
  rfl

section
variable {w : Wave} {n : Norm} (s : State) (act : State → Nat → State)

theorem dispositionWork_outside (hk : w.kind ≠ .episode) : dispositionWork s w n act = .trap s causeRayContext 0 0 :=
  if_pos (bne_iff_ne.2 hk)

theorem dispositionWork_again (hk : w.kind = .episode) (hdisp : w.rayLanes n.x &&& w.rdisp ≠ 0) :
    dispositionWork s w n act = .trap s causeRayDisposition 0 0 := by
  simp only [dispositionWork, Wave.disposed, hk, hdisp, bne_iff_ne, ne_eq, not_true_eq_false, not_false_eq_true, if_false, if_true]

theorem dispositionWork_done (hk : w.kind = .episode) (hdisp : w.rayLanes n.x &&& w.rdisp = 0) (hcount : w.counter 5 < 63) :
    dispositionWork s w n act = .done (((lanesOf (w.rayLanes n.x)).foldl act s).countDone w 5) := by
  simp only [dispositionWork, Wave.disposed, Wave.pathFull, hk, hdisp, Nat.not_le.2 hcount, bne_self_eq_false, decide_false,
    Bool.false_eq_true, if_false]

end

/-! ### epend (R253) -/

theorem ependOp_episode {s : State} {w : Wave} (hw : s.curWave = some w) (hk : w.kind = .episode) (r : Row) (n : Norm) :
    ependOp r n s = .wait (s.settleLanes w) (.exiting true) := by
  simp only [ependOp, hw, hk, bne_self_eq_false, Bool.false_eq_true, if_false]

/-- Settles O40: remit places the lanes' rays where its pool has room (`remitOp_generation`, `remitOp_episode`), and rcont and
rretire are one work over the lanes (`dispositionWork`). -/
theorem rayDispositions : Obligations.RayDispositions := by
  unfold Obligations.RayDispositions
  refine ⟨fun i s w r n h hw => ⟨?remit, ?disposition, ?epend⟩, retired_gone⟩
  case remit =>
    rintro f rfl hclean
    have hexec : exec (.remit f) s = .next (s.finish n.words (remitOp r n s)) := exec_admitted h.toAdmitted
    refine ⟨fun hgen hep => ?outside, fun rl hrl hcount => ⟨fun hk => ?generation, fun hk => ?episode⟩⟩
    case outside =>
      rw [hexec, remitOp_outside hw hclean hgen hep]
      rfl
    case generation =>
      rw [hexec, remitOp_generation hw hclean hrl hcount hk, apply_ite (s.finish n.words), finish_wait, finish_done _ _ _ h.next]
      rfl
    case episode =>
      rw [hexec, remitOp_episode hw hclean hrl hcount hk, apply_ite (s.finish n.words), finish_done _ _ _ h.next]
      rfl
  case disposition =>
    intro f hi act
    have hwork : work i r n s = dispositionWork s w n act := by
      rcases hi with ⟨rfl, hclean⟩ | rfl
      · have hact : rcontLane n w = act := funext fun _ => funext fun _ => (if_pos rfl).symm
        rw [← hact, ← rcontOp_work hw hclean r]
        rfl
      · have hact : rretireLane w = act := funext fun _ => funext fun _ => (if_neg nofun).symm
        rw [← hact, ← rretireOp_work hw r n]
        rfl
    rw [exec_admitted h.toAdmitted, hwork]
    refine ⟨fun hk => ?outside, fun hk hdisp => ?again, fun hk hdisp hcount => ?done⟩
    case outside =>
      rw [dispositionWork_outside s act hk]
      rfl
    case again =>
      rw [dispositionWork_again s act hk hdisp]
      rfl
    case done => rw [dispositionWork_done s act hk hdisp hcount, finish_done _ _ _ h.next]
  case epend =>
    rintro rfl hk
    have hexec : exec .epend s = .next (s.finish n.words (ependOp r n s)) := exec_admitted h.toAdmitted
    rw [hexec, ependOp_episode hw hk, finish_wait]

end Sys2Proof.Machine
end

section
/-! ## The keys of rays (14 R254; 02 R47) -/

namespace Sys2Proof.Machine

theorem cellAxis_lt (o : Int) (g c : Nat) : cellAxis o g c < 32 := by
  unfold cellAxis
  split
  · split <;> omega
  · decide

theorem originCell_lt (h : BitVec 512) (v : V3) : originCell h v < 32768 := by
  have hx := cellAxis_lt v.1 (recBytes h 32 4) (recBytes h 44 4)
  have hy := cellAxis_lt v.2.1 (recBytes h 36 4) (recBytes h 48 4)
  have hz := cellAxis_lt v.2.2 (recBytes h 40 4) (recBytes h 52 4)
  unfold originCell
  omega

theorem directionClass_lt (v : V3) : directionClass v < 64 := by
  unfold directionClass
  dsimp only
  split <;> (dsimp only; omega)

/-- The part of a key that rcell, or else rdircls, computes from a scene header and three components (R254). -/
def keyPartOf (cell : Bool) (h : BitVec 512) (v : V3) : Option Nat :=
  if cell then some (originCell h v) else if v.isZero then none else some (directionClass v)

theorem keyPartOf_getD (cell : Bool) (h : BitVec 512) (v : V3) (d : Nat) :
    (keyPartOf cell h v).getD d = if cell then originCell h v else if v.isZero then d else directionClass v := by
  simp only [keyPartOf, apply_ite (Option.getD · d), Option.getD_some, Option.getD_none]

theorem work_keyPart {i : Instr} {f : XF} (hi : i = .rcell f ∨ i = .rdircls f) :
    ∃ cell : Bool, (cell = true ↔ i = .rcell f) ∧ work i = keyPartOp (keyPartOf cell) := by
  rcases hi with rfl | rfl
  · exact ⟨true, by simp only, rfl⟩
  · exact ⟨false, by simp only [Bool.false_eq_true, reduceCtorEq], rfl⟩

/-- Settles O41: both write the lanes with the part of a key of their components (`work_keyPart`, `keyPart_yes`). -/
theorem keyParts : Obligations.KeyParts := by
  unfold Obligations.KeyParts
  refine ⟨fun i s w r n f hi h hw => ?instructions, fun h v => ⟨originCell_lt h v, directionClass_lt v⟩⟩
  case instructions =>
    obtain ⟨cell, hcell, hwork⟩ := work_keyPart hi
    rw [exec_admitted h.toAdmitted, hwork]
    refine ⟨fun hgen hep => ?outside, fun rl hk hrl => ?written⟩
    case outside =>
      rw [keyPart_no hw hgen hep]
      rfl
    case written =>
      intro comp key
      have hkey : keyOf (keyPartOf cell) rl comp = key := by
        funext L
        simp only [keyOf, keyPartOf_getD, hcell]
        rfl
      rw [keyPart_yes hw hk hrl]
      refine ⟨_, rfl, ?_⟩
      rw [← hkey]
      exact lanesMoved hw _ _ _ _ _ h.next

end Sys2Proof.Machine
end

section
/-! ## Scene reads and samples (14 R252, R255; 02 R63) -/

namespace Sys2Proof.Machine

/-- The index of a lane: the low word of its last source (R252, R255). -/
def State.laneIndex (s : State) (w : Wave) (r : Row) (n : Norm) (L : Nat) : Nat := (s.laneOpnd w n r.sb n.x.sb L).toNat % 2 ^ 32

/-! ### racc -/

/-- The requests of racc: the entry that each lane's index names. -/
def State.raccReqs (s : State) (w : Wave) (r : Row) (n : Norm) : List Req :=
  (lanesOf (laneSet w n.x)).map (fun L =>
    { lane := some L, off := 32 * s.laneIndex w r n L, bytes := 32, mask := allBytes 32, data := 0, op := .rmw 0 3 0 0 })

/-- racc whose entries pass their checks and carry no poison counts its lanes where its updates are in flight. -/
theorem raccOp_clean {s t u : State} {w : Wave} {r : Row} {n : Norm} {l : List (Req × List Part)}
    {sf : List (Nat × BitVec 64 × BitVec 64)} (hw : s.curWave = some w)
    (hcheck : s.check w .accumulate n.x false (s.raccReqs w r n) = .ok l sf t)
    (hclean : ∀ e ∈ l.flatMap (accumElems s w n), t.elemPoisoned w e = false)
    (hissue : issueOn (fun _ => 5) t w (l.flatMap (accumElems s w n)) .none 0 [] w.stseq = .done u) :
    raccOp r n s = .done (u.bumpCtx w.ctx 26 l.length) := by
  have hnone : (l.flatMap (accumElems s w n)).any (t.elemPoisoned w) = false := by
    simpa only [List.any_eq_false, Bool.not_eq_true] using hclean
  unfold State.raccReqs State.laneIndex at hcheck
  simp only [raccOp, hw, hcheck, hnone, hissue, Bool.false_eq_true, if_false]

/-! ### Words of the scene -/

/-- Reads of words of the scene at an address for each lane that has one are in flight, the other lanes have taken zeros, and the
wave has gone on. -/
def SceneReads (i : Instr) (s : State) (w : Wave) (n : Norm) (regs : Nat) (addr : Nat → Option Nat) : Prop :=
  let lanes := lanesOf (laneSet w n.x)
  let path (e : Elem) : Nat := e.path w.core
  let reqs : List Req := lanes.filterMap (fun L => (addr L).map (fun a =>
    { lane := some L, off := a % 2 ^ 64, bytes := 4 * regs, mask := allBytes (4 * regs), data := 0, op := .load }))
  let zeros := (lanes.filter (fun L => (addr L).isNone)).map (fun L => (L, 0#64))
  ∀ l sf t, s.checkReqs .load BReg.none 0 reqs = .ok l sf t → Room w path (elemsOf false 0 l) false →
    ∃ u, InFlight path t u w (elemsOf false 0 l) (.vec n.x.d.toNat (4 * regs) false) (reqLanes reqs) [] w.stseq (s.nextPc n.words) ∧
      exec i s = .next ((List.range regs).foldl (fun u k => u.vputAll w (n.x.d.toNat + k) 1 zeros) u)

theorem sceneReads_of_work {i : Instr} {s : State} {w : Wave} {r : Row} {n : Norm} {regs : Nat} {addr : Nat → Option Nat}
    (h : Issues i s r n) (hw : s.curWave = some w) (hwork : work i r n s = sceneLoad s w n regs addr) : SceneReads i s w n regs addr := by
  intro l sf t hcheck hroom
  obtain ⟨u, hfly, hload⟩ := sceneLoad_of hw hcheck hroom h.next
  exact ⟨u, hfly, by rw [exec_admitted h.toAdmitted, hwork, hload]⟩

/-- The address of a vertex of the triangle that a lane's locator names (R255). -/
def Wave.vertexAddr (w : Wave) (rl : RayLaunch) (j L : Nat) : Option Nat :=
  if (w.ray L).slot.isNone ∨ 3 ≤ (w.ray L).hitJ then none
  else some (hdrTbase rl.header + 4096 * (w.ray L).hitTreelet + 128 * (w.ray L).hitSlot + 36 * (w.ray L).hitJ + 12 * j)

/-- The address of bytes of the scene record that an index names, if it names one (R255). -/
def RayLaunch.recordAddr (rl : RayLaunch) (off index : Nat) : Option Nat :=
  if index = 2 ^ 32 - 1 then none else some (hdrIbase rl.header + 64 * index + off)

section
variable {s : State} {w : Wave} {r : Row} {n : Norm} {rl : RayLaunch} (hw : s.curWave = some w) (hrl : s.rayPart w = some rl)
include hw hrl

theorem rhitOp_episode (hk : w.kind = .episode) (hj : s.laneIndex w r n 0 ≤ 2) :
    rhitOp r n s = sceneLoad s w n 3 (w.vertexAddr rl (s.laneIndex w r n 0)) := by
  unfold State.laneIndex at hj ⊢
  simp only [rhitOp, hw, hk, hrl, Nat.not_lt.2 hj, if_false]
  refine congrArg _ (funext fun L => ?_)
  simp only [Wave.vertexAddr, Bool.or_eq_true, decide_eq_true_eq]

theorem instanceOp_named (hk : w.kind = .generation ∨ w.kind = .episode)
    (hnamed : ∀ L, (laneSet w n.x).getLsbD L = true → s.laneIndex w r n L < hdrNinst rl.header ∨ s.laneIndex w r n L = 2 ^ 32 - 1)
    (off : Norm → Nat) :
    instanceOp off r n s = sceneLoad s w n 4 (fun L => rl.recordAddr (off n) (s.laneIndex w r n L)) := by
  have hlegal : (lanesOf (laneSet w n.x)).any (fun L =>
      s.laneIndex w r n L != noIndex && decide (hdrNinst rl.header ≤ s.laneIndex w r n L)) = false := by
    rw [List.any_eq_false]
    intro L hL
    rw [Bool.and_eq_true, bne_iff_ne, decide_eq_true_eq, Classical.not_and_iff_not_or_not, Classical.not_not, Nat.not_le]
    exact (hnamed L ((mem_lanesOf _ _).1 hL)).symm
  unfold State.laneIndex at hlegal ⊢
  simp only [instanceOp, hw, ofRayLaunch_iff.2 hk, hrl, hlegal, Bool.false_eq_true, if_false]
  refine congrArg _ (funext fun L => ?_)
  simp only [RayLaunch.recordAddr, beq_iff_eq, noIndex]

end

/-- rinst reads the second half of the record, rxform a row of its transform (R255). -/
theorem work_instance {i : Instr} {f : XF} (hi : i = .rinst f ∨ i = .rxform f) :
    ∃ off : Norm → Nat, (∀ n, off n = if i = .rinst f then 48 else 16 * n.x.shape.toNat) ∧ work i = instanceOp off := by
  rcases hi with rfl | rfl
  · exact ⟨fun _ => 48, fun _ => (if_pos rfl).symm, rfl⟩
  · exact ⟨fun n => 16 * n.x.shape.toNat, fun _ => (if_neg nofun).symm, rfl⟩

/-- Settles O42: each scene read is one work at its lanes' addresses (`sceneReads_of_work`), and racc counts its lanes where its
updates are in flight (`raccOp_clean`). -/
theorem sceneReadsAndSamples : Obligations.SceneReadsAndSamples := by
  unfold Obligations.SceneReadsAndSamples
  intro i s w r n h hw pc path lanes index reads
  refine ⟨?samples, fun f rl hrl => ⟨?vertex, ?record⟩⟩
  case samples =>
    rintro f l sf t rfl hcheck es hclean hroom
    have hagent : t.curWave = some w := (frame_curWave (check_ok hcheck)).trans hw
    obtain ⟨u, hissue, hfly⟩ := issueOn_inFlight (dest := .none) (lanes := 0) (faults := []) (seq := w.stseq) hagent hroom pc
    have hwork : work (.racc f) r n s = .done (u.bumpCtx w.ctx 26 l.length) := raccOp_clean hw hcheck hclean hissue
    exact ⟨_, hfly, by rw [exec_admitted h.toAdmitted, hwork, finish_done _ _ _ h.next, bump_complete]⟩
  case vertex =>
    rintro rfl hk hj
    have hwork : work (.rhit f) r n s = sceneLoad s w n 3 (w.vertexAddr rl (index 0)) := rhitOp_episode hw hrl hk hj
    exact sceneReads_of_work h hw hwork
  case record =>
    intro hi hk hnamed
    obtain ⟨off, hoff, hwork⟩ := work_instance hi
    rw [← hoff]
    exact sceneReads_of_work h hw ((congrFun (congrFun (congrFun hwork r) n) s).trans (instanceOp_named hw hrl hk hnamed off))

end Sys2Proof.Machine
end

section
/-! ## Operand slots and batches (03 R70, R79; 15 R262, R269) -/

namespace Sys2Proof.Machine

/-- An instruction that issues runs as its work ends. -/
theorem exec_of_work {i : Instr} {s : State} {r : Row} {n : Norm} (h : Issues i s r n) {x : Res} (hx : work i r n s = x) :
    exec i s = .next (s.finish n.words x) := hx ▸ exec_admitted h.toAdmitted

theorem finish_trap (s t : State) (words cause : Nat) (addr lanes : BitVec 64) :
    s.finish words (.trap t cause addr lanes) = (t.takeTrap cause t.curPc addr lanes).settle := rfl

/-- For a Spindle program a completion is one write of the program. -/
theorem complete_spindle {s : State} {p : Spindle} (h : s.curSpindle = some p) (pc : BitVec 64) (fw : Wave → Wave)
    (fp : Spindle → Spindle) : s.complete pc fw fp = s.setSpindle ((fp p).completed pc) := by
  rw [setSpindle_eq h (fun q => (fp q).completed pc), complete_eq, modAgent_spindle (curSpindle_place h),
    modAgent_spindle (curSpindle_place h)]

theorem finish_setSpindle {s t : State} {p q : Spindle} (ht : t.curSpindle = some p) (hq : q.cluster = p.cluster) {words : Nat}
    (hn : canonical (s.nextPc words) = true) :
    s.finish words (.done (t.setSpindle q)) = t.setSpindle (q.completed (s.nextPc words)) := by
  rw [finish_done _ _ _ hn, setSpindle_complete ht hq]

theorem setSlot_cluster (p : Spindle) (i : Nat) (o : OSlot) : (p.setSlot i o).cluster = p.cluster := rfl

section
variable {s : State} {p : Spindle} {n : Norm} (r : Row) (hp : s.curSpindle = some p)
include hp

/-- The slot that oclaim makes: claimed, empty, and not yet written. -/
def claimedSlot (s : State) (n : Norm) (size : Nat) : OSlot :=
  { state := .claimed, size := size, format := n.x.type.toNat, count := 0, written := 0, fresh := s.free }

theorem oclaimOp_work : oclaimOp r n s =
    if (s.srd n.x.sb.toNat).toNat % 128 ≠ 0 ∨ (s.srd n.x.sb.toNat).toNat < 128 ∨ 16384 < (s.srd n.x.sb.toNat).toNat
    then .trap s causeIllegalOperand 0 0
    else if (p.slot n.x.sa.toNat).state = .free
    then .done ({ s with free := s.free + 16384 }.setSpindle (p.setSlot n.x.sa.toNat (claimedSlot s n (s.srd n.x.sb.toNat).toNat)))
    else .trap s causeSlotState 0 0 := by
  simp only [oclaimOp, hp, bne_iff_ne, Bool.or_eq_true, decide_eq_true_eq, or_assoc, ne_eq, ite_not]
  rfl

theorem orelOp_work : orelOp r n s =
    if (p.slot n.x.sa.toNat).state = .claimed then .done (s.setSpindle (p.setSlot n.x.sa.toNat OSlot.free))
    else .trap s causeSlotState 0 0 := by
  simp only [orelOp, hp, bne_iff_ne, ne_eq, ite_not]

theorem owaitOp_work : owaitOp r n s =
    if (p.slot n.x.sa.toNat).state = .free then .trap s causeSlotState 0 0
    else if (p.slot n.x.sa.toNat).state = .ready then .done s
    else .wait s (.retry 8 false) := by
  simp only [owaitOp, hp]
  cases (p.slot n.x.sa.toNat).state <;> rfl

theorem batwaitOp_work : batwaitOp r n s =
    if p.bcom.toNat < (s.scalOpnd n (r.opnds n.accum).2.1 n.x.sa).toNat then .trap s causeIllegalOperand 0 0
    else if (s.scalOpnd n (r.opnds n.accum).2.1 n.x.sa).toNat ≤ p.bdone.toNat then .done s
    else .wait s (.retry 8 false) := by
  simp only [batwaitOp, hp]

end

theorem bcomStay : Stays (fun q => { q with bcom := q.bcom + 1 }.batchesDone) := fun _ => rfl

/-- A batch that is committed and not done is done by a count of the operations left exactly if each of them is of a later batch. -/
theorem le_batchesDone {p : Spindle} {b : Nat} (hdone : p.bdone.toNat < b) (hcom : b ≤ p.bcom.toNat) :
    b ≤ p.batchesDone.bdone.toNat ↔ ∀ o ∈ p.ops, b < o.batch := by
  have hbound : max p.bdone.toNat (p.ops.foldl (fun a o => min a (o.batch - 1)) p.bcom.toNat) < 2 ^ 64 := by
    have hle := ((min_fold p.ops p.bcom.toNat _).1 (Nat.le_refl _)).1
    exact Nat.max_lt.2 ⟨p.bdone.isLt, Nat.lt_of_le_of_lt hle p.bcom.isLt⟩
  have hcount : p.batchesDone.bdone.toNat = max p.bdone.toNat (p.ops.foldl (fun a o => min a (o.batch - 1)) p.bcom.toNat) :=
    Nat.mod_eq_of_lt hbound
  rw [hcount, le_max_iff, or_iff_right (Nat.not_le.2 hdone), min_fold, and_iff_right hcom]
  refine forall₂_congr fun o _ => ?_
  omega

/-- Settles O43: each instruction is the case split of its work on the slot's state or on the batch (`oclaimOp_work` and those
after it), and a batch is done by `le_batchesDone`. -/
theorem slotsAndBatches : Obligations.SlotsAndBatches := by
  unfold Obligations.SlotsAndBatches
  refine ⟨?instructions, fun p b => le_batchesDone⟩
  intro i s p r n f h hp pc k size trap goes
  have hgoes : ∀ g, goes g = s.setSpindle ((g p).completed pc) := complete_spindle hp pc _
  refine ⟨?oclaim, ?orel, ?owait, ?batcom, ?batwait⟩
  case oclaim =>
    rintro rfl
    rw [exec_of_work h (oclaimOp_work r hp), apply_ite (s.finish n.words), apply_ite (s.finish n.words), finish_trap, finish_trap,
      finish_setSpindle (t := { s with free := s.free + 16384 }) hp (setSlot_cluster _ _ _) h.next, hgoes]
    rfl
  case orel =>
    rintro rfl
    rw [exec_of_work h (orelOp_work r hp), apply_ite (s.finish n.words), finish_trap, finish_setSpindle hp (setSlot_cluster _ _ _) h.next, hgoes]
  case owait =>
    rintro rfl
    rw [exec_of_work h (owaitOp_work r hp), apply_ite (s.finish n.words), apply_ite (s.finish n.words), finish_trap, finish_wait,
      finish_done _ _ _ h.next]
  case batcom =>
    rintro rfl
    rw [exec_of_work h (show _ = batcomOp r n s from rfl), batcomOp, modCurSpindle_eq, finish_modAgent s _ _ _ places_id bcomStay h.next]
  case batwait =>
    rintro rfl b
    rw [exec_of_work h (batwaitOp_work r hp), apply_ite (s.finish n.words), apply_ite (s.finish n.words), finish_trap, finish_wait,
      finish_done _ _ _ h.next]

end Sys2Proof.Machine
end

section
/-! ## Clearing and scaling accumulators (03 R74, R75; 08 R158; 15 R266) -/

namespace Sys2Proof.Machine

/-- The operands of ascale are legal: the factor is a pattern of the type's width, and the columns lie in the data scratch. -/
def ScaleLegal (t : AccTy) (byCol : Bool) (cols off x : Nat) : Prop :=
  (if byCol = true then off % 4 = 0 ∧ off + 4 * cols ≤ 16384 else off = 0) ∧ (t ≠ .f64 → x < 2 ^ 32)

theorem scaleGuard_iff {t : AccTy} {byCol : Bool} {cols off x : Nat} :
    ((t != .f64 && decide (2 ^ 32 ≤ x)) || (byCol && (off % 4 != 0 || decide (16384 < off + 4 * cols))) || (!byCol && off != 0)) = true
      ↔ ¬ ScaleLegal t byCol cols off x := by
  unfold ScaleLegal
  cases byCol <;> by_cases ht : t = .f64 <;> simp [ht] <;> omega

/-- One element of ascale: the product of the element, the factor and its column, rounded once, and the flags it adds. -/
def scaleElem (fmt : Fmt2) (mode : Nat) (factor col : FVal) (v : Nat) : Nat × Nat :=
  let e := fmt.value v
  let part := e.mul factor
  let prod := part.1.mul col
  let out := rnd prod.1 fmt mode false
  (out.1, (out.2 ||| (if part.2 || prod.2 || e.isSnan || factor.isSnan || col.isSnan then flagNV else 0)) &&& (flagNV ||| flagOF))

/-- The factor of a column: an FP32 of the data scratch, or 1. -/
def Spindle.scaleCol (p : Spindle) (byCol : Bool) (off j : Nat) : FVal :=
  if byCol then fmtF32.value (p.scratch.readNat (off + 4 * j) 4) else .num false 1 0

/-- The elements that ascale writes, each with its flags. -/
def Spindle.scaleResults (p : Spindle) (n : Norm) (x off : Nat) : List (Nat × Nat) :=
  let t := accTyOf n.x.type.toNat
  let cols := shapeN n.x.shape.toNat
  let elems := shapeM n.x.shape.toNat * cols
  (List.range elems).map (fun k => scaleElem (accFmt t) n.x.rnd.toNat ((if t = .f64 then fmtF64 else fmtF32).value x)
    (p.scaleCol (n.x.osel == 1) off (k % cols)) ((p.accRead n.x.d.toNat elems t).getD k 0))

theorem zip_range_getD {β γ : Type} (l : List β) (d : β) (h : β → Nat → γ) :
    (l.zip (List.range l.length)).map (fun q => h q.1 q.2) = (List.range l.length).map (fun k => h (l.getD k d) k) := by
  refine List.ext_getElem (by simp) fun k hk _ => ?_
  have hlt : k < l.length := by simpa using hk
  simp [List.getElem?_eq_getElem hlt]

theorem accRead_length (p : Spindle) (a n : Nat) (t : AccTy) : (p.accRead a n t).length = n := by
  simp [Spindle.accRead]

theorem scaleResults_eq (p : Spindle) (n : Norm) (x off : Nat) (old : List Nat)
    (hold : p.accRead n.x.d.toNat (shapeM n.x.shape.toNat * shapeN n.x.shape.toNat) (accTyOf n.x.type.toNat) = old) :
    (old.zip (List.range old.length)).map (fun q => scaleElem (accFmt (accTyOf n.x.type.toNat)) n.x.rnd.toNat
      ((if accTyOf n.x.type.toNat = .f64 then fmtF64 else fmtF32).value x)
      (p.scaleCol (n.x.osel == 1) off (q.2 % shapeN n.x.shape.toNat)) q.1) = p.scaleResults n x off := by
  rw [zip_range_getD old 0 (fun v k => scaleElem _ _ _ (p.scaleCol _ _ (k % shapeN n.x.shape.toNat)) v), ← hold, accRead_length]
  rfl

/-- A program that has scaled accumulators. -/
def Spindle.scaled (p : Spindle) (n : Norm) (x off : Nat) : Spindle :=
  let q := p.accWrite n.x.d.toNat (accTyOf n.x.type.toNat) ((p.scaleResults n x off).map (·.1))
  { q with flags := q.flags ||| BitVec.ofNat 64 ((p.scaleResults n x off).foldl (fun (f : Nat) (e : Nat × Nat) => f ||| e.2) 0) }.issue [] none

theorem scaled_cluster (p : Spindle) (n : Norm) (x off : Nat) : (p.scaled n x off).cluster = p.cluster := rfl

/-- A program that has cleared accumulators. -/
def Spindle.clearedAccs (p : Spindle) (a u : Nat) (t : AccTy) : Spindle :=
  let q := (List.range u).foldl (fun p i => p.setAccTy (a + i) t) p
  { q with acc := q.acc.clear (accBytes * a) (accBytes * u) }.issue [] none

section
variable {s : State} {p : Spindle} {n : Norm} {u : Nat} (r : Row) (hp : s.curSpindle = some p)
include hp

theorem aclrOp_shapeless (hu : accCount (n.x.d.toNat % 8) (shapeM n.x.shape.toNat * shapeN n.x.shape.toNat) (accTyOf n.x.type.toNat = .f64) = none) :
    aclrOp r n s = .trap s causeMatrixShape 0 0 := by
  simp only [aclrOp, hp, hu]

theorem aclrOp_clears (hu : accCount (n.x.d.toNat % 8) (shapeM n.x.shape.toNat * shapeN n.x.shape.toNat) (accTyOf n.x.type.toNat = .f64) = some u) :
    aclrOp r n s = .done (s.setSpindle (p.clearedAccs n.x.d.toNat u (accTyOf n.x.type.toNat))) := by
  simp only [aclrOp, hp, hu, Spindle.clearedAccs]

/-- The column offset of ascale. -/
def scaleOff (r : Row) (n : Norm) (s : State) : Nat := (s.scalOpnd n (r.opnds n.accum).2.2.1 n.x.sb).toNat

theorem ascaleOp_illegal (hl : ¬ ScaleLegal (accTyOf n.x.type.toNat) (n.x.osel == 1) (shapeN n.x.shape.toNat) (scaleOff r n s)
    (s.srd n.x.sa.toNat).toNat) : ascaleOp r n s = .trap s causeIllegalOperand 0 0 := by
  simp only [ascaleOp, hp]
  exact if_pos (scaleGuard_iff.2 hl)

variable (hl : ScaleLegal (accTyOf n.x.type.toNat) (n.x.osel == 1) (shapeN n.x.shape.toNat) (scaleOff r n s) (s.srd n.x.sa.toNat).toNat)
include hl

theorem ascaleOp_shapeless (hu : accCount (n.x.d.toNat % 8) (shapeM n.x.shape.toNat * shapeN n.x.shape.toNat) (accTyOf n.x.type.toNat = .f64) = none) :
    ascaleOp r n s = .trap s causeMatrixShape 0 0 := by
  simp only [ascaleOp, hp, hu]
  exact if_neg (mt scaleGuard_iff.1 (not_not_intro hl))

variable (hu : accCount (n.x.d.toNat % 8) (shapeM n.x.shape.toNat * shapeN n.x.shape.toNat) (accTyOf n.x.type.toNat = .f64) = some u)
include hu

theorem ascaleOp_otherType (ht : ∃ k, k < u ∧ p.accTy (n.x.d.toNat + k) ≠ accTyOf n.x.type.toNat) :
    ascaleOp r n s = .trap s causeAccumulatorType 0 0 := by
  have hany : (List.range u).any (fun i => p.accTy (n.x.d.toNat + i) != accTyOf n.x.type.toNat) = true := by
    simpa using ht
  simp only [ascaleOp, hp, hu, hany, if_true]
  exact if_neg (mt scaleGuard_iff.1 (not_not_intro hl))

theorem ascaleOp_scales (ht : ∀ k, k < u → p.accTy (n.x.d.toNat + k) = accTyOf n.x.type.toNat) :
    ascaleOp r n s = .done (s.setSpindle (p.scaled n (s.srd n.x.sa.toNat).toNat (scaleOff r n s))) := by
  have hany : (List.range u).any (fun i => p.accTy (n.x.d.toNat + i) != accTyOf n.x.type.toNat) = false := by
    simpa using ht
  simp only [ascaleOp, hp, hu, hany, Bool.false_eq_true, if_false]
  refine (if_neg (mt scaleGuard_iff.1 (not_not_intro hl))).trans ?_
  unfold Spindle.scaled
  rw [← scaleResults_eq p n _ _ _ rfl]
  rfl

end

theorem scaleLegal_iff {t : AccTy} {k : BitVec 2} {cols off x : Nat} : ScaleLegal t (k == 1) cols off x ↔
    (if k = 1 then off % 4 = 0 ∧ off + 4 * cols ≤ 16384 else off = 0) ∧ (t ≠ .f64 → x < 2 ^ 32) := by
  simp only [ScaleLegal, beq_iff_eq]

/-- Settles O44: the bytes of elements are those of `accWrite_read` and `accWrite_other`, and each instruction is the case split
of its work on its operands, its shape and the types it finds (`aclrOp_clears`, `ascaleOp_scales` and those beside them). -/
theorem accumulatorOperations : Obligations.AccumulatorOperations := by
  unfold Obligations.AccumulatorOperations
  refine ⟨fun p a t vals => ⟨accWrite_read p a t vals, accWrite_other p a t vals⟩, ?instructions⟩
  intro s p r n f hp pc a t cols elems trap op
  refine ⟨fun h => ⟨fun hu => ?aclrShape, fun u hu => ?aclr⟩, fun h => ?ascale⟩
  case aclrShape => rw [exec_of_work h (aclrOp_shapeless r hp hu), finish_trap]
  case aclr =>
    obtain ⟨hrest, htypes⟩ := setAccTys t a u p
    have hcleared : p.clearedAccs a u t =
        { p with accs := (p.clearedAccs a u t).accs, acc := (p.clearedAccs a u t).acc, ops := p.ops ++ [op] } := by
      unfold Spindle.clearedAccs Spindle.issue
      dsimp only
      rw [hrest]
    refine ⟨(p.clearedAccs a u t).completed pc, ?_, ?_, htypes, fun x => ?_⟩
    · rw [exec_of_work h (aclrOp_clears r hp hu), finish_setSpindle hp (by rw [hcleared]) h.next]
    · rw [hcleared]
      rfl
    · have hacc : ((List.range u).foldl (fun p i => p.setAccTy (a + i) t) p).acc = p.acc := by rw [hrest]
      exact (read_clear _ _ _ x).trans (by rw [hacc]; rfl)
  case ascale =>
    intro x off byCol legal
    have hlegal : ScaleLegal t (n.x.osel == 1) cols (scaleOff r n s) x ↔ legal := scaleLegal_iff
    refine ⟨fun hl => ?illegal, fun hl hu => ?shape, fun hl u hu => ⟨fun ht => ?type, fun ht => ?scale⟩⟩
    case illegal => rw [exec_of_work h (ascaleOp_illegal r hp (mt hlegal.1 hl)), finish_trap]
    case shape => rw [exec_of_work h (ascaleOp_shapeless r hp (hlegal.2 hl) hu), finish_trap]
    case type => rw [exec_of_work h (ascaleOp_otherType r hp (hlegal.2 hl) hu ht), finish_trap]
    case scale =>
      intro factor col elem part prod out invalid flags
      have hcol : ∀ k, p.scaleCol (n.x.osel == 1) off (k % cols) = col k := fun k => if_bool beq_iff_eq _ _
      have hresults : p.scaleResults n x off = (List.range elems).map (fun k => ((out k).1, flags k)) :=
        List.map_congr_left fun k _ => by rw [hcol]; rfl
      rw [exec_of_work h (ascaleOp_scales r hp (hlegal.2 hl) hu ht), finish_setSpindle hp (scaled_cluster p n _ _) h.next]
      show _ = Host.Outcome.next (s.setSpindle _)
      unfold Spindle.scaled
      rw [show p.scaleResults n _ (scaleOff r n s) = _ from hresults, List.map_map, List.foldl_map, List.foldl_map]
      rfl

end Sys2Proof.Machine
end

section
/-! ## Matrix multiplies (03 R76, R78; 08 R167; 15 R263 to R265) -/

namespace Sys2Proof.Machine

/-! ### One core -/

/-- The rows that a core reads of each operand, over the K of so many chunks. -/
def Mma.rowsA (o : Mma) (s : State) (p : Spindle) (chunks core : Nat) : List (List (FVal × Nat)) :=
  operandRows o.code (s.slotData p (slotA o.gang core o.na)) o.m o.k (chunks * o.chunk) o.sparse

def Mma.rowsB (o : Mma) (s : State) (p : Spindle) (chunks core : Nat) : List (List (FVal × Nat)) :=
  operandRows o.code (s.slotData p (slotB o.gang core o.nb)) o.n o.k (chunks * o.chunk) false

/-- The type by which an operation's accumulators are read and written whole. -/
def Mma.ty (o : Mma) : AccTy := if o.f64 then .f64 else .f32

/-- Each element of a result, by its row and column: the sum over its chunks, with its flags. -/
def Mma.results (o : Mma) (s : State) (p : Spindle) (chunks core : Nat) : List (Nat × Nat) :=
  let cells := ((o.rowsA s p chunks core).map (fun r => r.map (·.1))).flatMap (fun r =>
    ((o.rowsB s p chunks core).map (fun r => r.map (·.1))).map (fun c => (r, c)))
  (((p.accRead (8 * core + o.acc) (o.m * o.n) o.ty).zip cells).zip (List.range (o.m * o.n))).map (fun e =>
    mmaElement (o.code == 15) (p.elemTy (8 * core + o.acc) e.2 o.f64) o.sat o.chunk chunks e.1.2.1 e.1.2.2 e.1.1)

section
variable (o : Mma) (s : State) (p : Spindle) (chunks core fl : Nat)

theorem runCore_results : (o.runCore s chunks (p, fl) core).1 =
    p.accWrite (8 * core + o.acc) o.ty ((o.results s p chunks core).map (·.1)) := rfl

theorem rowsA_length : (o.rowsA s p chunks core).length = o.m := by simp [Mma.rowsA, operandRows]

theorem rowsB_length : (o.rowsB s p chunks core).length = o.n := by simp [Mma.rowsB, operandRows]

theorem results_length : (o.results s p chunks core).length = o.m * o.n := by
  simp only [Mma.results, List.length_map, List.length_zip, cells_length, accRead_length, List.length_range, rowsA_length,
    rowsB_length, Nat.min_self]

theorem getElem?_results {k j : Nat} (hk : k < o.m) (hj : j < o.n) : (o.results s p chunks core)[k * o.n + j]? =
    some (mmaElement (o.code == 15) (p.elemTy (8 * core + o.acc) (k * o.n + j) o.f64) o.sat o.chunk chunks
      (((o.rowsA s p chunks core).getD k []).map (·.1)) (((o.rowsB s p chunks core).getD j []).map (·.1))
      ((p.accRead (8 * core + o.acc) (o.m * o.n) o.ty).getD (k * o.n + j) 0)) := by
  have hlt : k * o.n + j < o.m * o.n := by
    calc k * o.n + j < (k + 1) * o.n := by rw [Nat.succ_mul]; omega
      _ ≤ o.m * o.n := Nat.mul_le_mul_right _ hk
  have ha : k < (o.rowsA s p chunks core).length := by rwa [rowsA_length]
  have hb : j < (o.rowsB s p chunks core).length := by rwa [rowsB_length]
  have hold : k * o.n + j < (p.accRead (8 * core + o.acc) (o.m * o.n) o.ty).length := by rwa [accRead_length]
  have hcell := cells_get ((o.rowsA s p chunks core).map (fun r => r.map (·.1))) ((o.rowsB s p chunks core).map (fun r => r.map (·.1)))
    k j (by rwa [List.length_map])
  rw [List.length_map, rowsB_length, List.getElem?_map, List.getElem?_map, List.getElem?_eq_getElem ha, List.getElem?_eq_getElem hb,
    Option.map_some, Option.map_some, Option.bind_some, Option.map_some] at hcell
  have hzip := (List.getElem?_zip_eq_some (z := (_, _, _))).2 ⟨List.getElem?_eq_getElem hold, hcell⟩
  have hall := (List.getElem?_zip_eq_some (z := ((_, _, _), _))).2 ⟨hzip, List.getElem?_range hlt⟩
  simp only [Mma.results, List.getElem?_map, hall, List.getD_eq_getElem?_getD, List.getElem?_eq_getElem ha, List.getElem?_eq_getElem hb,
    List.getElem?_eq_getElem hold]
  rfl

end

/-! ### The instruction -/

section
variable {s : State} {p : Spindle} {n : Norm} {r : Row} {u : Nat} (hp : s.curSpindle = some p)
  (hlegal : (Mma.of n).illegal n (s.scalOpnd n (r.opnds n.accum).2.2.2 n.x.sc) = false)
  (hu : accCount (Mma.of n).acc ((Mma.of n).m * (Mma.of n).n) (Mma.of n).f64 = some u)
  (hfree : ∀ k ∈ (Mma.of n).slots, (p.slot k).state ≠ .free)
  (hsize : (Mma.of n).sizeBad p (s.scalOpnd n (r.opnds n.accum).2.2.2 n.x.sc).toNat = false)
  (htype : (Mma.of n).typeBad p u = false)
include hp hlegal hu hfree hsize htype


theorem mmaOp_waits (hwait : ∃ k ∈ (Mma.of n).slots, (p.slot k).state ≠ .ready) : mmaOp r n s = .wait s (.retry 8 false) := by
  have hnone : (Mma.of n).slots.any (fun i => (p.slot i).state == .free) = false := by simpa using hfree
  have hany : (Mma.of n).slots.any (fun i => (p.slot i).state != .ready) = true := by simpa using hwait
  simp only [mmaOp, hp, hlegal, hu, hnone, hsize, htype, hany, Bool.false_eq_true, if_false, if_true]

variable (hready : ∀ k ∈ (Mma.of n).slots, (p.slot k).state = .ready)
include hready

theorem mmaOp_runs (hbad : firstBad ((Mma.of n).badGroups s p) = none) : mmaOp r n s =
    .done ((s.countMacs p.ctx (Mma.of n) ((Mma.of n).k / (Mma.of n).chunk)).setSpindle
      ((((Mma.of n).run s p ((Mma.of n).k / (Mma.of n).chunk)).slotsTo (Mma.of n).slots .inUse).issue (Mma.of n).slots none)) := by
  have hnone : (Mma.of n).slots.any (fun i => (p.slot i).state == .free) = false := by simpa using hfree
  have hany : (Mma.of n).slots.any (fun i => (p.slot i).state != .ready) = false := by simpa using hready
  simp only [mmaOp, hp, hlegal, hu, hnone, hsize, htype, hany, Bool.false_eq_true, if_false, hbad]

theorem mmaOp_stops {b : Nat × Nat × Nat × Nat} (hbad : firstBad ((Mma.of n).badGroups s p) = some b) (hops : p.ops = []) :
    mmaOp r n s = .trap ((s.countMacs p.ctx (Mma.of n) b.1).setSpindle
      { ((Mma.of n).run s p b.1).slotsTo (Mma.of n).slots .claimed with stop := spstopWord b }) causeSparseMetadata (p.bcom + 1) 0 := by
  have hnone : (Mma.of n).slots.any (fun i => (p.slot i).state == .free) = false := by simpa using hfree
  have hany : (Mma.of n).slots.any (fun i => (p.slot i).state != .ready) = false := by simpa using hready
  simp only [mmaOp, hp, hlegal, hu, hnone, hsize, htype, hany, Bool.false_eq_true, if_false, hbad, hops, List.isEmpty_nil, Bool.not_true]

end

theorem curSpindle_countMacs {s : State} (c : Nat) (o : Mma) (chunks : Nat) : (s.countMacs c o chunks).curSpindle = s.curSpindle := by
  unfold State.countMacs State.bump
  rfl

theorem issuedRun_cluster (o : Mma) (s : State) (p : Spindle) (chunks : Nat) (l : List Nat) (st : SlotState) :
    (((o.run s p chunks).slotsTo l st).issue l none).cluster = p.cluster :=
  (slotsTo_cluster l st _).trans (run_cluster o s p chunks)

/-- Settles O45: past its checks an operation waits, runs or stops (`mmaOp_waits`, `mmaOp_runs`, `mmaOp_stops`); the elements of a core are `getElem?_results`. -/
theorem matrixMultiplies : Obligations.MatrixMultiplies := by
  unfold Obligations.MatrixMultiplies
  refine ⟨?instruction, ?core⟩
  case instruction =>
    intro i s p r n u hshape h hp o pads hlegal hu hfree hsize htype
    have hrun : ∀ {x : Res}, mmaOp r n s = x → exec i s = .next (s.finish n.words x) := fun hx => hx ▸ issue_eq h hshape nofun
    refine ⟨fun hwait => ?wait, fun hready => ⟨fun hbad => ?run, fun b hbad hops => ?stop⟩⟩
    case wait => rw [hrun (mmaOp_waits hp hlegal hu hfree hsize htype hwait), finish_wait]
    case run =>
      rw [hrun (mmaOp_runs hp hlegal hu hfree hsize htype hready hbad),
        finish_setSpindle ((curSpindle_countMacs _ _ _).trans hp) (issuedRun_cluster _ _ _ _ _ _) h.next]
    case stop => rw [hrun (mmaOp_stops hp hlegal hu hfree hsize htype hready hbad hops), finish_trap]
  case core =>
    intro o s p chunks core fl q first ty a b
    have hq : q = p.accWrite first ty ((o.results s p chunks core).map (·.1)) := runCore_results o s p chunks core fl
    have hlen : ((o.results s p chunks core).map (·.1)).length = o.m * o.n := by rw [List.length_map, results_length]
    refine ⟨rfl, fun x hx => ?_, fun k j hk hj => ?_⟩
    · rw [hq, accWrite_other _ _ _ _ _ (by rwa [hlen])]
    · rw [hq, ← hlen, accWrite_read, List.getElem?_map, List.getElem?_map, getElem?_results o s p chunks core hk hj, hlen]
      rfl

end Sys2Proof.Machine
end

section
/-! ## Drains (03 R80; 04 R105; 15 R267) -/

namespace Sys2Proof.Machine

/-- The box of a drain's result: columns, rows and depth. -/
def drainBox (gang : Bool) (n : Norm) : Nat × Nat × Nat :=
  if gang then (2 * shapeN n.x.shape.toNat, 2 * shapeM n.x.shape.toNat, 1) else (shapeN n.x.shape.toNat, shapeM n.x.shape.toNat, 1)

/-- The elements of a drain's result, each with its flags. -/
def Spindle.drainElems (p : Spindle) (n : Norm) : List (Nat × Nat) :=
  drainData p (n.sub == 3) n.x.d.toNat (shapeM n.x.shape.toNat) (shapeN n.x.shape.toNat) n.x.type.toNat n.x.rnd.toNat (n.x.sat == 1)
    (p.accTy n.x.d.toNat)

/-- The drain that adrain makes of a control operand, a place and a layout record. -/
def Spindle.newDrain (p : Spindle) (n : Norm) (ctl xy : Nat) (rec : BitVec 512) (since : Nat) : Drain :=
  { type := n.x.type.toNat, ganged := n.sub == 3, rows := (drainBox (n.sub == 3) n).2.1, cols := (drainBox (n.sub == 3) n).1,
    x0 := xy % 2 ^ 32, y0 := xy / 2 ^ 32, z0 := n.x.disp.toNat, record := rec, bben := bit ctl 63, bboff := field ctl 32 19,
    data := (p.drainElems n).map (fun v => BitVec.ofNat 64 v.1), progress := 0, user := p.mode == .user, pc := p.pc, since := since,
    tags := [], answers := [], wrote := [] }

/-- The flags that the conversions of a drain add. -/
def Spindle.drainFlags (p : Spindle) (n : Norm) : Nat := (p.drainElems n).foldl (fun f v => f ||| v.2) 0 &&& (flagNV ||| flagOF)

section
variable {s t : State} {p : Spindle} {n : Norm} {u ctl xy : Nat} {rec : BitVec 512} (r : Row) (hp : s.curSpindle = some p)
  (hctl : (s.srd n.x.sa.toNat).toNat = ctl) (hxy : (s.srd n.x.sb.toNat).toNat = xy)
  (hlegal : drainIllegal ctl (n.sub == 3) n.x.d.toNat = false)
  (hu : accCount (n.x.d.toNat % 8) (shapeM n.x.shape.toNat * shapeN n.x.shape.toNat) (p.accTy n.x.d.toNat = .f64) = some u)
  (hallows : drainAllows n.x.type.toNat (p.accTy n.x.d.toNat) = true)
  (htypes : ∀ q ∈ mmaCores (n.sub == 3) (n.x.d.toNat / 8), ∀ k, k < u → p.accTy (8 * q + n.x.d.toNat % 8 + k) = p.accTy n.x.d.toNat)
  (hrec : s.handle (BitVec.ofNat 64 (ctl % 2 ^ 32)) 1 = .ok rec t)
  (hgood : layoutBad rec = false) (hkind : (Layout.of rec).kind ≠ 2) (hbox : (Layout.of rec).box = drainBox (n.sub == 3) n)
  (hesz : (Layout.of rec).esz = drainElem n.x.type.toNat)
  (hbar : bit ctl 63 = true → ∃ b, t.block? p.launch p.block = some b ∧ field ctl 32 19 + 16 ≤ b.scrSize)
include hp hctl hxy hlegal hu hallows htypes hrec hgood hkind hbox hesz hbar

theorem adrainOp_matched : adrainOp r n s =
    if ((Layout.of rec).bound (xy % 2 ^ 32) (xy / 2 ^ 32) n.x.disp.toNat).isSome && 64 ≤ t.lockCount p.cluster then .wait t (.retry 8 false)
    else .done (((match (Layout.of rec).bound (xy % 2 ^ 32) (xy / 2 ^ 32) n.x.disp.toNat with
      | some (lo, hi) => State.modCurSpindle { t with locks := t.locks ++ [t.makeLock p.cluster p.ctx lo hi true none] }
          (fun q => { q with ws := t.destSig (4 * p.cluster) p.ctx lo hi (p.mode == Mode.user) q.ws })
      | none => t).modCurSpindle (fun q => q.issue [] (some (p.newDrain n ctl xy rec t.cyc)))).orFlags (p.drainFlags n)) := by
  subst hctl hxy
  have hsame : (!drainAllows n.x.type.toNat (p.accTy n.x.d.toNat) || (mmaCores (n.sub == 3) (n.x.d.toNat / 8)).any (fun q =>
      (List.range u).any (fun i => p.accTy (8 * q + n.x.d.toNat % 8 + i) != p.accTy n.x.d.toNat))) = false := by
    simpa [hallows] using htypes
  have hmatch : (layoutBad rec || (Layout.of rec).kind == 2 || (Layout.of rec).box != drainBox (n.sub == 3) n
      || (Layout.of rec).esz != drainElem n.x.type.toNat) = false := by
    simp [hgood, hkind, hbox, hesz]
  have hinside : (bit (s.srd n.x.sa.toNat).toNat 63 && decide ((match t.block? p.launch p.block with
      | some b => b.scrSize
      | none => 0) < field (s.srd n.x.sa.toNat).toNat 32 19 + 16)) = false := by
    cases hbit : bit (s.srd n.x.sa.toNat).toNat 63 with
    | false => rfl
    | true =>
      obtain ⟨b, hb, hle⟩ := hbar hbit
      simpa [hb] using hle
  unfold drainBox at hmatch
  simp only [adrainOp, hp, hlegal, hu, hsame, hrec, hmatch, Bool.false_eq_true, if_false]
  exact if_neg (Bool.eq_false_iff.1 hinside)

end

theorem modCurSpindle_modCurSpindle (x : State) {f g : Spindle → Spindle} (hf : Stays f) (hg : Stays g) :
    (x.modCurSpindle f).modCurSpindle g = x.modCurSpindle (fun q => g (f q)) := by
  rw [modCurSpindle_eq, modCurSpindle_eq, modCurSpindle_eq, modAgent_modAgent _ _ _ _ _ places_id places_id hf hg]

/-- A program changes, takes flags, and goes on. -/
theorem finish_flagged (s x : State) {words : Nat} (hn : canonical (s.nextPc words) = true) {f : Spindle → Spindle} (hf : Stays f) (fl : Nat) :
    s.finish words (.done ((x.modCurSpindle f).orFlags fl)) =
      x.complete (s.nextPc words) (fun w => w.flagged fl) (fun q => (f q).flagged fl) := by
  rw [finish_done _ _ _ hn, modCurSpindle_eq, orFlags_eq,
    modAgent_modAgent _ _ (fun w => w.flagged fl) _ (fun q => q.flagged fl) places_id (fun _ => ⟨rfl, rfl⟩) hf (fun _ => rfl)]
  exact complete_modAgent _ _ _ (fun w => w) _ (fun q => q) (fun _ => ⟨rfl, rfl⟩) places_id hf stays_id

/-- Settles O46: a drain whose record matches its result (`adrainOp_matched`) joins the drains of the cluster, or waits. -/
theorem drainsIssue : Obligations.DrainsIssue := by
  unfold Obligations.DrainsIssue
  intro i s t p r n u rec hshape h hp ctl xy gang a ty m cols box l bar hlegal hu hallows htypes hrec hgood hkind hbox hesz hbar
    range data d fl goes
  have hexec : exec i s = .next (s.finish n.words (adrainOp r n s)) := issue_eq h hshape nofun
  rw [adrainOp_matched r hp rfl rfl hlegal hu hallows htypes hrec hgood hkind hbox hesz hbar] at hexec
  have hissue : Stays (fun q => q.issue [] (some d)) := fun _ => rfl
  refine ⟨fun hnone => ?apart, fun lo hi hsome hroom => ?locked, fun hsome hfull => ?full⟩
  case apart =>
    rw [hexec, show Layout.bound _ _ _ _ = none from hnone, if_neg nofun]
    exact congrArg _ (finish_flagged s t h.next hissue fl)
  case locked =>
    have hws : Stays (fun q => { q with ws := t.destSig (4 * p.cluster) p.ctx lo hi (p.mode == Mode.user) q.ws }) := fun _ => rfl
    rw [hexec, show Layout.bound _ _ _ _ = some (lo, hi) from hsome, if_neg (by simpa using hroom)]
    exact congrArg _ ((congrArg (fun x => s.finish n.words (.done (x.orFlags fl))) (modCurSpindle_modCurSpindle _ hws hissue)).trans
      (finish_flagged s _ h.next (stays_comp hissue hws) fl))
  case full =>
    have hwait : (range.isSome && decide (64 ≤ t.lockCount p.cluster)) = true := by
      simpa [Option.isSome_iff_ne_none] using ⟨hsome, hfull⟩
    rw [hexec, if_pos hwait, finish_wait]

end Sys2Proof.Machine
end

section
/-! ## Traps and returns (16 R271, R272, R274; 22 R336, R340) -/

namespace Sys2Proof.Machine

/-! ### Entering the supervisor -/

theorem curWave_setWave {s : State} {w v : Wave} (h : s.curWave = some w) (hc : v.core = w.core) (hk : v.slot = w.slot) :
    (s.setWave v).curWave = some v := by
  have hplace := curWave_place h
  have hset := wave?_setWave (wave?_of_curWave h) hc hk
  unfold State.curWave
  rw [show (s.setWave v).cur = s.cur from rfl, hplace]
  exact hset

theorem curSpindle_setSpindle {s : State} {p q : Spindle} (h : s.curSpindle = some p) (hq : q.cluster = p.cluster) :
    (s.setSpindle q).curSpindle = some q := by
  have hplace := curSpindle_place h
  have hp : s.spindle? p.cluster = some p := by
    unfold State.curSpindle at h
    rwa [hplace] at h
  have hset := spindle?_setSpindle hp hq
  unfold State.curSpindle
  rw [show (s.setSpindle q).cur = s.cur from rfl, hplace]
  exact hset

/-- A privileged instruction met in user mode raises the privilege cause. -/
theorem exec_privileged {i : Instr} {s : State} {e : Enc} {mj : Major} {r : Row} (hagent : s.hasAgent = true)
    (hpriv : privileged i = true) (hmode : s.curMode = .user) (he : i.toEnc = some e) (hcheck : e.check s.stream = none)
    (hmajor : majorOf e.maj.toNat = some mj) (hrow : mj.row (e.norm mj).sub = some r) :
    exec i s = .next (s.takeTrap causePrivilege s.curPc 0 0).settle := by
  rw [exec_eq_runEnc, he]
  simp only [runEnc, hagent, hcheck, hmajor, hrow, issueRow, hpriv, hmode]
  rfl

/-! ### Returning -/

theorem goReg_eq (s t : State) (a : BitVec 64) : goReg s t a =
    if canonical a = false then .trap s causeNoncanonical a 0 else if a % 4 ≠ 0 then .trap s causeMisalignedPc 0 0 else .jump t a := by
  simp only [goReg, Bool.not_eq_true', bne_iff_ne]

/-- A jump to a register's address ends in a trap, or goes on there. -/
theorem finish_goReg (s t : State) (words : Nat) (a : BitVec 64) : s.finish words (goReg s t a) =
    if canonical a = false then (s.takeTrap causeNoncanonical s.curPc a 0).settle
    else if a % 4 ≠ 0 then (s.takeTrap causeMisalignedPc s.curPc 0 0).settle
    else t.complete a (fun w => w) (fun p => p) := by
  rw [goReg_eq, apply_ite (s.finish words), apply_ite (s.finish words), finish_trap, finish_trap, finish_jump]

/-- A wave back in user mode, which a stop that covers it may stop there (R206, R340). -/
def Wave.landed (covered forced : Bool) (w : Wave) : Wave :=
  if covered = false then { w with yielded := false }
  else if w.yielded = true then { w with yielded := false, wait := .stopped causeSuspendYield }
  else if forced = true ∧ (w.step != some true) = true then { w with yielded := false }.forceStop
  else { w with yielded := false }

def Spindle.landed (covered forced : Bool) (p : Spindle) : Spindle :=
  if covered = false then { p with yielded := none }
  else match p.yielded with
    | some m => { p with yielded := none, wait := .stopped causeSuspendYield, live := m }
    | none => if forced = true then { p with yielded := none }.forceStop else { p with yielded := none }

/-- The wait of an agent that a forced save stops. -/
def Wait.forced : Wait → Wait
  | .ready => .stopped causeSuspendForced
  | .retry _ false => .stopped causeSuspendForced
  | x => x

theorem forceStop_eq (w : Wave) : w.forceStop = { w with wait := w.wait.forced } := by
  unfold Wave.forceStop
  split <;> rename_i hwait <;> simp only [hwait, Wait.forced]

/-- The wait of a Spindle program that a forced save stops, and the tiles that its save then names (R82). -/
def Wait.forcedProgram (x : Wait) (live : BitVec 24) : Wait × BitVec 24 :=
  match x with
  | .ready => (.stopped causeSuspendForced, BitVec.allOnes 24)
  | .retry 2 _ => (x, BitVec.allOnes 24)
  | .retry _ _ => (.stopped causeSuspendForced, BitVec.allOnes 24)
  | .parked _ => (x, BitVec.allOnes 24)
  | _ => (x, live)

theorem programForceStop_eq (p : Spindle) : p.forceStop =
    { p with wait := (p.wait.forcedProgram p.live).1, live := (p.wait.forcedProgram p.live).2 } := by
  unfold Spindle.forceStop Wait.forcedProgram
  split <;> simp_all

/-- Back in user mode at %tepc. -/
def Wave.toUser (w : Wave) : Wave := { w with mode := .user, pc := w.tepc }
def Spindle.toUser (p : Spindle) : Spindle := { p with mode := .user, pc := p.tepc }

theorem toUser_place : Places Wave.toUser := fun _ => ⟨rfl, rfl⟩
theorem toUser_cluster : Stays Spindle.toUser := fun _ => rfl

theorem landed_place (covered forced : Bool) : Places (Wave.landed covered forced) := fun w => by
  unfold Wave.landed
  rw [forceStop_eq]
  split
  · exact ⟨rfl, rfl⟩
  split
  · exact ⟨rfl, rfl⟩
  split <;> exact ⟨rfl, rfl⟩

theorem landed_cluster (covered forced : Bool) : Stays (Spindle.landed covered forced) := fun p => by
  unfold Spindle.landed
  rw [programForceStop_eq]
  split
  · rfl
  split
  · rfl
  split <;> rfl

theorem setWave_eq {s : State} {w : Wave} (h : s.curWave = some w) (f : Wave → Wave) : s.setWave (f w) = s.modAgent f (fun p => p) := by
  rw [modAgent_wave (curWave_place h), State.modWave, wave?_of_curWave h]

theorem stopReturned_wave {s : State} {w : Wave} (h : s.curWave = some w) :
    s.stopReturned = s.modAgent (Wave.landed (s.covered w.ctx w.launch w.blk) (s.ctx w.ctx).forced) (fun p => p) := by
  rw [← setWave_eq h]
  simp only [State.stopReturned, h, Wave.landed, Bool.not_eq_true', Bool.and_eq_true, apply_ite s.setWave]

theorem stopReturned_spindle {s : State} {p : Spindle} (hw : s.curWave = none) (h : s.curSpindle = some p) :
    s.stopReturned = s.modAgent (fun w => w) (Spindle.landed (s.covered p.ctx p.launch p.block) (s.ctx p.ctx).forced) := by
  rw [← setSpindle_eq h]
  simp only [State.stopReturned, hw, h, Spindle.landed, Bool.not_eq_true', apply_ite s.setSpindle]
  cases p.yielded <;> simp only [apply_ite s.setSpindle]

/-- A change of the agent changes nothing by which a suspension covers a block. -/
theorem covered_modAgent (s : State) (fw : Wave → Wave) (fp : Spindle → Spindle) (c : Nat) :
    (∀ launch blk, (s.modAgent fw fp).covered c launch blk = s.covered c launch blk) ∧ (s.modAgent fw fp).ctx c = s.ctx c := by
  have hrest := modAgent_rest s fw fp
  generalize s.modAgent fw fp = t at hrest
  rw [hrest]
  exact ⟨fun _ _ => rfl, rfl⟩

theorem trapReturn_toUser (s : State) : s.trapReturn = s.modAgent Wave.toUser Spindle.toUser := trapReturn_eq s

theorem trapReturned_wave {s : State} {w : Wave} (h : s.curWave = some w) : s.trapReturn.stopReturned =
    s.modAgent (fun v => v.toUser.landed (s.covered w.ctx w.launch w.blk) (s.ctx w.ctx).forced) Spindle.toUser := by
  have hret : s.trapReturn.curWave = some w.toUser := by
    rw [trapReturn_toUser]
    exact curWave_modAgent h _ _ toUser_place
  rw [stopReturned_wave hret, trapReturn_toUser, modAgent_modAgent _ _ _ _ _ toUser_place (landed_place _ _) toUser_cluster stays_id,
    (covered_modAgent _ _ _ _).1, (covered_modAgent _ _ _ _).2]
  rfl

theorem trapReturned_spindle {s : State} {p : Spindle} (h : s.curSpindle = some p) : s.trapReturn.stopReturned =
    s.modAgent Wave.toUser (fun q => q.toUser.landed (s.covered p.ctx p.launch p.block) (s.ctx p.ctx).forced) := by
  have hret : s.trapReturn.curSpindle = some p.toUser := by
    rw [trapReturn_toUser]
    exact curSpindle_modAgent h _ _ toUser_cluster
  have hnone : s.trapReturn.curWave = none := by
    rw [trapReturn_toUser]
    unfold State.curWave
    rw [modAgent_cur, curSpindle_place h]
  rw [stopReturned_spindle hnone hret, trapReturn_toUser, modAgent_modAgent _ _ _ _ _ toUser_place places_id toUser_cluster (landed_cluster _ _),
    (covered_modAgent _ _ _ _).1, (covered_modAgent _ _ _ _).2]
  rfl

/-- A wave that has landed goes on, or is stopped at once. -/
theorem completed_landed (w : Wave) (a : BitVec 64) (covered forced : Bool) : (w.toUser.landed covered forced).completed a =
    (if covered = true ∧ (w.yielded = true ∨ forced = true ∧ (w.step != some true) = true) then
      (if w.yielded = true then { w with mode := .user, yielded := false, wait := .stopped causeSuspendYield }
        else { w with mode := .user, yielded := false }.forceStop)
    else { w with mode := .user, yielded := false }).completed a := by
  unfold Wave.landed
  rw [forceStop_eq, forceStop_eq]
  cases covered with
  | false => rfl
  | true =>
    by_cases hy : w.yielded = true
    · rw [if_neg nofun, if_pos (show w.toUser.yielded = true from hy), if_pos ⟨rfl, Or.inl hy⟩, if_pos hy]
      rfl
    · by_cases hf : forced = true ∧ (w.step != some true) = true
      · rw [if_neg nofun, if_neg (show ¬ w.toUser.yielded = true from hy), if_pos (show forced = true ∧ (w.toUser.step != some true) = true from hf),
          if_pos ⟨rfl, Or.inr hf⟩, if_neg hy]
        rfl
      · rw [if_neg nofun, if_neg (show ¬ w.toUser.yielded = true from hy), if_neg (show ¬ (forced = true ∧ (w.toUser.step != some true) = true) from hf),
          if_neg (fun h => h.2.elim hy hf)]
        rfl

theorem programCompleted_landed (p : Spindle) (a : BitVec 64) (covered forced : Bool) : (p.toUser.landed covered forced).completed a =
    (if covered = true ∧ (p.yielded.isSome = true ∨ forced = true ∧ true = true) then
      (match p.yielded with
        | some m => { p with mode := .user, yielded := none, live := m, wait := .stopped causeSuspendYield }
        | none => { p with mode := .user }.forceStop)
    else { p with mode := .user, yielded := none }).completed a := by
  unfold Spindle.landed
  rw [programForceStop_eq, programForceStop_eq]
  cases covered with
  | false => rfl
  | true =>
    rw [if_neg nofun]
    cases hy : p.yielded with
    | some m =>
      rw [show p.toUser.yielded = some m from hy]
      rfl
    | none =>
      rw [show p.toUser.yielded = none from hy]
      cases forced with
      | true =>
        rw [if_pos rfl, if_pos ⟨rfl, Or.inr ⟨rfl, rfl⟩⟩]
        simp only [Spindle.completed, Spindle.toUser, hy]
      | false => rfl

theorem complete_of_completed_wave {s : State} {w : Wave} (h : s.curWave = some w) {a : BitVec 64} {f g : Wave → Wave}
    (e : (f w).completed a = (g w).completed a) (fp gp : Spindle → Spindle) : s.complete a f fp = s.complete a g gp := by
  rw [complete_eq, complete_eq, modAgent_wave (curWave_place h), modAgent_wave (curWave_place h)]
  exact modWave_congr h _ _ e

theorem complete_of_completed_spindle {s : State} {p : Spindle} (h : s.curSpindle = some p) {a : BitVec 64} {f g : Spindle → Spindle}
    (e : (f p).completed a = (g p).completed a) (fw gw : Wave → Wave) : s.complete a fw f = s.complete a gw g := by
  rw [complete_spindle h, complete_spindle h, e]

/-- What trapret of a wave leaves when it goes on at an address: stopped there at once, or in user mode. -/
theorem complete_trapReturned_wave {s : State} {w : Wave} (h : s.curWave = some w) (a : BitVec 64) :
    s.trapReturn.stopReturned.complete a (fun v => v) (fun p => p) =
      if s.covered w.ctx w.launch w.blk = true ∧ (w.yielded = true ∨ (s.ctx w.ctx).forced = true ∧ (w.step != some true) = true)
      then s.complete a (fun v => if w.yielded = true then { v with mode := .user, yielded := false, wait := .stopped causeSuspendYield }
        else { v with mode := .user, yielded := false }.forceStop) (fun p => p)
      else s.complete a (fun v => { v with mode := .user, yielded := false }) (fun q => { q with mode := .user, yielded := none }) := by
  have hlanded := completed_landed w a (s.covered w.ctx w.launch w.blk) (s.ctx w.ctx).forced
  rw [trapReturned_wave h, complete_modAgent _ _ _ _ _ _ (places_comp (landed_place _ _) toUser_place) places_id toUser_cluster stays_id]
  split
  next hstop => exact complete_of_completed_wave h (hlanded.trans (by rw [if_pos hstop])) _ _
  next hgo => exact complete_of_completed_wave h (hlanded.trans (by rw [if_neg hgo])) _ _

theorem complete_trapReturned_spindle {s : State} {p : Spindle} (h : s.curSpindle = some p) (a : BitVec 64) :
    s.trapReturn.stopReturned.complete a (fun v => v) (fun p => p) =
      if s.covered p.ctx p.launch p.block = true ∧ (p.yielded.isSome = true ∨ (s.ctx p.ctx).forced = true ∧ true = true)
      then s.complete a (fun w => w) (fun q => match p.yielded with
        | some m => { q with mode := .user, yielded := none, live := m, wait := .stopped causeSuspendYield }
        | none => { q with mode := .user }.forceStop)
      else s.complete a (fun w => { w with mode := .user, yielded := false }) (fun q => { q with mode := .user, yielded := none }) := by
  have hlanded := programCompleted_landed p a (s.covered p.ctx p.launch p.block) (s.ctx p.ctx).forced
  rw [trapReturned_spindle h, complete_modAgent _ _ _ _ _ _ toUser_place places_id (stays_comp (landed_cluster _ _) toUser_cluster) stays_id]
  split
  next hstop => exact complete_of_completed_spindle h (hlanded.trans (by rw [if_pos hstop])) _ _
  next hgo => exact complete_of_completed_spindle h (hlanded.trans (by rw [if_neg hgo])) _ _

section
variable {s : State} {w : Wave} (hw : s.curWave = some w) (r : Row) (n : Norm)
include hw

theorem trapretOp_trap (hh : w.handler = .trap) : trapretOp r n s = goReg s s.trapReturn.stopReturned w.tepc := by
  simp only [trapretOp, hw, hh, if_true]

theorem trapretOp_busy (hh : w.handler ≠ .trap) (hf : w.flight ≠ []) : trapretOp r n s = .wait s (.retry 10 false) := by
  simp [trapretOp, hw, hh, hf]

theorem trapretOp_handler (hh : w.handler ≠ .trap) (hf : w.flight = []) :
    ∃ x, trapretOp r n s = .wait (s.handlerReturn w) x := by
  simp [trapretOp, hw, hh, hf]

theorem utretOp_work : utretOp r n s = goReg s (s.modCurWave (fun w => { w with tmrMask := false })) w.uret := by
  simp only [utretOp, hw]

end

theorem curWave_none_of_spindle {s : State} {p : Spindle} (h : s.curSpindle = some p) : s.curWave = none := by
  unfold State.curWave
  rw [curSpindle_place h]

theorem trapretOp_spindle {s : State} {p : Spindle} (h : s.curSpindle = some p) (r : Row) (n : Norm) :
    trapretOp r n s = goReg s s.trapReturn.stopReturned p.tepc := by
  simp only [trapretOp, curWave_none_of_spindle h, h, Option.elim]

/-- Settles O47: a cause is taken as `takeTrap_wave` and the lemmas beside it say; trapret and utret jump (`finish_goReg`), and
what trapret leaves is `complete_trapReturned_wave` or `complete_trapReturned_spindle`. -/
theorem trapsAndReturns : Obligations.TrapsAndReturns := by
  unfold Obligations.TrapsAndReturns
  refine ⟨?cause, ?trap, ?privilege, ?trapret, ?utret⟩
  case cause =>
    intro s cause tepc addr lanes c v t
    refine ⟨fun hmode hvec => ⟨fun w hw => ?wave, fun p hp => ?program⟩, fun hmode hvec => takeTrap_noVector hmode hvec _ _ _ _,
      fun hmode hsave => takeTrap_supervisor hmode _ _ _ _ hsave⟩
    case wave =>
      have ht : t = (s.logWave w 0x11 cause tepc).setWave (w.enterTrap v cause tepc addr lanes) :=
        takeTrap_wave hw hmode hvec cause tepc addr lanes
      rw [ht]
      exact ⟨rfl, curWave_setWave (s := s.logWave w 0x11 cause tepc) hw rfl rfl,
        fun i k hne => wave?_setWave_other fun h => hne ⟨h.1.symm, h.2.symm⟩⟩
    case program =>
      have ht : t = (s.logSpindle p 0x11 cause tepc).setSpindle (p.enterTrap v cause tepc addr) :=
        takeTrap_spindle hp hmode hvec cause tepc addr lanes
      rw [ht]
      exact ⟨rfl, curSpindle_setSpindle (s := s.logSpindle p 0x11 cause tepc) hp rfl,
        fun i hne => spindle?_setSpindle_other fun h => hne h.symm⟩
  case trap =>
    intro i s r n hshape h
    rw [issue_eq h hshape nofun]
    rfl
  case privilege =>
    rintro i s hagent hpriv hmode ⟨e, mj, r, he, hcheck, hmajor, hrow⟩
    exact exec_privileged hagent hpriv hmode he hcheck hmajor hrow
  case trapret =>
    intro i s r n hshape h back
    have hexec : exec i s = .next (s.finish n.words (trapretOp r n s)) := issue_eq h hshape nofun
    refine ⟨fun p hp => ?program, fun w hw => ⟨fun hh => ?wave, fun hh hf => ?busy, fun hh hf => ?handler⟩⟩
    case program =>
      show exec i s = _
      rw [hexec, trapretOp_spindle hp, finish_goReg, complete_trapReturned_spindle hp] <;> rfl
    case wave =>
      show exec i s = _
      rw [hexec, trapretOp_trap hw r n hh, finish_goReg, complete_trapReturned_wave hw]
    case busy => rw [hexec, trapretOp_busy hw r n hh hf, finish_wait]
    case handler =>
      obtain ⟨x, hx⟩ := trapretOp_handler hw r n hh hf
      exact ⟨x, by rw [hexec, hx, finish_wait]⟩
  case utret =>
    intro s w r n h hw
    have unmask : Places fun v => { v with tmrMask := false } := fun _ => ⟨rfl, rfl⟩
    rw [exec_of_work h (utretOp_work hw r n), finish_goReg, modCurWave_eq, complete_modAgent _ _ _ _ _ _ unmask places_id stays_id stays_id]
    cases canonical w.uret with
    | false => rfl
    | true => simp only [Bool.true_eq_false, if_false, if_true, ne_eq, ite_not]

end Sys2Proof.Machine
end

section
/-! ## Translations, special registers (21 R320, R322, R323; 16 R275, R276) -/

namespace Sys2Proof.Machine

theorem TlbEntry.permits_iff (e : TlbEntry) (n : Need) : e.permits n = true ↔
    (n.user = true → e.u = true) ∧ (n.fetch = true → e.x = true) ∧ (n.read = true → e.r = true) ∧
      (n.write = true → e.w = true ∧ e.d = true) := by
  have implies : ∀ a b : Bool, (!a || b) = true ↔ (a = true → b = true) := by decide
  simp only [TlbEntry.permits, Bool.and_eq_true, implies, and_assoc]

/-- Settles O20: the entry found grants the access (`translate_grants`), right by right. -/
theorem translationsGrantNoMore : Obligations.TranslationsGrantNoMore := by
  intro s t core c va n e h
  obtain ⟨hctx, hlo, hhi, hpermits⟩ := translate_grants h
  exact ⟨hctx, hlo, hhi, e.permits_iff n |>.1 hpermits⟩

/-! ### The special registers -/

theorem causeBits_causeBits (v : BitVec 64) : causeBits (causeBits v) = v &&& 0x1FF := by
  unfold causeBits
  rw [BitVec.and_assoc, BitVec.and_self]

/-- Only %scrbase draws a free value. -/
theorem specialWave_state (s : State) (w : Wave) {k : Nat} (h : k ≠ 0x040) : (s.specialWave w k).2 = s := by
  unfold State.specialWave
  simp only
  repeat' split
  all_goals trivial

/-- What the data port of a Spindle program writes, the port reads at that address. -/
theorem dataPort_readBack (s : State) (p : Spindle) (v : BitVec 64) :
    (s.specialSpindle { p.putSpecial 0x084 v with dsa := p.dsa } 0x084).1 = v := by
  show BitVec.ofNat 64 ((p.scratch.writeNat (8 * p.dsWord) 8 v.toNat).readNat (8 * p.dsWord) 8) = v
  rw [readNat_writeNat, Nat.mod_eq_of_lt (show v.toNat < 256 ^ 8 from v.isLt), BitVec.ofNat_toNat, BitVec.setWidth_eq]

theorem rdsrOp_eq (r : Row) (n : Norm) (s : State) : rdsrOp r n s =
    if specialPriv n.x.disp.toNat = true ∧ s.curMode = .user then .trap s causePrivilege 0 0
    else .done ((s.special n.x.disp.toNat).2.swr n.x.d.toNat (s.special n.x.disp.toNat).1) := by
  unfold rdsrOp
  simp only [Bool.and_eq_true, beq_iff_eq]

theorem wrsrOp_eq (r : Row) (n : Norm) (s : State) : wrsrOp r n s =
    if specialPriv n.x.disp.toNat = true ∧ s.curMode = .user then .trap s causePrivilege 0 0
    else if s.inHandler = false ∧ s.smarked n.x.d.toNat = true then .trap s causePoisonConsumed 0 0
    else if specialWritable n.x.disp.toNat = false then .trap s causeIllegalOperand 0 0
    else .done (s.modAgent (fun w => w.putSpecial n.x.disp.toNat (s.srd n.x.d.toNat))
      (fun p => p.putSpecial n.x.disp.toNat (s.srd n.x.d.toNat))) := by
  unfold wrsrOp
  simp only [modCurWave_eq, modCurSpindle_eq, modAgent_modAgent _ _ _ _ _ (fun w => putSpecial_place w _ _) places_id stays_id
    (fun p => putSpecial_cluster p _ _), Bool.and_eq_true, beq_iff_eq, Bool.not_eq_true']

/-- Settles O48: the operations go case by case as `rdsrOp_eq` and `wrsrOp_eq` say, and each written field reads back. -/
theorem specialRegisters : Obligations.SpecialRegisters := by
  unfold Obligations.SpecialRegisters
  refine ⟨?read, ?write, ?wave, ?program, fun s w k h => specialWave_state s w h⟩
  case read =>
    intro i s r n hshape h k
    have hexec : exec i s = .next (s.finish n.words (rdsrOp r n s)) := issue_eq h hshape nofun
    rw [hexec, rdsrOp_eq, apply_ite (s.finish n.words), finish_trap, finish_done _ _ _ h.next, swr_eq,
      complete_modAgent _ _ _ _ _ _ (withS_place _ _) places_id (withX_place _ _) stays_id]
  case write =>
    intro f s r n h k v
    rw [exec_of_work h (wrsrOp_eq r n s), apply_ite (s.finish n.words), apply_ite (s.finish n.words), apply_ite (s.finish n.words),
      finish_trap, finish_trap, finish_trap,
      finish_modAgent _ _ _ _ (fun w => putSpecial_place w _ _) (fun p => putSpecial_cluster p _ _) h.next]
  case wave =>
    intro s w v
    exact ⟨rfl, rfl, causeBits_causeBits v, rfl, causeBits_causeBits v, rfl, rfl⟩
  case program =>
    intro s p v
    exact ⟨rfl, rfl, dataPort_readBack s p v⟩

end Sys2Proof.Machine
end

section
/-! ## Store-fault records, the timer, invalidations, marks and samples (16 R277 to R285) -/

namespace Sys2Proof.Machine

/-! ### Four scalar registers -/

theorem Regs.rd_wr (r : Regs) (n : Nat) (v : BitVec 64) (m : Nat) : (r.wr n v).rd m = if m = n then v else r.rd m :=
  sget_sput (fun _ => 0) r n v m

theorem mem_sMark_withS (w : Wave) (n : Nat) (v : BitVec 64) (m : Nat) :
    m ∈ (w.withS n v).sMark ↔ m ∈ w.sMark ∧ (w.exemptPoison = true ∨ m ≠ n) := by
  show m ∈ (if w.exemptPoison = true then w.sMark else setDel n w.sMark) ↔ _
  cases w.exemptPoison with
  | true => simp
  | false => simp [setDel]

theorem exemptPoison_withS (w : Wave) (n : Nat) (v : BitVec 64) : (w.withS n v).exemptPoison = w.exemptPoison := rfl

/-- A register among four is one of the four. -/
theorem lt_four_cases {k : Nat} (h : k < 4) : k = 0 ∨ k = 1 ∨ k = 2 ∨ k = 3 := by omega

theorem regs4_same (d : Nat) (x : BitVec 256) (w : Wave) {k : Nat} (h : k < 4) : (regs4 d x w).s.rd (d + k) = x.extractLsb' (64 * k) 64 := by
  unfold regs4
  obtain rfl | rfl | rfl | rfl := lt_four_cases h <;> simp [Regs.rd_wr]

theorem regs4_other (d : Nat) (x : BitVec 256) (w : Wave) {m : Nat} (h : ∀ k, k < 4 → m ≠ d + k) : (regs4 d x w).s.rd m = w.s.rd m := by
  have h0 : m ≠ d := h 0 (by decide)
  unfold regs4
  simp only [Wave.withS_s, Regs.rd_wr, if_neg (h 3 (by decide)), if_neg (h 2 (by decide)), if_neg (h 1 (by decide)), if_neg h0]

theorem mem_sMark_regs4 (d : Nat) (x : BitVec 256) (w : Wave) (m : Nat) :
    m ∈ (regs4 d x w).sMark ↔ m ∈ w.sMark ∧ (w.exemptPoison = true ∨ ∀ k, k < 4 → m ≠ d + k) := by
  have four : (∀ k, k < 4 → m ≠ d + k) ↔ m ≠ d ∧ m ≠ d + 1 ∧ m ≠ d + 2 ∧ m ≠ d + 3 :=
    ⟨fun h => ⟨h 0 (by decide), h 1 (by decide), h 2 (by decide), h 3 (by decide)⟩, by
      rintro ⟨h0, h1, h2, h3⟩ k hk
      obtain rfl | rfl | rfl | rfl := lt_four_cases hk <;> assumption⟩
  unfold regs4
  rw [four]
  simp only [mem_sMark_withS, exemptPoison_withS]
  tauto

section
variable {s : State} {w : Wave} (hw : s.curWave = some w) (r : Row) (n : Norm)
include hw

theorem sfpopOp_work : sfpopOp r n s =
    .done ((s.modCurWave (fun w => { w with sfq := w.sfq.tail })).putRecord4 n.x.d.toNat (w.sfq.headD 0)) := by
  simp only [sfpopOp, hw]

theorem sampleOp_work : sampleOp r n s =
    .done ((s.modCurWave (fun w => { w with sampleMark := true, sampleRec := none })).putRecord4 n.x.d.toNat (w.sampleRec.getD 0)) := by
  simp only [sampleOp, hw]

theorem stdrainOp_wave : stdrainOp r n s =
    if w.counter 2 ≠ 0 ∨ w.counter 4 ≠ 0 then .wait s (.retry 6 true)
    else if w.sfq ≠ [] then .trap s causeStoreFault 0 0 else .done s := by
  simp only [stdrainOp, hw, Bool.or_eq_true, bne_iff_ne, Bool.not_eq_true', List.isEmpty_eq_false_iff]

theorem evmarkOp_wave : evmarkOp r n s = .done (s.logWave w 0x1F n.x.disp.toNat (s.srd n.x.sa.toNat)) := by
  simp only [evmarkOp, hw]

end

section
variable {s : State} {p : Spindle} (hp : s.curSpindle = some p) (r : Row) (n : Norm)
include hp

theorem stdrainOp_spindle : stdrainOp r n s =
    if ∃ o ∈ p.ops, o.drain.isSome then .wait (s.modCurSpindle (fun q => { q with live := 0 })) (.retry 6 true) else .done s := by
  simp only [stdrainOp, curWave_none_of_spindle hp, hp, List.any_eq_true]

theorem evmarkOp_spindle : evmarkOp r n s = .done (s.logSpindle p 0x1F n.x.disp.toNat (s.srd n.x.sa.toNat)) := by
  simp only [evmarkOp, curWave_none_of_spindle hp, hp]

end

/-- The wave that a popped record leaves. -/
def Wave.popped (w : Wave) (d : Nat) : Wave := regs4 d (w.sfq.headD 0) { w with sfq := w.sfq.tail }

theorem popped_rest (w : Wave) (d : Nat) : w.popped d = { w with s := (w.popped d).s, sMark := (w.popped d).sMark, sfq := w.sfq.tail } := by
  unfold Wave.popped regs4
  exact withS_eta _ _ _ _ _ (withS_eta _ _ _ _ _ (withS_eta _ _ _ _ _ (withS_eta _ _ _ _ _ rfl)))

theorem popped_word (w : Wave) (d : Nat) {k : Nat} (h : k < 4) : (w.popped d).s.rd (d + k) = match w.sfq with
    | [] => 0
    | x :: _ => x.extractLsb' (64 * k) 64 := by
  rw [show (w.popped d).s.rd (d + k) = _ from regs4_same d _ _ h]
  cases w.sfq with
  | nil => exact BitVec.extractLsb'_zero
  | cons x l => rfl

/-- Settles O50: the record is written by `regs4`. -/
theorem storeFaultRecordsPop : Obligations.StoreFaultRecordsPop := by
  intro f s w r n h hw
  refine ⟨w.popped n.x.d.toNat, ?completes, ?rest, fun k hk => ?words, fun m hm => regs4_other _ _ _ hm, fun m => mem_sMark_regs4 _ _ _ m⟩
  case completes =>
    have pop : Places fun w => { w with sfq := w.sfq.tail } := fun _ => ⟨rfl, rfl⟩
    rw [exec_of_work h (sfpopOp_work hw r n), putRecord4_done hw _ pop _ _ _ h.next]
    exact congrArg _ (complete_wave hw rfl)
  case rest => exact popped_rest w _
  case words => exact popped_word w _ hk

/-! ### The other operations -/

theorem timerValue_eq (clk v : BitVec 64) : timerValue clk v = if v = 0 then 0 else if clk + v = 0 then 1 else clk + v := by
  simp only [timerValue, beq_iff_eq]

theorem mem_tlb_tlbDrop (s : State) (c : Nat) (range : Option (Nat × Nat)) (global : Bool) (e : TlbEntry) :
    e ∈ (s.tlbDrop c range global).tlb ↔ e ∈ s.tlb ∧ e.dropped c range global = false :=
  List.mem_filter.trans (and_congr_right' (by rw [Bool.not_eq_true']))

theorem mem_tables_tlbDrop (s : State) (c : Nat) (range : Option (Nat × Nat)) (global : Bool) (e : TableEntry) :
    e ∈ (s.tlbDrop c range global).tables ↔ e ∈ s.tables ∧ e.dropped c range = false :=
  List.mem_filter.trans (and_congr_right' (by rw [Bool.not_eq_true']))

theorem waves_tlbDrop (s : State) (c : Nat) (range : Option (Nat × Nat)) (global : Bool) :
    (s.tlbDrop c range global).waves = s.waves.map (fun w => if w.ctx = c then w.dropBases else w) :=
  congrArg (s.waves.map ·) (funext fun w => if_bool (beq_iff_eq (a := w.ctx) (b := c)) _ _)

/-- The pages that a tlbinv of a count names: every page for a count of zero. -/
def invalidated (count lo hi : Nat) : Option (Nat × Nat) := if count = 0 then none else some (lo, hi)

theorem dropped_iff (e : TlbEntry) (c count lo hi : Nat) : e.dropped c (invalidated count lo hi) false = true ↔
    e.ctx = c ∧ if count = 0 then e.g = false else e.va < hi ∧ lo < e.va + e.size := by
  unfold TlbEntry.dropped invalidated
  by_cases h : count = 0 <;> simp [h]

theorem toNat_beq_zero (x : BitVec 64) : (x == 0) = (x.toNat == 0) :=
  Bool.eq_iff_iff.2 (by rw [beq_iff_eq, beq_iff_eq]; exact BitVec.toNat_inj.symm)

theorem tlbinvOp_work (r : Row) (n : Norm) (s : State) (ha : canonical (s.srd n.x.sa.toNat) = true)
    (hcount : (s.srd n.x.sb.toNat).toNat < 2 ^ 32) {count lo hi : Nat} (hc : count = (s.srd n.x.sb.toNat).toNat)
    (hlo : lo = (s.srd n.x.sa.toNat).toNat % 2 ^ 57 / 4096 * 4096) (hhi : hi = lo + 4096 * count) :
    tlbinvOp r n s =
      if (s.tlbDrop s.curCtx (invalidated count lo hi) false).usesRange s.curCtx (lo / 2 ^ 39 * 2 ^ 39)
        ((hi + 2 ^ 39 - 1) / 2 ^ 39 * 2 ^ 39) (count == 0) = true
      then .wait (s.tlbDrop s.curCtx (invalidated count lo hi) false) (.retry 6 false)
      else .done (s.tlbDrop s.curCtx (invalidated count lo hi) false) := by
  subst hc hlo hhi
  unfold tlbinvOp
  simp only [if_neg (Nat.not_le.2 hcount), ha, toNat_beq_zero, Bool.not_true, Bool.false_eq_true, if_false, invalidated, wideRange, beq_iff_eq]
  rfl

/-- Settles O49: operation by operation, as its lemma above says. -/
theorem timersInvalidationsAndMarks : Obligations.TimersInvalidationsAndMarks := by
  intro i s r n h pc goes
  refine ⟨?tmrset, ?tlbinv, ?hdlinv, ?drainWave, ?drainProgram, ?mark, ?sample⟩
  case tmrset =>
    rintro f rfl v
    have hset : work (.tmrset f) r n s = .done (s.modCurWave (fun w => { w with tmrcmp := timerValue s.clk v, tmrPend := false })) := rfl
    have set : Places fun w => { w with tmrcmp := timerValue s.clk v, tmrPend := false } := fun _ => ⟨rfl, rfl⟩
    rw [exec_of_work h hset, modCurWave_eq, finish_modAgent _ _ _ _ set stays_id h.next]
    simp only [timerValue_eq]
    rfl
  case tlbinv =>
    rintro f rfl ha hcount count lo hi near far
    refine ⟨s.tlbDrop s.curCtx (invalidated count lo hi) false, rfl, fun e => mem_tables_tlbDrop _ _ _ _ e, fun e => ?_,
      waves_tlbDrop _ _ _ _, ?_⟩
    · rw [mem_tlb_tlbDrop, ← dropped_iff, Bool.not_eq_true]
    · rw [exec_of_work h (tlbinvOp_work r n s ha hcount rfl rfl rfl), apply_ite (s.finish n.words), finish_wait, finish_done _ _ _ h.next]
  case hdlinv =>
    rintro rfl
    rw [exec_of_work h (show _ = hdlinvOp r n s from rfl), hdlinvOp, finish_done _ _ _ h.next]
  case drainWave =>
    rintro w rfl hw
    rw [exec_of_work h (stdrainOp_wave hw r n), apply_ite (s.finish n.words), apply_ite (s.finish n.words), finish_wait, finish_trap,
      finish_done _ _ _ h.next]
  case drainProgram =>
    rintro p rfl hp
    have live : Stays fun q => { q with live := 0 } := fun _ => rfl
    have stall : Stays fun q => { q with wait := .retry 6 true } := fun _ => rfl
    rw [exec_of_work h (stdrainOp_spindle hp r n), apply_ite (s.finish n.words), finish_wait, finish_done _ _ _ h.next, modCurSpindle_eq,
      modCurSpindle_eq, setWait_eq, modAgent_modAgent _ _ _ _ _ places_id (wait_place _) live stall, modAgent_spindle (curSpindle_place hp),
      modAgent_spindle (curSpindle_place hp)]
  case mark =>
    rintro f rfl
    refine ⟨fun w hw => ?_, fun p hp => ?_⟩
    · rw [exec_of_work h (evmarkOp_wave hw r n), finish_done _ _ _ h.next]
    · rw [exec_of_work h (evmarkOp_spindle hp r n), finish_done _ _ _ h.next]
  case sample =>
    rintro f w rfl hw
    have mark : Places fun w => { w with sampleMark := true, sampleRec := none } := fun _ => ⟨rfl, rfl⟩
    rw [exec_of_work h (sampleOp_work hw r n), putRecord4_done hw _ mark _ _ _ h.next]
    refine congrArg _ (complete_wave hw ?_)
    rw [regs4_range]
    unfold regs4
    rfl

end Sys2Proof.Machine
end

section
/-! ## What a cold reset leaves (23 R365, R367) -/

namespace Sys2Proof.Machine

theorem canonical_reset : State.reset.Canonical := ⟨rfl, rfl, rfl, rfl, rfl⟩

theorem readNat_nil (a n : Nat) : Memory.readNat [] a n = 0 := by
  induction n generalizing a with
  | zero => rfl
  | succ n ih => exact congrArg _ (congrArg _ (ih _))

/-- The first step finds no move listed, and start-up runs first. -/
theorem step_reset : step State.reset = .next State.reset.bootStep.after := rfl

/-- Settles O54: the fields of the reset state are written out, and its first step (`step_reset`) is step 1 of start-up. -/
theorem resetState : Obligations.ResetState := by
  refine ⟨canonical_reset, fun a n => readNat_nil a n, fun r => rfl, by decide, rfl, rfl, rfl, rfl, rfl, rfl, rfl,
    _, step_reset, ?phase, ?mem, ?waves⟩
  case phase => decide +kernel
  case mem => decide +kernel
  case waves => decide +kernel

end Sys2Proof.Machine
end

section
/-! ## Events of contexts, matrix operations and copies (21 R325, R326; 22 R339 to R348; 03 R70, R71, R80; 04 R98) -/

namespace Sys2Proof.Machine

/-! ### Walkers -/

theorem assignWalkers_eq (s : State) : s.assignWalkers =
    if s.owners = s.walkContexts then s else { s with owners := s.walkContexts, walkerOwner := s.assignWalkers.walkerOwner } := by
  unfold State.assignWalkers
  by_cases h : s.owners = s.walkContexts
  · simp only [beq_iff_eq, if_pos h]
  · simp only [beq_iff_eq, if_neg h]

/-- The walk that a walker takes: the oldest of its owner, else the oldest of any. -/
def State.walkOf (s : State) (k : Nat) : Option Walk :=
  match s.walks.find? (fun w => some w.ctx == s.walkerOwner[k]?) with
  | some w => some w
  | none => s.walks.head?

theorem pageWalk_eq (s : State) (k : Nat) : s.pageWalk k = match s.assignWalkers.walkOf k with
    | none => s.assignWalkers
    | some w => ({ s.assignWalkers with walks := s.assignWalkers.walks.erase w }.translate w.core w.ctx w.va
        { read := w.read, write := w.write, fetch := w.fetch, user := w.user }).2 := rfl

theorem walks_assignWalkers (s : State) : s.assignWalkers.walks = s.walks := by
  rw [assignWalkers_eq]
  split <;> rfl

theorem walkOf_nil {s : State} (h : s.walks = []) (k : Nat) : s.walkOf k = none := by
  simp [State.walkOf, h]

theorem walkOf_some {s : State} {k : Nat} {w : Walk}
    (h : s.walks.find? (fun w => some w.ctx == s.walkerOwner[k]?) = some w ∨
      (s.walks.find? (fun w => some w.ctx == s.walkerOwner[k]?) = none ∧ s.walks.head? = some w)) : s.walkOf k = some w := by
  unfold State.walkOf
  obtain h | ⟨h, hhead⟩ := h
  · rw [h]
  · rw [h]
    exact hhead

/-! ### The store-fault-pending trap -/

/-- A store-fault trap is pending, and neither a stop nor an event that R273 takes first stands before it. -/
def State.storeFaultFirst (s : State) (w : Wave) : Prop :=
  s.held w = false ∧ w.wait = .ready ∧ w.answers = [] ∧ w.poisPend = none ∧ w.mode = .user ∧ w.sfq ≠ []

theorem storeFaultFirst_iff {s : State} {w : Wave} :
    (w.between && w.poisPend.isNone && w.sfDue && !s.held w) = true ↔ s.storeFaultFirst w := by
  simp only [State.storeFaultFirst, Wave.between, Wave.sfDue, Bool.and_eq_true, beq_iff_eq, List.isEmpty_iff, Option.isNone_iff_eq_none,
    Bool.not_eq_true', List.isEmpty_eq_false_iff, ne_eq]
  tauto

theorem boundary_of_storeFault {s : State} {w : Wave} (h : s.storeFaultFirst w) :
    s.boundary w = some ((s.asWave w).takeTrap causeStoreFault w.pc 0 0) := by
  have hguard := storeFaultFirst_iff.2 h
  obtain ⟨hheld, hready, hans, hpois, hmode, hsfq⟩ := h
  simp only [Bool.and_eq_true] at hguard
  obtain ⟨⟨⟨hbetween, -⟩, hdue⟩, -⟩ := hguard
  simp only [State.boundary, hheld, hbetween, hpois, hdue, Bool.false_eq_true, if_false, if_true, Bool.not_true]

section
variable {s : State} {c k : Nat}

theorem storeFaultTrap_none (h : s.wave? c k = none) : s.storeFaultTrap c k = s := by
  simp only [State.storeFaultTrap, h]

theorem storeFaultTrap_due {w : Wave} (h : s.wave? c k = some w) (hd : s.storeFaultFirst w) :
    s.storeFaultTrap c k = (s.asWave w).takeTrap causeStoreFault w.pc 0 0 := by
  simp only [State.storeFaultTrap, h, storeFaultFirst_iff, hd, if_true, boundary_of_storeFault hd, Option.getD_some]

theorem storeFaultTrap_not_due {w : Wave} (h : s.wave? c k = some w) (hd : ¬ s.storeFaultFirst w) : s.storeFaultTrap c k = s := by
  simp only [State.storeFaultTrap, h, storeFaultFirst_iff, hd, if_false]

end

/-! ### Saves and resumptions -/

/-- The running block that an event of a launch and block index names. -/
def State.runningBlock (s : State) (l b : Nat) : Option Block :=
  s.blocks.find? (fun x => x.launch == l && x.index % 2 ^ 32 == b && x.phase == .running)

section
variable {s : State} {l b : Nat} {x : Block}

theorem blockSave_none (h : s.runningBlock l b = none) : s.blockSave l b = s := by
  unfold State.runningBlock at h
  simp only [State.blockSave, h]

theorem blockSave_not_due (h : s.runningBlock l b = some x)
    (hd : s.covered x.ctx x.launch (s.blkOf x) = false ∨ ∃ d ∈ s.unitOf x, s.savable d = false) : s.blockSave l b = s := by
  unfold State.runningBlock at h
  have hguard : (!s.covered x.ctx x.launch (s.blkOf x) || !(s.unitOf x).all s.savable) = true := by
    simpa only [Bool.or_eq_true, Bool.not_eq_true', List.all_eq_false, Bool.not_eq_true] using hd
  simp only [State.blockSave, h, hguard, if_true]

theorem blockSave_due (h : s.runningBlock l b = some x) (hc : s.covered x.ctx x.launch (s.blkOf x) = true)
    (hu : ∀ d ∈ s.unitOf x, s.savable d = true) :
    s.blockSave l b = (s.unitOf x).foldl (fun t d => match t.block? d.launch d.index with
        | some e => t.finishSave e
        | none => t)
      ((s.unitOf x).foldl (fun t d => match t.block? d.launch d.index with
        | some e => if e.phase = .running then t.saveBlock e else t
        | none => t) s) := by
  unfold State.runningBlock at h
  have hall : (s.unitOf x).all s.savable = true := List.all_eq_true.2 hu
  simp only [State.blockSave, h, hc, hall, Bool.not_true, Bool.or_false, Bool.false_eq_true, if_false, beq_iff_eq] <;> rfl

end

theorem tryReq_resume {s t : State} {r : PlaceReq} {m : Launch} {num index : Nat} (hk : r.kind = .resume num index)
    (hm : s.launch? r.num = some m)
    (ht : s.resumeAll num (fun c => s.coreFor (s.fnOf m.ctx) (s.urgent m) c) (s.savedUnit num index) = .placed t) :
    s.tryReq (fun _ => true) r = some (if (s.ctx m.ctx).stepping = true then t else t.unsuspend m.ctx) := by
  simp only [State.tryReq, hk, hm, Bool.true_and, ht]

/-! ### Suspensions -/

/-- Nothing of a context whose suspension is outstanding is resident on either die, and no step of the debugger is under way. -/
def State.suspended (s : State) (c : Nat) : Prop :=
  s.preReq c = true ∧ s.preState c = 1 ∧ (∀ b ∈ s.blocks, b.ctx ≠ c) ∧ (∀ p ∈ s.spindles, p.ctx ≠ c) ∧ (∀ a ∈ s.away, a.ctx ≠ c) ∧
    ¬ ((s.ctx c).stepping = true ∧ ∃ l ∈ s.launchesOf c, ∃ b ∈ l.saved, b.debug = false)

theorem suspended_iff {s : State} {c : Nat} :
    (!s.preReq c || s.preState c != 1 || ((s.ctx c).stepping && (s.launchesOf c).any (fun l => l.saved.any (fun b => !b.debug)))
      || s.blocks.any (fun b => b.ctx == c) || s.spindles.any (fun p => p.ctx == c) || s.away.any (fun a => a.ctx == c)) = true ↔
      ¬ s.suspended c := by
  simp only [State.suspended, Bool.or_eq_true, Bool.not_eq_true', bne_iff_ne, Bool.and_eq_true, List.any_eq_true, beq_iff_eq, ne_eq,
    Classical.not_and_iff_not_or_not, not_forall, not_not, exists_prop, Bool.not_eq_true]
  grind

theorem suspensionComplete_not_due {s : State} {c : Nat} (h : ¬ s.suspended c) : s.suspensionComplete c = s :=
  if_pos (suspended_iff.2 h)

theorem suspensionComplete_due {s : State} {c : Nat} (h : s.suspended c) : (s.suspensionComplete c).preState c = 2 := by
  have hguard := Bool.eq_false_iff.2 (mt suspended_iff.1 (not_not_intro h))
  unfold State.suspensionComplete
  simp only [hguard, Bool.false_eq_true, if_false]
  exact setPreState_preState _ _ _ (by decide)

theorem forcedSave_eq (s : State) (c : Nat) : s.forcedSave c =
    if s.deadlinePassed c 0 = true then (s.modCtx c (fun x => { x with forced := true })).forceStops c else s := by
  unfold State.forcedSave
  cases s.deadlinePassed c 0 <;> rfl

theorem forcedTimeout_eq (s : State) (c : Nat) : s.forcedTimeout c =
    if (s.ctx c).forced = true ∧ s.deadlinePassed c (150 * ticksPerMicro) = true ∧ s.preState c ≠ 3
    then s.terminate c causeForcedTimeout else s := by
  unfold State.forcedTimeout
  simp only [Bool.and_eq_true, bne_iff_ne, and_assoc]

/-! ### Operand slots and matrix operations -/

theorem slot_setSlot_same (p : Spindle) (k : Nat) (o : OSlot) : (p.setSlot k o).slot k = o :=
  sget_sput_self (fun _ => OSlot.free) p.slots k o

section
variable {p : Spindle} {k : Nat}

theorem readDone_of_not_inUse (h : (p.slot k).state ≠ .inUse) : p.readDone k = p := if_pos (bne_iff_ne.2 h)

theorem readDone_of_inUse (h : (p.slot k).state = .inUse) : p.readDone k =
    { p.slotsTo [k] .claimed with ops := p.ops.map (fun o => { o with reads := o.reads.filter (fun j => j != k) }) } :=
  if_neg (fun hne => bne_iff_ne.1 hne h)

theorem slot_readDone (h : (p.slot k).state = .inUse) : ((p.readDone k).slot k).state = .claimed := by
  have hset : (p.slotsTo [k] .claimed).slot k = { p.slot k with state := .claimed, count := 0 } := slot_setSlot_same p k _
  rw [readDone_of_inUse h]
  exact congrArg OSlot.state hset

theorem reads_readDone (h : (p.slot k).state = .inUse) {o : MatOp} (ho : o ∈ (p.readDone k).ops) : k ∉ o.reads := by
  rw [readDone_of_inUse h] at ho
  obtain ⟨a, -, rfl⟩ := List.mem_map.1 ho
  exact fun hk => bne_iff_ne.1 (List.mem_filter.1 hk).2 rfl

end

/-- The end of a slot's reads leaves the drains of the operations, in their order. -/
theorem drains_readDone (p : Spindle) (k : Nat) : (p.readDone k).ops.map MatOp.drain = p.ops.map MatOp.drain := by
  by_cases h : (p.slot k).state = .inUse
  · rw [readDone_of_inUse h]
    exact List.map_map
  · rw [readDone_of_not_inUse h]

/-- The reads of several slots end. -/
def Spindle.readsDone (p : Spindle) (l : List Nat) : Spindle := l.foldl (fun p i => p.readDone i) p

theorem drains_readsDone (l : List Nat) : ∀ p : Spindle, (p.readsDone l).ops.map MatOp.drain = p.ops.map MatOp.drain := by
  induction l with
  | nil => exact fun _ => rfl
  | cons k l ih => exact fun p => (ih _).trans (drains_readDone p k)

/-- Of operations whose first is no drain, that one is taken away. -/
theorem opDone_go_tail {l : List MatOp} {rest : List (Option Drain)} (h : l.map MatOp.drain = none :: rest) : Spindle.opDone.go l = l.tail := by
  cases l with
  | nil => nomatch h
  | cons o l =>
    obtain ⟨ho, -⟩ := List.cons.inj h
    simp only [Spindle.opDone.go, ho, Option.isNone_none, if_true, List.tail_cons]

theorem opDone_head {p : Spindle} {o : MatOp} {rest : List MatOp} (h : p.ops = o :: rest) (hd : o.drain = none) :
    p.opDone = { p.readsDone o.reads with ops := (p.readsDone o.reads).ops.tail }.batchesDone := by
  have hgo : Spindle.opDone.go (p.readsDone o.reads).ops = (p.readsDone o.reads).ops.tail :=
    opDone_go_tail ((drains_readsDone o.reads p).trans (by rw [h, List.map_cons, hd]))
  have hfind : p.ops.find? (fun o => o.drain.isNone) = some o := by
    rw [h, List.find?_cons_of_pos (by rw [hd]; rfl)]
  rw [← hgo]
  simp only [Spindle.opDone, hfind]
  rfl

section
variable {s : State} {cl k : Nat}

theorem slotReadEnds_none (h : s.spindle? cl = none) : s.slotReadEnds cl k = s := by
  simp only [State.slotReadEnds, h]

theorem matrixOpEnds_none (h : s.spindle? cl = none) : s.matrixOpEnds cl = s := by
  simp only [State.matrixOpEnds, h]

theorem reissueSpindle_none (h : s.spindle? cl = none) : s.reissueSpindle cl = s := by
  simp only [State.reissueSpindle, h]

theorem drainComplete_none (h : (s.spindle? cl).bind Spindle.drain? = none) : s.drainComplete cl = s := by
  simp only [State.drainComplete, h]

theorem drainFault_none (h : (s.spindle? cl).bind Spindle.drain? = none) : s.drainFault cl = s := by
  simp only [State.drainFault, h]

variable {p : Spindle}

theorem slotReadEnds_some (h : s.spindle? cl = some p) :
    s.slotReadEnds cl k = if (p.slot k).state = .inUse then (s.setSpindle (p.readDone k)).slotReturned cl else s := by
  simp only [State.slotReadEnds, h, beq_iff_eq]

theorem matrixOpEnds_drains (h : s.spindle? cl = some p) (hd : ∀ o ∈ p.ops, o.drain.isSome = true) : s.matrixOpEnds cl = s := by
  have hany : p.ops.any (fun o => o.drain.isNone) = false :=
    List.any_eq_false.2 fun o ho => by rw [Option.isNone_iff_eq_none, ← Option.not_isSome_iff_eq_none, not_not]; exact hd o ho
  simp only [State.matrixOpEnds, h, hany, Bool.false_eq_true, if_false]

theorem matrixOpEnds_head {o : MatOp} {rest : List MatOp} (h : s.spindle? cl = some p) (hops : p.ops = o :: rest) (hd : o.drain = none) :
    s.matrixOpEnds cl = (s.setSpindle p.opDone).slotReturned cl := by
  have hany : p.ops.any (fun o => o.drain.isNone) = true := by
    rw [hops, List.any_cons, hd]
    rfl
  simp only [State.matrixOpEnds, h, hany, if_true]

theorem reissueSpindle_waiting {r : Nat} {x : Bool} (h : s.spindle? cl = some p) (hw : p.wait = .retry r x) :
    s.reissueSpindle cl = { s.setSpindle { p with wait := .ready } with agenda := .spindle cl :: s.agenda } := by
  simp only [State.reissueSpindle, h, hw]

theorem reissueSpindle_other (h : s.spindle? cl = some p) (hw : ∀ r x, p.wait ≠ .retry r x) : s.reissueSpindle cl = s := by
  simp only [State.reissueSpindle, h]

end

theorem slotReturned_moves (s : State) (cl : Nat) : ∃ l : List Move, s.slotReturned cl = { s with agenda := l ++ s.agenda } ∧
    ∀ m ∈ l, (∃ c k, m = .slotWrite c k) ∨ ∃ c k j, m = .copyStep c k j 512 := by
  refine ⟨_, rfl, fun m hm => ?_⟩
  rcases List.mem_append.1 hm with hcopy | hstore
  · obtain ⟨w, -, hw⟩ := List.mem_flatMap.1 hcopy
    obtain ⟨t, -, rfl⟩ := List.mem_map.1 hw
    exact .inr ⟨_, _, _, rfl⟩
  · obtain ⟨w, -, rfl⟩ := List.mem_map.1 hstore
    exact .inl ⟨_, _, rfl⟩

/-! ### Drains -/

section
variable {s : State} {cl : Nat} {p q : Spindle} {d e : Drain} (h : s.spindle? cl = some p) (hd : p.drain? = some d)
include h hd

theorem drainFault_without (hrun : (s.drainRun cl d.total (d.total + 1)).2 = none) : s.drainFault cl = s := by
  rcases hr : s.drainRun cl d.total (d.total + 1) with ⟨t, o⟩
  rw [hr] at hrun
  cases hrun
  simp only [State.drainFault, h, Option.bind_some, hd, hr]

variable (hq : (s.drainRun cl d.total (d.total + 1)).1.spindle? cl = some q) (he : q.drain? = some e)
include hq he

theorem drainFault_with {c : Nat} {a : BitVec 64} (hrun : (s.drainRun cl d.total (d.total + 1)).2 = some (c, a)) : s.drainFault cl =
    if (s.drainRun cl d.total (d.total + 1)).1.loadsPast cl e.since = true
    then ((s.drainRun cl d.total (d.total + 1)).1.drainEnd q e).drainReport q c e.progress a else s := by
  rcases hr : s.drainRun cl d.total (d.total + 1) with ⟨t, o⟩
  rw [hr] at hrun hq
  cases hrun
  simp only [State.drainFault, h, Option.bind_some, hd, hr, hq, he]

theorem drainComplete_goes_on (hmore : e.progress ≠ e.total ∨ (s.drainRun cl d.total (d.total + 1)).1.loadsPast cl e.since = false) :
    s.drainComplete cl = (s.drainRun cl d.total (d.total + 1)).1 := by
  have hguard : (e.progress != e.total || !(s.drainRun cl d.total (d.total + 1)).1.loadsPast cl e.since) = true := by
    simpa only [Bool.or_eq_true, bne_iff_ne, Bool.not_eq_true'] using hmore
  simp only [State.drainComplete, h, Option.bind_some, hd, hq, he, hguard, if_true]

variable (hall : e.progress = e.total) (hpast : (s.drainRun cl d.total (d.total + 1)).1.loadsPast cl e.since = true)
include hall hpast

theorem drainComplete_ends (hb : e.bben = false) : s.drainComplete cl = (s.drainRun cl d.total (d.total + 1)).1.drainEnd q e := by
  simp only [State.drainComplete, h, Option.bind_some, hd, hq, he, hall, hpast, bne_self_eq_false, Bool.not_true, Bool.or_false,
    Bool.false_eq_true, if_false, hb]
  split <;> rfl

theorem drainComplete_arrives {b : Block} (hb : e.bben = true)
    (hblock : ((s.drainRun cl d.total (d.total + 1)).1.drainEnd q e).block? q.launch q.block = some b) : s.drainComplete cl =
      match ((s.drainRun cl d.total (d.total + 1)).1.drainEnd q e).bbArrive (b.scratchAddr e.bboff) e.bboff e.total 0 with
        | (some c, v) => v.drainReport q c e.total 0
        | (none, v) => v := by
  simp only [State.drainComplete, h, Option.bind_some, hd, hq, he, hall, hpast, bne_self_eq_false, Bool.not_true, Bool.or_false,
    Bool.false_eq_true, if_false, hblock, hb, if_true] <;> rfl

end

/-! ### Copies -/

section
variable {s : State} {c k j : Nat}

theorem copyStart_without (h : ∀ w, s.wave? c k = some w → (w.token j).copy = none) : s.copyStart c k j = s := by
  unfold State.copyStart
  split
  next => rfl
  next w hw => simp only [h w hw]

theorem copyEnd_without (h : ∀ w, s.wave? c k = some w → (w.token j).copy = none) : s.copyEnd c k j = s := by
  unfold State.copyEnd
  split
  next => rfl
  next w hw => simp only [h w hw]

theorem copyFault_without (h : ∀ w, s.wave? c k = some w → (w.token j).copy = none) : s.copyFault c k j = s := by
  unfold State.copyFault
  split
  next => rfl
  next w hw => simp only [h w hw]

end

/-- A copy that a suspension has stopped may start again. -/
def State.copyAgain (s : State) (w : Wave) (j : Nat) (x : Copy) : Prop :=
  (w.token j).state = 3 ∧ s.lockRoom (w.core / 4) x = true ∧ w.wait ≠ .restored ∧ ¬ (w.mode = .supervisor ∧ w.handler ≠ .trap)

section
variable {s : State} {c k j : Nat} {w : Wave} {x : Copy} (h : s.wave? c k = some w) (hx : (w.token j).copy = some x)

theorem copyAgain_iff : ((w.token j).state == 3 && s.lockRoom (w.core / 4) x && w.wait != .restored
    && !(w.mode == .supervisor && w.handler != .trap)) = true ↔ s.copyAgain w j x := by
  simp only [State.copyAgain, Bool.and_eq_true, beq_iff_eq, bne_iff_ne, Bool.not_eq_true', Bool.and_eq_false_iff, beq_eq_false_iff_ne,
    bne_eq_false_iff_eq, Classical.not_and_iff_not_or_not, not_not, ne_eq, and_assoc]

theorem copyFirst_iff : ((w.token j).state == 1 && !x.started) = true ↔ (w.token j).state = 1 ∧ x.started = false := by
  simp only [Bool.and_eq_true, beq_iff_eq, Bool.not_eq_true']

include h hx

theorem copyStart_first (hs : (w.token j).state = 1) (hn : x.started = false) :
    s.copyStart c k j = s.setToken w j { w.token j with copy := some { x with started := true } } := by
  simp only [State.copyStart, h, hx, if_pos (copyFirst_iff.2 ⟨hs, hn⟩)]

theorem copyStart_again (ha : s.copyAgain w j x) : s.copyStart c k j =
    (s.lockCopy w j x).setToken w j { w.token j with state := 1, copy := some { x with started := true, since := s.cyc } } := by
  have hfirst : ¬ ((w.token j).state == 1 && !x.started) = true := fun hf => by
    have := (copyFirst_iff.1 hf).1.symm.trans ha.1
    omega
  simp only [State.copyStart, h, hx, if_neg hfirst, if_pos (copyAgain_iff.2 ha)]

theorem copyStart_not_due (hf : ¬ ((w.token j).state = 1 ∧ x.started = false)) (ha : ¬ s.copyAgain w j x) : s.copyStart c k j = s := by
  simp only [State.copyStart, h, hx, if_neg (mt copyFirst_iff.1 hf), if_neg (mt copyAgain_iff.1 ha)]

theorem copyFault_stays (hrun : (s.copyRun c k j x.total x.total).2 = none) : s.copyFault c k j = s := by
  rcases hr : s.copyRun c k j x.total x.total with ⟨t, o⟩
  rw [hr] at hrun
  cases hrun
  simp only [State.copyFault, h, hx, hr]

variable {v : Wave} {y : Copy} (hv : (s.copyRun c k j x.total x.total).1.wave? c k = some v) (hy : (v.token j).copy = some y)
include hv hy

theorem copyFault_fails {d : Nat} {a : BitVec 64} {z : Nat} (hrun : (s.copyRun c k j x.total x.total).2 = some (d, a, z)) :
    s.copyFault c k j = if (s.copyRun c k j x.total x.total).1.loadsPast (c / 4) y.since = true
      then (s.copyRun c k j x.total x.total).1.copyFail v j (v.token j).progress y d a z else s := by
  rcases hr : s.copyRun c k j x.total x.total with ⟨t, o⟩
  rw [hr] at hrun hv
  cases hrun
  simp only [State.copyFault, h, hx, hr, hv, hy]

theorem copyEnd_eq : s.copyEnd c k j =
    if (v.token j).state = 1 ∧ y.started = true ∧ (v.token j).progress = y.total ∧
      (s.copyRun c k j x.total x.total).1.loadsPast (c / 4) y.since = true
    then (s.copyRun c k j x.total x.total).1.copyDone v j y else (s.copyRun c k j x.total x.total).1 := by
  simp only [State.copyEnd, h, hx, hv, hy, Bool.and_eq_true, beq_iff_eq, and_assoc]

end

section
variable (s : State) (w : Wave) (j : Nat) (x : Copy)

theorem copyDone_plain (hb : x.bben = false) :
    s.copyDone w j x = (s.copyRelease w j x).setToken w j { state := 0, cause := 0, progress := x.total, copy := none } := by
  unfold State.copyDone
  simp only [hb, Bool.false_eq_true, if_false]
  cases (s.copyRelease w j x).block? w.launch w.block <;> rfl

theorem copyDone_arrives {b : Block} (hb : x.bben = true) (hblock : (s.copyRelease w j x).block? w.launch w.block = some b) :
    s.copyDone w j x = match (s.copyRelease w j x).bbArrive (b.scratchAddr x.bboff) x.bboff x.total 0 with
      | (some d, u) => u.setToken w j { state := 2, cause := d, progress := x.total, copy := none }
      | (none, u) => u.setToken w j { state := 0, cause := 0, progress := x.total, copy := none } := by
  unfold State.copyDone
  simp only [hblock, hb, if_true] <;> rfl

end

/-! ### The events -/

theorem exec_illegalInstruction {s : State} (h : s.hasAgent = true) (d : BitVec 3) :
    exec (.illegalInstruction d) s = .next (s.takeTrap (causeIllegal d.toNat) s.curPc 0 0).settle := by
  show execIllegalInstruction d s = _
  rw [execIllegalInstruction, if_pos h]
  rfl

theorem exec_retryEvent {s : State} {c : BitVec 7} {k : BitVec 6} {i : Instr} {reason : Nat}
    (h : i = .faultTagAllocation c k ∧ reason = 2 ∨ i = .remitResume c k ∧ reason = 8 ∨ i = .slotWriteRetry c k ∧ reason = 8) :
    exec i s = .next (s.retryWave c.toNat k.toNat (Wait.isRetry reason)) := by
  obtain ⟨rfl, rfl⟩ | ⟨rfl, rfl⟩ | ⟨rfl, rfl⟩ := h
  · rfl
  · rfl
  · rfl

/-- Settles O59: each event is one operation of the state, which is split by what makes it due. -/
theorem contextAndCopyEvents : Obligations.ContextAndCopyEvents := by
  unfold Obligations.ContextAndCopyEvents
  refine ⟨?walk, ?retry, ?storeFault, ?save, ?suspension, ?forced, fun s d h => exec_illegalInstruction h d, ?noProgram, ?matrix,
    slotReturned_moves, ?drains, ?copies, ?copyEnds⟩
  case walk =>
    intro s k t mine
    refine ⟨assignWalkers_eq s, fun h => next_congr ?_, fun w hw => next_congr ?_⟩
    · rw [pageWalk_eq, walkOf_nil ((walks_assignWalkers s).trans h)]
    · rw [pageWalk_eq, walkOf_some hw]
  case retry =>
    intro s c k i reason hi
    rw [exec_retryEvent hi]
    refine ⟨fun w x hw hx => next_congr (retryWave_due hw (isRetry_iff.2 ⟨x, hx⟩)), fun h => next_congr (retryWave_not_due fun w hw => ?_)⟩
    exact Bool.eq_false_iff.2 fun hok => (isRetry_iff.1 hok).elim fun x hx => h w x hw hx
  case storeFault =>
    intro s c k
    exact ⟨fun h => next_congr (storeFaultTrap_none h), fun w h => ⟨fun hd => next_congr (storeFaultTrap_due h hd),
      fun hd => next_congr (storeFaultTrap_not_due h hd)⟩⟩
  case save =>
    intro s l b
    refine ⟨fun h => next_congr (blockSave_none h), fun x h hd => next_congr (blockSave_not_due h hd),
      fun x h hc hu => next_congr (blockSave_due h hc hu), fun h => next_congr (placeFor_nil h _), ?first,
      fun r m num index t hk hm ht => tryReq_resume hk hm ht⟩
    case first =>
      intro r rest t h ht
      refine ⟨fun num index hk => next_congr ((placeFor_cons h ht _).trans (by simp [hk])),
        fun hk => next_congr ((placeFor_cons h ht _).trans (if_neg ?_))⟩
      cases hr : r.kind with
      | resume num index => exact absurd hr (hk num index)
      | _ => exact Bool.false_ne_true
  case suspension =>
    intro s c
    exact ⟨fun hd => ⟨_, rfl, suspensionComplete_due hd⟩, fun hd => next_congr (suspensionComplete_not_due hd)⟩
  case forced =>
    intro s c
    have hsave := forcedSave_eq s c.toNat
    refine ⟨fun h => next_congr (hsave.trans (if_neg (Bool.eq_false_iff.1 h))), fun h => next_congr (hsave.trans (if_pos h)),
      next_congr (forcedTimeout_eq s c.toNat)⟩
  case noProgram =>
    intro s cl h
    have hd : (s.spindle? cl.toNat).bind Spindle.drain? = none := by rw [h]; rfl
    exact ⟨fun k => next_congr (slotReadEnds_none h), next_congr (matrixOpEnds_none h), next_congr (reissueSpindle_none h),
      next_congr (reissueSpindle_none h), next_congr (drainComplete_none hd), next_congr (drainFault_none hd)⟩
  case matrix =>
    intro s cl k p h
    refine ⟨fun hs => next_congr ((slotReadEnds_some h).trans (if_neg hs)), fun hs => ⟨next_congr ((slotReadEnds_some h).trans (if_pos hs)),
      slot_readDone hs, fun o ho => reads_readDone hs ho⟩, fun hd => next_congr (matrixOpEnds_drains h hd), ?head, rfl,
      fun r x hw => next_congr (reissueSpindle_waiting h hw), fun hw => next_congr (reissueSpindle_other h hw), ?noDrain⟩
    case head =>
      intro o rest hops hd q
      refine next_congr ((matrixOpEnds_head h hops hd).trans ?_)
      rw [opDone_head hops hd]
      rfl
    case noDrain =>
      intro hd
      have hnone : (s.spindle? cl.toNat).bind Spindle.drain? = none := by rw [h]; exact hd
      exact ⟨next_congr (drainComplete_none hnone), next_congr (drainFault_none hnone)⟩
  case drains =>
    intro s cl p d h hd run
    refine ⟨fun hrun => next_congr (drainFault_without h hd hrun), ?_⟩
    intro q e hq he past u
    exact ⟨fun c a hrun => next_congr (drainFault_with h hd hq he hrun), fun hmore => next_congr (drainComplete_goes_on h hd hq he hmore),
      fun hall hpast => ⟨fun hb => next_congr (drainComplete_ends h hd hq he hall hpast hb),
        fun b hb hblock => next_congr (drainComplete_arrives h hd hq he hall hpast hb hblock)⟩⟩
  case copies =>
    intro s c k j
    refine ⟨?without, ?running⟩
    case without =>
      intro i hi hnone
      have hcopy : ∀ w, s.wave? c.toNat k.toNat = some w → (w.token j.toNat).copy = none := fun w hw => by
        obtain h | ⟨v, hv, hc⟩ := hnone
        · exact nomatch h.symm.trans hw
        · cases hv.symm.trans hw
          exact hc
      obtain rfl | rfl | rfl := hi
      · exact next_congr (copyStart_without hcopy)
      · exact next_congr (copyEnd_without hcopy)
      · exact next_congr (copyFault_without hcopy)
    case running =>
      intro w x h hx t run again
      refine ⟨fun hs hn => next_congr (copyStart_first h hx hs hn), fun ha => next_congr (copyStart_again h hx ha),
        fun hf ha => next_congr (copyStart_not_due h hx hf ha), fun hrun => next_congr (copyFault_stays h hx hrun), ?_⟩
      intro v y hv hy u past
      exact ⟨fun d a z hrun => next_congr (copyFault_fails h hx hv hy hrun), next_congr (copyEnd_eq h hx hv hy)⟩
  case copyEnds =>
    intro s w j x r ends
    exact ⟨fun hb => copyDone_plain s w j x hb, fun b hb hblock => copyDone_arrives s w j x hb hblock⟩

end Sys2Proof.Machine
end

section
/-! ## Brolek and the Event Recorder (22 R336; 23 R370 to R372; 24 R373 to R382; 25 R387, R388) -/

namespace Sys2Proof.Machine

/-! ### Machine checks, the governor and memory errors -/

theorem toNat_beq_zero_iff {w : Nat} (x : BitVec w) : (x.toNat == 0) = true ↔ x = 0 := by
  rw [beq_iff_eq, BitVec.toNat_eq]
  exact Iff.rfl

theorem machineCheckEvent_eq (s : State) (d k : BitVec 3) (x : BitVec 7) (y : BitVec 64) :
    s.machineCheckEvent d.toNat k.toNat x.toNat y =
      if d = 0 ∨ 5 < d.toNat ∨ unitExists k.toNat x.toNat = false then s else s.machineCheck (0x140 + d.toNat) k.toNat x.toNat y :=
  if_bool (by rw [Bool.or_eq_true, Bool.or_eq_true, toNat_beq_zero_iff, decide_eq_true_eq, Bool.not_eq_true', or_assoc]) _ _

theorem devLog_parts (s : State) (e : Nat) (a : BitVec 64) : ∃ m, s.devLog e a = { s with mgmt := m } := ⟨_, rfl⟩

/-- The freeze that a machine check raises. -/
def State.checkFreeze (s : State) (cause kind index : Nat) : Freeze :=
  { full := true, t := s.clk.toNat, cause := cause, reason := 0, okind := kind, oindex := index, ctx := 0xFFFF, source := 0,
    toReach := [], opened := false, requester := none }

/-- The state in which a machine check has been logged, by its unit and by the device. -/
def State.checkLogged (s : State) (cause kind index : Nat) (syndrome : BitVec 64) : State :=
  (s.logDev (originBuf kind index) 0x64 cause syndrome).devLog 6 (BitVec.ofNat 64 cause)

theorem checkLogged_parts (s : State) (cause kind index : Nat) (y : BitVec 64) :
    ∃ l m, s.checkLogged cause kind index y = { s with bufs := l, mgmt := m } := by
  obtain ⟨l, hl⟩ := logDev_shape s (originBuf kind index) 0x64 cause y
  obtain ⟨m, hm⟩ := devLog_parts { s with bufs := l } 6 (BitVec.ofNat 64 cause)
  exact ⟨l, m, (congrArg (State.devLog · 6 (BitVec.ofNat 64 cause)) hl).trans hm⟩

/-- A freeze of this die is told to the paired die, when its link is up. -/
def State.tellFreeze (s : State) (cause : Nat) : State :=
  if s.pairUp then { s with out := s.out ++ [.freeze s.clk.toNat cause] } else s

/-- The state in which the freeze of a machine check has been raised, and told to the paired die. -/
def State.checkRaised (s : State) (cause kind index : Nat) (syndrome : BitVec 64) : State :=
  let t := s.checkLogged cause kind index syndrome
  (t.raiseFreeze (t.checkFreeze cause kind index)).tellFreeze cause

theorem checkRaised_parts (s : State) (cause kind index : Nat) (y : BitVec 64) : ∃ l m, s.checkRaised cause kind index y =
    { s with bufs := l, mgmt := m, freezes := s.freezes ++ [{ s.checkFreeze cause kind index with toReach := List.range bufCount }],
             out := if s.pairUp = true then s.out ++ [.freeze s.clk.toNat cause] else s.out } := by
  obtain ⟨l, m, h⟩ := checkLogged_parts s cause kind index y
  refine ⟨l, m, ?_⟩
  simp only [State.checkRaised, h]
  show (if s.pairUp = true then _ else _) = _
  cases s.pairUp with
  | false => rfl
  | true => rfl

theorem machineCheck_eq (s : State) (cause kind index : Nat) (y : BitVec 64) : s.machineCheck cause kind index y =
    (((s.checkRaised cause kind index y).waves.map (·.ctx)).eraseDups).foldl (fun s c => s.terminate c cause) (s.checkRaised cause kind index y) := by
  unfold State.machineCheck State.checkRaised State.checkLogged State.tellFreeze State.checkFreeze
  with_reducible rfl

theorem machineCheck_raised (s : State) (cause kind index : Nat) (y : BitVec 64) : ∃ u, s.machineCheck cause kind index y =
      ((s.waves.map (·.ctx)).eraseDups).foldl (fun s c => s.terminate c cause) u ∧
    u = { s with bufs := u.bufs, mgmt := u.mgmt,
                 freezes := s.freezes ++ [{ s.checkFreeze cause kind index with toReach := List.range bufCount }],
                 out := if s.pairUp = true then s.out ++ [.freeze s.clk.toNat cause] else s.out } := by
  obtain ⟨l, m, h⟩ := checkRaised_parts s cause kind index y
  have heq := machineCheck_eq s cause kind index y
  rw [h] at heq
  exact ⟨_, heq, rfl⟩

theorem mayLower_iff (s : State) : s.mayLower = true ↔ s.mgmt.board = .pairCard ∨ s.ctlField .mgtPwrcap 0 16 < 1000 ∨
    s.ctlField .mgtSense 16 16 ≤ s.ctlField .mgtSense 0 16 := by
  simp only [State.mayLower, Bool.or_eq_true, beq_iff_eq, decide_eq_true_eq, or_assoc]

theorem governorStep_eq (s : State) (up : BitVec 1) {g : Nat}
    (hg : g = if up = 1 then s.ctlField .mgtSense 32 16 + 25 else s.ctlField .mgtSense 32 16 - 25) :
    s.governorStep (up == 1) =
      if ¬ (up = 1 ∨ s.mgmt.board = .pairCard ∨ s.ctlField .mgtPwrcap 0 16 < 1000 ∨ s.ctlField .mgtSense 16 16 ≤ s.ctlField .mgtSense 0 16) ∨
        s.since s.mgmt.govAt < 100 * ticksPerMicro ∨ g < 900 ∨ 1700 < g then s
      else { s.ctlSet .mgtSense 32 16 g with mgmt := { s.mgmt with govAt := s.clk.toNat } } := by
  have hup : (if (up == 1) = true then s.ctlField .mgtSense 32 16 + 25 else s.ctlField .mgtSense 32 16 - 25) = g := by
    rw [hg, if_bool beq_iff_eq]
  unfold State.governorStep
  simp only [hup]
  refine if_bool ?_ _ _
  rw [Bool.or_eq_true, Bool.or_eq_true, Bool.or_eq_true, Bool.not_eq_true', ← Bool.not_eq_true, Bool.or_eq_true, beq_iff_eq, mayLower_iff,
    decide_eq_true_eq, decide_eq_true_eq, decide_eq_true_eq, or_assoc, or_assoc]

/-- The state in which an error found in a granule has been logged and counted. -/
def State.errorLogged (s : State) (pa : Nat) (ue : Bool) : State :=
  (s.logDev (memBuf pa) 0x71 (if ue then 1 else 0) (BitVec.ofNat 64 pa)).errCount ue

theorem memoryError_eq (s : State) (g : Nat) (ue : Bool) : s.memoryError g ue =
    if 2 ≤ paSpace (32 * g) ∨ s.dramExists (paSpace (32 * g)) (paOff (32 * g)) = false then s
    else if ue then { s.errorLogged (32 * g) ue with poison := setAdd g (s.errorLogged (32 * g) ue).poison }.devLog 11 (BitVec.ofNat 64 (32 * g))
      else s.errorLogged (32 * g) ue :=
  if_bool (by rw [Bool.or_eq_true, decide_eq_true_eq, Bool.not_eq_true']) _ _

theorem scrubRead_eq (s : State) (g : Nat) (fi : BitVec 2) : s.scrubRead g fi.toNat =
    if s.ctlField .rasScrub 8 1 = 0 ∨ fi = 0 then s else s.memoryError g (decide (1 < fi.toNat)) := by
  unfold State.scrubRead
  rw [if_bool (p := s.ctlField .rasScrub 8 1 = 0 ∨ fi = 0) (by rw [Bool.or_eq_true, beq_iff_eq, toNat_beq_zero_iff])]
  refine ite_congr rfl (fun _ => rfl) fun h => ?_
  have hfi : fi.toNat ≠ 0 := fun h0 => h (.inr (BitVec.eq_of_toNat_eq h0))
  have hue : (fi.toNat != 1) = decide (1 < fi.toNat) := Bool.eq_iff_iff.2 (by rw [bne_iff_ne, decide_eq_true_eq]; omega)
  rw [hue]

/-! ### The mailbox and SPDM -/

/-- The register of a mailbox after its command has ended with a STATUS and a length. -/
def State.mailboxAnswered (s : State) (f status len : Nat) : State :=
  ((s.ctlSet (.mgtMbox f) 16 16 status).ctlSet (.mgtMbox f) 32 16 len).ctlSet (.mgtMbox f) 62 1 0

section
variable (s : State) (f status len : Nat)

theorem busy_mailboxAnswered : (s.mailboxAnswered f status len).ctlField (.mgtMbox f) 62 1 = 0 := by
  unfold State.mailboxAnswered
  rw [ctlField_ctlSet _ _ _ _ _ (by decide), Nat.zero_mod]

theorem status_mailboxAnswered : (s.mailboxAnswered f status len).ctlField (.mgtMbox f) 16 16 = status % 2 ^ 16 := by
  unfold State.mailboxAnswered
  rw [ctlField_ctlSet_other _ _ _ _ _ _ _ (by decide) (by decide), ctlField_ctlSet_other _ _ _ _ _ _ _ (by decide) (by decide),
    ctlField_ctlSet _ _ _ _ _ (by decide)]

theorem length_mailboxAnswered : (s.mailboxAnswered f status len).ctlField (.mgtMbox f) 32 16 = len % 2 ^ 16 := by
  unfold State.mailboxAnswered
  rw [ctlField_ctlSet_other _ _ _ _ _ _ _ (by decide) (by decide), ctlField_ctlSet _ _ _ _ _ (by decide)]

end

theorem mailboxDone_none {s : State} {f : Nat} (h : s.mgmt.running.find? (fun e => e.1 == f) = none) : s.mailboxDone f = s := by
  simp only [State.mailboxDone, h]

theorem ctlSet_parts (s : State) (r : CtlReg) (lo n x : Nat) : ∃ c, s.ctlSet r lo n x = { s with ctl := c } := ⟨_, ctlSet_rest s r lo n x⟩

theorem mailboxAnswered_parts (s : State) (f status len : Nat) : ∃ c, s.mailboxAnswered f status len = { s with ctl := c } := by
  obtain ⟨a, ha⟩ := ctlSet_parts s (.mgtMbox f) 16 16 status
  obtain ⟨b, hb⟩ := ctlSet_parts { s with ctl := a } (.mgtMbox f) 32 16 len
  obtain ⟨c, hc⟩ := ctlSet_parts { s with ctl := b } (.mgtMbox f) 62 1 0
  unfold State.mailboxAnswered
  exact ⟨c, by rw [ha, hb, hc]⟩

/-- The command of a mailbox leaves the running ones. -/
def State.mailboxLeft (s : State) (e : Nat × Nat × Nat) : State := { s with mgmt := { s.mgmt with running := s.mgmt.running.erase e } }

theorem ctlField_mailboxLeft (s : State) (e : Nat × Nat × Nat) (r : CtlReg) (lo n : Nat) :
    (s.mailboxLeft e).ctlField r lo n = s.ctlField r lo n := rfl

theorem mailboxDone_some {s : State} {f : Nat} {e : Nat × Nat × Nat} (h : s.mgmt.running.find? (fun e => e.1 == f) = some e) :
    s.mailboxDone f = ((s.mailboxAnswered f e.2.1 e.2.2).mailboxLeft e).sendMsix f 0 := by
  simp only [State.mailboxDone, h, State.mailboxLeft, State.mailboxAnswered]

theorem mailboxLeft_parts (s : State) (f status len : Nat) (e : Nat × Nat × Nat) : (s.mailboxAnswered f status len).mailboxLeft e =
    { s with ctl := ((s.mailboxAnswered f status len).mailboxLeft e).ctl, mgmt := { s.mgmt with running := s.mgmt.running.erase e } } := by
  obtain ⟨c, hc⟩ := mailboxAnswered_parts s f status len
  rw [hc]
  rfl

section
variable {s : State} {port need after code : Nat}

theorem spdmAnswer_down (hp : port < 2) (h : s.ctlField (.portSts port) 0 1 = 0) : s.spdmAnswer port need after code = s := by
  have hguard : (decide (port < 2) && s.ctlField (.portSts port) 0 1 == 0) = true :=
    Bool.and_eq_true_iff.2 ⟨decide_eq_true hp, beq_iff_eq.2 h⟩
  exact if_pos hguard

/-- The stage that the connection of a port has reached. -/
def State.spdmStage (s : State) (port : Nat) : Nat := sget (fun _ => 0) s.mgmt.spdm port

theorem spdmAnswer_up (h : s.ctlField (.portSts port) 0 1 ≠ 0) : s.spdmAnswer port need after code =
    if s.spdmStage port < need then { s with out := s.out ++ [.spdm port 0x7F []] }
    else { s with
      out := s.out ++ [.spdm port code (s.spdmBody code)],
      mgmt := { s.mgmt with spdm := if after == 0 then s.mgmt.spdm else sput (fun _ => 0) s.mgmt.spdm port after } } := by
  have hguard : ¬ (decide (port < 2) && s.ctlField (.portSts port) 0 1 == 0) = true :=
    fun hg => h (beq_iff_eq.1 (Bool.and_eq_true_iff.1 hg).2)
  exact if_neg hguard

theorem spdmStage_reached : sget (fun _ => 0) (if after == 0 then s.mgmt.spdm else sput (fun _ => 0) s.mgmt.spdm port after) port =
    if after = 0 then s.spdmStage port else after := by
  by_cases h : after = 0
  · rw [if_pos h, if_pos (beq_iff_eq.2 h)]
    rfl
  · rw [if_neg h, if_neg (mt beq_iff_eq.1 h), sget_sput_self]

end

/-! ### Time-sync and loss records -/

theorem timeSync_eq (s : State) (b : Nat) : s.timeSync b =
    if b < bufCount ∧ (s.buf b).frozen = false ∧ (s.buf b).last / 2 ^ 24 < s.clk.toNat / 2 ^ 24
    then s.setBuf b ((s.buf b).device b (s.clk.toNat / 2 ^ 24 * 2 ^ 24) 0x00 0 (BitVec.ofNat 64 (s.clk.toNat / 2 ^ 24 * 2 ^ 24))) else s := by
  have hdue : s.syncDue b = true ↔ b < bufCount ∧ (s.buf b).frozen = false ∧ (s.buf b).last / 2 ^ 24 < s.clk.toNat / 2 ^ 24 := by
    rw [State.syncDue, Bool.and_eq_true, Bool.and_eq_true, decide_eq_true_eq, decide_eq_true_eq, Bool.not_eq_true', and_assoc]
    exact Iff.rfl
  have hguard := (Bool.not_eq_true' _).to_iff.trans ((Bool.not_eq_true _).to_iff.symm.trans (not_congr hdue))
  exact (if_bool hguard _ _).trans (ite_not _ _ _)

theorem lossRecord_eq (s : State) (b : Nat) : s.lossRecord b =
    if b < bufCount ∧ (s.buf b).frozen = false ∧ (s.buf b).dropped ≠ 0
    then s.setBuf b ({ s.buf b with dropped := 0 }.device b s.clk.toNat 0x0C 0 (BitVec.ofNat 64 (s.buf b).dropped)) else s := by
  have hdue : (decide (bufCount ≤ b) || (s.buf b).frozen || (s.buf b).dropped == 0) = true ↔
      ¬ (b < bufCount ∧ (s.buf b).frozen = false ∧ (s.buf b).dropped ≠ 0) := by
    simp only [Bool.or_eq_true, decide_eq_true_eq, beq_iff_eq, Classical.not_and_iff_not_or_not, Nat.not_lt, Bool.not_eq_false, not_not,
      ne_eq, or_assoc]
  refine ((if_bool hdue _ _).trans (ite_not _ _ _)).trans (ite_congr rfl (fun h => ?_) fun _ => rfl)
  obtain ⟨-, hfrozen, hdropped⟩ := h
  have hnote : ¬ ((s.buf b).dropped == 0 || (s.buf b).frozen) = true := by
    rw [Bool.or_eq_true, beq_iff_eq, hfrozen]
    exact fun h => h.elim hdropped Bool.false_ne_true
  exact congrArg (s.setBuf b) (if_neg hnote)

/-! ### Freezes -/

section
variable {s : State} {b : Nat}

theorem freezeArrival_none (h : s.freezes.find? (fun f => f.toReach.contains b) = none) : s.freezeArrival b = s := by
  simp only [State.freezeArrival, h]

variable {f : Freeze} (h : s.freezes.find? (fun f => f.toReach.contains b) = some f)
include h

theorem freezeArrival_opens (hw : (s.buf b).window = none) : s.freezeArrival b =
    State.setBuf { s with freezes := replaceFirst (fun c => c == f) { f with toReach := f.toReach.filter (· != b), opened := true } s.freezes } b
      { s.buf b with window := some (s.cyc, f.t, f.full) } := by
  simp only [State.freezeArrival, h, hw]

theorem freezeArrival_joins {at_ t : Nat} {full : Bool} (hw : (s.buf b).window = some (at_, t, full)) : s.freezeArrival b =
    { s.setBuf b { s.buf b with window := some (at_, min t f.t, full || f.full) } with
      freezes := match replaceFirst (fun c => c == f) { f with toReach := f.toReach.filter (· != b) } s.freezes with
        | h :: rest => { h with t := if h.opened = true then min h.t f.t else h.t, full := h.full || (h.opened && f.full) } :: rest
        | [] => [] } := by
  simp only [State.freezeArrival, h, hw] <;> rfl

end

/-- The source and the cause that the mark of a window at a time names. -/
def State.windowCause (s : State) (t : Nat) : Nat × Nat :=
  match s.freezes.find? (fun f => f.opened && f.t == t) with
  | some f => (f.source, f.cause)
  | none => match s.freezes with
    | f :: _ => (f.source, f.cause)
    | [] => (0, 0)

section
variable {s : State} {b : Nat}

theorem windowClose_none (h : (s.buf b).window = none) : s.windowClose b = s := by
  simp only [State.windowClose, h]

variable {at_ t : Nat} {full : Bool} (h : (s.buf b).window = some (at_, t, full))
include h

theorem windowClose_not_due (hd : s.cyc < at_ + 256) : s.windowClose b = s := by
  simp only [State.windowClose, h, hd, if_true]

theorem windowClose_due (hd : at_ + 256 ≤ s.cyc) : s.windowClose b = s.setBuf b
    ((s.buf b).mark b t full ((if full = true then 0 else 2048) + 512 * (s.windowCause t).1 + (s.windowCause t).2)) := by
  simp only [State.windowClose, h, Nat.not_lt.2 hd, if_false, State.windowCause]
  cases s.freezes.find? (fun f => f.opened && f.t == t) with
  | some f => rfl
  | none => cases s.freezes <;> rfl

end

theorem pairFreeze_down {s : State} (h : s.pairUp = false) (c : Nat) : s.pairFreeze c = s := if_pos (by rw [h]; rfl)

theorem pairFreeze_up {s : State} (h : s.pairUp = true) (c : Nat) : s.pairFreeze c = { s with freezes := s.freezes ++ [
    { full := true, t := s.clk.toNat, cause := c, reason := 0, okind := 5, oindex := 0, ctx := 0xFFFF, source := 1,
      toReach := List.range bufCount, opened := false, requester := none }] } :=
  if_neg (by rw [h]; exact Bool.false_ne_true)

/-! ### Capsules -/

/-- What follows the first freeze once it has left the list: after a full one the buffers record again, and after the last a reset
that was held is made. -/
def State.freezeEnds (s : State) (full : Bool) (rest : List Freeze) : State :=
  let u := if full = true then { s with freezes := rest }.resumeBufs else { s with freezes := rest }
  match rest, u.mgmt.heldReset with
  | [], some source => u.warmReset source
  | _, _ => u

/-- The first freeze becomes a capsule of the store. -/
def State.storeCapsule (s : State) (f : Freeze) (l : List Capsule) : State :=
  let t := { s with capsules := l ++ [s.makeCapsule f], mgmt := { s.mgmt with capId := s.mgmt.capId + 1 } }.devLog 8
    (BitVec.ofNat 64 (s.makeCapsule f).id)
  match f.requester with
  | some g => (t.mboxPut g 0 8 (s.makeCapsule f).id).mailboxEnds g 0 8
  | none => t

/-- The capsule of the first freeze is counted as lost. -/
def State.loseCapsule (s : State) (f : Freeze) : State :=
  let n := (s.mgmt.lostCaps + 1) % 2 ^ 16
  let t := { s with mgmt := { s.mgmt with lostCaps := n } }.devLog 9 (BitVec.ofNat 64 n)
  match f.requester with
  | some g => t.takeWord.2.mailboxEnds g (t.takeWord.1.toNat % 2 ^ 16) 0
  | none => t

theorem capsuleStored_nil {s : State} (h : s.freezes = []) : s.capsuleStored = s := by
  simp only [State.capsuleStored, h]

/-- A freeze has reached every buffer, and no window is open. -/
def State.freezePassed (s : State) (f : Freeze) : Prop := f.toReach = [] ∧ ∀ b ∈ s.bufs, b.2.window = none

theorem freezePassed_iff {s : State} {f : Freeze} :
    (!f.toReach.isEmpty || s.bufs.any (fun b => b.2.window.isSome)) = true ↔ ¬ s.freezePassed f := by
  simp only [State.freezePassed, Bool.or_eq_true, Bool.not_eq_true', List.isEmpty_eq_false_iff, List.any_eq_true,
    Classical.not_and_iff_not_or_not, not_forall, exists_prop, Option.isSome_iff_ne_none, ne_eq]

section
variable {s : State} {f : Freeze} {rest : List Freeze} (h : s.freezes = f :: rest)
include h

theorem capsuleStored_not_due (hd : ¬ s.freezePassed f) : s.capsuleStored = s := by
  simp only [State.capsuleStored, h, freezePassed_iff.2 hd, if_true]

variable (hd : s.freezePassed f)
include hd

theorem capsuleStored_unopened (ho : f.opened = false) : s.capsuleStored = s.freezeEnds f.full rest := by
  have hguard := Bool.eq_false_iff.2 (mt freezePassed_iff.1 (not_not_intro hd))
  simp only [State.capsuleStored, h, hguard, ho, Bool.false_eq_true, if_false, Bool.not_false, if_true]
  rfl

theorem capsuleStored_room (ho : f.opened = true) {l : List Capsule} (hroom : storeRoom s.capsules = some l) :
    s.capsuleStored = (s.storeCapsule f l).freezeEnds f.full rest := by
  have hguard := Bool.eq_false_iff.2 (mt freezePassed_iff.1 (not_not_intro hd))
  simp only [State.capsuleStored, h, hguard, ho, hroom, Bool.false_eq_true, if_false, Bool.not_true, State.storeCapsule]
  cases f.requester <;> rfl

theorem capsuleStored_full (ho : f.opened = true) (hroom : storeRoom s.capsules = none) :
    s.capsuleStored = (s.loseCapsule f).freezeEnds f.full rest := by
  have hguard := Bool.eq_false_iff.2 (mt freezePassed_iff.1 (not_not_intro hd))
  simp only [State.capsuleStored, h, hguard, ho, hroom, Bool.false_eq_true, if_false, Bool.not_true, State.loseCapsule]
  cases f.requester <;> rfl

end

theorem flashCopy_none {s : State} (h : s.capsules.find? (fun c => c.inStore && !c.inFlash) = none) : s.flashCopy = s := by
  simp only [State.flashCopy, h]

/-- The capsules, the oldest copy of a full flash gone from it. -/
def State.flashRoom (s : State) : List Capsule :=
  if (s.capsules.filter (·.inFlash)).length < 4 then s.capsules
  else match s.capsules.find? (·.inFlash) with
    | some d => replaceFirst (fun e => e.id == d.id) { d with inFlash := false } s.capsules
    | none => s.capsules

theorem flashCopy_some {s : State} {c : Capsule} (h : s.capsules.find? (fun c => c.inStore && !c.inFlash) = some c) :
    s.flashCopy = { s with capsules :=
      (replaceFirst (fun e => e.id == c.id) { c with inFlash := true } s.flashRoom).filter (fun c => c.inStore || c.inFlash) } := by
  simp only [State.flashCopy, h]
  rfl

/-! ### The events -/

/-- The request of a port's SPDM connection that an event carries. -/
theorem exec_spdm {s : State} {p : BitVec 1} {i : Instr} {need after code : Nat}
    (h : i = .getVersion p ∧ need = 0 ∧ after = 1 ∧ code = 0x04 ∨ i = .getCapabilities p ∧ need = 1 ∧ after = 2 ∧ code = 0x61 ∨
      i = .negotiateAlgorithms p ∧ need = 2 ∧ after = 3 ∧ code = 0x63 ∨ i = .getDigests p ∧ need = 3 ∧ after = 0 ∧ code = 0x01 ∨
      i = .getCertificate p ∧ need = 3 ∧ after = 0 ∧ code = 0x02 ∨ i = .challenge p ∧ need = 3 ∧ after = 0 ∧ code = 0x03 ∨
      i = .getMeasurements p ∧ need = 3 ∧ after = 0 ∧ code = 0x60) :
    exec i s = .next (s.spdmAnswer p.toNat need after code) := by
  rcases h with ⟨rfl, rfl, rfl, rfl⟩ | ⟨rfl, rfl, rfl, rfl⟩ | ⟨rfl, rfl, rfl, rfl⟩ | ⟨rfl, rfl, rfl, rfl⟩ | ⟨rfl, rfl, rfl, rfl⟩ |
    ⟨rfl, rfl, rfl, rfl⟩ | ⟨rfl, rfl, rfl, rfl⟩ <;> rfl

/-- Settles O58: each event is one operation of the state, which is split by what makes it due. -/
theorem brolekAndRecorder : Obligations.BrolekAndRecorder := by
  unfold Obligations.BrolekAndRecorder
  refine ⟨fun s d k x y => next_congr (machineCheckEvent_eq s d k x y), machineCheck_raised, fun s => rfl, ?governor, ?mailbox, ?spdm,
    fun s b => next_congr (timeSync_eq s b.toNat), fun s b => next_congr (lossRecord_eq s b.toNat), ?arrival, ?close,
    fun s c => ⟨fun h => next_congr (pairFreeze_down h _), fun h => next_congr (pairFreeze_up h _)⟩, ?capsule,
    fun s => ⟨fun h => next_congr (flashCopy_none h), fun c h => next_congr (flashCopy_some h)⟩, ?scrub⟩
  case governor =>
    intro s up f g may
    exact next_congr (governorStep_eq s up rfl)
  case mailbox =>
    intro s f
    refine ⟨fun h => next_congr (mailboxDone_none h), fun e h => ⟨(s.mailboxAnswered f.toNat e.2.1 e.2.2).mailboxLeft e,
      next_congr (mailboxDone_some h), mailboxLeft_parts s f.toNat e.2.1 e.2.2 e, ?_, ?_, ?_⟩⟩
    · exact (ctlField_mailboxLeft _ _ _ _ _).trans (busy_mailboxAnswered s f.toNat e.2.1 e.2.2)
    · exact (ctlField_mailboxLeft _ _ _ _ _).trans (status_mailboxAnswered s f.toNat e.2.1 e.2.2)
    · exact (ctlField_mailboxLeft _ _ _ _ _).trans (length_mailboxAnswered s f.toNat e.2.1 e.2.2)
  case spdm =>
    intro s p i need after code hi stage
    rw [exec_spdm hi]
    refine ⟨fun h => next_congr (spdmAnswer_down p.isLt h), fun h hs => next_congr ((spdmAnswer_up h).trans (if_pos hs)),
      fun h hs => ⟨_, next_congr ((spdmAnswer_up h).trans (if_neg (Nat.not_lt.2 hs))), rfl, rfl, spdmStage_reached⟩⟩
  case arrival =>
    intro s b
    refine ⟨fun h => next_congr (freezeArrival_none h), ?_⟩
    intro f h x g put
    exact ⟨fun hw => next_congr (freezeArrival_opens h hw), fun at_ t full hw => next_congr (freezeArrival_joins h hw)⟩
  case close =>
    intro s b x
    refine ⟨fun h => next_congr (windowClose_none h), fun at_ t full h => ⟨fun hd => next_congr (windowClose_not_due h hd), ?_⟩⟩
    intro hd whose
    exact next_congr (windowClose_due h hd)
  case capsule =>
    intro s
    refine ⟨fun h => next_congr (capsuleStored_nil h), ?_⟩
    intro f rest h due ends
    refine ⟨fun hd => next_congr (capsuleStored_not_due h hd), fun hd ho => next_congr (capsuleStored_unopened h hd ho), ?_, ?_⟩
    · intro hd ho l hroom c t
      exact next_congr (capsuleStored_room h hd ho hroom)
    · intro hd ho hroom n t
      exact next_congr (capsuleStored_full h hd ho hroom)
  case scrub =>
    intro s g fi pa ue t
    refine next_congr ((scrubRead_eq s g.toNat fi).trans ?_)
    rw [memoryError_eq]
    exact (ite_or _ _ _ _).symm.trans (if_congr or_assoc rfl rfl)

end Sys2Proof.Machine
end

section
/-! ## Resets, and the host, pair and peer links (23 R353 to R369; 05 R115) -/

namespace Sys2Proof.Machine

/-! ### Cold and warm resets -/

/-- An entry of the device log changes the log and its sequence number alone. -/
theorem devLog_log (s : State) (c : List (Nat × BitVec 64)) (e : Nat) (a : BitVec 64) : ∃ l q, State.devLog { s with ctl := c } e a =
    { s with ctl := c, mgmt := { s.mgmt with log := l, logSeq := q } } := ⟨_, _, rfl⟩

/-- What a cold reset leaves, before its entry in the device log and the board's power cap. -/
def State.cold (s : State) : State :=
  let keep : Mgmt :=
    { s.mgmt with boots := s.mgmt.boots + 1, lostCaps := 0, boot := 1, resetAt := 0, heldReset := none, flr := [], govAt := 0,
                  running := [], spdm := [] }
  { State.reset with
    mgmt := keep, free := s.free, out := s.out,
    capsules := (s.capsules.filter (·.inFlash)).map (fun c => { c with inStore := false }),
    epochs := (List.range 32).foldl (fun e f => sput (fun _ => 0#32) e f (sget (fun _ => 0#32) e f + 1)) s.epochs }

theorem coldReset_eq (s : State) : s.coldReset = s.cold.boardCap.devLog 1 0 := by
  unfold State.coldReset State.cold
  with_reducible rfl

theorem coldReset_parts (s : State) : ∃ c l q, s.coldReset = { s.cold with ctl := c, mgmt := { s.cold.mgmt with log := l, logSeq := q } } := by
  rw [coldReset_eq, boardCap_rest]
  exact ⟨_, devLog_log s.cold _ 1 0⟩

/-- What a warm reset leaves, before its entry in the device log and the registers that it keeps. -/
def State.warm (s : State) : State :=
  let keep : Mgmt :=
    { s.mgmt with boots := s.mgmt.boots + 1, boot := 2, resetAt := 0, heldReset := none, flr := [], govAt := 0, running := [],
                  spdm := [] }
  { State.reset with
    mgmt := keep, capsules := s.capsules, free := s.free, out := s.out,
    epochs := (List.range 32).foldl (fun e f => sput (fun _ => 0#32) e f (sget (fun _ => 0#32) e f + 1)) s.epochs }

theorem warmReset_eq (s : State) (source : Nat) : s.warmReset source =
    (s.warm.boardCap.ctlWr .rasErrcnt (s.ctlRd .rasErrcnt)).devLog 2 (BitVec.ofNat 64 source) := by
  unfold State.warmReset State.warm
  with_reducible rfl

theorem ctlWr_ctl (s : State) (c : List (Nat × BitVec 64)) (r : CtlReg) (v : BitVec 64) :
    State.ctlWr { s with ctl := c } r v = { s with ctl := sput ctlDefault c r.off v } := rfl

theorem warmReset_parts (s : State) (source : Nat) : ∃ c l q, s.warmReset source =
    { s.warm with ctl := c, mgmt := { s.warm.mgmt with log := l, logSeq := q } } := by
  rw [warmReset_eq, boardCap_rest, ctlWr_ctl]
  exact ⟨_, devLog_log s.warm _ 2 _⟩

theorem askWarmReset_free {s : State} (h : s.freezes = []) (source : Nat) : s.askWarmReset source = s.warmReset source :=
  if_pos (List.isEmpty_iff.2 h)

theorem askWarmReset_held {s : State} (h : s.freezes ≠ []) (source : Nat) :
    s.askWarmReset source = { s with mgmt := { s.mgmt with heldReset := some source } } :=
  if_neg (mt List.isEmpty_iff.1 h)

theorem rollback_eq (s : State) : s.rollback = match s.mgmt.earlierB with
    | some b => if s.ctlField .mgtStatus 0 4 = 6 ∨ s.since s.mgmt.resetAt < 10000000 * ticksPerMicro then s
      else ({ s with mgmt := { s.mgmt with activeB := b, earlierB := none } }.devLog 4 (if b then 1 else 0)).askWarmReset 2
    | none => s := by
  unfold State.rollback
  cases s.mgmt.earlierB with
  | none => rfl
  | some b => exact if_bool (by rw [Bool.or_eq_true, beq_iff_eq, decide_eq_true_eq]) _ _

/-! ### Ports and functions -/

/-- The port's register keeps its release bit alone. -/
theorem field_up_and_two (v : BitVec 64) : field (v &&& 2).toNat 0 1 = 0 := by
  have hand : (v.toNat &&& 2) % 2 ^ 1 = 0 := by rw [Nat.and_mod_two_pow]; exact Nat.and_zero _
  simpa [field] using hand

theorem portReset_down (s : State) (p : Nat) : (s.portReset p).ctlField (.portSts p) 0 1 = 0 := by
  unfold State.portReset State.ctlField State.ctlRd
  rw [devLog_ctl]
  show field (State.ctlRd (State.ctlWr _ (.portSts p) _) (.portSts p)).toNat 0 1 = 0
  rw [ctlRd_ctlWr, if_pos rfl]
  exact field_up_and_two _

theorem hostLinkUp_eq (s : State) (p : Nat) (sp : BitVec 4) (w fl ca me : Nat) : s.hostLinkUp p sp.toNat w fl ca me =
    if s.ctlField (.portSts p) 1 1 = 0 ∨ s.ctlField (.portSts p) 0 1 = 1 ∨ sp = 0 ∨ 6 < sp.toNat then s
    else s.ctlWr (.portSts p) (BitVec.ofNat 64 (1 + 2 + 4 * fl + 8 * ca + 16 * me + 256 * w + 4096 * sp.toNat)) :=
  if_bool (by rw [Bool.or_eq_true, Bool.or_eq_true, Bool.or_eq_true, beq_iff_eq, beq_iff_eq, toNat_beq_zero_iff, decide_eq_true_eq,
    or_assoc, or_assoc]) _ _

theorem isPhysical_iff (f : BitVec 5) : isPhysical f.toNat = true ↔ f = 0 ∨ f = 16 := by
  rw [isPhysical, Bool.or_eq_true, beq_iff_eq, beq_iff_eq, BitVec.toNat_eq, BitVec.toNat_eq]
  exact Iff.rfl

theorem flrFns_eq (f : BitVec 5) : flrFns f.toNat = if f = 0 ∨ f = 16 then (List.range 16).map (fun i => f.toNat + i) else [f.toNat] :=
  if_bool (isPhysical_iff f) _ _

theorem portTrains_eq (s : State) (p q : Nat) : s.portTrains p q =
    if s.ctlField (.ngxPort p) 0 3 ≠ 6 then s
    else ((s.ctlSet (.ngxPort p) 8 6 q).ctlSet (.ngxPort p) 15 1 1).ctlSet (.ngxPort p) 0 1 1 :=
  if_bool bne_iff_ne _ _

theorem pairFails_down {s : State} (h : s.pairUp = false) : s.pairFails = s := if_pos (by rw [h]; rfl)

section
variable {s : State} {p : Nat}

theorem portFails_down (h : s.ctlField (.ngxPort p) 0 1 = 0) : s.portFails p = s := if_pos (beq_iff_eq.2 h)

/-- The accesses in flight on a peer port have failed, and no route keeps it. -/
def State.portLost (s : State) (p : Nat) : State :=
  { s.failAll .refused (fun e => paSpace e.pa == 5 && e.port == some p) with
    routes := (s.failAll .refused (fun e => paSpace e.pa == 5 && e.port == some p)).routes.filter (fun r => r.2 != p) }

theorem portFails_up (h : s.ctlField (.ngxPort p) 0 1 ≠ 0) : s.portFails p =
    (((s.portLost p).ctlSet (.ngxPort p) 0 1 0).ctlSet (.ngxPort p) 15 1 0).devLog 10 (BitVec.ofNat 64 (0x200 + p)) :=
  if_neg (mt beq_iff_eq.1 h)

end

/-! ### Accesses through BAR2 -/

section
variable {s : State} {f off : Nat} {n : BitVec 4}

theorem barGuard_iff : (!s.hostLinked f || n.toNat == 0 || decide (8 < n.toNat)) = true ↔ s.hostLinked f = false ∨ n = 0 ∨ 8 < n.toNat := by
  rw [Bool.or_eq_true, Bool.or_eq_true, Bool.not_eq_true', toNat_beq_zero_iff, decide_eq_true_eq, or_assoc]

/-- A size of a BAR2 access, through a link that is up. -/
theorem barGuard_of_linked (hl : s.hostLinked f = true) (hn : n ≠ 0) (hs : n.toNat ≤ 8) :
    ¬ (!s.hostLinked f || n.toNat == 0 || decide (8 < n.toNat)) = true := fun h => by
  obtain h | h | h := barGuard_iff.1 h
  · exact Bool.false_ne_true (h.symm.trans hl)
  · exact hn h
  · exact absurd hs (Nat.not_le.2 h)

theorem barRead_not_due (h : s.hostLinked f = false ∨ n = 0 ∨ 8 < n.toNat) : s.barRead f off n.toNat = s := if_pos (barGuard_iff.2 h)

theorem barWrite_not_due {d : BitVec 64} (h : s.hostLinked f = false ∨ n = 0 ∨ 8 < n.toNat ∨ s.ctlField (.fnWin f) 0 1 = 0) :
    s.barWrite f off n.toNat d = s := by
  refine if_pos (Bool.or_eq_true_iff.2 ?_)
  rw [barGuard_iff, beq_iff_eq, or_assoc, or_assoc]
  exact h

variable (hl : s.hostLinked f = true) (hn : n ≠ 0) (hs : n.toNat ≤ 8)
include hl hn hs

theorem barRead_unmapped (hw : s.ctlField (.fnWin f) 0 1 = 0) :
    s.barRead f off n.toNat = { s with out := s.out ++ [.hostAbort f] } := by
  unfold State.barRead
  simp only [if_neg (barGuard_of_linked hl hn hs), if_pos (beq_iff_eq.2 hw)]

theorem barRead_mapped (hw : s.ctlField (.fnWin f) 0 1 ≠ 0) {l : List Piece} {t : State}
    (hp : s.barPlace f off n.toNat { read := true, write := false, fetch := false, user := false } = (.ok l, t))
    (hclean : t.piecesPoisoned l = none) : ∃ v b u, t.engineRead (s.ctlField (.fnWin f) 8 8) l = (v, b, u) ∧
      s.barRead f off n.toNat = { u with out := u.out ++ [.hostData f (BitVec.ofNat 64 v)] } := by
  refine ⟨_, _, _, rfl, ?_⟩
  unfold State.barRead
  simp only [if_neg (barGuard_of_linked hl hn hs), if_neg (mt beq_iff_eq.1 hw), hp, hclean, Option.isSome_none, Bool.false_eq_true, if_false]

theorem barWrite_mapped (hw : s.ctlField (.fnWin f) 0 1 ≠ 0) {d : BitVec 64} {l : List Piece} {t : State}
    (hp : s.barPlace f off n.toNat (Need.store false) = (.ok l, t)) : s.barWrite f off n.toNat d =
      t.engineWrite { buf := bufSched, ctx := s.ctlField (.fnWin f) 8 8, slot := 0x46 } (d.toNat % 2 ^ (8 * n.toNat)) l := by
  have hguard : ¬ (!s.hostLinked f || n.toNat == 0 || decide (8 < n.toNat) || s.ctlField (.fnWin f) 0 1 == 0) = true := by
    rw [Bool.or_eq_true, beq_iff_eq]
    exact fun h => h.elim (barGuard_of_linked hl hn hs) hw
  unfold State.barWrite
  simp only [if_neg hguard, hp]

end

/-! ### Reads and writes of outside holders -/

/-- A fold of writes of the directory changes the directory alone. -/
theorem foldl_setDir_parts (g : State → Nat → DirLine) (l : List Nat) : ∀ s : State,
    ∃ d, l.foldl (fun s k => s.setDir k (g s k)) s = { s with dir := d } := by
  induction l with
  | nil => exact fun s => ⟨s.dir, rfl⟩
  | cons k l ih =>
    intro s
    obtain ⟨d, h⟩ := ih (s.setDir k (g s k))
    exact ⟨d, h⟩

theorem outsideRead_parts (s : State) (holder pa n : Nat) : ∃ d, s.outsideRead holder pa n = { s with dir := d } :=
  foldl_setDir_parts _ _ s

section
variable {s : State} {p addr : Nat} {write : Bool} {d : BitVec 64}

theorem hdmAccess_not_due (h : s.portUp p = false ∨ s.ctlField (.portSts p) 4 1 = 0) : s.hdmAccess p write addr d = s :=
  if_pos (by rw [Bool.or_eq_true, Bool.not_eq_true', beq_iff_eq]; exact h)

variable (hu : s.portUp p = true) (hm : s.ctlField (.portSts p) 4 1 ≠ 0) (hsp : paSpace (addr / 8 * 8) < 2)
  (hd : s.dramExists (paSpace (addr / 8 * 8)) (paOff (addr / 8 * 8)) = true)
include hu hm hsp hd

theorem hdmAccess_write : s.hdmAccess p true addr d = s.outsideWrite (2 + p) (addr / 8 * 8) 8 d.toNat := by
  unfold State.hdmAccess
  simp only [hu, hd, Bool.not_true, Bool.false_or, Bool.or_false, beq_iff_eq, if_neg hm, decide_eq_true_eq, if_neg (Nat.not_le.2 hsp), if_true]

theorem hdmAccess_read (hclean : s.anyPoison (addr / 8 * 8) 8 = false) : ∃ t : State, t = { s with dir := t.dir } ∧
    s.hdmAccess p false addr d = { t with out := s.out ++ [.hostData (16 * p) (BitVec.ofNat 64 (s.mem.readNat (addr / 8 * 8) 8))] } := by
  obtain ⟨e, he⟩ := outsideRead_parts s (2 + p) (addr / 8 * 8) 8
  have hsame : State.anyPoison { s with dir := e } (addr / 8 * 8) 8 = false := hclean
  refine ⟨{ s with dir := e }, rfl, ?_⟩
  unfold State.hdmAccess
  simp only [hu, hd, Bool.not_true, Bool.false_or, Bool.or_false, beq_iff_eq, if_neg hm, decide_eq_true_eq, if_neg (Nat.not_le.2 hsp),
    Bool.false_eq_true, if_false, he, hsame]

end

section
variable {s : State} {kind addr : Nat} {d : BitVec 64}

theorem pairRequest_down (h : s.pairUp = false) : s.pairRequest kind addr d = s := if_pos (by rw [h]; rfl)

variable (h : s.pairUp = true)
include h

theorem pairRequest_line (hk : 2 ≤ kind) : s.pairRequest kind addr d =
    s.giveLine ((2 * 2 ^ 48 + addr / 2 ^ 43 % 2 * 2 ^ 44 + addr % 2 ^ 43 / 8 * 8) / 128) (kind == 3) (.pairSnoop (addr / 128)) := by
  unfold State.pairRequest
  simp only [h, Bool.not_true, Bool.false_eq_true, if_false, if_pos hk]

theorem pairRequest_absent (hk : kind < 2) (hd : s.dramExists (addr / 2 ^ 43 % 2) (addr % 2 ^ 43 / 8 * 8) = false) :
    s.pairRequest kind addr d = s := by
  unfold State.pairRequest
  simp only [h, Bool.not_true, Bool.false_eq_true, if_false, if_neg (Nat.not_le.2 hk), hd, Bool.not_false, if_true]

variable (hd : s.dramExists (addr / 2 ^ 43 % 2) (addr % 2 ^ 43 / 8 * 8) = true)
include hd

theorem pairRequest_write : s.pairRequest 1 addr d =
    s.outsideWrite 1 (addr / 2 ^ 43 % 2 * 2 ^ 48 + addr % 2 ^ 43 / 8 * 8) 8 d.toNat := by
  unfold State.pairRequest
  simp only [h, hd, Bool.not_true, Bool.false_eq_true, if_false, if_neg (show ¬ 2 ≤ 1 by decide), beq_self_eq_true, if_true]

theorem pairRequest_read {pa : Nat} (hpa : pa = addr / 2 ^ 43 % 2 * 2 ^ 48 + addr % 2 ^ 43 / 8 * 8) :
    ∃ t : State, t = { s with dir := t.dir } ∧ s.pairRequest 0 addr d =
      { t with out := s.out ++ [.pairData (s.anyPoison pa 8) (BitVec.ofNat 64 (s.mem.readNat pa 8))] } := by
  obtain ⟨e, he⟩ := outsideRead_parts s 1 pa 8
  have hsame : State.anyPoison { s with dir := e } pa 8 = s.anyPoison pa 8 := rfl
  refine ⟨{ s with dir := e }, rfl, ?_⟩
  unfold State.pairRequest
  simp only [h, hd, Bool.not_true, Bool.false_eq_true, if_false, if_neg (show ¬ 2 ≤ 0 by decide), ← hpa, he, hsame, Nat.reduceBEq]

end

theorem snoop_eq (s : State) (p line : Nat) (k : BitVec 2) : s.snoop p line k.toNat =
    if s.portCxl p = false ∨ 2 ≤ k.toNat then s
    else s.giveLine ((3 + p) * 2 ^ 48 / 128 + line % 2 ^ 41) (k == 1) (.snoop p line) := by
  have hk : (k.toNat == 1) = (k == 1) := Bool.eq_iff_iff.2 (by rw [beq_iff_eq, beq_iff_eq, BitVec.toNat_eq]; exact Iff.rfl)
  rw [← hk]
  exact if_bool (by rw [Bool.or_eq_true, Bool.not_eq_true', decide_eq_true_eq]) _ _

/-! ### Lines that a home asks for -/

section
variable {s : State} {l : Nat} {takes : Bool} {answer : Bool → BitVec 1024 → OutMsg}

theorem giveLine_not_due (h : foreignLine l = false ∨ (s.dirAt l).own = .i) : s.giveLine l takes answer = s :=
  if_pos (by rw [Bool.or_eq_true, Bool.not_eq_true', beq_iff_eq]; exact h)

/-- A holder in this state has data that the home does not. -/
def Moesi.dirty (x : Moesi) : Bool := x == .m || x == .o

/-- What the L2 keeps of a line that its home has asked for. -/
def DirLine.given (d : DirLine) (takes : Bool) : DirLine :=
  if takes then { d with own := .i } else { d with own := if d.own.dirty then .o else d.own }

theorem giveLine_held (hf : foreignLine l = true) (ho : (s.dirAt l).own ≠ .i) : s.giveLine l takes answer =
    State.setDir { s with
      out := s.out ++ [answer (s.dirAt l).own.dirty (BitVec.ofNat 1024 (s.mem.readNat (128 * l) 128))],
      mem := if takes then s.mem.clear (128 * l) 128 else s.mem } l ((s.dirAt l).given takes) := by
  have hguard : ¬ (!foreignLine l || (s.dirAt l).own == .i) = true := by
    rw [Bool.or_eq_true, Bool.not_eq_true', hf, beq_iff_eq]
    exact fun h => h.elim Bool.noConfusion ho
  unfold State.giveLine
  simp only [if_neg hguard]
  cases takes <;> rfl

end

/-! ### Requests of peers -/

section
variable {s t : State} {de ho : Nat} {r : Remote}

theorem remoteRequest_refused (hde : de = s.ngxIdNum) (h : s.serveRemote r = (.refused, t)) :
    s.remoteRequest de ho r = { t with out := t.out ++ [.peerRefused de] } := by
  simp only [State.remoteRequest, if_pos (beq_iff_eq.2 hde), h]

theorem remoteRequest_served {v : Nat} {p : Bool} (hde : de = s.ngxIdNum) (h : s.serveRemote r = (.data v p, t)) :
    s.remoteRequest de ho r = { t with out := t.out ++ [.peerData de p (BitVec.ofNat 128 v)] } := by
  simp only [State.remoteRequest, if_pos (beq_iff_eq.2 hde), h]

theorem remoteRequest_forwarded {p : Nat} (hde : de ≠ s.ngxIdNum) (hho : ho < 4) (h : s.routePort de = some p) :
    s.remoteRequest de ho r = { s.keepRoute de p with
      out := s.out ++ [.peer p r.op de (ho + 1) r.off r.key r.bytes r.mask r.type
        (if r.op ≤ 1 then BitVec.ofNat 512 r.data else r.a.setWidth 512) r.cmp] } := by
  simp only [State.remoteRequest, if_neg (mt beq_iff_eq.1 hde), if_neg (Nat.not_le.2 hho), h]
  rfl

theorem remoteRequest_unroutable (hde : de ≠ s.ngxIdNum) (h : 4 ≤ ho ∨ s.routePort de = none) :
    ∃ b, s.remoteRequest de ho r = { s with bufs := b, out := s.out ++ [.peerRefused de] } := by
  have hroute : (if 4 ≤ ho then none else s.routePort de) = none := by
    split
    next => rfl
    next hho => exact h.resolve_left hho
  obtain ⟨b, hb⟩ := logDev_shape s bufSched 0x55 causeRemoteRefused (BitVec.ofNat 64 r.off)
  refine ⟨b, ?_⟩
  simp only [State.remoteRequest, if_neg (mt beq_iff_eq.1 hde), hroute, hb]

end

/-! ### The events -/

/-- Settles O57: each event is one operation of the state, which is split by what makes it due. -/
theorem resetsAndLinks : Obligations.ResetsAndLinks := by
  unfold Obligations.ResetsAndLinks
  refine ⟨?cold, ?warm, fun s => next_congr (rollback_eq s), ?portReset, fun s p sp w fl ca me => next_congr (hostLinkUp_eq s _ sp _ _ _ _),
    ?flr, fun s f => ⟨_, rfl, rfl, rfl⟩, ?barRead, ?barWrite, ?hdm,
    fun s => ⟨fun h => next_congr (pairFails_down h), fun _ => rfl⟩, ?remote, ?portDown, fun s p q => next_congr (portTrains_eq s _ _),
    ?pair, ?snoop, ?line⟩
  case cold =>
    intro s
    obtain ⟨c, l, q, h⟩ := coldReset_parts s
    refine ⟨s.coldReset, rfl, ?_⟩
    rw [h]
    exact ⟨rfl, rfl, rfl, rfl, rfl, rfl, rfl, rfl, rfl, rfl, rfl, rfl, rfl, rfl⟩
  case warm =>
    intro s
    refine ⟨fun hf => ?_, fun hf => next_congr (askWarmReset_held hf 1)⟩
    obtain ⟨c, l, q, h⟩ := warmReset_parts s 1
    exact ⟨_, next_congr ((askWarmReset_free hf 1).trans h), rfl, rfl, rfl, rfl, rfl, rfl, rfl, rfl, rfl, rfl⟩
  case portReset =>
    intro s p
    exact ⟨s.portReset p.toNat, rfl, portReset_down s p.toNat, _, rfl, rfl⟩
  case flr =>
    intro s f
    rw [← flrFns_eq]
    rfl
  case barRead =>
    intro s f off n
    exact ⟨rfl, barRead_not_due, barRead_unmapped, fun hl hn hs hw l t hp hclean => barRead_mapped hl hn hs hw hp hclean⟩
  case barWrite =>
    intro s f off n d
    exact ⟨rfl, barWrite_not_due, fun hl hn hs hw l t hp => barWrite_mapped hl hn hs hw hp⟩
  case hdm =>
    intro s p w a d pa
    exact ⟨rfl, hdmAccess_not_due, fun hu hm hsp hd => ⟨fun _ => hdmAccess_write hu hm hsp hd, hdmAccess_read hu hm hsp hd⟩⟩
  case remote =>
    intro s op de ho key off n d at_ ty r
    refine ⟨fun hde => ⟨fun t h => next_congr (remoteRequest_refused hde h), fun v p t h => next_congr (remoteRequest_served hde h)⟩,
      fun hde => ⟨fun p hho h => next_congr (remoteRequest_forwarded hde hho h), fun h => ?_⟩⟩
    obtain ⟨b, hb⟩ := remoteRequest_unroutable (r := r) hde h
    exact ⟨_, next_congr hb, rfl⟩
  case portDown =>
    intro s p
    exact ⟨fun h => next_congr (portFails_down h), fun h => ⟨s.portLost p.toNat, next_congr (portFails_up h), rfl⟩⟩
  case pair =>
    intro s k a d sp off pa
    have hk3 : (k.toNat == 3) = (k == 3) := Bool.eq_iff_iff.2 (by rw [beq_iff_eq, beq_iff_eq, BitVec.toNat_eq]; exact Iff.rfl)
    refine ⟨fun h => next_congr (pairRequest_down h), fun h hk => ?_, fun h hk hd => next_congr (pairRequest_absent h hk hd),
      fun h hd => ⟨?_, ?_⟩⟩
    · rw [← hk3]
      exact next_congr (pairRequest_line h hk)
    · rintro rfl
      exact next_congr (pairRequest_write h hd)
    · rintro rfl
      obtain ⟨t, ht, hread⟩ := pairRequest_read (d := d) h hd (pa := pa) rfl
      exact ⟨t, ht, next_congr hread⟩
  case snoop =>
    intro s p line k l
    exact next_congr (snoop_eq s _ _ k)
  case line =>
    intro s l takes answer d dirty t
    refine ⟨giveLine_not_due, fun hf ho => ?_⟩
    have ht : t = _ := giveLine_held hf ho
    rw [ht]
    refine ⟨rfl, fun k hk => (dirAt_setDir _ l _ k).trans (if_neg hk), ?_, ?_⟩
    · rintro rfl
      exact ⟨rfl, (dirAt_setDir _ l _ l).trans (if_pos rfl)⟩
    · rintro rfl
      exact ⟨rfl, (dirAt_setDir _ l _ l).trans (if_pos rfl)⟩

end Sys2Proof.Machine
end

section
/-! PROOFS. Lane writes, base translation registers and the checks of scratchpad accesses (R88, R94, R91, R212). -/

namespace Sys2Proof.Machine

/-- Settles O8: the four laws of `vputAll` together. -/
theorem laneWritesReadBack : Obligations.LaneWritesReadBack := by
  unfold Obligations.LaneWritesReadBack
  intro s w d regs vals hnodup hlt
  exact ⟨(vputAll_value vals s w d regs hnodup hlt).1, fun a => vputAll_read vals s w d regs a, vputAll_cs_wf vals s w d regs,
    vputAll_rest vals s w d regs⟩

/-! ### Base translation registers (R94) -/

theorem BReg.serves_of {b : BReg} {off n : Nat} {need : Need} (hv : b.valid = true) (hl : off + n ≤ b.limit)
    (hr : if need.write then b.wr = true else b.rd = true) (hu : need.user = true → b.usr = true) : b.serves off n need = true := by
  have hrights : (if need.write then b.wr else b.rd) = true := by
    split
    next hw => rwa [if_pos hw] at hr
    next hw => rwa [if_neg hw] at hr
  have huser : (!need.user || b.usr) = true := by
    cases h : need.user
    · rfl
    · exact hu h
  simp only [BReg.serves, hv, hrights, huser, decide_eq_true hl, Bool.and_self]

/-- Settles O21: a register that serves the bytes answers before any translation, and only the frame can refuse them. -/
theorem baseRegistersTranslate : Obligations.BaseRegistersTranslate := by
  unfold Obligations.BaseRegistersTranslate
  intro s f b r va lo n need pa hv hl hr hu
  have hserves : b.serves (r.off + lo) n (f.need (s.curMode == .user)) = true := BReg.serves_of hv hl hr hu
  simp only [State.placePart, hserves, if_true]
  cases s.placeCause f r lo n (b.pb + r.off + lo) (va + BitVec.ofNat 64 lo) <;> rfl

/-! ### Scratchpad (R91, R212) -/

/-- A range lock of another cluster or context meets no access. -/
theorem any_lockMeets_eq_false {s : State} (h : ∀ l ∈ s.locks, ¬ (l.cluster = s.curCore / 4 ∧ l.ctx = s.curCtx)) (writes : Bool) (r : Req)
    (ps : List Part) : ps.any (fun p => s.lockMeets writes r p) = false := by
  refine List.any_eq_false.2 fun p _ hp => ?_
  obtain ⟨l, hl, hmeets⟩ := List.any_eq_true.1 hp
  simp only [Bool.and_eq_true, beq_iff_eq] at hmeets
  exact h l hl hmeets.1.1

/-- Without range locks, misaligned words or a sync cell, only the size of the scratchpad is left to check. -/
theorem checkScratch_eq {s : State} {w : Wave} {b : Block} {f : AccForm} {reqs : List Req} (hb : s.block? w.launch w.block = some b)
    (hlocks : ∀ l ∈ s.locks, ¬ (l.cluster = s.curCore / 4 ∧ l.ctx = s.curCtx))
    (halign : f.natural = true → ∀ r ∈ reqs, r.off % r.bytes = 0) (hcell : f.cell = none) :
    s.checkScratch w f reqs =
      if !(reqs.filter (fun r => decide (b.scrSize < r.off + r.bytes))).isEmpty then
        .ends (trapReqs s causeScratchRange 0 (reqs.filter (fun r => decide (b.scrSize < r.off + r.bytes))))
      else .ok (reqs.map (fun r =>
        (r, [{ lo := 0, n := r.bytes, va := BitVec.ofNat 64 r.off,
               place := .found (6 * 2 ^ 48 + w.core * 2 ^ 20 + b.scrBase + r.off) .so }]))) [] s := by
  have hskew : reqs.filter (fun r => f.natural && r.off % r.bytes != 0) = [] := by
    refine List.filter_eq_nil_iff.2 fun r hr => ?_
    cases hn : f.natural
    · exact Bool.false_ne_true
    · simp [halign hn r hr]
  simp only [State.checkScratch, hb, any_lockMeets_eq_false hlocks, Bool.and_false, List.filter_false, hskew, hcell]
  rfl

/-- Settles O22: the size check is all that remains, and its requests name the cause. -/
theorem scratchpadChecks : Obligations.ScratchpadChecks := by
  unfold Obligations.ScratchpadChecks
  intro s w b f x reqs hb hlocks halign hcell past
  have hcheck : s.check w f x true reqs = if !past.isEmpty then .ends (trapReqs s causeScratchRange 0 past) else _ :=
    checkScratch_eq hb hlocks halign hcell
  refine ⟨fun hpast => ?_, fun r rest hpast => ?_⟩
  · rw [hcheck, hpast]
    rfl
  · rw [hcheck, hpast]
    simp [trapReqs, Req.addr]

end Sys2Proof.Machine
end

section
/-! ## Canonical memories: what keeps them

Every operation of the state keeps the canonical form of the five memories (R85, R88, R70, R356, R372). Each has one lemma, named
after it, in the namespace of `State.Canonical`, so that a proof is written as the operations follow each other; an operation
that answers an end of an instruction (`Res`), a check, or a value beside a state, has the lemma about the states in its answer. -/

namespace Sys2Proof.Machine

/-- The states in how an instruction's work ends are canonical. -/
def Res.Canonical : Res → Prop
  | .done s => s.Canonical
  | .jump s _ => s.Canonical
  | .trap s _ _ _ => s.Canonical
  | .trapNext s _ _ _ => s.Canonical
  | .wait s _ => s.Canonical

/-- The state in the outcome of the checks of R212 is canonical. -/
def Checked.Canonical : Checked → Prop
  | .ok _ _ s => s.Canonical
  | .ends r => r.Canonical

/-- A next state that an outcome answers is canonical. -/
def NextCanonical : Host.Outcome State Fault Refusal → Prop
  | .next s => s.Canonical
  | _ => True

/-! ### Writing one memory -/

section
variable {s t : State}

/-- A state with the same memories is canonical too. -/
theorem State.Canonical.same (h : s.Canonical)
    (e : (t.mem, t.cs, t.om, t.mbox, t.msix) = (s.mem, s.cs, s.om, s.mbox, s.msix) := by rfl) : t.Canonical := by
  obtain ⟨e1, e2, e3, e4, e5⟩ : t.mem = s.mem ∧ t.cs = s.cs ∧ t.om = s.om ∧ t.mbox = s.mbox ∧ t.msix = s.msix := by simpa using e
  unfold State.Canonical
  rwa [e1, e2, e3, e4, e5]

theorem State.Canonical.withMem (h : s.Canonical) (hm : t.mem.wf = true)
    (e : (t.cs, t.om, t.mbox, t.msix) = (s.cs, s.om, s.mbox, s.msix) := by rfl) : t.Canonical := by
  obtain ⟨_, hcs, hom, hmbox, hmsix⟩ := h
  obtain ⟨e1, e2, e3, e4⟩ : t.cs = s.cs ∧ t.om = s.om ∧ t.mbox = s.mbox ∧ t.msix = s.msix := by simpa using e
  exact ⟨hm, e1 ▸ hcs, e2 ▸ hom, e3 ▸ hmbox, e4 ▸ hmsix⟩

theorem State.Canonical.withCs (h : s.Canonical) (hm : t.cs.wf = true)
    (e : (t.mem, t.om, t.mbox, t.msix) = (s.mem, s.om, s.mbox, s.msix) := by rfl) : t.Canonical := by
  obtain ⟨hmem, _, hom, hmbox, hmsix⟩ := h
  obtain ⟨e1, e2, e3, e4⟩ : t.mem = s.mem ∧ t.om = s.om ∧ t.mbox = s.mbox ∧ t.msix = s.msix := by simpa using e
  exact ⟨e1 ▸ hmem, hm, e2 ▸ hom, e3 ▸ hmbox, e4 ▸ hmsix⟩

theorem State.Canonical.withOm (h : s.Canonical) (hm : t.om.wf = true)
    (e : (t.mem, t.cs, t.mbox, t.msix) = (s.mem, s.cs, s.mbox, s.msix) := by rfl) : t.Canonical := by
  obtain ⟨hmem, hcs, _, hmbox, hmsix⟩ := h
  obtain ⟨e1, e2, e3, e4⟩ : t.mem = s.mem ∧ t.cs = s.cs ∧ t.mbox = s.mbox ∧ t.msix = s.msix := by simpa using e
  exact ⟨e1 ▸ hmem, e2 ▸ hcs, hm, e3 ▸ hmbox, e4 ▸ hmsix⟩

theorem State.Canonical.withMbox (h : s.Canonical) (hm : t.mbox.wf = true)
    (e : (t.mem, t.cs, t.om, t.msix) = (s.mem, s.cs, s.om, s.msix) := by rfl) : t.Canonical := by
  obtain ⟨hmem, hcs, hom, _, hmsix⟩ := h
  obtain ⟨e1, e2, e3, e4⟩ : t.mem = s.mem ∧ t.cs = s.cs ∧ t.om = s.om ∧ t.msix = s.msix := by simpa using e
  exact ⟨e1 ▸ hmem, e2 ▸ hcs, e3 ▸ hom, hm, e4 ▸ hmsix⟩

theorem State.Canonical.withMsix (h : s.Canonical) (hm : t.msix.wf = true)
    (e : (t.mem, t.cs, t.om, t.mbox) = (s.mem, s.cs, s.om, s.mbox) := by rfl) : t.Canonical := by
  obtain ⟨hmem, hcs, hom, hmbox, _⟩ := h
  obtain ⟨e1, e2, e3, e4⟩ : t.mem = s.mem ∧ t.cs = s.cs ∧ t.om = s.om ∧ t.mbox = s.mbox := by simpa using e
  exact ⟨e1 ▸ hmem, e2 ▸ hcs, e3 ▸ hom, e4 ▸ hmbox, hm⟩

theorem State.Canonical.mem_writeNat {a n v : Nat} (h : s.Canonical) : (s.mem.writeNat a n v).wf = true := wf_writeNat n s.mem a v
    h.1
theorem State.Canonical.cs_writeNat {a n v : Nat} (h : s.Canonical) : (s.cs.writeNat a n v).wf = true := wf_writeNat n s.cs a v
    h.2.1

end

/-! ### Branches, repetitions and answers with a value -/

section
variable {s t : State} {α β : Type}

theorem State.Canonical.ite {c : Prop} [Decidable c] (hs : s.Canonical) (ht : t.Canonical) : (if c then s else t).Canonical := by
  split
  · exact hs
  · exact ht

theorem State.Canonical.ite2 {p q : α × State} {c : Prop} [Decidable c] (hp : p.2.Canonical) (hq : q.2.Canonical) :
    (if c then p else q).2.Canonical := by
  split
  · exact hp
  · exact hq

theorem Res.Canonical.ite {q r : Res} {c : Prop} [Decidable c] (hq : q.Canonical) (hr : r.Canonical) :
    (if c then q else r).Canonical := by
  split
  · exact hq
  · exact hr

theorem State.Canonical.foldl {l : List β} {f : State → β → State} (h : s.Canonical) (hf : ∀ s b, s.Canonical → (f s b).Canonical) :
    (l.foldl f s).Canonical := List.foldlRecOn l f h fun s hs b _ => hf s b hs

theorem State.Canonical.foldl2 {p : α × State} {l : List β} {f : α × State → β → α × State} (h : p.2.Canonical)
    (hf : ∀ p b, p.2.Canonical → (f p b).2.Canonical) : (l.foldl f p).2.Canonical := List.foldlRecOn l f h fun p hp b _ => hf p b hp

theorem State.Canonical.foldl3 {γ : Type} {p : α × γ × State} {l : List β} {f : α × γ × State → β → α × γ × State}
    (h : p.2.2.Canonical)
    (hf : ∀ p b, p.2.2.Canonical → (f p b).2.2.Canonical) : (l.foldl f p).2.2.Canonical :=
  List.foldlRecOn l f h fun p hp b _ => hf p b hp

/-- The state of an answer, once the answer is known as a pair. -/
theorem State.Canonical.of_eq {p : α × State} {a : α} (h : p.2.Canonical) (e : p = (a, t)) : t.Canonical := by
  rw [e] at h
  exact h

theorem State.Canonical.of_eq3 {p : α × β × State} {a : α} {b : β} (h : p.2.2.Canonical) (e : p = (a, b, t)) : t.Canonical := by
  rw [e] at h
  exact h

theorem Res.Canonical.of_eq {q r : Res} (h : q.Canonical) (e : q = r) : r.Canonical := e ▸ h

theorem Checked.Canonical.of_eq {q r : Checked} (h : q.Canonical) (e : q = r) : r.Canonical := e ▸ h

end

end Sys2Proof.Machine
end

section
/-! ### The state's parts, registers, records and messages -/

namespace Sys2Proof.Machine

variable {s : State}

theorem State.Canonical.setWave {w : Wave} (h : s.Canonical) : (s.setWave w).Canonical := h
theorem State.Canonical.modWave {c k : Nat} {f : Wave → Wave} (h : s.Canonical) : (s.modWave c k f).Canonical := by
  unfold State.modWave
  split <;> exact h
theorem State.Canonical.dropWave {c k : Nat} (h : s.Canonical) : (s.dropWave c k).Canonical := h
theorem State.Canonical.setBlock {b : Block} (h : s.Canonical) : (s.setBlock b).Canonical := h
theorem State.Canonical.modBlock {l i : Nat} {f : Block → Block} (h : s.Canonical) : (s.modBlock l i f).Canonical := by
  unfold State.modBlock
  split <;> exact h
theorem State.Canonical.setLaunch {l : Launch} (h : s.Canonical) : (s.setLaunch l).Canonical := h
theorem State.Canonical.modLaunch {n : Nat} {f : Launch → Launch} (h : s.Canonical) : (s.modLaunch n f).Canonical := by
  unfold State.modLaunch
  split <;> exact h
theorem State.Canonical.setSpindle {p : Spindle} (h : s.Canonical) : (s.setSpindle p).Canonical := h
theorem State.Canonical.modSpindle {cl : Nat} {f : Spindle → Spindle} (h : s.Canonical) : (s.modSpindle cl f).Canonical := by
  unfold State.modSpindle
  split <;> exact h
theorem State.Canonical.dropSpindle {cl : Nat} (h : s.Canonical) : (s.dropSpindle cl).Canonical := h
theorem State.Canonical.setCtx {c : Nat} {x : Ctx} (h : s.Canonical) : (s.setCtx c x).Canonical := h
theorem State.Canonical.modCtx {c : Nat} {f : Ctx → Ctx} (h : s.Canonical) : (s.modCtx c f).Canonical := h

theorem State.Canonical.vwr {w : Wave} {n L : Nat} {v : BitVec 32} (h : s.Canonical) : (s.vwr w n L v).Canonical := h.withCs
    h.cs_writeNat
theorem State.Canonical.vwr64 {w : Wave} {n L : Nat} {v : BitVec 64} (h : s.Canonical) : (s.vwr64 w n L v).Canonical := h.vwr.vwr
theorem State.Canonical.vput {w : Wave} {n L regs : Nat} {v : BitVec 64} (h : s.Canonical) : (s.vput w n L regs v).Canonical :=
    h.vwr64.ite h.vwr
theorem State.Canonical.vputAll {w : Wave} {d regs : Nat} {l : List (Nat × BitVec 64)} (h : s.Canonical) :
    (s.vputAll w d regs l).Canonical := h.foldl fun _ _ h => h.vput

theorem State.Canonical.modCurWave {f : Wave → Wave} (h : s.Canonical) : (s.modCurWave f).Canonical := by
  unfold State.modCurWave
  split
  · exact h.modWave
  · exact h
theorem State.Canonical.modCurSpindle {f : Spindle → Spindle} (h : s.Canonical) : (s.modCurSpindle f).Canonical := by
  unfold State.modCurSpindle
  split
  · exact h.modSpindle
  · exact h
theorem State.Canonical.swr {n : Nat} {v : BitVec 64} (h : s.Canonical) : (s.swr n v).Canonical := by
  unfold State.swr
  split
  · exact h.modWave
  · exact h.modSpindle
  · exact h
theorem State.Canonical.kwr {n : Nat} {v : BitVec 64} (h : s.Canonical) : (s.kwr n v).Canonical := h.modCurWave
theorem State.Canonical.orFlags {f : Nat} (h : s.Canonical) : (s.orFlags f).Canonical := by
  refine h.ite ?_
  split
  · exact h.modWave
  · exact h.modSpindle
  · exact h

theorem State.Canonical.takeBytes {n : Nat} (h : s.Canonical) : (s.takeBytes n).2.Canonical := by
  induction n generalizing s with
  | zero => exact h
  | succ n ih => exact ih (s := { s with free := s.free + 1 }) h
theorem State.Canonical.takeWord (h : s.Canonical) : s.takeWord.2.Canonical := h

theorem State.Canonical.ctlWr {r : CtlReg} {v : BitVec 64} (h : s.Canonical) : (s.ctlWr r v).Canonical := h
theorem State.Canonical.ctlSet {r : CtlReg} {lo n x : Nat} (h : s.Canonical) : (s.ctlSet r lo n x).Canonical := h
theorem State.Canonical.ctlStore {r : CtlReg} {v sel : BitVec 64} (h : s.Canonical) : (s.ctlStore r v sel).Canonical := h
theorem State.Canonical.bumpCtx {c i n : Nat} (h : s.Canonical) : (s.bumpCtx c i n).Canonical := h
theorem State.Canonical.setBuf {b : Nat} {x : Buf} (h : s.Canonical) : (s.setBuf b x).Canonical := h
theorem State.Canonical.logCtx {b ty c k d : Nat} {v : BitVec 64} (h : s.Canonical) : (s.logCtx b ty c k d v).Canonical := h
theorem State.Canonical.logDev {b ty d : Nat} {v : BitVec 64} (h : s.Canonical) : (s.logDev b ty d v).Canonical := h
theorem State.Canonical.logWave {w : Wave} {ty d : Nat} {v : BitVec 64} (h : s.Canonical) : (s.logWave w ty d v).Canonical := h
theorem State.Canonical.logSpindle {p : Spindle} {ty d : Nat} {v : BitVec 64} (h : s.Canonical) :
    (s.logSpindle p ty d v).Canonical := h
theorem State.Canonical.logDenied {fn c k d a : Nat} (h : s.Canonical) : (s.logDenied fn c k d a).Canonical := h
theorem State.Canonical.sendMsix {fn vec : Nat} (h : s.Canonical) : (s.sendMsix fn vec).Canonical := .ite h h
theorem State.Canonical.ctxIrqEvent {c i : Nat} (h : s.Canonical) : (s.ctxIrqEvent c i).Canonical := h.sendMsix.ite h
theorem State.Canonical.setPreState {c v : Nat} (h : s.Canonical) : (s.setPreState c v).Canonical := h.ctlSet.ctxIrqEvent.ite
    h.ctlSet
theorem State.Canonical.pushSf {w : Wave} {r : SfRec} (h : s.Canonical) : (s.pushSf w r).Canonical := h.logWave.modWave
theorem State.Canonical.devLog {e : Nat} {a : BitVec 64} (h : s.Canonical) : (s.devLog e a).Canonical := h
theorem State.Canonical.errCount {ue : Bool} (h : s.Canonical) : (s.errCount ue).Canonical := h.ite h.ctlSet

/-! ### The point of coherence -/

theorem State.Canonical.keepRoute {d p : Nat} (h : s.Canonical) : (s.keepRoute d p).Canonical := h
theorem State.Canonical.setDir {l : Nat} {d : DirLine} (h : s.Canonical) : (s.setDir l d).Canonical := h
theorem State.Canonical.l2Fetch {c l : Nat} (h : s.Canonical) : (s.l2Fetch c l).Canonical := by
  have hv := h.takeBytes (n := 128)
  unfold State.l2Fetch
  generalize s.takeBytes 128 = p at hv ⊢
  exact h.ite (.ite (.setDir (hv.withMem hv.mem_writeNat)) h.setDir)
theorem State.Canonical.l2Own {c l : Nat} (h : s.Canonical) : (s.l2Own c l).Canonical := h.ite (.setDir h.l2Fetch)
theorem State.Canonical.l2FetchRange {c pa n : Nat} (h : s.Canonical) : (s.l2FetchRange c pa n).Canonical := h.foldl fun _ _ h =>
    h.l2Fetch
theorem State.Canonical.l2OwnRange {c pa n : Nat} (h : s.Canonical) : (s.l2OwnRange c pa n).Canonical := h.foldl fun _ _ h =>
    h.l2Own
theorem State.Canonical.traffic {c pa n : Nat} {w : Bool} (h : s.Canonical) : (s.traffic c pa n w).Canonical := by
  unfold State.traffic
  split <;> exact h
theorem State.Canonical.l2Read {c pa n : Nat} (h : s.Canonical) : (s.l2Read c pa n).2.Canonical := .ite2 (.takeBytes h.traffic)
    h.traffic.l2FetchRange
theorem State.Canonical.releaseWaiter {wt : Waiter} (h : s.Canonical) : (s.releaseWaiter wt).Canonical := .modWave h
theorem State.Canonical.wakeWaiters {pa n : Nat} (h : s.Canonical) : (s.wakeWaiters pa n).Canonical := h.foldl fun _ _ h =>
    h.releaseWaiter.ite h
theorem State.Canonical.storePoison {who : Who} {pa n mask : Nat} (h : s.Canonical) : (s.storePoison who pa n mask).Canonical :=
  h.ite (h.foldl fun _ _ h => h.ite (.ite h (h.logCtx.ite h)))
theorem State.Canonical.l2Write {who : Who} {pa n v mask : Nat} (h : s.Canonical) : (s.l2Write who pa n v mask).Canonical := by
  have hs : (((s.traffic who.ctx pa n true).l2OwnRange who.ctx pa n).storePoison who pa n mask).Canonical :=
    h.traffic.l2OwnRange.storePoison
  exact .ite h.traffic (.wakeWaiters (hs.withMem (wf_writeMasked _ _ _ _ _ hs.1)))
theorem State.Canonical.l2Put {who : Who} {pa n v : Nat} (h : s.Canonical) : (s.l2Put who pa n v).Canonical := h.l2Write
theorem State.Canonical.outsideRead {holder pa n : Nat} (h : s.Canonical) : (s.outsideRead holder pa n).Canonical := h.foldl fun _
    _ h => h.setDir
theorem State.Canonical.outsideWrite {holder pa n v : Nat} (h : s.Canonical) : (s.outsideWrite holder pa n v).Canonical := by
  unfold State.outsideWrite
  extract_lets keeps t
  have ht : t.Canonical := h.foldl fun _ _ h => .setDir h
  exact .wakeWaiters (ht.storePoison.withMem ht.storePoison.mem_writeNat)

/-! ### Fault queues -/

theorem State.Canonical.fqWrite {c : Nat} {r : BitVec 512} (h : s.Canonical) : (s.fqWrite c r).Canonical := .ite
    (.ctxIrqEvent (.ctlWr h.l2Put)) h.l2Put.ctlWr
theorem State.Canonical.fqFlush {c n : Nat} (h : s.Canonical) : (s.fqFlush c n).Canonical := by
  induction n generalizing s with
  | zero => exact h
  | succ n ih =>
    unfold State.fqFlush
    extract_lets x
    refine h.ite (.ite (ih h.fqWrite.setCtx) ?_)
    split
    · exact h
    · exact ih h.fqWrite.setCtx
theorem State.Canonical.makeFault {c : Nat} {f : FaultInfo} {b k : Nat} (h : s.Canonical) : (s.makeFault c f b k).Canonical := by
  unfold State.makeFault
  extract_lets x r s1 s2 s3 y
  have hs : s3.Canonical := .setCtx (.ite h.bumpCtx.logCtx h.bumpCtx)
  exact hs.fqWrite.ite (hs.setCtx.fqFlush.ite hs.setCtx.fqFlush)
theorem State.Canonical.sfToQueue {c co k : Nat} {r : SfRec} {u : Nat} (h : s.Canonical) : (s.sfToQueue c co k r u).Canonical :=
    h.makeFault

/-! ### Translation and fault tags -/

theorem State.Canonical.keepTable {t : TableEntry} (h : s.Canonical) : (s.keepTable t).Canonical := h
theorem State.Canonical.walkFrom {c va : Nat} {n : Need} {table : Nat} {g : Bool} {lvl : Nat} (h : s.Canonical) :
    (s.walkFrom c va n table g lvl).2.Canonical := by
  induction lvl generalizing s table g with
  | zero => exact h
  | succ lvl ih =>
    unfold State.walkFrom
    extract_lets a s1 e size e' owned s2
    have h1 : s1.Canonical := h.l2Fetch
    have h2 : s2.Canonical := h1.ite (h1.l2Own.withMem h1.l2Own.mem_writeNat)
    clear_value s2
    refine .ite2 h1 (.ite2 h1 (.ite2 h1 (.ite2 ?_ ?_)))
    · exact ih h1.keepTable
    · exact .ite2 h1 (.ite2 h1 h2)
theorem State.Canonical.walk {c va : Nat} {n : Need} (h : s.Canonical) : (s.walk c va n).2.Canonical := by
  refine .ite2 h (.ite2 h ?_)
  split <;> exact h.walkFrom
theorem State.Canonical.tlbPut {u : Nat} {e : TlbEntry} (h : s.Canonical) : (s.tlbPut u e).Canonical := h
theorem State.Canonical.translate {co c va : Nat} {n : Need} (h : s.Canonical) : (s.translate co c va n).2.Canonical := by
  unfold State.translate
  split
  · exact h
  · split
    · exact h
    · split
      next heq => exact (h.walk.of_eq heq).tlbPut.tlbPut
      next => exact h.walk
theorem State.Canonical.tlbGroup {i : Nat} (h : s.Canonical) : (s.tlbGroup i).Canonical := by
  unfold State.tlbGroup
  split
  · exact h
  · exact .ite h h
theorem State.Canonical.tlbDrop {c : Nat} {r : Option (Nat × Nat)} {g : Bool} (h : s.Canonical) : (s.tlbDrop c r g).Canonical := h
theorem State.Canonical.allocTag {c page : Nat} {wr : Bool} {t : Tag} {u : State} (h : s.Canonical)
    (e : s.allocTag c page wr = some (t, u)) : u.Canonical := by
  unfold State.allocTag at e
  split at e
  · cases e
  · split at e
    · cases e
    · cases e
      exact h
theorem State.Canonical.freeTagOf {t : Tag} (h : s.Canonical) : (s.freeTagOf t).Canonical := h
theorem State.Canonical.needTag {c page : Nat} {wr cow : Bool} {info : FaultInfo} {b k : Nat} {t : BitVec 32} {u : State}
    (h : s.Canonical) (e : s.needTag c page wr cow info b k = some (t, u)) : u.Canonical := by
  unfold State.needTag at e
  split at e
  · cases e
    exact h
  · split at e
    · cases e
    next heq =>
      cases e
      exact (h.allocTag heq).makeFault

/-! ### The L1s -/

theorem State.Canonical.l1Set {l : L1Line} (h : s.Canonical) : (s.l1Set l).Canonical := h
theorem State.Canonical.l1Drop {l : L1Line} (h : s.Canonical) : (s.l1Drop l).Canonical := h
theorem State.Canonical.writeBack {l : L1Line} (h : s.Canonical) : (s.writeBack l).2.Canonical :=
  .ite2 h (.ite2 h.translate.l1Set.l2Write h.translate.l1Drop)
theorem State.Canonical.routeSf {l : L1Line} {r : SfRec} (h : s.Canonical) : (s.routeSf l r).Canonical := by
  unfold State.routeSf
  split
  · exact h.pushSf.ite h.sfToQueue
  · exact h.sfToQueue
theorem State.Canonical.writeBackRouted {l : L1Line} (h : s.Canonical) : (s.writeBackRouted l).Canonical := by
  unfold State.writeBackRouted
  split
  next heq => exact (h.writeBack.of_eq heq).routeSf
  next heq => exact h.writeBack.of_eq heq
theorem State.Canonical.evictLine {l : L1Line} (h : s.Canonical) : (s.evictLine l).Canonical := h.writeBackRouted.l1Drop
theorem State.Canonical.l1Room {co : Nat} (h : s.Canonical) : (s.l1Room co).Canonical := by
  refine h.ite ?_
  split
  · exact h
  · exact h.evictLine
theorem State.Canonical.l1Fill {co c pl vl : Nat} {kind : PageKind} (h : s.Canonical) : (s.l1Fill co c pl vl kind).2.Canonical :=
    h.l1Room.l2Read
theorem State.Canonical.l1Get {co c pl vl : Nat} {kind : PageKind} (h : s.Canonical) : (s.l1Get co c pl vl kind).2.Canonical := by
  unfold State.l1Get
  extract_lets alien shared t
  have ht : t.Canonical := h.foldl fun _ _ h => h.evictLine
  split
  · exact .ite2 ht.evictLine.l1Fill (.ite2 ht.l2Read.l1Set ht)
  · exact ht.l1Fill
theorem State.Canonical.l1Read {co c va pa n : Nat} {kind : PageKind} (h : s.Canonical) :
    (s.l1Read co c va pa n kind).2.2.Canonical := h.l1Get
theorem State.Canonical.l1Write {w : Wave} {va pa n v mask : Nat} {kind : PageKind} (h : s.Canonical) :
    (s.l1Write w va pa n v mask kind).Canonical := h.l1Get.l1Set
theorem State.Canonical.l1Flush {co c pl : Nat} (h : s.Canonical) : (s.l1Flush co c pl).Canonical := by
  unfold State.l1Flush
  split
  · exact h.evictLine
  · exact h
theorem State.Canonical.writeBackAll {p : L1Line → Bool} (h : s.Canonical) : (s.writeBackAll p).2.Canonical := by
  refine .foldl2 h fun acc l hacc => ?_
  split
  next heq => exact hacc.writeBack.of_eq heq
  next heq => exact hacc.writeBack.of_eq heq
theorem State.Canonical.releaseLines {co c : Nat} {ws : Sig} (h : s.Canonical) : (s.releaseLines co c ws).2.Canonical :=
    h.writeBackAll
theorem State.Canonical.dropLines {p : L1Line → Bool} (h : s.Canonical) : (s.dropLines p).Canonical := h.foldl fun _ _ h =>
    h.evictLine
theorem State.Canonical.acquireLines {co c : Nat} {sig : Sig} {sat : Bool} (h : s.Canonical) :
    (s.acquireLines co c sig sat).Canonical := h.dropLines
theorem State.Canonical.acquireAll {co c : Nat} (h : s.Canonical) : (s.acquireAll co c).Canonical := h.dropLines
theorem State.Canonical.releaseUn {co c : Nat} (h : s.Canonical) : (s.releaseUn co c).2.Canonical := h.writeBackAll
theorem State.Canonical.dropUn {co c : Nat} (h : s.Canonical) : (s.dropUn co c).Canonical := h

end Sys2Proof.Machine
end

section
/-! ### Traps, the end of an instruction, and vector and scalar operations -/

namespace Sys2Proof.Machine

variable {s : State}

theorem State.Canonical.endCur {cause : Nat} (h : s.Canonical) : (s.endCur cause).Canonical := by
  unfold State.endCur
  split
  exacts [h.modWave, h.modSpindle, h]
theorem State.Canonical.takeTrap {cause : Nat} {tepc addr lanes : BitVec 64} (h : s.Canonical) :
    (s.takeTrap cause tepc addr lanes).Canonical := by
  unfold State.takeTrap
  extract_lets c v
  refine h.endCur.ite (h.endCur.ite (h.endCur.ite ?_))
  split
  · split
    · exact h.logWave.setWave
    · exact h
  · split
    · exact h.logSpindle.setSpindle
    · exact h
  · exact h
theorem State.Canonical.trapReturn (h : s.Canonical) : s.trapReturn.Canonical := by
  unfold State.trapReturn
  split
  exacts [h.modWave, h.modSpindle, h]
theorem State.Canonical.takeTimer {w : Wave} (h : s.Canonical) : (s.takeTimer w).Canonical := by
  unfold State.takeTimer
  split
  · exact h.setWave
  · exact h.logWave.setWave
theorem State.Canonical.settle (h : s.Canonical) : s.settle.Canonical := by
  unfold State.settle
  extract_lets f
  split
  exacts [h.modWave, h.modSpindle, h]
theorem State.Canonical.setPc {pc : BitVec 64} (h : s.Canonical) : (s.setPc pc).Canonical := by
  unfold State.setPc
  split
  exacts [h.modWave, h.modSpindle, h]
theorem State.Canonical.setWait {x : Wait} (h : s.Canonical) : (s.setWait x).Canonical := by
  unfold State.setWait
  split
  exacts [h.modWave, h.modSpindle, h]

theorem State.Canonical.finish {words : Nat} {r : Res} (h : s.Canonical) (hr : r.Canonical) : (s.finish words r).Canonical := by
  unfold State.finish
  extract_lets next
  cases r with
  | done t => exact .ite (.settle (.setPc hr)) h.takeTrap.settle
  | jump t pc => exact .settle (.setPc hr)
  | trap t cause addr lanes => exact .settle (.takeTrap hr)
  | trapNext t cause addr lanes => exact .settle (.takeTrap hr)
  | wait t w => exact .setWait hr
theorem State.Canonical.issueRow {body : Row → Norm → State → Res} {r : Row} {n : Norm} {m : IssueMode} (h : s.Canonical)
    (hb : (body r n s).Canonical) : (issueRow r n m body s).Canonical := by
  unfold Machine.issueRow
  extract_lets all range wait
  refine Res.Canonical.ite h (.ite h ?_)
  clear_value wait
  cases wait with
  | some reason => exact h
  | none =>
    dsimp only
    generalize (if m.ownPoison then none else s.poisonCheck r.mask (rowSources r s.stream n) n.x) = marked
    cases marked with
    | some lanes => exact h
    | none => exact hb
theorem State.Canonical.illegal {d : BitVec 3} (h : s.Canonical) : (s.illegal d).Canonical := h.finish h
theorem State.Canonical.runEnc {body : Row → Norm → State → Res} {e : Enc} {m : IssueMode} (h : s.Canonical)
    (hb : ∀ r n, (body r n s).Canonical) : NextCanonical (runEnc e m body s) := by
  unfold Machine.runEnc
  split
  · exact trivial
  · split
    · exact h.illegal
    · split
      · exact h.illegal
      · extract_lets n
        split
        · exact h.illegal
        · exact h.finish (h.issueRow (hb _ _))

theorem State.Canonical.vecMap {f : Norm → BitVec 64 → BitVec 64 → BitVec 64 → BitVec 64 × Nat} {r : Row} {n : Norm}
    (h : s.Canonical) : (vecMap f r n s).Canonical := by
  unfold Machine.vecMap
  split
  · exact h
  · exact h.vputAll.orFlags
theorem State.Canonical.scalMap {f : Norm → BitVec 64 → BitVec 64 → BitVec 64 → BitVec 64} {r : Row} {n : Norm} (h : s.Canonical)
    : (scalMap f r n s).Canonical := h.swr
theorem State.Canonical.vecTest {f : Norm → BitVec 64 → BitVec 64 → Bool × Nat} {r : Row} {n : Norm} (h : s.Canonical) :
    (vecTest f r n s).Canonical := by
  unfold Machine.vecTest
  split
  · exact h
  · exact h.kwr.orFlags
theorem State.Canonical.carryMap {sub : Bool} {r : Row} {n : Norm} (h : s.Canonical) : (carryMap sub r n s).Canonical := by
  unfold Machine.carryMap
  split
  · exact h
  · exact h.vputAll.kwr
theorem State.Canonical.selMap {r : Row} {n : Norm} (h : s.Canonical) : (selMap r n s).Canonical := by
  unfold Machine.selMap
  split
  · exact h
  · exact Res.Canonical.ite h h.vputAll
theorem State.Canonical.fvecMap {f : Bool → Norm → BitVec 64 → BitVec 64 → BitVec 64 → BitVec 64 × Nat} {r : Row} {n : Norm}
    (h : s.Canonical) : (fvecMap f r n s).Canonical := by
  unfold Machine.fvecMap
  split
  · exact h
  · exact h.vecMap
theorem State.Canonical.fvecTest {f : Bool → Norm → BitVec 64 → BitVec 64 → Bool × Nat} {r : Row} {n : Norm} (h : s.Canonical) :
    (fvecTest f r n s).Canonical := by
  unfold Machine.fvecTest
  split
  · exact h
  · exact h.vecTest

/-! ### Rays of a launch -/

theorem State.Canonical.modRayLaunch {num : Nat} {f : RayLaunch → RayLaunch} (h : s.Canonical) : (s.modRayLaunch num f).Canonical
    := h.modLaunch
theorem State.Canonical.setRay {num : Nat} {r : Ray} (h : s.Canonical) : (s.setRay num r).Canonical := h.modRayLaunch
theorem State.Canonical.sweepStalls (h : s.Canonical) : s.sweepStalls.Canonical := h
theorem State.Canonical.logRay {l : Launch} {b k d low cls lane ck : Nat} (h : s.Canonical) :
    (s.logRay l b k d low cls lane ck).Canonical := h.logCtx
theorem State.Canonical.stallFor {q : Nat} {k : Key} (h : s.Canonical) : (s.stallFor q k).2.Canonical := by
  unfold State.stallFor
  split
  · exact h
  · extract_lets make o
    split
    · exact h
    · exact .ite2 h h
theorem State.Canonical.treeletBytes {q : Nat} {l : Launch} {rl : RayLaunch} {tl : Nat} (h : s.Canonical) :
    (s.treeletBytes q l rl tl).2.Canonical := by
  unfold State.treeletBytes
  extract_lets va
  refine .ite2 h ?_
  split
  next heq =>
    have ht := h.translate.of_eq heq
    exact .ite2 ht ht.l2Read
  next heq => exact h.translate.of_eq heq
theorem State.Canonical.prefetchTreelet {l : Launch} {q i : Nat} (h : s.Canonical) : (s.prefetchTreelet l q i).Canonical := by
  unfold State.prefetchTreelet
  split
  · refine h.ite ?_
    split
    next heq =>
      have ht := h.treeletBytes.of_eq heq
      exact ht.ite ht
    next heq => exact h.treeletBytes.of_eq heq
  · exact h
theorem State.Canonical.retireRay {num k : Nat} (h : s.Canonical) : (s.retireRay num k).Canonical := by
  unfold State.retireRay
  split
  · exact h.bumpCtx.modRayLaunch.sweepStalls
  · exact h.modRayLaunch.sweepStalls
theorem State.Canonical.modWaiting {q : Nat} {p : Nat → Bool} {f : Ray → Ray} (h : s.Canonical) : (s.modWaiting q p f).Canonical
    := h
theorem State.Canonical.hotRoom {q : Nat} (h : s.Canonical) : (s.hotRoom q).Canonical := by
  unfold State.hotRoom
  extract_lets mine count
  refine h.ite ?_
  split
  · exact h
  · exact h.modWaiting
theorem State.Canonical.joinStall {num : Nat} {r : Ray} {k : Key} (h : s.Canonical) : (s.joinStall num r k).Canonical := by
  have hstall := h.stallFor (q := s.homeOf ((s.launch? num).elim 0 (·.ctx)) k) (k := k)
  unfold State.joinStall
  extract_lets q
  split
  next heq =>
    extract_lets r t
    have hs := hstall.of_eq heq
    have ht : t.Canonical := .hotRoom (.setRay hs)
    split
    · exact ht.prefetchTreelet
    · exact ht
theorem State.Canonical.moveStall {num : Nat} {r : Ray} (h : s.Canonical) : (s.moveStall num r).Canonical := by
  unfold State.moveStall
  extract_lets t
  split
  · exact h.joinStall.setRay
  · exact h.joinStall
theorem State.Canonical.rehome {f : Nat} (h : s.Canonical) : (s.rehome f).Canonical := .sweepStalls
    (h.foldl fun _ _ h => h.moveStall)
theorem State.Canonical.toEpisode {num : Nat} {r : Ray} {hit : BitVec 256} {j tl k cls kt : Nat} (h : s.Canonical) :
    (s.toEpisode num r hit j tl k cls kt).Canonical := by
  unfold State.toEpisode
  split
  · exact h
  · split
    · exact h
    · extract_lets key
      split
      · exact h.logRay.retireRay.ite h.joinStall
      · exact h.logRay.retireRay
theorem State.Canonical.enterNeeds {num : Nat} {r : Ray} (h : s.Canonical) : (s.enterNeeds num r).Canonical := by
  refine h.toEpisode.ite ?_
  split
  · exact h.joinStall
  · exact h
theorem State.Canonical.placeRay {num : Nat} {record : BitVec 1024} (h : s.Canonical) : (s.placeRay num record).Canonical := by
  unfold State.placeRay
  split
  · exact h
  · exact h.modRayLaunch.enterNeeds
theorem State.Canonical.dispose {w : Wave} {L d : Nat} (h : s.Canonical) : (s.dispose w L d).Canonical := h.modWave
theorem State.Canonical.settleLanes {w : Wave} (h : s.Canonical) : (s.settleLanes w).Canonical := by
  refine h.foldl fun s L h => ?_
  extract_lets r
  split
  · exact h
  · refine h.ite ?_
    split
    · exact .dispose (.retireRay (h.ite h.logRay))
    · exact h.retireRay.dispose

/-! ### Branches, waits and ends -/

theorem goTo_canonical {a : BitVec 64} {t : State} (h : s.Canonical) (ht : t.Canonical) : (goTo s t a).Canonical :=
    Res.Canonical.ite ht h
theorem goReg_canonical {a : BitVec 64} {t : State} (h : s.Canonical) (ht : t.Canonical) : (goReg s t a).Canonical :=
  Res.Canonical.ite h (.ite h ht)
theorem State.Canonical.branchOp {c : Norm → State → Bool} {r : Row} {n : Norm} (h : s.Canonical) : (branchOp c r n s).Canonical
    := (goTo_canonical h h).ite h
theorem State.Canonical.loopOp {r : Row} {n : Norm} (h : s.Canonical) : (loopOp r n s).Canonical := (goTo_canonical h h.swr).ite
    h.swr
theorem State.Canonical.link {n : Norm} (h : s.Canonical) : (s.link n).Canonical := h.swr
theorem State.Canonical.callOp {r : Row} {n : Norm} (h : s.Canonical) : (callOp r n s).Canonical := goTo_canonical h h.link
theorem State.Canonical.callindOp {r : Row} {n : Norm} (h : s.Canonical) : (callindOp r n s).Canonical := goReg_canonical h h.link
theorem State.Canonical.jmpOp {r : Row} {n : Norm} (h : s.Canonical) : (jmpOp r n s).Canonical := goReg_canonical h h
theorem State.Canonical.yieldOp {r : Row} {n : Norm} (h : s.Canonical) : (yieldOp r n s).Canonical :=
  Res.Canonical.ite h (.ite h (.ite h.modCurSpindle.setWait h.modCurWave.modCurSpindle))
theorem State.Canonical.sleepOp {r : Row} {n : Norm} (h : s.Canonical) : (sleepOp r n s).Canonical := Res.Canonical.ite h
    h.modCurSpindle.setWait
theorem State.Canonical.nopOp {r : Row} {n : Norm} (h : s.Canonical) : (nopOp r n s).Canonical := h
theorem State.Canonical.exitOp {r : Row} {n : Norm} (h : s.Canonical) : (exitOp r n s).Canonical := by
  unfold Machine.exitOp
  split
  · exact h.settleLanes.ite h
  · exact h

/-! ### Core Stores of the paired die, and peers -/

theorem State.Canonical.coreRead {o n : Nat} (h : s.Canonical) : (s.coreRead o n).2.Canonical := .ite2 h h.takeBytes
theorem State.Canonical.corePut {o n v mask : Nat} (h : s.Canonical) : (s.corePut o n v mask).Canonical := h
theorem State.Canonical.exportParts {c va : Nat} {n : Need} {bytes : Nat} (h : s.Canonical) :
    (s.exportParts c va n bytes).2.Canonical := by
  unfold State.exportParts
  extract_lets first part
  have hpart : ∀ {s : State} {va}, s.Canonical → (part s va).2.Canonical := by
    intro s va h
    dsimp only [part]
    split
    next heq => exact .ite2 (h.translate.of_eq heq) (h.translate.of_eq heq)
    next heq => exact h.translate.of_eq heq
  clear_value part
  split
  next heq => exact (hpart h).of_eq heq
  next heq =>
    have ht := (hpart h).of_eq heq
    refine .ite2 ht ?_
    split
    next heq => exact (hpart ht).of_eq heq
    next heq => exact (hpart ht).of_eq heq
theorem State.Canonical.serveParts {who : Who} {r : Remote} {parts : List (Nat × Nat)} (h : s.Canonical) :
    (s.serveParts who r parts).2.Canonical := by
  unfold State.serveParts
  extract_lets hit poison t
  have ht : t.Canonical := .ite h h
  clear_value t
  split
  · exact .foldl3 ht fun _ _ h => h.l2Read
  · exact .foldl2 ht fun _ _ h => h.l2Write
  · split
    · refine .ite2 ht.l2Read (.ite2 ht.l2Read.l2Put ?_)
      split
      next heq =>
        have hu := ht.l2Read.of_eq heq
        split
        · exact hu.l2Put
        · exact hu
    · exact ht
theorem State.Canonical.serveRemote {r : Remote} (h : s.Canonical) : (s.serveRemote r).2.Canonical := by
  unfold State.serveRemote
  extract_lets refuse
  split
  · exact h.logCtx
  · extract_lets c base key size
    refine .ite2 h.logCtx ?_
    split
    next heq => exact (h.exportParts.of_eq heq).logCtx
    next heq => exact (h.exportParts.of_eq heq).serveParts
theorem State.Canonical.sendPeer {c p d : Nat} {r : Remote} (h : s.Canonical) : (s.sendPeer c p d r).Canonical := by
  have hroute : ((s.bumpCtx c 22 r.bytes).keepRoute d p).Canonical := h.bumpCtx.keepRoute
  unfold State.sendPeer
  exact hroute.same
theorem State.Canonical.remote {c pa : Nat} {r : Remote} (h : s.Canonical) : (s.remote c pa r).2.Canonical := by
  unfold State.remote
  extract_lets d r
  refine .ite2 h.serveRemote ?_
  split
  · exact h
  · exact .ite2 h.sendPeer h.sendPeer.takeBytes
theorem State.Canonical.remoteNow {c pa : Nat} {r : Remote} (h : s.Canonical) : (s.remoteNow c pa r).2.Canonical := .ite2 h.remote
    h.remote

end Sys2Proof.Machine
end

section
/-! ### Fetch, device registers, elements in flight and the checks of R212 -/

namespace Sys2Proof.Machine

/-- The end of an instruction that a fetch answers holds a canonical state. -/
def Words.Canonical : Words → Prop
  | .got _ => True
  | .ends r => r.Canonical

/-- The state of a located operand is canonical. -/
def Located.Canonical : Located → Prop
  | .found _ _ _ s => s.Canonical
  | .ends r => r.Canonical

theorem Located.Canonical.of_eq {q r : Located} (h : q.Canonical) (e : q = r) : r.Canonical := e ▸ h

theorem Checked.Canonical.ite {q r : Checked} {c : Prop} [Decidable c] (hq : q.Canonical) (hr : r.Canonical) :
    (if c then q else r).Canonical := by
  split
  · exact hq
  · exact hr

theorem wf_foldl_write {m : Memory} {α : Type} {l : List α} {f : α → Nat} {g : α → BitVec 8} (h : m.wf = true) :
    (l.foldl (fun m i => m.write (f i) (g i)) m).wf = true :=
  List.foldlRecOn (motive := fun m : Memory => m.wf = true) l _ h fun m hm _ _ => wf_write m _ _ hm

variable {s : State}

theorem State.Canonical.tagsFor {pc : BitVec 64} {ms : List Miss} (h : s.Canonical) : (s.tagsFor pc ms).2.Canonical := by
  induction ms generalizing s with
  | nil => exact h
  | cons m ms ih =>
    unfold State.tagsFor
    extract_lets info
    split
    · exact h
    next heq => exact ih (h.needTag heq)
theorem State.Canonical.setHolds {o : Option (List (BitVec 32))} (h : s.Canonical) : (s.setHolds o).Canonical :=
    h.modCurWave.modCurSpindle
theorem State.Canonical.meetMissing {ms : List Miss} {a lanes : BitVec 64} (h : s.Canonical) :
    (s.meetMissing ms a lanes).Canonical := by
  unfold State.meetMissing
  extract_lets c vectors
  refine Res.Canonical.ite h (.ite h ?_)
  split
  next heq => exact (h.tagsFor.of_eq heq).setHolds
  next heq => exact (h.tagsFor.of_eq heq).setHolds
theorem State.Canonical.xlate {va : Nat} {n : Need} (h : s.Canonical) : (s.xlate va n).2.Canonical := by
  unfold State.xlate
  split
  · exact h
  · exact h.translate
theorem State.Canonical.codeWord {c pa : Nat} (h : s.Canonical) : (s.codeWord c pa).2.Canonical := by
  unfold State.codeWord
  split
  · exact h
  · refine .ite2 h ?_
    extract_lets keep
    split
    · split
      next heq =>
        have ht := h.remoteNow.of_eq heq
        exact ht
      next heq => exact h.remoteNow.of_eq heq
    · exact h.coreRead
    · have hv := h.l2Read (c := c) (pa := pa) (n := 4)
      generalize s.l2Read c pa 4 = p at hv ⊢
      exact hv
theorem State.Canonical.fetchWord {va : BitVec 64} (h : s.Canonical) : (s.fetchWord va).2.Canonical := by
  refine .ite2 h ?_
  extract_lets c user
  split
  next heq => exact h.xlate.of_eq heq
  next heq => exact h.xlate.of_eq heq
  next heq => exact h.xlate.of_eq heq
  next heq =>
    have ht := h.xlate.of_eq heq
    extract_lets pa
    split
    · exact ht
    · exact .ite2 ht (.ite2 ht ht.codeWord)
theorem State.Canonical.fetchRest {pc : BitVec 64} {i : Nat} {acc : List W32} {n : Nat} (h : s.Canonical) :
    (s.fetchRest pc i acc n).1.Canonical ∧ (s.fetchRest pc i acc n).2.Canonical := by
  induction n generalizing s i acc with
  | zero => exact ⟨trivial, h⟩
  | succ n ih =>
    unfold State.fetchRest
    extract_lets va
    split
    next heq => exact ih (h.fetchWord.of_eq heq)
    next heq =>
      have ht := h.fetchWord.of_eq heq
      exact ⟨ht, ht⟩
    next heq =>
      have ht := h.fetchWord.of_eq heq
      exact ⟨ht.meetMissing, ht⟩
theorem State.Canonical.fetch (h : s.Canonical) : s.fetch.1.Canonical ∧ s.fetch.2.Canonical := by
  unfold State.fetch
  split
  next heq => exact (h.fetchRest.2.of_eq heq).fetchRest
  next => exact h.fetchRest

/-! ### Device registers -/

theorem State.Canonical.regRead {u : RegUser} {off n : Nat} (h : s.Canonical) : (s.regRead u off n).2.Canonical := by
  refine .ite2 h ?_
  split
  · exact h.logDenied.ite h
  · exact .ite2 h h.logDenied
theorem State.Canonical.regClamp {r : CtlReg} (h : s.Canonical) : (s.regClamp r).Canonical := by
  unfold State.regClamp
  split
  · exact h.ite h.ctlSet
  · exact h.ctlSet
  · exact h.ctlSet.ite h
  · exact h
theorem State.Canonical.regStore {u : RegUser} {r : CtlReg} {v sel : BitVec 64} (h : s.Canonical) :
    (s.regStore u r v sel).Canonical := by
  unfold State.regStore
  extract_lets take t
  have ht : t.Canonical := by
    dsimp only [t]
    split
    · exact h.logDenied.ite h
    · exact h
  exact ht.ite ht.ctlStore.regClamp
theorem State.Canonical.regPut {u : RegUser} {off n v : Nat} (h : s.Canonical) : (s.regPut u off n v).1.Canonical := by
  unfold State.regPut
  split
  · exact h.withMbox (wf_writeNat _ _ _ _ h.2.2.2.1)
  · split
    · exact h.logDenied.ite h
    · split
      · exact h.logDenied
      · exact h.regStore
theorem State.Canonical.regWrite {u : RegUser} {off n v : Nat} (h : s.Canonical) : (s.regWrite u off n v).Canonical := h.regPut

/-! ### Elements of accesses -/

theorem State.Canonical.readElem {w : Wave} {e : Elem} (h : s.Canonical) : (s.readElem w e).2.Canonical := by
  unfold State.readElem
  extract_lets got
  split
  · split
    next heq => exact h.remote.of_eq heq
    next heq => exact h.remote.of_eq heq
  · exact h.coreRead
  · exact h.regRead
  · exact .ite2 h.l2Read (h.l1Read (n := e.bytes))
theorem State.Canonical.csWrite {o n v mask : Nat} (h : s.Canonical) : (s.csWrite o n v mask).Canonical := h.withCs
    (wf_writeMasked _ _ _ _ _ h.2.1)
theorem State.Canonical.writeElem {w : Wave} {e : Elem} {v : Nat} (h : s.Canonical) : (s.writeElem w e v).2.Canonical := by
  unfold State.writeElem
  split
  · split
    next heq => exact h.remote.of_eq heq
    next heq => exact h.remote.of_eq heq
  · exact h.corePut.ite (.ite (h.withCs (wf_writeMasked _ _ _ _ _ h.2.1)) h.csWrite)
  · exact h.regWrite
  · exact .ite2 h.l2Write h.l1Write
theorem State.Canonical.rmwElem {w : Wave} {e : Elem} {op ty : Nat} {a b : BitVec 64} (h : s.Canonical) :
    (s.rmwElem w e op ty a b).2.Canonical := by
  unfold State.rmwElem
  extract_lets space l1 t
  have ht : t.Canonical := h.ite h.l1Flush
  clear_value t
  split
  · split
    next heq => exact h.remote.of_eq heq
    next heq => exact h.remote.of_eq heq
  · refine .ite2 h.takeBytes (.ite2 ht.readElem ?_)
    split
    · exact ht.readElem
    · exact ht.readElem.writeElem
theorem State.Canonical.sigElem {w : Wave} {e : Elem} (h : s.Canonical) : (s.sigElem w e).2.Canonical := by
  unfold State.sigElem
  split
  next heq => exact h.remote.of_eq heq
  next heq => exact h.remote.of_eq heq
theorem State.Canonical.fillDest {w : Wave} {d : Dest} {e : Elem} {v : Nat} {mark : Bool} (h : s.Canonical) :
    (s.fillDest w d e v mark).Canonical := by
  have hp : (if mark then s.takeBytes e.bytes else (v, s)).2.Canonical := .ite2 h.takeBytes h
  unfold State.fillDest
  generalize (if mark then s.takeBytes e.bytes else (v, s)) = p at hp ⊢
  obtain ⟨v, t⟩ := p
  dsimp only at hp ⊢
  split
  · exact hp
  · exact hp.withCs (wf_foldl_write hp.2.1)
  · exact hp.modWave
theorem State.Canonical.extendDest {w : Wave} {d : Dest} {lanes : BitVec 64} (h : s.Canonical) :
    (s.extendDest w d lanes).Canonical := by
  unfold State.extendDest
  split
  · exact h
  · exact h.ite (h.foldl fun _ _ h => h.withCs h.cs_writeNat)
  · exact h.ite h.modWave
theorem State.Canonical.storeElem {w : Wave} {a : Access} {e : Elem} (h : s.Canonical) : (s.storeElem w a e).2.Canonical := by
  refine .ite2 h.writeElem ?_
  have hs : ({ s with poison := s.poison.filter (fun g => !a.whole.contains g) } : State).Canonical := h
  exact hs.writeElem
theorem State.Canonical.performElem {w : Wave} {a : Access} {e : Elem} (h : s.Canonical) : (s.performElem w a e).2.Canonical := by
  unfold State.performElem
  extract_lets va
  split
  · exact .ite2 h.readElem.fillDest.logWave h.readElem.fillDest
  · exact h.storeElem
  · exact .ite2 h.rmwElem.fillDest.logWave (.ite2 (h.rmwElem.fillDest.ite h.rmwElem) h.rmwElem.fillDest)
  · exact h.sigElem
theorem State.Canonical.completeAccess {co k : Nat} {a : Access} (h : s.Canonical) : (s.completeAccess co k a).Canonical := by
  unfold State.completeAccess
  split
  · exact h
  · extract_lets s1 refusal s2 s3 lost s4 s5
    have h2 : s2.Canonical := h.extendDest.foldl fun _ _ h => h.logWave
    have h3 : s3.Canonical := h2.foldl fun s r h => by
      split
      · exact h.pushSf
      · exact h
    have h4 : s4.Canonical := h3.modWave.ite h3
    clear_value s4
    exact .modWave h4
theorem State.Canonical.performAll {co k j : Nat} {es : List Elem} (h : s.Canonical) : (s.performAll co k j es).Canonical := by
  induction es generalizing s with
  | nil =>
    unfold State.performAll
    split
    · exact h
    · split
      · exact h.completeAccess.ite h
      · exact h
  | cons e rest ih =>
    unfold State.performAll
    split
    · exact h
    · split
      · exact h
      · exact ih h.performElem.modWave
theorem State.Canonical.accessCompletes {co k i : Nat} (h : s.Canonical) : (s.accessCompletes co k i).Canonical := by
  unfold State.accessCompletes
  split
  · exact h
  · split
    · exact h
    · exact h.performAll.ite h
theorem State.Canonical.performOne {co k i j : Nat} (h : s.Canonical) : (s.performOne co k i j).Canonical := by
  unfold State.performOne
  split
  · exact h
  · split
    · exact h
    · split
      · exact h
      · exact h.ite h.performAll

/-! ### The checks -/

theorem State.Canonical.placePart {f : AccForm} {b : BReg} {r : Req} {va : BitVec 64} {lo n : Nat} (h : s.Canonical) :
    (s.placePart f b r va lo n).2.Canonical := by
  unfold State.placePart
  extract_lets need a part at_
  have hat : ∀ {t : State} {pa ord}, t.Canonical → (at_ t pa ord).2.Canonical := by
    intro t pa ord ht
    dsimp only [at_]
    split <;> exact ht
  refine .ite2 (hat h) ?_
  split
  next heq => exact hat (h.xlate.of_eq heq)
  next heq => exact h.xlate.of_eq heq
  next heq => exact h.xlate.of_eq heq
  next heq => exact h.xlate.of_eq heq
theorem State.Canonical.placeReq {f : AccForm} {b : BReg} {base : BitVec 64} {r : Req} (h : s.Canonical) :
    (s.placeReq f b base r).2.Canonical :=
  .foldl2 (p := ([], s)) h fun _ _ h => .ite2 h.placePart h
theorem State.Canonical.placeAll {f : AccForm} {b : BReg} {base : BitVec 64} {reqs : List Req} (h : s.Canonical) :
    (s.placeAll f b base reqs).2.Canonical := by
  induction reqs generalizing s with
  | nil => exact h
  | cons r rest ih => exact ih h.placeReq
theorem State.Canonical.checkReqs {f : AccForm} {b : BReg} {base : BitVec 64} {reqs : List Req} (h : s.Canonical) :
    (s.checkReqs f b base reqs).Canonical := by
  unfold State.checkReqs
  extract_lets out
  refine Checked.Canonical.ite h ?_
  split
  next l t heq =>
    have ht := h.placeAll.of_eq heq
    extract_lets locked at_ skew causes lanesOfCause ms
    refine Checked.Canonical.ite h (.ite h (.ite (State.Canonical.ite h ht) ?_))
    generalize (if f.imprecise || (f.lateAbsent && causes.all (fun c => c == causeAbsent)) then none else firstCause causes) = precise
    cases precise with
    | some c => exact ht
    | none =>
      clear_value ms
      cases ms with
      | nil => exact ht
      | cons m rest => exact ht.meetMissing
theorem State.Canonical.checkScratch {w : Wave} {f : AccForm} {reqs : List Req} (h : s.Canonical) :
    (s.checkScratch w f reqs).Canonical := by
  unfold State.checkScratch
  split
  extract_lets pa l locked skew past
  exact Checked.Canonical.ite h (.ite h (.ite h (.ite h h)))
theorem State.Canonical.check {w : Wave} {f : AccForm} {x : XF} {scratch : Bool} {reqs : List Req} (h : s.Canonical) :
    (s.check w f x scratch reqs).Canonical := Checked.Canonical.ite h.checkScratch h.checkReqs
theorem State.Canonical.check_ok {w : Wave} {f : AccForm} {x : XF} {scratch : Bool} {reqs : List Req} {l : List (Req × List Part)}
    {sf : List (Nat × BitVec 64 × BitVec 64)} {t : State} (h : s.Canonical) (e : s.check w f x scratch reqs = .ok l sf t) :
    t.Canonical := h.check.of_eq e
theorem State.Canonical.check_ends {w : Wave} {f : AccForm} {x : XF} {scratch : Bool} {reqs : List Req} {r : Res}
    (h : s.Canonical) (e : s.check w f x scratch reqs = .ends r) : r.Canonical := h.check.of_eq e
theorem State.Canonical.locate {f : AccForm} {n : Norm} {bytes : Nat} (h : s.Canonical) : (s.locate f n bytes).Canonical := by
  unfold State.locate
  extract_lets off b base r
  split
  next heq => exact h.checkReqs.of_eq heq
  next heq =>
    split
    · exact h.checkReqs.of_eq heq
    · exact h.checkReqs.of_eq heq
  next heq => exact h.checkReqs.of_eq heq

theorem State.Canonical.locate_found {f : AccForm} {n : Norm} {bytes : Nat} {va : BitVec 64} {pa : Nat} {kind : PageKind}
    {t : State} (h : s.Canonical) (e : s.locate f n bytes = .found va pa kind t) : t.Canonical := h.locate.of_eq e
theorem State.Canonical.locate_ends {f : AccForm} {n : Norm} {bytes : Nat} {r : Res} (h : s.Canonical)
    (e : s.locate f n bytes = .ends r) : r.Canonical := h.locate.of_eq e

end Sys2Proof.Machine
end

section
/-! ### Loads, stores, atomics, fences and hints -/

namespace Sys2Proof.Machine

variable {s : State}

theorem State.Canonical.unmark {w : Wave} {d : Dest} {lanes : BitVec 64} (h : s.Canonical) : (s.unmark w d lanes).Canonical := by
  unfold State.unmark
  split
  · exact h
  · exact h.ite h
  · exact h.modWave
theorem State.Canonical.keepRoutes {es : List Elem} (h : s.Canonical) : (s.keepRoutes es).Canonical := h.foldl fun _ _ h => by
  split
  · exact h.keepRoute
  · exact h
theorem State.Canonical.countDone {w : Wave} {p : Nat} (h : s.Canonical) : (s.countDone w p).Canonical := h.modWave
theorem State.Canonical.issueOn {path : Elem → Nat} {w : Wave} {es : List Elem} {d : Dest} {lanes : BitVec 64} {sf : List SfRec}
    {seq : BitVec 32} (h : s.Canonical) : (issueOn path s w es d lanes sf seq).Canonical := by
  unfold Machine.issueOn
  extract_lets paths so first lead
  refine Res.Canonical.ite h (.ite h (.ite h ?_))
  exact h.keepRoutes.unmark.modWave
theorem State.Canonical.issueElems {w : Wave} {es : List Elem} {d : Dest} {lanes : BitVec 64} {sf : List SfRec} {seq : BitVec 32}
    (h : s.Canonical) : (issueElems s w es d lanes sf seq).Canonical := h.issueOn

theorem State.Canonical.loadReqs {w : Wave} {n : Norm} {reqs : List Req} {d : Dest} {lanes : BitVec 64} (h : s.Canonical) :
    (loadReqs s w n reqs d lanes).Canonical := by
  unfold Machine.loadReqs
  split
  next heq => exact h.check_ends heq
  next heq => exact (h.check_ok heq).issueElems
theorem State.Canonical.ldOp {r : Row} {n : Norm} (h : s.Canonical) : (ldOp r n s).Canonical := by
  unfold Machine.ldOp
  split
  · exact h
  · exact h.loadReqs
theorem State.Canonical.ldsOp {r : Row} {n : Norm} (h : s.Canonical) : (ldsOp r n s).Canonical := by
  unfold Machine.ldsOp
  split
  · exact h
  · exact h.loadReqs
theorem State.Canonical.storeReqs {w : Wave} {f : AccForm} {n : Norm} {reqs : List Req} (h : s.Canonical) :
    (storeReqs s w f n reqs).Canonical := by
  unfold Machine.storeReqs
  split
  next heq => exact h.check_ends heq
  next heq => exact (h.check_ok heq).issueElems
theorem State.Canonical.stOp {r : Row} {n : Norm} (h : s.Canonical) : (stOp r n s).Canonical := by
  unfold Machine.stOp
  split
  · exact h
  · exact h.storeReqs
theorem State.Canonical.stmskOp {r : Row} {n : Norm} (h : s.Canonical) : (stmskOp r n s).Canonical := by
  unfold Machine.stmskOp
  split
  · exact h
  · exact Res.Canonical.ite h h.storeReqs
theorem State.Canonical.stsOp {r : Row} {n : Norm} (h : s.Canonical) : (stsOp r n s).Canonical := by
  unfold Machine.stsOp
  split
  · exact h
  · exact h.storeReqs

/-! ### Sync cells, releases and acquires -/

theorem State.Canonical.setSig {ws : Sig} {sat : Bool} (h : s.Canonical) : (s.setSig ws sat).Canonical := h.modCurWave.modCurSpindle
theorem State.Canonical.cellRead {sc va pa : Nat} (h : s.Canonical) : (s.cellRead sc va pa).2.2.Canonical := by
  unfold State.cellRead
  split
  · split
    · exact h.l1Get
    · exact h.l1Flush.l2Read
  · exact h.l2Read
theorem State.Canonical.cellWrite {sc va pa v mask : Nat} (h : s.Canonical) : (s.cellWrite sc va pa v mask).Canonical := by
  unfold State.cellWrite
  split
  · exact h.l1Write.modCurWave.ite h.l2Write
  · exact h.l2Write
theorem State.Canonical.releaseStep {sc : Nat} (h : s.Canonical) : (s.releaseStep sc).2.Canonical := by
  unfold State.releaseStep
  split
  · refine .ite2 h (h.releaseLines.foldl fun _ _ h => ?_)
    split
    · exact h.pushSf
    · exact h
  · exact h
theorem State.Canonical.clearSig {sc : Nat} (h : s.Canonical) : (s.clearSig sc).Canonical := h.ite h.setSig
theorem State.Canonical.acquireDrop {sc : Nat} {sig : Sig} {sat : Bool} (h : s.Canonical) : (s.acquireDrop sc sig sat).Canonical
    := by
  unfold State.acquireDrop
  split
  · exact h.ite h.acquireLines
  · exact h
theorem State.Canonical.acquireEvery {sc : Nat} (h : s.Canonical) : (s.acquireEvery sc).Canonical := by
  unfold State.acquireEvery
  split
  · exact h.ite h.acquireAll
  · exact h
theorem State.Canonical.mergeSig {sc : Nat} {sig : Sig} {sat : Bool} (h : s.Canonical) : (s.mergeSig sc sig sat).Canonical :=
    h.ite h.setSig
theorem State.Canonical.relOp {r : Row} {n : Norm} (h : s.Canonical) : (relOp r n s).Canonical := by
  unfold Machine.relOp
  split
  · exact h
  · split
    next heq => exact h.locate_ends heq
    next heq =>
      have ht := h.locate_found heq
      refine Res.Canonical.ite ht ?_
      split
      next heq =>
        have hv := ht.cellRead.of_eq3 heq
        refine Res.Canonical.ite hv ?_
        split
        next heq => exact hv.releaseStep.of_eq heq
        next heq => exact (hv.releaseStep.of_eq heq).cellWrite.clearSig
theorem State.Canonical.acqOp {r : Row} {n : Norm} (h : s.Canonical) : (acqOp r n s).Canonical := by
  unfold Machine.acqOp
  split
  · exact h
  · split
    next heq => exact h.locate_ends heq
    next heq =>
      have ht := h.locate_found heq
      refine Res.Canonical.ite ht ?_
      split
      next heq =>
        have hv := ht.cellRead.of_eq3 heq
        exact Res.Canonical.ite hv.acquireEvery (.ite hv hv.acquireDrop.mergeSig.swr)
theorem State.Canonical.fenceOp {r : Row} {n : Norm} (h : s.Canonical) : (fenceOp r n s).Canonical := by
  unfold Machine.fenceOp
  split
  · exact h
  · refine Res.Canonical.ite h ?_
    split
    next heq => exact h.releaseStep.of_eq heq
    next heq => exact (h.releaseStep.of_eq heq).acquireEvery
theorem State.Canonical.fenceUnOp {r : Row} {n : Norm} (h : s.Canonical) : (fenceUnOp r n s).Canonical := by
  unfold Machine.fenceUnOp
  split
  · exact h
  · refine Res.Canonical.ite h ?_
    split
    · exact h
    · refine Res.Canonical.ite h ?_
      split
      next rs t heq =>
        extract_lets u
        have hu : u.Canonical := (h.releaseUn.of_eq heq).foldl fun _ _ h => by
          split
          · exact h.pushSf
          · exact h
        split
        · exact hu
        · exact hu.dropUn

/-! ### Atomics -/

theorem State.Canonical.atomPoisoned {path : Elem → Nat} {w : Wave} {es : List Elem} {d : Dest} {lanes : BitVec 64}
    (h : s.Canonical) : (atomPoisoned path s w es d lanes).Canonical := by
  unfold Machine.atomPoisoned
  refine Res.Canonical.ite h ?_
  split
  next t heq =>
    have ht : t.Canonical := h.issueOn.of_eq heq
    extract_lets ids u
    have hu : u.Canonical := ht.foldl fun _ _ h => h.performAll
    split
    · split
      · exact hu.setWave
      · exact hu
    · exact hu
  next => exact h.issueOn
theorem State.Canonical.askPeers {es : List Elem} (h : s.Canonical) : (s.askPeers es).2.Canonical := by
  induction es generalizing s with
  | nil => exact h
  | cons e rest ih => exact ih (.ite h h)
theorem State.Canonical.atomRelaxed {n : Norm} {w : Wave} {sc : Nat} (h : s.Canonical) : (atomRelaxed n s w sc).Canonical := by
  unfold Machine.atomRelaxed
  split
  next heq => exact h.check_ends heq
  next heq =>
    have ht := h.check_ok heq
    split
    next heq =>
      have hu := ht.askPeers.of_eq heq
      exact Res.Canonical.ite hu.atomPoisoned hu.issueElems
theorem atomCell_canonical {n : Norm} {w : Wave} {sc : Nat} {rel acq : Bool} {ws : Sig} {wsat : Bool}
    {q : Nat × Nat × Nat × BitVec 64 × BitVec 64} {acc : AtomAcc} (h : acc.s.Canonical) :
    (atomCell n w sc rel acq ws wsat acc q).s.Canonical := by
  unfold atomCell
  split
  split
  next heq =>
    have hv := h.cellRead.of_eq3 heq
    refine State.Canonical.vput ?_
    split
    · exact hv
    · exact hv.cellWrite.ite hv.cellWrite
theorem State.Canonical.sampleNow {path va space : Nat} (h : s.Canonical) : (s.sampleNow path va space).Canonical := h.modCurWave
theorem State.Canonical.atomOrdered {n : Norm} {w : Wave} {sc : Nat} (h : s.Canonical) : (atomOrdered n s w sc).Canonical := by
  unfold Machine.atomOrdered
  extract_lets acq rel
  split
  next heq => exact h.check_ends heq
  next l sf t heq =>
    have ht := h.check_ok heq
    extract_lets cells look bad unp good
    refine Res.Canonical.ite ht (.ite ht ?_)
    clear_value bad
    cases bad with
    | cons b rest => exact ht
    | nil =>
      have hp : (if rel then t.releaseStep sc else (none, t)).2.Canonical := .ite2 ht.releaseStep ht
      dsimp -zeta only
      generalize (if rel then t.releaseStep sc else (none, t)) = p at hp ⊢
      obtain ⟨o, u⟩ := p
      cases o with
      | some a => exact hp
      | none =>
        dsimp -zeta only at hp ⊢
        generalize u.curSig = g
        obtain ⟨ws, wsat⟩ := g
        dsimp -zeta only
        extract_lets r t1 t2
        have hr : r.s.Canonical :=
          List.foldlRecOn (motive := fun acc : AtomAcc => acc.s.Canonical) good _ hp fun acc hacc q _ => atomCell_canonical hacc
        have h1 : t1.Canonical := hr.clearSig.ite hr
        have h2 : t2.Canonical := .ite (.mergeSig (.acquireDrop (h1.ite h1.acquireEvery))) h1
        clear_value t2 unp
        cases unp with
        | cons q rest => exact h2.countDone
        | nil =>
          clear_value cells
          cases cells with
          | nil => exact h2
          | cons q rest => exact h2.sampleNow.countDone
theorem State.Canonical.atomOp {r : Row} {n : Norm} (h : s.Canonical) : (atomOp r n s).Canonical := by
  unfold Machine.atomOp
  split
  · exact h
  · exact h
  · exact Res.Canonical.ite h.atomRelaxed h.atomOrdered
theorem State.Canonical.sigaddOp {r : Row} {n : Norm} (h : s.Canonical) : (sigaddOp r n s).Canonical := by
  unfold Machine.sigaddOp
  split
  · exact h
  · extract_lets q
    split
    next heq => exact h.check_ends heq
    next heq => exact (h.check_ok heq).issueElems

/-! ### Hints and base translation registers -/

theorem State.Canonical.hintLines {w : Wave} {n : Norm} (h : s.Canonical) : (s.hintLines w n).2.Canonical := h.placeAll
theorem State.Canonical.prefOp {r : Row} {n : Norm} (h : s.Canonical) : (prefOp r n s).Canonical := by
  unfold Machine.prefOp
  split
  · exact h
  · exact h.hintLines.foldl fun _ _ h => h.ite h.l1Get
theorem State.Canonical.evictOp {r : Row} {n : Norm} (h : s.Canonical) : (evictOp r n s).Canonical := by
  unfold Machine.evictOp
  split
  · exact h
  · exact h.hintLines.foldl fun _ _ h => h.l1Flush
theorem State.Canonical.btransOp {r : Row} {n : Norm} (h : s.Canonical) : (btransOp r n s).Canonical := by
  unfold Machine.btransOp
  split
  · exact h
  · extract_lets v vb set fills
    refine Res.Canonical.ite h ?_
    split
    next heq => exact (h.translate.of_eq heq).modCurWave
    next heq =>
      have ht := h.translate.of_eq heq
      split
      next heq => exact (ht.translate.of_eq heq).modCurWave
      next heq => exact (ht.translate.of_eq heq).modCurWave

end Sys2Proof.Machine
end

section
/-! ### The Spindle stream's accesses, barriers, timelines and register blocks -/

namespace Sys2Proof.Machine

/-- The state beside the elements of an access of the Spindle stream is canonical. -/
def SpElems.Canonical : SpElems → Prop
  | .ok _ s => s.Canonical
  | .ends r => r.Canonical

theorem SpElems.Canonical.of_eq {q r : SpElems} (h : q.Canonical) (e : q = r) : r.Canonical := e ▸ h

/-- The state in which a slot has been written is canonical. -/
def SlotWrite.Canonical : SlotWrite → Prop
  | .done s => s.Canonical
  | _ => True

theorem SlotWrite.Canonical.of_eq {q r : SlotWrite} (h : q.Canonical) (e : q = r) : r.Canonical := e ▸ h

variable {s : State}

theorem State.Canonical.cwaitOp {r : Row} {n : Norm} (h : s.Canonical) : (cwaitOp r n s).Canonical := by
  unfold Machine.cwaitOp
  split
  · exact h
  · exact Res.Canonical.ite h h
theorem State.Canonical.spRead {p : Spindle} {e : Elem} (h : s.Canonical) : (s.spRead p e).2.Canonical := by
  unfold State.spRead
  split
  · split
    next heq => exact h.remoteNow.of_eq heq
    next heq => exact h.remoteNow.of_eq heq
  · exact h.coreRead
  · exact h.l2Read
theorem State.Canonical.spWrite {p : Spindle} {e : Elem} (h : s.Canonical) : (s.spWrite p e).2.Canonical := by
  unfold State.spWrite
  split
  · split
    next heq => exact h.remoteNow.of_eq heq
    next heq => exact h.remoteNow.of_eq heq
  · exact h.corePut.ite h.csWrite
  · exact h.l2Write
theorem State.Canonical.spElems {f : AccForm} {n : Norm} {data : Nat} {op : ElemOp} (h : s.Canonical) :
    (s.spElems f n data op).Canonical := by
  unfold State.spElems
  extract_lets r
  split
  next heq => exact h.checkReqs.of_eq heq
  next heq => exact h.checkReqs.of_eq heq
theorem State.Canonical.spElems_ok {f : AccForm} {n : Norm} {data : Nat} {op : ElemOp} {es : List Elem} {t : State}
    (h : s.Canonical) (e : s.spElems f n data op = .ok es t) : t.Canonical := h.spElems.of_eq e
theorem State.Canonical.spElems_ends {f : AccForm} {n : Norm} {data : Nat} {op : ElemOp} {r : Res} (h : s.Canonical)
    (e : s.spElems f n data op = .ends r) : r.Canonical := h.spElems.of_eq e
theorem State.Canonical.xldOp {r : Row} {n : Norm} (h : s.Canonical) : (xldOp r n s).Canonical := by
  unfold Machine.xldOp
  split
  · exact h
  · split
    next heq => exact h.spElems_ends heq
    next heq =>
      have ht := h.spElems_ok heq
      split
      next v mark u heq =>
        have hu : u.Canonical := by
          refine .of_eq3 (.foldl3 ?_ fun acc e h => ?_) heq
          · exact ht
          · refine .ite (.logSpindle ?_) ?_ <;> exact .ite2 h.spRead.takeBytes h.spRead
        exact State.Canonical.ite hu.swr.modCurSpindle hu.swr
theorem State.Canonical.xstOp {r : Row} {n : Norm} (h : s.Canonical) : (xstOp r n s).Canonical := by
  unfold Machine.xstOp
  split
  · exact h
  · split
    next heq => exact h.spElems_ends heq
    next heq =>
      have ht := h.spElems_ok heq
      split
      next bad u heq =>
        have hu : u.Canonical := by
          refine .of_eq (.foldl2 ?_ fun acc e h => ?_) heq
          · exact ht
          · exact h.spWrite
        extract_lets ws
        split
        · exact hu.logSpindle
        · exact hu.setSig

/-! ### Barriers and timelines -/

theorem State.Canonical.release120 {k : State → Res} {reason sc : Nat} (h : s.Canonical) (hk : ∀ t, t.Canonical → (k t).Canonical) :
    (release120 s reason sc k).Canonical := by
  refine Res.Canonical.ite h ?_
  split
  next heq => exact h.releaseStep.of_eq heq
  next heq => exact hk _ (h.releaseStep.of_eq heq)
theorem State.Canonical.acquire120 {sc : Nat} (h : s.Canonical) : (s.acquire120 sc).Canonical := h.ite h.acquireEvery.setSig
theorem State.Canonical.barrierWork {n : Norm} {w : Wave} {b : Block} {sc : Nat} (h : s.Canonical) :
    (barrierWork n s w b sc).Canonical := by
  unfold Machine.barrierWork
  extract_lets i now
  refine Res.Canonical.ite (.ite h h.acquire120) ?_
  split
  · exact Res.Canonical.ite h h.acquire120
  · refine Res.Canonical.ite h (h.release120 fun t ht => ?_)
    extract_lets u passed
    have hu : u.Canonical := ht.modBlock
    clear_value u passed
    exact Res.Canonical.ite hu.swr (.ite hu.acquire120 hu)
theorem State.Canonical.barOp {r : Row} {n : Norm} (h : s.Canonical) : (barOp r n s).Canonical := by
  unfold Machine.barOp
  split
  · exact h
  · exact h
  · split
    · exact h
    · exact Res.Canonical.ite h h.barrierWork
theorem State.Canonical.bbArrive {a off : Nat} {n e : Int} (h : s.Canonical) : (s.bbArrive a off n e).2.Canonical := by
  unfold State.bbArrive
  extract_lets flags c armed phase turn v
  exact .ite2 h (.ite2 h (h.withCs h.cs_writeNat))
theorem State.Canonical.bbOp {r : Row} {n : Norm} (h : s.Canonical) : (bbOp r n s).Canonical := by
  unfold Machine.bbOp
  split
  · exact h
  · exact h
  · split
    · exact h
    · extract_lets off a last poison cnt e
      refine Res.Canonical.ite (.ite h (.ite h (.ite h ?_))) (.ite h (.ite h.acquireEvery (.ite h (.ite h h.acquire120))))
      split
      · exact h
      · exact h.release120 fun t ht => ht.bbArrive
theorem State.Canonical.grantWaiter (h : s.Canonical) : s.grantWaiter.Canonical := by
  unfold State.grantWaiter
  split
  · extract_lets t
    have ht : t.Canonical := h
    split
    next heq =>
      have hu := ht.l2Read.of_eq heq
      exact hu.releaseWaiter.ite hu
  · exact h
theorem State.Canonical.timelineWrite {who : Who} {va pa : Nat} {inc : Bool} {a : BitVec 64} (h : s.Canonical) :
    (s.timelineWrite who va pa inc a).Canonical := by
  refine h.l2Put.ite ?_
  split
  next heq =>
    have ht := h.l2Read.of_eq heq
    exact ht.l2Put.ite ht.l2Put.logCtx
theorem State.Canonical.tlwaitDone {sc : Nat} (h : s.Canonical) : (tlwaitDone s sc).Canonical := h.acquire120.modCurWave
theorem State.Canonical.timelineWork {n : Norm} {w : Wave} {sc : Nat} {va : BitVec 64} {pa : Nat} (h : s.Canonical) :
    (timelineWork n s w sc va pa).Canonical := by
  unfold Machine.timelineWork
  extract_lets a t
  have ht : t.Canonical := h.l1Flush
  refine Res.Canonical.ite h (.ite h (.ite (ht.acquireEvery.ite ht) ?_))
  split
  next u heq =>
    have hu := ht.l2Read.of_eq heq
    refine Res.Canonical.ite hu (.ite (hu.release120 fun t ht => ht.timelineWrite) (.ite hu.tlwaitDone ?_))
    extract_lets wt v
    have hv : v.Canonical := hu
    exact hv.setWait.grantWaiter
theorem State.Canonical.timelineOp {r : Row} {n : Norm} (h : s.Canonical) : (timelineOp r n s).Canonical := by
  unfold Machine.timelineOp
  split
  · exact h
  · exact h
  · split
    · exact h.tlwaitDone
    · exact h
    · refine Res.Canonical.ite h.tlwaitDone ?_
      split
      next heq => exact h.locate_ends heq
      next heq => exact (h.locate_found heq).timelineWork
theorem State.Canonical.twaitOp {r : Row} {n : Norm} (h : s.Canonical) : (twaitOp r n s).Canonical := by
  unfold Machine.twaitOp
  split
  · exact h
  · exact Res.Canonical.ite h h

/-! ### Spindle programs asked for, register blocks and slots -/

theorem State.Canonical.spnRequest {w : Wave} (h : s.Canonical) : (s.spnRequest w).Canonical := .ite h h
theorem State.Canonical.dropSpnRequest {co k : Nat} (h : s.Canonical) : (s.dropSpnRequest co k).Canonical := h
theorem State.Canonical.spnrunOp {r : Row} {n : Norm} (h : s.Canonical) : (spnrunOp r n s).Canonical := by
  unfold Machine.spnrunOp
  split
  · exact h
  · extract_lets entry cl
    refine Res.Canonical.ite h (.ite h (h.release120 fun t ht => ?_))
    extract_lets u mine p v
    have hu : u.Canonical := ht.spnRequest
    have hv : v.Canonical := hu.dropSpnRequest
    clear_value v u
    exact Res.Canonical.ite hu hv
theorem State.Canonical.forWave {f : State → State} {co k : Nat} (h : s.Canonical) (hf : ∀ t, t.Canonical → (f t).Canonical) :
    (s.forWave co k f).Canonical :=
  hf { s with cur := .wave co k } h
theorem State.Canonical.clearStore {a n : Nat} (h : s.Canonical) : (s.clearStore a n).Canonical := h.withCs (wf_clear _ _ _ h.2.1)
theorem State.Canonical.clearBlocks {co : Nat} {bs : List Nat} (h : s.Canonical) : (s.clearBlocks co bs).Canonical := h.foldl fun
    _ _ h => h.clearStore
theorem State.Canonical.claimDeadlock {l b : Nat} (h : s.Canonical) : (s.claimDeadlock l b).Canonical := by
  unfold State.claimDeadlock
  split
  · exact h
  · refine h.ite (h.setBlock.foldl fun _ _ h => .ite ?_ h)
    exact h.forWave fun t ht => ht.takeTrap.settle
theorem State.Canonical.grantClaim {l b : Nat} (h : s.Canonical) : (s.grantClaim l b).Canonical := by
  unfold State.grantClaim
  split
  · exact h
  · split
    · exact h
    · split
      · exact h
      · split
        · exact h
        · exact h.ite h.setBlock.clearBlocks.modWave
theorem State.Canonical.regsurrenderOp {r : Row} {n : Norm} (h : s.Canonical) : (regsurrenderOp r n s).Canonical := by
  unfold Machine.regsurrenderOp
  split
  · exact h
  · extract_lets k keep gone under t inGone u
    have ht : t.Canonical := h.modBlock
    have hu : u.Canonical := ht
    clear_value u
    exact Res.Canonical.ite h (.ite h hu.modCurWave)
theorem State.Canonical.regclaimOp {r : Row} {n : Norm} (h : s.Canonical) : (regclaimOp r n s).Canonical := by
  unfold Machine.regclaimOp
  split
  · exact h
  · extract_lets k t u
    split
    · exact h
    · exact h
    · have hu : u.Canonical := h.modBlock.setWait.grantClaim
      clear_value u
      refine Res.Canonical.ite h ?_
      split
      · exact Res.Canonical.ite hu hu.claimDeadlock
      · exact hu
theorem State.Canonical.slotWrite {c cl i : Nat} {pieces : List (Nat × Nat × Nat)} (h : s.Canonical) :
    (s.slotWrite c cl i pieces).Canonical := by
  unfold State.slotWrite
  split
  · exact trivial
  · extract_lets o n
    split
    · exact trivial
    · split
      · exact trivial
      · split
        · exact trivial
        · refine State.Canonical.modSpindle (h.withOm ?_)
          exact List.foldlRecOn (motive := fun m : Memory => m.wf = true) pieces _ h.2.2.1 fun m hm q _ => wf_writeNat _ m _ _ hm
theorem State.Canonical.slotWrite_done {c cl i : Nat} {pieces : List (Nat × Nat × Nat)} {t : State} (h : s.Canonical)
    (e : s.slotWrite c cl i pieces = .done t) : t.Canonical := h.slotWrite.of_eq e
theorem State.Canonical.ostoreOp {r : Row} {n : Norm} (h : s.Canonical) : (ostoreOp r n s).Canonical := by
  unfold Machine.ostoreOp
  split
  · exact h
  · extract_lets i size lanes pieces bound past
    refine Res.Canonical.ite h (.ite h ?_)
    split
    · exact h
    · exact h
    next heq => exact Res.Canonical.ite h (h.slotWrite_done heq).modCurWave.countDone

end Sys2Proof.Machine
end

section
/-! ### Engines: their accesses, drains, matrix operations and copies -/

namespace Sys2Proof.Machine

/-- The state beside placed bytes, or beside what stops them, is canonical. -/
def Placed.Canonical : Placed → Prop
  | .ok _ s => s.Canonical
  | .cause _ _ s => s.Canonical
  | .missing _ _ _ s => s.Canonical

theorem Placed.Canonical.of_eq {q r : Placed} (h : q.Canonical) (e : q = r) : r.Canonical := e ▸ h

/-- The state in the answer to the device's own read is canonical. -/
def DevRead.Canonical : DevRead → Prop
  | .data _ s => s.Canonical
  | .cause _ _ s => s.Canonical
  | .missing _ _ s => s.Canonical

theorem DevRead.Canonical.of_eq {q r : DevRead} (h : q.Canonical) (e : q = r) : r.Canonical := e ▸ h

/-- The state beside a descriptor that a handle names is canonical. -/
def Handle.Canonical : Handle → Prop
  | .ok _ s => s.Canonical
  | .ends r => r.Canonical

theorem Handle.Canonical.of_eq {q r : Handle} (h : q.Canonical) (e : q = r) : r.Canonical := e ▸ h

/-- The state after an element of a drain is canonical. -/
def DrainStep.Canonical : DrainStep → Prop
  | .moved _ s => s.Canonical
  | .held _ s => s.Canonical
  | .fault _ _ s => s.Canonical

theorem DrainStep.Canonical.of_eq {q r : DrainStep} (h : q.Canonical) (e : q = r) : r.Canonical := e ▸ h

/-- The state after a part of a copy is canonical. -/
def CopyStep.Canonical : CopyStep → Prop
  | .moved _ _ s => s.Canonical
  | .held _ s => s.Canonical
  | .fault _ _ _ s => s.Canonical

theorem CopyStep.Canonical.of_eq {q r : CopyStep} (h : q.Canonical) (e : q = r) : r.Canonical := e ▸ h

/-- A property of both branches holds of the choice between them. -/
theorem holds_ite {α : Type} {P : α → Prop} {a b : α} {c : Prop} [Decidable c] (ha : P a) (hb : P b) : P (if c then a else b) := by
  split
  · exact ha
  · exact hb

theorem State.Canonical.of_eq1 {α : Type} {p : State × α} {t : State} {a : α} (h : p.1.Canonical) (e : p = (t, a)) : t.Canonical
    := by
  rw [e] at h
  exact h

variable {s : State}

/-! #### Accesses of an engine -/

theorem State.Canonical.engineRead {c : Nat} {ps : List Piece} (h : s.Canonical) : (s.engineRead c ps).2.2.Canonical := by
  induction ps generalizing s with
  | nil => exact h
  | cons p rest ih =>
    refine ih ?_
    split
    · split
      next heq => exact h.remoteNow.of_eq heq
      next heq => exact (h.remoteNow.of_eq heq).logCtx
    · exact h.coreRead
    · exact h.l2Read
theorem State.Canonical.engineWrite {who : Who} {v : Nat} {ps : List Piece} (h : s.Canonical) : (s.engineWrite who v ps).Canonical
    := by
  induction ps generalizing s v with
  | nil => exact h
  | cons p rest ih =>
    refine ih ?_
    split
    · split
      next heq => exact (h.remoteNow.of_eq heq).logCtx
      next heq => exact h.remoteNow.of_eq heq
    · exact h.corePut.ite h.csWrite
    · exact h.l2Put
theorem State.Canonical.enginePlace {co c : Nat} {need : Need} {answers : List Answer} {bad : State → Nat → Nat → Option Nat}
    {l : List (BitVec 64 × Nat)} (h : s.Canonical) : (s.enginePlace co c need answers bad l).Canonical := by
  induction l generalizing s with
  | nil => exact h
  | cons q rest ih =>
    unfold State.enginePlace
    refine holds_ite (P := Placed.Canonical) h ?_
    split
    · exact h
    · split
      next heq => exact h.translate.of_eq heq
      next heq => exact h.translate.of_eq heq
      next heq => exact h.translate.of_eq heq
      next e t heq =>
        have ht := h.translate.of_eq heq
        extract_lets pa
        cases bad t pa q.2 with
        | some k => exact ht
        | none =>
          cases t.frameCause c pa need.user with
          | some k => exact ht
          | none =>
            dsimp only
            split
            next u heq =>
              have hu : u.Canonical := (ih ht).of_eq heq
              exact hu
            next => exact ih ht
theorem State.Canonical.devRead {co c : Nat} {answers : List Answer} {va : BitVec 64} {n : Nat} {need : Need} (h : s.Canonical) :
    (s.devRead co c answers va n need).Canonical := by
  unfold State.devRead
  split
  next heq => exact h.enginePlace.of_eq heq
  next heq => exact h.enginePlace.of_eq heq
  next heq =>
    have ht : State.Canonical _ := h.enginePlace.of_eq heq
    split
    · exact ht
    · split
      next heq => exact ht.engineRead.of_eq3 heq
      next heq => exact ht.engineRead.of_eq3 heq
theorem State.Canonical.descRead {k : BitVec 512 → State → Handle} {va : BitVec 64} {n : Nat} (h : s.Canonical)
    (hk : ∀ v t, t.Canonical → (k v t).Canonical) : (s.descRead va n k).Canonical := by
  unfold State.descRead
  extract_lets key
  split
  · exact hk _ _ h
  · split
    next heq => exact h.devRead.of_eq heq
    next t heq =>
      have ht : t.Canonical := h.devRead.of_eq heq
      exact ht.meetMissing
    next v t heq =>
      have ht : t.Canonical := h.devRead.of_eq heq
      exact hk _ _ ht
theorem State.Canonical.handle {va : BitVec 64} {want : Nat} (h : s.Canonical) : (s.handle va want).Canonical := by
  unfold State.handle
  extract_lets slot gen c log
  refine holds_ite (P := Handle.Canonical) h (h.descRead fun e t ht => ?_)
  extract_lets hdr
  exact holds_ite (P := Handle.Canonical) ht (holds_ite (P := Handle.Canonical) ht (ht.descRead fun o u hu => hu))

/-! #### Locks, and lines written past an L1 -/

theorem State.Canonical.unlock {cl : Nat} {o : Option (Nat × Nat × Nat)} (h : s.Canonical) : (s.unlock cl o).Canonical := h
theorem State.Canonical.dropWritten {cl : Nat} {m : List (Nat × BitVec 128)} (h : s.Canonical) : (s.dropWritten cl m).Canonical :=
    h.foldl fun _ _ h => h.l1Set.evictLine
theorem State.Canonical.writeBackRange {co c lo hi : Nat} (h : s.Canonical) : (s.writeBackRange co c lo hi).Canonical := h.foldl
    fun _ _ h => h.writeBackRouted

/-! #### Slots and matrix operations -/

theorem State.Canonical.oclaimOp {r : Row} {n : Norm} (h : s.Canonical) : (oclaimOp r n s).Canonical := by
  unfold Machine.oclaimOp
  split
  · exact h
  · exact Res.Canonical.ite h (.ite h h)
theorem State.Canonical.orelOp {r : Row} {n : Norm} (h : s.Canonical) : (orelOp r n s).Canonical := by
  unfold Machine.orelOp
  split
  · exact h
  · exact Res.Canonical.ite h h.setSpindle
theorem State.Canonical.owaitOp {r : Row} {n : Norm} (h : s.Canonical) : (owaitOp r n s).Canonical := by
  unfold Machine.owaitOp
  split
  · exact h
  · split <;> exact h
theorem State.Canonical.countMacs {c : Nat} {o : Mma} {k : Nat} (h : s.Canonical) : (s.countMacs c o k).Canonical := h
theorem State.Canonical.mmaOp {r : Row} {n : Norm} (h : s.Canonical) : (mmaOp r n s).Canonical := by
  unfold Machine.mmaOp
  split
  · exact h
  · extract_lets o pads
    refine Res.Canonical.ite h ?_
    split
    · exact h
    · refine Res.Canonical.ite h (.ite h (.ite h (.ite h ?_)))
      split
      · exact h.countMacs.setSpindle
      · exact Res.Canonical.ite h h.countMacs.setSpindle
theorem State.Canonical.aclrOp {r : Row} {n : Norm} (h : s.Canonical) : (aclrOp r n s).Canonical := by
  unfold Machine.aclrOp
  split
  · exact h
  · extract_lets t a
    split
    · exact h
    · exact h.setSpindle
theorem State.Canonical.ascaleOp {r : Row} {n : Norm} (h : s.Canonical) : (ascaleOp r n s).Canonical := by
  unfold Machine.ascaleOp
  split
  · exact h
  · extract_lets t a cols x off scaledCols
    refine Res.Canonical.ite h ?_
    split
    · exact h
    · exact Res.Canonical.ite h h.setSpindle

/-! #### Drains -/

theorem State.Canonical.adrainOp {r : Row} {n : Norm} (h : s.Canonical) : (adrainOp r n s).Canonical := by
  unfold Machine.adrainOp
  split
  · exact h
  · extract_lets ctl xy gang a t m cols ty box data user flags
    refine Res.Canonical.ite h ?_
    split
    · exact h
    · refine Res.Canonical.ite h ?_
      split
      next heq => exact h.handle.of_eq heq
      next rec_ u heq =>
        have hu : u.Canonical := h.handle.of_eq heq
        extract_lets l size range d v
        have hv : v.Canonical := by
          dsimp only [v]
          clear_value range
          cases range with
          | none => exact hu
          | some p => exact State.Canonical.modCurSpindle hu
        clear_value v
        exact Res.Canonical.ite hu (.ite hu (.ite hu hv.modCurSpindle.orFlags))
theorem State.Canonical.drainElement {p : Spindle} {d : Drain} (h : s.Canonical) : (s.drainElement p d).Canonical := by
  unfold State.drainElement
  extract_lets e i l
  refine holds_ite (P := DrainStep.Canonical) h ?_
  extract_lets va
  split
  next heq => exact h.enginePlace.of_eq heq
  next t heq =>
    have ht : t.Canonical := h.enginePlace.of_eq heq
    extract_lets info
    split
    next heq => exact ht.needTag heq
    next => exact ht
  next t heq =>
    have ht : t.Canonical := h.enginePlace.of_eq heq
    exact ht.engineWrite
theorem State.Canonical.drainRun {cl goal n : Nat} (h : s.Canonical) : (s.drainRun cl goal n).1.Canonical := by
  induction n generalizing s with
  | zero => exact h
  | succ n ih =>
    unfold State.drainRun
    split
    · exact h
    · split
      · exact h
      · split
        · exact h
        · split
          next t heq =>
            have ht : t.Canonical := h.drainElement.of_eq heq
            exact ih ht.modSpindle
          next t heq =>
            have ht : t.Canonical := h.drainElement.of_eq heq
            exact ht.modSpindle
          next heq => exact h.drainElement.of_eq heq
theorem State.Canonical.drainAdvance {cl n : Nat} (h : s.Canonical) : (s.drainAdvance cl n).Canonical := by
  unfold State.drainAdvance
  split
  · exact h.drainRun
  · exact h
theorem State.Canonical.drainReport {p : Spindle} {k g : Nat} {a : BitVec 64} (h : s.Canonical) :
    (s.drainReport p k g a).Canonical := h.modSpindle.makeFault
theorem State.Canonical.drainEnd {p : Spindle} {d : Drain} (h : s.Canonical) : (s.drainEnd p d).Canonical := by
  unfold State.drainEnd
  extract_lets t mine locked u
  have ht : t.Canonical := h.dropWritten
  have hu : u.Canonical := .ite ht ht
  clear_value u
  exact hu.modSpindle
theorem State.Canonical.drainComplete {cl : Nat} (h : s.Canonical) : (s.drainComplete cl).Canonical := by
  unfold State.drainComplete
  split
  · exact h
  · split
    next t o heq =>
      have ht : t.Canonical := h.drainRun.of_eq1 heq
      split
      · exact h
      · split
        · exact h
        · refine ht.ite ?_
          extract_lets u
          have hu : u.Canonical := ht.drainEnd
          clear_value u
          split
          · refine .ite ?_ hu
            split
            next heq => exact (hu.bbArrive.of_eq heq).drainReport
            next heq => exact hu.bbArrive.of_eq heq
          · exact hu
theorem State.Canonical.drainFault {cl : Nat} (h : s.Canonical) : (s.drainFault cl).Canonical := by
  unfold State.drainFault
  split
  · exact h
  · split
    next t c a heq =>
      have ht : t.Canonical := h.drainRun.of_eq1 heq
      split
      · exact h
      · split
        · exact ht.drainEnd.drainReport.ite h
        · exact h
    · exact h
theorem State.Canonical.batcomOp {r : Row} {n : Norm} (h : s.Canonical) : (batcomOp r n s).Canonical := h.modCurSpindle
theorem State.Canonical.batwaitOp {r : Row} {n : Norm} (h : s.Canonical) : (batwaitOp r n s).Canonical := by
  unfold Machine.batwaitOp
  split
  · exact h
  · exact Res.Canonical.ite h (.ite h h)
theorem State.Canonical.slotReturned {cl : Nat} (h : s.Canonical) : (s.slotReturned cl).Canonical := h
theorem State.Canonical.slotReadEnds {cl k : Nat} (h : s.Canonical) : (s.slotReadEnds cl k).Canonical := by
  unfold State.slotReadEnds
  split
  · exact h.setSpindle.slotReturned.ite h
  · exact h
theorem State.Canonical.matrixOpEnds {cl : Nat} (h : s.Canonical) : (s.matrixOpEnds cl).Canonical := by
  unfold State.matrixOpEnds
  split
  · exact h.setSpindle.slotReturned.ite h
  · exact h
theorem State.Canonical.reissueSpindle {cl : Nat} (h : s.Canonical) : (s.reissueSpindle cl).Canonical := by
  unfold State.reissueSpindle
  split
  · split <;> exact h
  · exact h

/-! #### Copies -/

theorem State.Canonical.lockCopy {w : Wave} {k : Nat} {c : Copy} (h : s.Canonical) : (s.lockCopy w k c).Canonical := h
theorem State.Canonical.issueCopy {w : Wave} {k : Nat} {c : Copy} (h : s.Canonical) : (issueCopy s w k c).Canonical := by
  unfold Machine.issueCopy
  extract_lets late t u ws
  have ht : t.Canonical := h.lockCopy
  have hu : u.Canonical := ht.foldl fun _ _ h => h.ite h.writeBackRange
  clear_value u
  exact Res.Canonical.ite h.modCurWave hu.modCurWave
theorem State.Canonical.withLayout {k : BitVec 512 → State → Res} {va : BitVec 64} (h : s.Canonical)
    (hk : ∀ v t, t.Canonical → (k v t).Canonical) : (withLayout s va k).Canonical := by
  unfold Machine.withLayout
  split
  next heq => exact h.handle.of_eq heq
  next heq => exact hk _ _ (h.handle.of_eq heq)
theorem State.Canonical.cpFirst {n : Norm} {w : Wave} (h : s.Canonical) : (cpFirst n s w).Canonical := by
  unfold Machine.cpFirst
  extract_lets red g group size
  refine Res.Canonical.ite h (.ite h (h.withLayout fun src t ht => ?_))
  extract_lets go
  have hgo : ∀ dst u, u.Canonical → (go dst u).Canonical := fun dst u hu => Res.Canonical.ite hu (.ite hu hu.issueCopy)
  exact Res.Canonical.ite (hgo _ _ ht) (ht.withLayout hgo)
theorem State.Canonical.cpOp {r : Row} {n : Norm} (h : s.Canonical) : (cpOp r n s).Canonical := by
  unfold Machine.cpOp
  split
  · exact h
  · split
    · exact h.issueCopy
    · exact h.cpFirst
theorem State.Canonical.holdCopy {w : Wave} {c : Copy} {wr cow : Bool} {a : BitVec 64} (h : s.Canonical) :
    (holdCopy s w c wr cow a).Canonical := by
  unfold Machine.holdCopy
  extract_lets info
  split
  next heq => exact h.needTag heq
  next => exact h
theorem State.Canonical.copySource {k : List (BitVec 8) → State → CopyStep} {w : Wave} {c : Copy} {i : Nat} (h : s.Canonical)
    (hk : ∀ v t, t.Canonical → (k v t).Canonical) :
    (s.copySource w c i k).Canonical := by
  unfold State.copySource
  extract_lets l
  refine holds_ite (P := CopyStep.Canonical) (holds_ite (P := CopyStep.Canonical) (hk _ _ h) (hk _ _ h)) ?_
  split
  next heq => exact h.enginePlace.of_eq heq
  next t heq =>
    have ht : t.Canonical := h.enginePlace.of_eq heq
    exact ht.holdCopy
  next t heq =>
    have ht : t.Canonical := h.enginePlace.of_eq heq
    split
    · exact ht
    · split
      next heq => exact hk _ _ (ht.engineRead.of_eq3 heq)
theorem State.Canonical.copyElem {w : Wave} {c : Copy} {g : Nat} (h : s.Canonical) : (s.copyElem w c g).Canonical := by
  unfold State.copyElem
  extract_lets l i
  refine holds_ite (P := CopyStep.Canonical) h (h.copySource fun v t ht => ?_)
  extract_lets need
  split
  next heq => exact ht.enginePlace.of_eq heq
  next u heq =>
    have hu : u.Canonical := ht.enginePlace.of_eq heq
    exact hu.holdCopy
  next u heq =>
    have hu : u.Canonical := ht.enginePlace.of_eq heq
    extract_lets d v
    refine holds_ite (P := CopyStep.Canonical) ?_ hu.engineWrite
    have hv : v.Canonical := hu.foldl fun _ _ h => h.l1Flush
    clear_value v
    split
    · exact hv
    · split
      next heq =>
        have hx := hv.engineRead.of_eq3 heq
        split
        · exact hx.engineWrite
        · exact hx
theorem State.Canonical.copySlotWrite {w : Wave} {c : Copy} {g : Nat} {bytes : List (BitVec 8)} (h : s.Canonical) :
    (s.copySlotWrite w c g bytes).Canonical := by
  unfold State.copySlotWrite
  extract_lets now
  split
  · exact h
  · exact h
  next heq => exact h.slotWrite_done heq
theorem State.Canonical.copySlot {w : Wave} {c : Copy} {g n : Nat} (h : s.Canonical) : (s.copySlot w c g n).Canonical := by
  induction n generalizing s c g with
  | zero => exact h.copySlotWrite
  | succ n ih =>
    unfold State.copySlot
    extract_lets at_
    refine holds_ite (P := CopyStep.Canonical) h.copySlotWrite ?_
    have hsrc : (s.copySource w c (at_ / c.unit)
        (fun v s => .moved { c with pend := c.pend ++ v.drop (at_ % c.unit) } g s)).Canonical := h.copySource fun v t ht => ht
    split
    next heq => exact ih (hsrc.of_eq heq)
    next heq => exact holds_ite (P := CopyStep.Canonical) (hsrc.of_eq heq) h.copySlotWrite
    next heq => exact holds_ite (P := CopyStep.Canonical) (hsrc.of_eq heq) h.copySlotWrite
theorem State.Canonical.copyMove {w : Wave} {c : Copy} {g : Nat} (h : s.Canonical) : (s.copyMove w c g).Canonical := holds_ite
    (P := CopyStep.Canonical) h.copySlot h.copyElem
theorem State.Canonical.setToken {w : Wave} {k : Nat} {t : Token} (h : s.Canonical) : (s.setToken w k t).Canonical := h.modWave
theorem State.Canonical.copyRelease {w : Wave} {k : Nat} {c : Copy} (h : s.Canonical) : (s.copyRelease w k c).Canonical :=
    h.dropWritten.unlock
theorem State.Canonical.copyDone {w : Wave} {k : Nat} {c : Copy} (h : s.Canonical) : (s.copyDone w k c).Canonical := by
  unfold State.copyDone
  extract_lets t b arrival
  have ha : arrival.2.Canonical := by
    dsimp only [arrival]
    split
    · exact .ite2 h.copyRelease.bbArrive h.copyRelease
    · exact h.copyRelease
  clear_value arrival
  split
  next => exact State.Canonical.setToken ha
  next => exact State.Canonical.setToken ha
theorem State.Canonical.copyFail {w : Wave} {k g : Nat} {c : Copy} {cause : Nat} {a : BitVec 64} {acc : Nat} (h : s.Canonical) :
    (s.copyFail w k g c cause a acc).Canonical := h.copyRelease.setToken.makeFault
theorem State.Canonical.copyRun {co k tok goal n : Nat} (h : s.Canonical) : (s.copyRun co k tok goal n).1.Canonical := by
  induction n generalizing s with
  | zero => exact h
  | succ n ih =>
    unfold State.copyRun
    split
    · exact h
    · extract_lets t
      split
      · exact h
      · split
        · exact h
        · split
          next u heq =>
            have hu : u.Canonical := h.copyMove.of_eq heq
            exact ih hu.setToken
          next u heq =>
            have hu : u.Canonical := h.copyMove.of_eq heq
            exact hu.setToken
          next heq => exact h.copyMove.of_eq heq
theorem State.Canonical.copyAdvance {co k tok n : Nat} (h : s.Canonical) : (s.copyAdvance co k tok n).Canonical := by
  unfold State.copyAdvance
  split
  · exact h
  · exact h.copyRun
theorem State.Canonical.copyStart {co k tok : Nat} (h : s.Canonical) : (s.copyStart co k tok).Canonical := by
  unfold State.copyStart
  split
  · exact h
  · extract_lets t
    split
    · exact h
    · exact h.setToken.ite (h.lockCopy.setToken.ite h)
theorem State.Canonical.copyEnd {co k tok : Nat} (h : s.Canonical) : (s.copyEnd co k tok).Canonical := by
  unfold State.copyEnd
  split
  · exact h
  · split
    · exact h
    · split
      next u o heq =>
        have hu : u.Canonical := h.copyRun.of_eq1 heq
        split
        · exact hu
        · extract_lets t
          split
          · exact hu
          · exact hu.copyDone.ite hu
theorem State.Canonical.copyFault {co k tok : Nat} (h : s.Canonical) : (s.copyFault co k tok).Canonical := by
  unfold State.copyFault
  split
  · exact h
  · split
    · exact h
    · split
      next u c a x heq =>
        have hu : u.Canonical := h.copyRun.of_eq1 heq
        split
        · exact h
        · split
          · exact hu.copyFail.ite h
          · exact h
      · exact h
theorem State.Canonical.copySuspend {w : Wave} (h : s.Canonical) : (s.copySuspend w).Canonical := h.foldl fun s i h => by
  split
  · exact h
  · extract_lets t
    split
    · exact h
    · exact h.copyRelease.setToken.ite h

end Sys2Proof.Machine
end

section
/-! ### Launches, tasks and rays; the ends of waves, blocks, launches and contexts -/

namespace Sys2Proof.Machine

/-- The state beside a record read, or in how the reading ends, is canonical. -/
def RecordRead.Canonical : RecordRead → Prop
  | .ok _ s => s.Canonical
  | .ends r => r.Canonical

theorem RecordRead.Canonical.of_eq {q r : RecordRead} (h : q.Canonical) (e : q = r) : r.Canonical := e ▸ h

/-- The state beside a cell that the device looks up is canonical. -/
def CellAt.Canonical : CellAt → Prop
  | .ok _ s => s.Canonical
  | .cause _ s => s.Canonical

theorem CellAt.Canonical.of_eq {q r : CellAt} (h : q.Canonical) (e : q = r) : r.Canonical := e ▸ h

/-- The states among what an operation that may fail answers are canonical; `f` finds the state in an answer. -/
def AllCanonical {α : Type} (f : α → State) (o : Option α) : Prop := ∀ x, o = some x → (f x).Canonical

section
variable {α β : Type} {f : α → State} {g : β → State} {o : Option α} {x : α}

theorem AllCanonical.none : AllCanonical f none := fun _ e => nomatch e
theorem AllCanonical.some (h : (f x).Canonical) : AllCanonical f (some x) := fun _ e => Option.some.inj e ▸ h
theorem AllCanonical.of_eq (h : AllCanonical f o) (e : o = Option.some x) : (f x).Canonical := h x e
theorem AllCanonical.bind {k : α → Option β} (h : AllCanonical f o) (hk : ∀ x, (f x).Canonical → AllCanonical g (k x)) :
    AllCanonical g (o.bind k) := by
  cases o with
  | none => exact .none
  | some x => exact hk x (h x rfl)
theorem AllCanonical.map {k : α → β} (h : AllCanonical f o) (hk : ∀ x, (f x).Canonical → (g (k x)).Canonical) :
    AllCanonical g (o.map k) := by
  cases o with
  | none => exact .none
  | some x => exact .some (hk x (h x rfl))
theorem AllCanonical.foldl {l : List β} {k : Option α → β → Option α} (h : AllCanonical f o)
    (hk : ∀ o b, AllCanonical f o → AllCanonical f (k o b)) : AllCanonical f (l.foldl k o) :=
  List.foldlRecOn l k h fun o ho b _ => hk o b ho
theorem AllCanonical.getD {o : Option State} {s : State} (h : AllCanonical id o) (hs : s.Canonical) : (o.getD s).Canonical := by
  cases o with
  | none => exact hs
  | some t => exact h t rfl

end

variable {s : State}

/-! #### launch and spawn -/

theorem State.Canonical.queueDesc {co c q : Nat} (h : s.Canonical) : (s.queueDesc co c q).2.Canonical := by
  unfold State.queueDesc
  extract_lets va
  split
  next ps t heq =>
    have ht : t.Canonical := h.enginePlace.of_eq heq
    refine .ite2 ht ?_
    split
    next heq => exact ht.engineRead.of_eq3 heq
    next heq => exact ht.engineRead.of_eq3 heq
  next heq => exact h.enginePlace.of_eq heq
  next heq => exact h.enginePlace.of_eq heq
theorem State.Canonical.queueWrite {c : Nat} {d : QDesc} {off n v : Nat} (h : s.Canonical) : AllCanonical id
    (s.queueWrite c d off n v) := by
  unfold State.queueWrite
  split
  next ps t heq =>
    have ht : t.Canonical := h.enginePlace.of_eq heq
    exact .some ht.engineWrite
  · exact .none
theorem State.Canonical.markPending {c : Nat} {m : BitVec 64} (h : s.Canonical) : (s.markPending c m).Canonical := h.modCtx
theorem State.Canonical.devQueue {co c q : Nat} (h : s.Canonical) : (s.devQueue co c q).2.Canonical := by
  unfold State.devQueue
  refine .ite2 h ?_
  split
  next heq => exact h.queueDesc.of_eq heq
  next d t heq =>
    have ht : t.Canonical := h.queueDesc.of_eq heq
    refine .ite2 ht ?_
    split
    next heq => exact ht.enginePlace.of_eq heq
    next heq => exact ht.enginePlace.of_eq heq
    next heq => exact ht.enginePlace.of_eq heq
theorem State.Canonical.recordRead {b : BReg} {base : BitVec 64} {off : Nat} (h : s.Canonical) :
    (s.recordRead b base off).Canonical := by
  unfold State.recordRead
  extract_lets r
  split
  next heq => exact h.checkReqs.of_eq heq
  next l sf t w heq _ =>
    have ht : t.Canonical := h.checkReqs.of_eq heq
    extract_lets parts busy words kind
    refine holds_ite (P := RecordRead.Canonical) ht ?_
    generalize hp : words.foldl _ (0, none, t) = p
    have hc : p.2.2.Canonical := hp ▸ State.Canonical.foldl3 ht fun _ _ h => h.readElem
    split
    next bad u =>
      have hu : u.Canonical := hc
      split
      · exact hu
      · exact hu
  next heq _ => exact h.checkReqs.of_eq heq
theorem State.Canonical.launchOp {r : Row} {n : Norm} (h : s.Canonical) : (launchOp r n s).Canonical := by
  unfold Machine.launchOp
  split
  · exact h
  · extract_lets q
    split
    next heq => exact h.devQueue.of_eq heq
    next t heq =>
      have ht : t.Canonical := h.devQueue.of_eq heq
      split
      next heq => exact ht.recordRead.of_eq heq
      next u heq =>
        have hu : u.Canonical := ht.recordRead.of_eq heq
        refine Res.Canonical.ite hu (hu.release120 fun v hv => ?_)
        extract_lets w
        have hw : w.Canonical := hv.engineWrite
        split
        next heq => exact State.Canonical.markPending (hw.queueWrite.of_eq heq)
        · exact hu
theorem State.Canonical.queueTask {num : Nat} {r : BitVec 512} {scope : Nat} (h : s.Canonical) :
    (s.queueTask num r scope).Canonical := by
  unfold State.queueTask
  split
  · exact h
  · exact .ite h.setLaunch.logCtx h.setLaunch
theorem State.Canonical.ringWrite {num : Nat} {r : BitVec 512} (h : s.Canonical) : (s.ringWrite num r).Canonical := by
  unfold State.ringWrite
  split
  · exact h
  · split
    next ps t heq =>
      have ht : t.Canonical := h.enginePlace.of_eq heq
      exact ht.engineWrite
    next heq => exact h.enginePlace.of_eq heq
    next heq => exact h.enginePlace.of_eq heq
theorem State.Canonical.spawnOp {r : Row} {n : Norm} (h : s.Canonical) : (spawnOp r n s).Canonical := by
  unfold Machine.spawnOp
  split
  · exact h
  · split
    · exact h
    · refine Res.Canonical.ite h ?_
      extract_lets b off
      split
      next heq => exact h.recordRead.of_eq heq
      next u heq =>
        have hu : u.Canonical := h.recordRead.of_eq heq
        exact Res.Canonical.ite hu (.ite hu (hu.release120 fun v hv => hv.ringWrite.queueTask))

/-! #### Ray instructions -/

theorem State.Canonical.logInvalid {w : Wave} {record : BitVec 1024} {L : Nat} (h : s.Canonical) :
    (s.logInvalid w record L).Canonical := by
  unfold State.logInvalid
  split
  · exact h.logRay
  · exact h
theorem State.Canonical.remitLane {n : Norm} {w : Wave} {L : Nat} (h : s.Canonical) : (remitLane n w s L).Canonical := by
  unfold Machine.remitLane
  extract_lets record t
  have ht : t.Canonical := .ite h.placeRay h.logInvalid
  exact ht.modWave.ite ht
theorem State.Canonical.recordPoison {w : Wave} {n : Norm} {r : Res} (h : s.Canonical) (e : recordPoison s w n = some r) :
    r.Canonical := by
  unfold Machine.recordPoison at e
  extract_lets p at e
  split at e
  · cases e
  · split at e
    · cases e
    · cases e
      exact h
theorem State.Canonical.remitOp {r : Row} {n : Norm} (h : s.Canonical) : (remitOp r n s).Canonical := by
  unfold Machine.remitOp
  split
  · exact h
  · split
    next heq => exact h.recordPoison heq
    · split
      · exact Res.Canonical.ite h (.ite h (.ite h (h.foldl fun _ _ h => h.remitLane).countDone))
      · exact h
theorem State.Canonical.rcontLane {n : Norm} {w : Wave} {L : Nat} (h : s.Canonical) : (rcontLane n w s L).Canonical := by
  unfold Machine.rcontLane
  extract_lets record
  split
  · exact h
  · refine .ite h.logInvalid.retireRay.dispose ?_
    have ht : (s.dispose w L 1).Canonical := h.dispose
    split
    · exact ht.enterNeeds
    · exact ht
theorem State.Canonical.rcontOp {r : Row} {n : Norm} (h : s.Canonical) : (rcontOp r n s).Canonical := by
  unfold Machine.rcontOp
  split
  · exact h
  · split
    next heq => exact h.recordPoison heq
    · exact Res.Canonical.ite h (.ite h (.ite h (h.foldl fun _ _ h => h.rcontLane).countDone))
theorem State.Canonical.retireLane {w : Wave} {L num : Nat} (h : s.Canonical) : (match (Wave.ray w L).slot with
    | some slot => (s.retireRay num slot).dispose w L 2
    | none => s).Canonical := by
  split
  · exact h.retireRay.dispose
  · exact h
theorem State.Canonical.rretireOp {r : Row} {n : Norm} (h : s.Canonical) : (rretireOp r n s).Canonical := by
  unfold Machine.rretireOp
  split
  · exact h
  · exact Res.Canonical.ite h (.ite h (.ite h (h.foldl fun _ _ h => h.retireLane).countDone))
theorem State.Canonical.ependOp {r : Row} {n : Norm} (h : s.Canonical) : (ependOp r n s).Canonical := by
  unfold Machine.ependOp
  split
  · exact h
  · exact Res.Canonical.ite h h.settleLanes
theorem State.Canonical.raccOp {r : Row} {n : Norm} (h : s.Canonical) : (raccOp r n s).Canonical := by
  unfold Machine.raccOp
  split
  · exact h
  next w _ =>
    extract_lets index reqs
    split
    next heq => exact h.check_ends heq
    next l sf t heq =>
      have ht : t.Canonical := h.check_ok heq
      extract_lets es
      have hr : (if es.any (t.elemPoisoned w) then Machine.atomPoisoned (fun _ => 5) t w es .none 0
          else Machine.issueOn (fun _ => 5) t w es .none 0 [] w.stseq).Canonical := .ite ht.atomPoisoned ht.issueOn
      split
      next u _ heq =>
        have hu : u.Canonical := hr.of_eq heq
        exact hu
      next u heq =>
        have hu : u.Canonical := hr.of_eq heq
        exact hu.bumpCtx
      next u c a m heq =>
        have hu : u.Canonical := hr.of_eq heq
        exact hu.bumpCtx
      · exact hr
theorem State.Canonical.keyPartOp {f : BitVec 512 → V3 → Option Nat} {r : Row} {n : Norm} (h : s.Canonical) :
    (keyPartOp f r n s).Canonical := by
  unfold Machine.keyPartOp
  split
  · exact h
  · split
    · exact h.vputAll
    · exact h
theorem State.Canonical.sceneLoad {w : Wave} {n : Norm} {regs : Nat} {addr : Nat → Option Nat} (h : s.Canonical) :
    (sceneLoad s w n regs addr).Canonical := by
  unfold Machine.sceneLoad
  extract_lets lanes reqs
  split
  next heq => exact h.checkReqs.of_eq heq
  next l sf t heq =>
    have ht : t.Canonical := h.checkReqs.of_eq heq
    split
    next u heq =>
      have hu : u.Canonical := ht.issueElems.of_eq heq
      exact hu.foldl fun _ _ h => h.vputAll
    · exact ht.issueElems
theorem State.Canonical.rhitOp {r : Row} {n : Norm} (h : s.Canonical) : (rhitOp r n s).Canonical := by
  unfold Machine.rhitOp
  split
  · exact h
  · split
    · exact Res.Canonical.ite h h.sceneLoad
    · exact h
theorem State.Canonical.instanceOp {off : Norm → Nat} {r : Row} {n : Norm} (h : s.Canonical) : (instanceOp off r n s).Canonical
    := by
  unfold Machine.instanceOp
  split
  · exact h
  · split
    · exact Res.Canonical.ite h h.sceneLoad
    · exact h

/-! #### How tasks, waves, blocks and launches end -/

theorem State.Canonical.doneDropped {l : Launch} {k : Nat} (h : s.Canonical) : (s.doneDropped l k).Canonical := h.makeFault
theorem State.Canonical.taskFault {c k acc : Nat} {a : BitVec 64} (h : s.Canonical) : (s.taskFault c k acc a).Canonical :=
    h.makeFault
theorem State.Canonical.deviceCell {c : Nat} {va : BitVec 64} {al : Nat} (h : s.Canonical) : (s.deviceCell c va al).Canonical := by
  unfold State.deviceCell
  split
  next heq => exact h.enginePlace.of_eq heq
  next heq => exact h.enginePlace.of_eq heq
  next ps t heq =>
    have ht : t.Canonical := h.enginePlace.of_eq heq
    split
    · exact holds_ite (P := CellAt.Canonical) ht (holds_ite (P := CellAt.Canonical) ht ht)
    · exact ht
theorem State.Canonical.doneIncrement {l : Launch} (h : s.Canonical) : (s.doneIncrement l).Canonical := by
  unfold State.doneIncrement
  extract_lets va
  refine .ite h ?_
  split
  next k t heq =>
    have ht : t.Canonical := h.deviceCell.of_eq heq
    exact ht.doneDropped
  next pa t heq =>
    have ht : t.Canonical := h.deviceCell.of_eq heq
    exact ht.l2Read.doneDropped.ite ht.l2Read.timelineWrite
theorem State.Canonical.enqueueSuccessor {num c : Nat} {va : BitVec 64} {scope : Nat} (h : s.Canonical) :
    (s.enqueueSuccessor num c va scope).Canonical := by
  unfold State.enqueueSuccessor
  split
  · exact h
  · refine .ite h.logCtx ?_
    split
    next k a t heq =>
      have ht : t.Canonical := h.devRead.of_eq heq
      exact ht.taskFault
    next a t heq =>
      have ht : t.Canonical := h.devRead.of_eq heq
      exact ht.taskFault
    next v t heq =>
      have ht : t.Canonical := h.devRead.of_eq heq
      exact ht.setLaunch.taskFault.ite ht.ringWrite.queueTask
theorem State.Canonical.completeTask {w : Wave} (h : s.Canonical) : (s.completeTask w).Canonical := by
  unfold State.completeTask
  extract_lets va scope
  refine .ite h ?_
  split
  next k t heq =>
    have ht : t.Canonical := h.deviceCell.of_eq heq
    exact ht.taskFault
  next pa t heq =>
    have ht : t.Canonical := h.deviceCell.of_eq heq
    have hp := (ht.acquireAll (co := w.core) (c := w.ctx)).l2Read (c := w.ctx) (pa := pa) (n := 16)
    dsimp only
    exact .ite hp.logCtx (.ite hp.l2Put.enqueueSuccessor hp.l2Put)
theorem State.Canonical.leaveBlock {w : Wave} (h : s.Canonical) : (s.leaveBlock w).Canonical := by
  unfold State.leaveBlock
  split
  · exact h
  · exact h.setBlock.claimDeadlock
theorem State.Canonical.exitRelease {w : Wave} {scope : Nat} (h : s.Canonical) : (s.exitRelease w scope).Canonical := h.forWave
    fun _ h => h.releaseStep
theorem State.Canonical.forget {co k : Nat} (h : s.Canonical) : (s.forget co k).Canonical := h
theorem State.Canonical.waveLeaves {w : Wave} {cause : Nat} (h : s.Canonical) : (s.waveLeaves w cause).Canonical :=
  (h.foldl fun _ _ h => h.sfToQueue).logWave.forget.dropWave.leaveBlock
theorem State.Canonical.finishWave {co k : Nat} (h : s.Canonical) : (s.finishWave co k).Canonical := by
  unfold State.finishWave
  split
  · exact h
  · refine .ite h ?_
    split
    · exact h.waveLeaves
    · extract_lets t u
      have hu : u.Canonical := h.exitRelease.completeTask.ite h.exitRelease
      split
      · exact hu.waveLeaves
      · exact hu
    · exact h
theorem State.Canonical.finishSpindle {p : Spindle} (h : s.Canonical) : (s.finishSpindle p).Canonical := by
  unfold State.finishSpindle
  refine .ite h ?_
  split
  · exact h.logSpindle.dropSpindle
  · exact h.logSpindle.dropSpindle
  · exact h
theorem State.Canonical.endBlock {b : Block} (h : s.Canonical) : (s.endBlock b).Canonical := h.ite (.modLaunch h)
theorem State.Canonical.endAway (h : s.Canonical) : s.endAway.Canonical := h.foldl fun _ _ h => .modLaunch h
theorem State.Canonical.endLaunch {l : Launch} (h : s.Canonical) : (s.endLaunch l).Canonical := by
  unfold State.endLaunch
  refine .ite h ?_
  extract_lets t u
  have hu : u.Canonical := h.doneIncrement.logCtx.ite h.doneIncrement
  exact .sweepStalls hu
theorem State.Canonical.settleEnds (h : s.Canonical) : s.settleEnds.Canonical :=
  ((h.foldl fun _ _ h => h.finishSpindle).foldl fun _ _ h => h.endBlock).endAway.foldl fun _ _ h => h.endLaunch

/-! #### The end of a context -/

theorem State.Canonical.raiseFreeze {f : Freeze} (h : s.Canonical) : (s.raiseFreeze f).Canonical := h
theorem State.Canonical.completeFlight {w : Wave} (h : s.Canonical) : (s.completeFlight w).Canonical := h.foldl fun _ _ h => h.ite
    h.performAll
theorem State.Canonical.stopCopies {w : Wave} (h : s.Canonical) : (s.stopCopies w).Canonical := h.foldl fun _ _ h => by
  split
  · exact h.copyRelease
  · exact h
theorem State.Canonical.stopDrains {p : Spindle} (h : s.Canonical) : (s.stopDrains p).Canonical := h.foldl fun _ _ h =>
    h.dropWritten.unlock
theorem State.Canonical.flushContext {c : Nat} (h : s.Canonical) : (s.flushContext c).Canonical := h.foldl fun _ _ h =>
    h.writeBack.l1Drop
theorem State.Canonical.dropContext {c : Nat} (h : s.Canonical) : (s.dropContext c).Canonical := by
  unfold State.dropContext
  extract_lets nums mine gone t
  have ht : t.Canonical := h.foldl fun _ _ h => h.freeTagOf
  exact .sweepStalls ht
theorem State.Canonical.logEnded {a b cause : Nat} (h : s.Canonical) : (match s.wave? a b with
    | some v => s.logWave v 0x25 cause v.pc
    | none => s).Canonical := by
  split
  · exact h.logWave
  · exact h
theorem State.Canonical.terminate {c cause : Nat} (h : s.Canonical) : (s.terminate c cause).Canonical :=
  State.Canonical.raiseFreeze (.logCtx (.setPreState (.setCtx (.ctlSet (.ctlSet (.ctlSet (.dropContext (.foldl (.foldl (.flushContext
    (.foldl (.foldl (.foldl h fun _ _ h => h.completeFlight) fun _ _ h => h.stopCopies) fun _ _ h => h.stopDrains))
    fun _ _ h => h.logEnded) fun _ _ h => h.logSpindle))))))))
theorem State.Canonical.settleTerminations (h : s.Canonical) : s.settleTerminations.Canonical := h.foldl fun _ _ h => by
  split
  · exact h.terminate.ite h
  · exact h

end Sys2Proof.Machine
end

section
/-! ### Placement, suspension and resumption -/

namespace Sys2Proof.Machine

variable {s : State}

/-! #### Accesses of saves -/

theorem State.uncounted_canonical {t : State} (h : t.Canonical) : (s.uncounted t).Canonical := h
theorem State.Canonical.saveWrite {c : Nat} {va : BitVec 64} {n v : Nat} (h : s.Canonical) : AllCanonical id
    (s.saveWrite c va n v) := by
  unfold State.saveWrite
  split
  next ps t heq =>
    have ht : t.Canonical := h.enginePlace.of_eq heq
    exact .some (State.uncounted_canonical ht.engineWrite)
  · exact .none
theorem State.Canonical.saveRead {c : Nat} {va : BitVec 64} {n : Nat} (h : s.Canonical) : AllCanonical Prod.snd
    (s.saveRead c va n) := by
  unfold State.saveRead
  split
  next ps t heq =>
    have ht : t.Canonical := h.enginePlace.of_eq heq
    split
    · exact .none
    · split
      next v u heq =>
        have hu : u.Canonical := ht.engineRead.of_eq3 heq
        exact .some (State.uncounted_canonical hu)
      · exact .none
  · exact .none
theorem State.Canonical.writeEntry {c : Nat} {f : Frame} {b l k : Nat} (h : s.Canonical) : AllCanonical id
    (s.writeEntry c f b l k) := h.saveWrite

/-! #### Placing blocks, tasks and episodes -/

theorem State.Canonical.serve {f cl : Nat} (h : s.Canonical) : (s.serve f cl).Canonical := by
  unfold State.serve
  refine .ite h ?_
  split
  · exact .ite h h
  · exact h
theorem State.Canonical.unnote {num b : Nat} (h : s.Canonical) : (s.unnote num b).Canonical := h.modLaunch
theorem State.Canonical.l1Shrink {co : Nat} (h : s.Canonical) : (s.l1Shrink co).Canonical := h.foldl fun _ _ h => by
  split
  · exact h
  · exact h.evictLine
theorem State.Canonical.nextInst {co : Nat} (h : s.Canonical) : (s.nextInst co).2.Canonical := h
theorem State.Canonical.enterBlock {b : Block} {seat : Seat} {enter : Nat → Nat → Nat → Nat → List Nat → Wave} (h : s.Canonical) :
    (s.enterBlock b seat enter).Canonical := by
  unfold State.enterBlock
  extract_lets b t u v
  have hu : u.Canonical := h.clearStore
  exact .l1Shrink (hu.foldl fun _ _ h => h.nextInst.clearBlocks)
theorem State.Canonical.logStarts {l b : Nat} (h : s.Canonical) : (s.logStarts l b).Canonical := .ite h
    (h.foldl fun _ _ h => h.logWave)
theorem State.Canonical.stopPlaced {c l b k : Nat} (h : s.Canonical) : (s.stopPlaced c l b k).Canonical := .ite h
    (h.foldl fun _ _ h => h.setWave)
theorem State.Canonical.sendBlock {l : Launch} {b co : Nat} (h : s.Canonical) : (s.sendBlock l b co).Canonical := .modLaunch h
theorem State.Canonical.placeBlock {trial : Bool} {num b : Nat} {ok : Nat → Bool} (h : s.Canonical) : AllCanonical id
    (s.placeBlock trial num b ok) := by
  unfold State.placeBlock
  split
  · exact .none
  · extract_lets r entry kind
    split
    · exact .none
    · exact .some h.sendBlock
    · extract_lets b t u
      have hu : u.Canonical := .modLaunch h.enterBlock
      exact .some hu.serve.logStarts.stopPlaced
theorem State.Canonical.placeBlocks {trial : Bool} {num first : Nat} {ok : Nat → Bool} {n : Nat} (h : s.Canonical) : AllCanonical
    id (s.placeBlocks trial num first ok n) := by
  induction n generalizing s first with
  | zero => exact .some h
  | succ n ih => exact .bind h.placeBlock fun _ ht => ih ht
theorem State.Canonical.placeNext {l : Launch} {ok : Nat → Bool} (h : s.Canonical) : AllCanonical id (s.placeNext l ok) := .map
    h.placeBlocks fun _ ht => ht.modLaunch
theorem State.Canonical.placeTask {l : Launch} {k : Task} {ok : Nat → Bool} (h : s.Canonical) : AllCanonical id
    (s.placeTask l k ok) := by
  unfold State.placeTask
  extract_lets r ask
  split
  · exact .none
  · extract_lets b t u v
    have hu : u.Canonical := .modLaunch h.enterBlock
    exact .some hu.acquireAll.serve.logStarts.stopPlaced
theorem State.Canonical.fillEpisode {co k num : Nat} {rays : List Nat} (h : s.Canonical) : (s.fillEpisode co k num rays).Canonical
    := h.foldl fun _ _ h => by
  split
  · exact (State.Canonical.setRay (.foldl (.foldl h fun _ _ h => h.vwr) fun _ _ h => h.vwr)).setWave
  · exact h
theorem State.Canonical.placeEpisode {e : Emission} {ok : Nat → Bool} (h : s.Canonical) : AllCanonical id (s.placeEpisode e ok)
    := by
  unfold State.placeEpisode
  split
  · exact .none
  · extract_lets ask index
    split
    · exact .none
    next seat _ =>
      extract_lets b t u v
      have ht : t.Canonical := .enterBlock h
      have hu : u.Canonical := by
        dsimp only [u]
        clear_value t
        split
        · exact ht.fillEpisode
        · exact ht
      have hv : v.Canonical := hu
      exact .some hv.serve.logStarts.stopPlaced
theorem State.Canonical.tryFresh {ok : Nat → Bool} {r : PlaceReq} (h : s.Canonical) : AllCanonical id (s.tryFresh ok r) := by
  unfold State.tryFresh
  split
  · exact .none
  · extract_lets ok
    split
    · exact h.placeNext
    · intro t e
      obtain ⟨k, _, e⟩ := Option.bind_eq_some_iff.1 e
      exact h.placeTask t e
    · exact h.placeEpisode
    · exact .none
    · exact .none
theorem State.Canonical.placeWalk {p : (Nat → Bool) → PlaceReq → Option State} {want : PlaceReq → Bool} {ok : Nat → Bool}
    {l : List PlaceReq} (h : s.Canonical) (hp : ∀ ok r, AllCanonical id (p ok r)) : (s.placeWalk p want ok l).Canonical := by
  induction l generalizing ok with
  | nil => exact h
  | cons r l ih =>
    unfold State.placeWalk
    split
    next t heq =>
      have ht : t.Canonical := hp _ _ t heq
      exact ht.ite h
    · exact ih

/-! #### Suspending -/

theorem State.Canonical.abandonBatches {num : Nat} (h : s.Canonical) : (s.abandonBatches num).Canonical := by
  unfold State.abandonBatches
  extract_lets t
  have ht : t.Canonical := h
  split
  · exact ht
  · exact ht.foldl fun _ _ h => h.joinStall
theorem State.Canonical.raiseReq {c : Nat} {hold : Ctx → Ctx} (h : s.Canonical) : (s.raiseReq c hold).Canonical := by
  unfold State.raiseReq
  refine .ite h (.ite h.modCtx ?_)
  exact h.modCtx.ctlSet.setPreState.foldl fun _ _ h => h.abandonBatches
theorem State.Canonical.saveFault {c : Nat} (h : s.Canonical) : (s.saveFault c).Canonical := h.terminate
theorem State.Canonical.handlerRegs {w : Wave} {a b : BitVec 64} {n : Nat} (h : s.Canonical) : (s.handlerRegs w a b n).Canonical
    := (h.foldl fun _ _ h => h.vwr).modWave
theorem State.Canonical.writeWaveFrame {w : Wave} {f : Frame} {wait : Wait} {forced : Bool} (h : s.Canonical) : AllCanonical id
    (s.writeWaveFrame w f wait forced) :=
  .bind (.bind h.saveWrite fun _ ht => ht.saveWrite) fun _ ht => ht.saveWrite
theorem State.Canonical.saveEntry {b : Block} {f : Frame} {owner : Nat} {w : Wave} (h : s.Canonical) : AllCanonical id
    (s.saveEntry b f owner w) := by
  unfold State.saveEntry
  extract_lets t
  have ht : t.Canonical := h.copySuspend
  clear_value t
  split
  · exact .some ht
  · extract_lets cause u
    have hu : u.Canonical := ht.logWave.ite ht.logWave
    clear_value u
    exact holds_ite (P := AllCanonical id) (.some hu.setWave) (.map hu.writeWaveFrame fun _ hv => hv.forget.setWave.handlerRegs)
theorem State.Canonical.saveBlock {b : Block} (h : s.Canonical) : (s.saveBlock b).Canonical := by
  unfold State.saveBlock
  extract_lets ws program
  split
  · exact h.terminate
  · split
    · exact h.saveFault
    next t heq =>
      have ht : t.Canonical := AllCanonical.of_eq (.foldl (.some h) fun _ _ ho => ho.bind fun _ hu => hu.saveEntry) heq
      exact ht.modLaunch.modBlock
theorem State.Canonical.pushSaved {l : Launch} {b : SavedBlock} {v : SavedWave} {r : SfRec} (h : s.Canonical) :
    (s.pushSaved l b v r).Canonical := by
  unfold State.pushSaved
  extract_lets +onlyGivenNames va at_ put
  have hp : AllCanonical id put := holds_ite (P := AllCanonical id) (.bind h.saveWrite fun _ ht => ht.saveWrite)
    (.bind h.saveRead fun _ ht => ht.saveWrite)
  clear_value put at_
  split
  · exact h.saveFault
  next t =>
    have ht : t.Canonical := hp t rfl
    exact ht.logCtx.modLaunch
theorem State.Canonical.routeSaved {o : Option SavedAt} {l : L1Line} {r : SfRec} (h : s.Canonical) :
    (s.routeSaved o l r).Canonical := by
  unfold State.routeSaved
  split
  · exact h.pushSaved
  · exact h.sfToQueue
theorem State.Canonical.writeBackSaved {o : State → L1Line → Option SavedAt} {p : L1Line → Bool} (h : s.Canonical) :
    (s.writeBackSaved o p).Canonical := h.foldl fun _ _ h => by
  split
  next r t heq =>
    have ht : t.Canonical := h.writeBack.of_eq heq
    exact ht.routeSaved
  next heq => exact h.writeBack.of_eq heq
theorem State.Canonical.modSaved {num i : Nat} {f : SavedBlock → SavedBlock} (h : s.Canonical) : (s.modSaved num i f).Canonical :=
    h.modLaunch
theorem State.Canonical.writeSpindle {p : Spindle} {f : Frame} {off : Nat} (h : s.Canonical) : AllCanonical id
    (s.writeSpindle p f off) := by
  unfold State.writeSpindle
  extract_lets va o q
  have ho : AllCanonical id o := .bind h.saveWrite fun _ ht => ht.saveWrite
  have hq : AllCanonical id q := ho.foldl fun _ _ ho => holds_ite (P := AllCanonical id) (ho.bind fun _ ht => ht.saveWrite) ho
  exact hq.foldl fun _ _ ho => holds_ite (P := AllCanonical id) (ho.bind fun _ ht => ht.saveWrite) ho
theorem State.Canonical.noteStopped {c l b : Nat} (h : s.Canonical) : (s.noteStopped c l b).Canonical := h.ctlSet.ite h
theorem State.Canonical.finishSave {b : Block} (h : s.Canonical) : (s.finishSave b).Canonical := by
  unfold State.finishSave
  split
  · refine .ite h ?_
    extract_lets p blk survivors o q
    have ho : AllCanonical id o := h.saveWrite
    have hq : AllCanonical id q := by
      dsimp only [q]
      clear_value o p
      split
      · exact ho.bind fun _ ht => ht.writeSpindle
      · exact ho
    split
    · exact h.saveFault
    next t heq =>
      have ht : t.Canonical := AllCanonical.of_eq (hq.bind fun _ ht => ht.writeEntry) heq
      exact .noteStopped (.unnote (.modSaved ht))
  · exact h
theorem State.Canonical.saveReturn {w : Wave} (h : s.Canonical) : (s.saveReturn w).Canonical := by
  unfold State.saveReturn
  split
  · exact h
  · split
    · split
      · exact h.saveFault
      next v t heq =>
        have ht : t.Canonical := h.saveRead _ heq
        extract_lets ws mine u v w
        have hw : w.Canonical := ht.writeBackSaved.modSaved.dropWave
        split
        · exact hw.finishSave
        · exact hw
    · exact h
theorem State.Canonical.blockSave {l b : Nat} (h : s.Canonical) : (s.blockSave l b).Canonical := by
  unfold State.blockSave
  split
  · exact h
  · extract_lets unit_
    refine .ite h (.foldl (.foldl h fun _ _ h => ?_) fun _ _ h => ?_)
    · split
      · exact h.saveBlock.ite h
      · exact h
    · split
      · exact h.finishSave
      · exact h
theorem State.Canonical.returnEmissions {num : Nat} (h : s.Canonical) : (s.returnEmissions num).Canonical := by
  unfold State.returnEmissions
  extract_lets mine t
  have ht : t.Canonical := h
  refine ht.foldl fun _ _ h => h.foldl fun _ _ h => ?_
  split
  · exact h.joinStall
  · exact h
theorem State.Canonical.suspensionComplete {c : Nat} (h : s.Canonical) : (s.suspensionComplete c).Canonical := by
  unfold State.suspensionComplete
  extract_lets stepping t u v w x y z
  refine .ite h ?_
  have hu : u.Canonical := h.writeBackSaved.foldl fun _ _ h => h.returnEmissions
  have hv : v.Canonical := .sweepStalls hu
  have hy : y.Canonical := hv.ctlSet.ctlSet.modCtx
  have hz : z.Canonical := hy.ctlSet.ite hy
  exact hz.setPreState
theorem State.Canonical.stopReturned (h : s.Canonical) : s.stopReturned.Canonical := by
  unfold State.stopReturned
  split
  · exact .ite h.setWave (.ite h.setWave (.ite h.setWave h.setWave))
  · extract_lets p
    refine .ite h.setSpindle ?_
    split
    · exact h.setSpindle
    · exact h.setSpindle
  · exact h
theorem State.Canonical.forceStops {c : Nat} (h : s.Canonical) : (s.forceStops c).Canonical := h
theorem State.Canonical.forcedSave {c : Nat} (h : s.Canonical) : (s.forcedSave c).Canonical := .ite h h.modCtx.forceStops
theorem State.Canonical.forcedTimeout {c : Nat} (h : s.Canonical) : (s.forcedTimeout c).Canonical := h.terminate.ite h

/-! #### Resuming -/

/-- The state in which a saved block is placed is canonical. -/
def Resumed.Canonical : Resumed → Prop
  | .placed s => s.Canonical
  | .noRoom => True
  | .fault => True

theorem Resumed.Canonical.of_eq {q r : Resumed} (h : q.Canonical) (e : q = r) : r.Canonical := e ▸ h

theorem State.Canonical.setOm {m : Memory} (h : s.Canonical) (hm : m.wf = true) : State.Canonical { s with om := m } := h.withOm hm
theorem State.Canonical.readSpindle {l : Launch} {b : SavedBlock} {cl off : Nat} (h : s.Canonical) : AllCanonical id
    (s.readSpindle l b cl off) := by
  unfold State.readSpindle
  extract_lets va kept
  split
  next v x d t heq1 heq2 =>
    have ht : t.Canonical := h.saveRead _ heq2
    refine holds_ite (P := AllCanonical id) .none ?_
    extract_lets q live p p' o o'
    have ho : AllCanonical Prod.snd o := .foldl (.some ht) fun _ _ ho => ho.bind fun _ hp =>
      holds_ite (P := AllCanonical Prod.snd) (.some hp) (holds_ite (P := AllCanonical Prod.snd)
        (.map hp.saveRead fun _ hr => hr.setOm (wf_writeNat _ _ _ _ hr.2.2.1)) (.some (hp.setOm (wf_clear _ _ _ hp.2.2.1))))
    have ho' : AllCanonical Prod.snd o' := ho.foldl fun _ _ ho => ho.bind fun _ hp =>
      holds_ite (P := AllCanonical Prod.snd) (.map hp.saveRead fun _ hr => hr) (.some hp)
    exact ho'.map fun _ hp => hp
  · exact .none
theorem State.Canonical.resumeAcquire {co c old : Nat} (h : s.Canonical) : (s.resumeAcquire co c old).Canonical := .ite h
    h.dropLines
theorem State.Canonical.restoreEntry {l : Launch} {b : SavedBlock} {n m owner : Nat} {w : Wave} (h : s.Canonical) : AllCanonical
    id (s.restoreEntry l b n m owner w) := by
  unfold State.restoreEntry
  extract_lets va
  split
  · exact .none
  next v t heq =>
    have ht : t.Canonical := h.saveRead _ heq
    exact holds_ite (P := AllCanonical id) (.some ht.logWave.resumeAcquire.setWave)
      (.some ht.logWave.resumeAcquire.setWave.handlerRegs)
theorem State.Canonical.resumeBlock {num i : Nat} {ok : Nat → Bool} (h : s.Canonical) : (s.resumeBlock num i ok).Canonical := by
  unfold State.resumeBlock
  split
  · split
    · trivial
    · extract_lets +onlyGivenNames episode seat
      clear_value seat
      split
      · trivial
      · extract_lets +onlyGivenNames waves b blk mk t lo lines u v w ws
        have hv : v.Canonical := by
          have hu : u.Canonical := h.enterBlock.dropLines
          exact hu
        have hw : w.Canonical := hv.ite hv.modLaunch
        clear_value ws w
        split
        · trivial
        next x heq =>
          have hx : x.Canonical := AllCanonical.of_eq (.foldl (.some hw) fun _ _ ho => ho.bind fun _ hu => hu.restoreEntry) heq
          refine holds_ite (P := Resumed.Canonical) ?_ hx.serve
          split
          next y heq =>
            have hy : y.Canonical := hx.readSpindle y heq
            exact hy.serve
          · trivial
  · trivial
theorem State.Canonical.resumeAll {num : Nat} {ok : Nat → Bool} {l : List Nat} (h : s.Canonical) :
    (s.resumeAll num ok l).Canonical := by
  induction l generalizing s with
  | nil => exact h
  | cons i l ih =>
    unfold State.resumeAll
    split
    next heq => exact ih (h.resumeBlock.of_eq heq)
    · exact h.resumeBlock
theorem State.Canonical.unsuspend {c : Nat} (h : s.Canonical) : (s.unsuspend c).Canonical := .ite h h.modCtx.setPreState
theorem State.Canonical.coldReclaim {num : Nat} (h : s.Canonical) : (s.coldReclaim num).Canonical := by
  unfold State.coldReclaim
  split
  · exact h
  · split
    · exact h
    · refine .ite h ?_
      split
      · exact h.terminate
      · extract_lets va meta_ o q r
        have ho : AllCanonical id o := h.saveWrite
        have hq : AllCanonical id q := ho.foldl fun _ _ ho => ho.bind fun _ ht => ht.saveWrite
        have hr : AllCanonical id r := hq.foldl fun _ _ ho => ho.bind fun _ ht => .bind ht.saveWrite fun _ hu => hu.saveWrite
        split
        · exact h.saveFault
        next t heq =>
          have ht : t.Canonical := AllCanonical.of_eq (hr.bind fun _ ht => ht.writeEntry) heq
          exact ht.modRayLaunch
theorem State.Canonical.coldRestore {l : Launch} {rl : RayLaunch} {f : Frame} (h : s.Canonical) : AllCanonical id
    (s.coldRestore l rl f) := by
  unfold State.coldRestore
  exact holds_ite (P := AllCanonical id) .none (.map (.bind (.foldl (.some h) fun _ _ ho => ho.bind fun _ ht =>
    .map ht.saveRead fun _ hv => hv.setRay) fun _ ht => ht.writeEntry) fun _ ht => ht.modRayLaunch)
theorem State.Canonical.raysBack {l : Launch} (h : s.Canonical) : (s.raysBack l).Canonical := by
  unfold State.raysBack
  split
  · exact h
  · extract_lets back
    have hb (t : State) (ht : t.Canonical) : (back t).Canonical := ht.modLaunch.foldl fun _ _ h => h.joinStall.ite h
    split
    · exact hb s h
    · refine .ite h ?_
      split
      next t heq => exact hb t (h.coldRestore t heq)
      · exact h.saveFault
theorem State.Canonical.resumeRays {l : Launch} (h : s.Canonical) : (s.resumeRays l).Canonical := h.raysBack.ite h
theorem State.Canonical.tryReq {ok : Nat → Bool} {r : PlaceReq} (h : s.Canonical) : AllCanonical id (s.tryReq ok r) := by
  unfold State.tryReq
  split
  · extract_lets ok
    split
    next t heq =>
      have ht : t.Canonical := h.resumeAll.of_eq heq
      exact .some (ht.ite ht.unsuspend)
    · exact .some h.saveFault
    · exact .none
  · exact holds_ite (P := AllCanonical id) .none (holds_ite (P := AllCanonical id) .none (.some h.unsuspend.raysBack))
  · exact h.tryFresh
theorem State.Canonical.placeFor {want : PlaceReq → Bool} (h : s.Canonical) : (s.placeFor want).Canonical := h.placeWalk fun _ _
    => h.tryReq
theorem State.Canonical.restoreReturn {w : Wave} (h : s.Canonical) : (s.restoreReturn w).Canonical := by
  unfold State.restoreReturn
  split
  · split
    · extract_lets +onlyGivenNames va
      split
      next t _ _ heq =>
        have ht : t.Canonical := h.saveRead _ heq
        refine .ite h.saveFault ?_
        extract_lets +onlyGivenNames sw r regs u marks own v
        have hu : u.Canonical := ht.foldl fun _ _ h => h.vwr
        have hv : v.Canonical := hu
        exact hv.setWave
      · exact h.saveFault
    · exact h
  · exact h
theorem State.Canonical.resumedWait {f : Frame} {sw : SavedWave} {w : Wave} (h : s.Canonical) : AllCanonical Prod.snd
    (s.resumedWait f sw w) := .map h.saveRead fun _ ht => ht
theorem State.Canonical.restoreRelease {b : Block} (h : s.Canonical) : (s.restoreRelease b).Canonical := by
  unfold State.restoreRelease
  extract_lets ws
  split
  · refine .ite h ?_
    split
    · exact h.saveFault
    next t heq =>
      have ht : t.Canonical := AllCanonical.of_eq (.foldl (.some h) fun _ _ ho => ho.bind fun _ hu =>
        hu.resumedWait.map fun _ hr => hr.modWave) heq
      split
      · exact ht.saveFault
      next u heq =>
        have hu : u.Canonical := ht.writeEntry u heq
        extract_lets claims order v w
        have hv : v.Canonical := hu
        exact hv.modLaunch.modBlock.claimDeadlock
  · exact h
theorem State.Canonical.handlerReturn {w : Wave} (h : s.Canonical) : (s.handlerReturn w).Canonical := by
  unfold State.handlerReturn
  split
  · exact h.trapReturn
  · exact h.saveReturn
  · exact h.restoreReturn
theorem State.Canonical.releaseStopped {c : Nat} (h : s.Canonical) : (s.releaseStopped c).Canonical := h
theorem State.Canonical.resumeHost {c : Nat} (h : s.Canonical) : (s.resumeHost c).Canonical := by
  unfold State.resumeHost
  extract_lets t u v w x
  have hu : u.Canonical := h.modCtx.ctlSet.ctlSet
  have hw : w.Canonical := hu
  exact .ite hw.setPreState (.ite hw.ctlSet.modCtx.setPreState.releaseStopped hw.releaseStopped)
theorem State.Canonical.debugStop {c : Nat} (h : s.Canonical) : (s.debugStop c).Canonical := by
  unfold State.debugStop
  extract_lets t
  have ht : t.Canonical := h.modCtx
  refine .ite ht.raiseReq ?_
  have hu := ht.modCtx (c := c) (f := fun x => if t.preReq c then x else { x with reqAt := t.clk.toNat })
  split
  · exact hu.modSaved.ctlSet.ite hu
  · exact hu
theorem State.Canonical.debugStep {c : Nat} (h : s.Canonical) : (s.debugStep c).Canonical := by
  unfold State.debugStep
  refine .ite h ?_
  extract_lets t u v
  have ht : t.Canonical := h.ctlSet
  have hu : u.Canonical := ht
  exact hu.modCtx.ctlSet.setPreState.ite hu.modCtx

end Sys2Proof.Machine
end

section
/-! ### Command queues, the Crier, traces, and the device's moves about waves -/

namespace Sys2Proof.Machine

variable {s : State}

/-! #### Command queues -/

theorem State.Canonical.queueIdle {c q : Nat} (h : s.Canonical) : (s.queueIdle c q).Canonical := h.modCtx
theorem State.Canonical.queueLog {c q k : Nat} (h : s.Canonical) : (s.queueLog c q k).Canonical := h.logCtx
theorem State.Canonical.queueStatus {c q k inc : Nat} (h : s.Canonical) : AllCanonical id (s.queueStatus c q k inc) := by
  unfold State.queueStatus
  split
  next ps t heq =>
    have ht : t.Canonical := h.enginePlace.of_eq heq
    exact holds_ite (P := AllCanonical id) .none (.some ht.engineRead.engineWrite.ctxIrqEvent)
  · exact .none
theorem State.Canonical.queueFault {c q k : Nat} (h : s.Canonical) : (s.queueFault c q k).Canonical :=
    h.queueLog.queueIdle.queueStatus.getD h.queueLog.queueIdle
theorem State.Canonical.queueScan {c q : Nat} (h : s.Canonical) : (s.queueScan c q).Canonical := by
  unfold State.queueScan
  refine .ite h ?_
  extract_lets t u
  have hu : u.Canonical := h.modCtx.modCtx
  split
  next v heq =>
    have hv : v.Canonical := hu.queueDesc.of_eq heq
    exact hv.queueFault
  next d v heq =>
    have hv : v.Canonical := hu.queueDesc.of_eq heq
    exact .ite hv.queueFault (.ite hv.queueIdle (.ite hv.queueFault hv.modCtx))
theorem State.Canonical.passHead {c q : Nat} (h : s.Canonical) : (s.passHead c q).Canonical := by
  unfold State.passHead
  extract_lets d t u
  have ht : t.Canonical := h.modCtx
  have hu : u.Canonical := ht
  exact hu.queueWrite.getD hu.queueLog.queueIdle
theorem State.Canonical.refuse {c q k : Nat} {va : BitVec 64} (h : s.Canonical) : (s.refuse c q k va).Canonical :=
    (h.queueStatus.getD h.queueLog.queueIdle).logCtx
theorem State.Canonical.seedTasks {num c n : Nat} (h : s.Canonical) : (s.seedTasks num c n).Canonical := by
  induction n generalizing s with
  | zero => exact h
  | succ n ih =>
    unfold State.seedTasks
    split
    · exact h
    · refine ih ?_
      split
      next v t heq =>
        have ht : t.Canonical := h.devRead.of_eq heq
        exact ht.queueTask
      next k a t heq =>
        have ht : t.Canonical := h.devRead.of_eq heq
        exact ht.taskFault.modLaunch
      next a t heq =>
        have ht : t.Canonical := h.devRead.of_eq heq
        exact ht.taskFault.modLaunch
theorem State.Canonical.activate {l : Launch} {va : BitVec 64} (h : s.Canonical) : (s.activate l va).Canonical := by
  unfold State.activate
  extract_lets t u v
  have ht : t.Canonical := h
  have hv : v.Canonical := ht.modCtx.logCtx.ite ht.modCtx
  exact hv.seedTasks.ite hv
theorem State.Canonical.launchRead {c : Nat} {va : BitVec 64} {n : Nat} (h : s.Canonical) : (s.launchRead c va n).2.Canonical := by
  unfold State.launchRead
  split
  next heq => exact h.devRead.of_eq heq
  next heq => exact h.devRead.of_eq heq
  next heq => exact h.devRead.of_eq heq
theorem State.Canonical.sceneObject {c va : Nat} (h : s.Canonical) : (s.sceneObject c va).2.Canonical := by
  unfold State.sceneObject
  extract_lets slot log
  refine .ite2 h ?_
  split
  next heq => exact h.launchRead.of_eq heq
  next e t heq =>
    have ht : t.Canonical := h.launchRead.of_eq heq
    exact .ite2 ht ht
theorem State.Canonical.episodeTable {c : Nat} {base : BitVec 64} {i n : Nat} (h : s.Canonical) :
    (s.episodeTable c base i n).2.Canonical := by
  induction n generalizing s i with
  | zero => exact h
  | succ n ih =>
    unfold State.episodeTable
    split
    next heq => exact h.launchRead.of_eq heq
    next v t heq =>
      have ht : t.Canonical := h.launchRead.of_eq heq
      refine .ite2 ht ?_
      split
      next heq => exact (ih ht).of_eq heq
      next heq => exact (ih ht).of_eq heq
theorem State.Canonical.rayParts {c : Nat} {r : BitVec 512} (h : s.Canonical) : (s.rayParts c r).2.Canonical := by
  unfold State.rayParts
  split
  next heq => exact h.sceneObject.of_eq heq
  next va t heq =>
    have ht : t.Canonical := h.sceneObject.of_eq heq
    refine .ite2 ht ?_
    split
    next heq => exact ht.episodeTable.of_eq heq
    next tab u heq =>
      have hu : u.Canonical := ht.episodeTable.of_eq heq
      refine .ite2 hu ?_
      split
      next heq => exact hu.launchRead.of_eq heq
      next v heq =>
        have hv : v.Canonical := hu.launchRead.of_eq heq
        exact .ite2 hv hv
theorem State.Canonical.activateRay {l : Launch} {va : BitVec 64} (h : s.Canonical) : (s.activateRay l va).Canonical := by
  unfold State.activateRay
  extract_lets slot t
  have ht : t.Canonical := h.passHead
  split
  next k u heq =>
    have hu : u.Canonical := ht.rayParts.of_eq heq
    exact hu.refuse
  next hdr tab u heq =>
    have hu : u.Canonical := ht.rayParts.of_eq heq
    exact .activate hu
theorem State.Canonical.takeFrom {c q : Nat} (h : s.Canonical) : (s.takeFrom c q).Canonical := by
  unfold State.takeFrom
  extract_lets d va held t
  have ht : t.Canonical := h
  clear_value t
  have hp : (match held with
    | some (_, r) => ((some r.toNat : Option Nat), t)
    | none => t.launchRead c va 64).2.Canonical := by
    clear_value held
    split
    · exact ht
    · exact ht.launchRead
  split
  next u heq =>
    have hu : u.Canonical := hp.of_eq heq
    exact hu.queueFault
  next v u heq =>
    have hu : u.Canonical := hp.of_eq heq
    refine .ite hu.activateRay ?_
    split
    · exact hu.passHead.refuse
    · exact .ite hu.passHead.activate (.ite hu.activateRay hu.modCtx)
theorem State.Canonical.launchTake (h : s.Canonical) : s.launchTake.Canonical := by
  unfold State.launchTake
  split
  · exact h.takeFrom
  · exact h
theorem State.Canonical.rayActivation {c q : Nat} (h : s.Canonical) : (s.rayActivation c q).Canonical := h.takeFrom.ite h

/-! #### Placement's own moves -/

theorem State.Canonical.placementReservation {num : Nat} (h : s.Canonical) : (s.placementReservation num).Canonical := by
  unfold State.placementReservation
  extract_lets t
  have ht : t.Canonical := h
  exact ht.modLaunch.ite ht
theorem State.Canonical.ageTasks {num : Nat} (h : s.Canonical) : (s.ageTasks num).Canonical := h.modLaunch
theorem State.Canonical.quantumExpiry {cl : Nat} (h : s.Canonical) : (s.quantumExpiry cl).Canonical := by
  unfold State.quantumExpiry
  split
  · exact h
  · extract_lets quantum t
    refine .ite h ?_
    have ht : t.Canonical := h.foldl fun _ _ h => h.raiseReq
    exact ht
theorem State.Canonical.urgentPreemption {num : Nat} (h : s.Canonical) : (s.urgentPreemption num).Canonical := by
  unfold State.urgentPreemption
  split
  · exact h
  · split
    · exact h
    · refine .ite h ?_
      extract_lets t
      split
      · exact h
      · exact h.foldl fun _ _ h => h.raiseReq

/-! #### The Crier and traces -/

/-- The state beside a read of scene memory is canonical. -/
def SceneRead.Canonical : SceneRead → Prop
  | .data _ s => s.Canonical
  | .fault s => s.Canonical
  | .missing _ s => s.Canonical

theorem SceneRead.Canonical.of_eq {q r : SceneRead} (h : q.Canonical) (e : q = r) : r.Canonical := e ▸ h

/-- The state at the end of a trace is canonical. -/
def TraceEnd.Canonical : TraceEnd → Prop
  | .hit _ s => s.Canonical
  | .occluded _ s => s.Canonical
  | .miss s => s.Canonical
  | .error _ s => s.Canonical
  | .fault _ s => s.Canonical
  | .missing _ _ s => s.Canonical

theorem TraceEnd.Canonical.of_eq {q r : TraceEnd} (h : q.Canonical) (e : q = r) : r.Canonical := e ▸ h

theorem State.Canonical.markStall {q i limits : Nat} (h : s.Canonical) : (s.markStall q i limits).Canonical := h
theorem State.Canonical.takeRays {phase : RayPhase} {rays : List (Nat × Ray)} (h : s.Canonical) :
    (s.takeRays phase rays).Canonical := h.foldl fun _ _ h => h.setRay
theorem State.Canonical.crierEmission {q : Nat} (h : s.Canonical) : (s.crierEmission q).Canonical := by
  unfold State.crierEmission
  split
  · exact h
  · extract_lets +onlyGivenNames rays num key phase t slots
    have ht : t.Canonical := h.takeRays
    refine .sweepStalls (.ite ?_ ht)
    extract_lets e u
    have hu : u.Canonical := ht
    split
    · exact hu.logCtx
    · exact hu
theorem State.Canonical.batchStart {q u : Nat} (h : s.Canonical) : (s.batchStart q u).Canonical := by
  unfold State.batchStart
  extract_lets load
  refine .ite h ?_
  split
  · exact .ite h h
  · exact h
theorem State.Canonical.leaveBatch {num slot : Nat} {hit : Option Nat} (h : s.Canonical) : (s.leaveBatch num slot hit).Canonical
    := by
  unfold State.leaveBatch
  split
  · exact h
  · exact .ite h h
theorem State.Canonical.traceFails {l : Launch} {u : Nat} {r : Ray} {d v : Nat} (h : s.Canonical) :
    (s.traceFails l u r d v).Canonical := h.logRay.retireRay.leaveBatch
theorem State.Canonical.traceMisses {l : Launch} {u : Nat} {r : Ray} {a : BitVec 64} {v : Nat} (h : s.Canonical) :
    (s.traceMisses l u r a v).Canonical := by
  unfold State.traceMisses
  extract_lets page
  refine .ite h.traceFails ?_
  split
  next t u heq =>
    have hu : u.Canonical := h.needTag heq
    exact hu.setRay
  · exact h
theorem State.Canonical.sceneRead {co c va n : Nat} (h : s.Canonical) : (s.sceneRead co c va n).Canonical := by
  unfold State.sceneRead
  extract_lets a
  refine holds_ite (P := SceneRead.Canonical) h ?_
  split
  next heq => exact h.translate.of_eq heq
  next heq => exact h.translate.of_eq heq
  next heq => exact h.translate.of_eq heq
  next e t heq =>
    have ht : t.Canonical := h.translate.of_eq heq
    split
    · exact ht
    · split
      next heq => exact ht.devRead.of_eq heq
      next heq => exact ht.devRead.of_eq heq
      next heq => exact ht.devRead.of_eq heq
theorem State.Canonical.traceFrom {co c : Nat} {hdr : BitVec 512} {record : BitVec 1024} {tmin : Int} {n : Nat} {l : List TEntry}
    {tcur : Bound} {best : Option Best} (h : s.Canonical) : (s.traceFrom co c hdr record tmin n l tcur best).Canonical := by
  induction n generalizing s l tcur best with
  | zero =>
    cases l with
    | nil =>
      unfold State.traceFrom
      split
      · exact h
      · exact h
    | cons e l => exact h
  | succ n ih =>
    cases l with
    | nil =>
      unfold State.traceFrom
      split
      · exact h
      · exact h
    | cons e l =>
      unfold State.traceFrom
      extract_lets kind low
      refine holds_ite (P := TraceEnd.Canonical) (ih h) (holds_ite (P := TraceEnd.Canonical) (holds_ite (P := TraceEnd.Canonical) h ?_)
        (holds_ite (P := TraceEnd.Canonical) h ?_))
      · split
        next heq => exact h.sceneRead.of_eq heq
        next heq => exact h.sceneRead.of_eq heq
        next v t heq =>
          have ht : t.Canonical := h.sceneRead.of_eq heq
          refine holds_ite (P := TraceEnd.Canonical) ht (holds_ite (P := TraceEnd.Canonical) (ih ht) ?_)
          split
          · exact ih ht
          · exact ih ht
      · split
        next heq => exact h.sceneRead.of_eq heq
        next heq => exact h.sceneRead.of_eq heq
        next v t heq =>
          have ht : t.Canonical := h.sceneRead.of_eq heq
          refine holds_ite (P := TraceEnd.Canonical) (holds_ite (P := TraceEnd.Canonical) ht ?_)
            (holds_ite (P := TraceEnd.Canonical) ht ?_)
          · split
            · exact ht
            · exact ih ht.bumpCtx
          · split
            refine holds_ite (P := TraceEnd.Canonical) ?_ (ih ht)
            split
            · exact ht
            · exact ht
theorem State.Canonical.trace {co c : Nat} {hdr : BitVec 512} {record : BitVec 1024} (h : s.Canonical) :
    (s.trace co c hdr record).Canonical := by
  unfold State.trace
  split
  · exact h.traceFrom
  · exact h
theorem State.Canonical.traceCompletion {l slot : Nat} (h : s.Canonical) : (s.traceCompletion l slot).Canonical := by
  unfold State.traceCompletion
  split
  · exact h
  · split
    · split
      · exact h
      · refine .ite h ?_
        split
        next t heq =>
          have ht : t.Canonical := h.trace.of_eq heq
          exact ht.traceMisses
        next t heq =>
          have ht : t.Canonical := h.trace.of_eq heq
          exact ht.traceFails
        next t heq =>
          have ht : t.Canonical := h.trace.of_eq heq
          exact ht.traceFails
        next t heq =>
          have ht : t.Canonical := h.trace.of_eq heq
          exact ht.leaveBatch.toEpisode
        next b t heq =>
          have ht : t.Canonical := h.trace.of_eq heq
          exact ht.leaveBatch.toEpisode
        next b t heq =>
          have ht : t.Canonical := h.trace.of_eq heq
          exact ht.leaveBatch.toEpisode
    · exact h
theorem State.Canonical.answerTraces {tag : BitVec 32} {page : Nat} {fails : Bool} (h : s.Canonical) :
    (s.answerTraces tag page fails).Canonical := h.foldl fun _ _ h => by
  split
  · exact h
  · exact h.foldl fun _ _ h => h.traceFails.ite h.setRay
theorem State.Canonical.reload {co k : Nat} (h : s.Canonical) : (s.reload co k).Canonical := by
  unfold State.reload
  split
  · exact h
  · refine .ite h ?_
    split
    · split
      · exact h
      · extract_lets +onlyGivenNames t rays u own blocks v w fresh sfq x slots y
        have hw : w.Canonical := h.exitRelease.takeRays.setBlock.clearBlocks.clearStore
        have hx : x.Canonical := hw.setWave
        have hy : y.Canonical := hx.fillEpisode.sweepStalls
        exact hy.logCtx.ite hy
    · exact h
theorem State.Canonical.poolError {l slot : Nat} (h : s.Canonical) : (s.poolError l slot).Canonical := by
  unfold State.poolError
  split
  · exact h
  · split
    · extract_lets t
      have ht : t.Canonical := h.logRay.retireRay.leaveBatch
      exact ht
    · exact h

/-! #### Page answers, walks and other moves of the device -/

theorem State.Canonical.retryWave {co k : Nat} {ok : Wait → Bool} (h : s.Canonical) : (s.retryWave co k ok).Canonical := by
  unfold State.retryWave
  split
  · exact .ite h h
  · exact h
theorem State.Canonical.answerTag {tag : Tag} {fails : Bool} {cause : Nat} (h : s.Canonical) :
    (s.answerTag tag fails cause).Canonical := by
  unfold State.answerTag
  extract_lets w a t u
  have ht : t.Canonical := h.freeTagOf
  have hu : u.Canonical := ht
  exact hu.answerTraces
theorem State.Canonical.reply {c : Nat} {v : BitVec 64} (h : s.Canonical) : (s.reply c v).Canonical := by
  unfold State.reply
  extract_lets status cause tag
  refine .ite h ?_
  split
  · exact .ite h.logCtx h.answerTag
  · exact h.logCtx
theorem State.Canonical.headMoved {c : Nat} (h : s.Canonical) : (s.headMoved c).Canonical := h.fqFlush
theorem State.Canonical.rootWritten {c : Nat} (h : s.Canonical) : (s.rootWritten c).Canonical :=
    (h.foldl fun _ _ h => h.completeFlight).tlbDrop
theorem State.Canonical.assignWalkers (h : s.Canonical) : s.assignWalkers.Canonical := h.ite h
theorem State.Canonical.pageWalk {walker : Nat} (h : s.Canonical) : (s.pageWalk walker).Canonical := by
  unfold State.pageWalk
  extract_lets t mine
  have ht : t.Canonical := h.assignWalkers
  split
  · exact ht
  · extract_lets u
    have hu : u.Canonical := ht
    exact hu.translate
theorem State.Canonical.pollWaiter {i : Nat} (h : s.Canonical) : (s.pollWaiter i).Canonical := by
  unfold State.pollWaiter
  split
  · exact h
  · exact h.l2Read.releaseWaiter.ite h.l2Read
theorem State.Canonical.asWave {w : Wave} (h : s.Canonical) : (s.asWave w).Canonical := h
theorem State.Canonical.boundary {w : Wave} (h : s.Canonical) : AllCanonical id (s.boundary w) := by
  unfold State.boundary
  refine holds_ite (P := AllCanonical id) (.some (h.setWave.ite h)) (holds_ite (P := AllCanonical id) .none ?_)
  split
  · exact .some h.setWave.asWave.takeTrap
  · exact holds_ite (P := AllCanonical id) (.some h.asWave.takeTrap) (holds_ite (P := AllCanonical id) (.some h.takeTimer) .none)
theorem State.Canonical.storeFaultTrap {co k : Nat} (h : s.Canonical) : (s.storeFaultTrap co k).Canonical := by
  unfold State.storeFaultTrap
  split
  · exact (h.boundary.getD h).ite h
  · exact h
theorem State.Canonical.wakeTimer {w : Wave} (h : s.Canonical) : (s.wakeTimer w).Canonical := h.takeTimer
theorem State.Canonical.userTimerTrap {co k : Nat} (h : s.Canonical) : (s.userTimerTrap co k).Canonical := by
  unfold State.userTimerTrap
  split
  · exact h
  · refine .ite h ?_
    split
    · exact h.wakeTimer
    · exact h.takeTimer.ite h
theorem State.Canonical.sleepEnds {co k : Nat} (h : s.Canonical) : (s.sleepEnds co k).Canonical := by
  unfold State.sleepEnds
  split
  · exact h
  · exact h.setWave
theorem State.Canonical.readyAged {co k : Nat} (h : s.Canonical) : (s.readyAged co k).Canonical := by
  unfold State.readyAged
  split
  · exact .ite h h
  · exact h
theorem State.Canonical.spindleStart {cl : Nat} (h : s.Canonical) : (s.spindleStart cl).Canonical := by
  unfold State.spindleStart
  split
  · exact h.retryWave
  · exact h
theorem State.Canonical.lineAges {co i : Nat} (h : s.Canonical) : (s.lineAges co i).Canonical := by
  unfold State.lineAges
  split
  · exact h.writeBackRouted.ite h
  · exact h

end Sys2Proof.Machine
end

section
/-! ### Resets, start-up, management, the host, the pair and the peers -/

namespace Sys2Proof.Machine

variable {s : State}

theorem State.Canonical.setMgmt {m : Mgmt} (h : s.Canonical) : State.Canonical { s with mgmt := m } := h
theorem State.Canonical.setOut {l : List OutMsg} (h : s.Canonical) : State.Canonical { s with out := l } := h

/-! #### Resets -/

theorem State.reset_canonical : State.reset.Canonical := ⟨wf_nil, wf_nil, wf_nil, wf_nil, wf_nil⟩

theorem State.Canonical.ctlReset {r : CtlReg} (h : s.Canonical) : (s.ctlReset r).Canonical := h.ctlWr
theorem State.Canonical.setMsix {m : Memory} (h : s.Canonical) (hm : m.wf = true) : State.Canonical { s with msix := m } :=
    h.withMsix hm
theorem State.Canonical.functionReset {f : Nat} (h : s.Canonical) : (s.functionReset f).Canonical := by
  unfold State.functionReset
  extract_lets cs t u v
  have ht : t.Canonical := h.foldl fun _ _ h => .ite h h.terminate
  have hu : u.Canonical := ht.ctlReset.foldl fun _ _ h => h.ctlReset.ctlReset
  have hv : v.Canonical := hu.foldl fun _ _ h => h.ctlReset
  exact hv.setMsix (wf_clear _ _ _ hv.2.2.2.2)
theorem State.Canonical.flr {f : Nat} (h : s.Canonical) : (s.flr f).Canonical := h.foldl fun _ _ h => h.functionReset
theorem State.Canonical.flrComplete {f : Nat} (h : s.Canonical) : (s.flrComplete f).Canonical := h
theorem State.Canonical.dropPortLines {p : Nat} (h : s.Canonical) : (s.dropPortLines p).Canonical := by
  unfold State.dropPortLines
  extract_lets t
  have ht : t.Canonical := h.withMem (wf_clear _ _ _ h.1)
  exact ht.foldl fun _ _ h => h.setDir.ite h.setDir
theorem State.Canonical.portReset {p : Nat} (h : s.Canonical) : (s.portReset p).Canonical := h.flr.dropPortLines.ctlWr.devLog
theorem State.Canonical.boardCap (h : s.Canonical) : s.boardCap.Canonical := h.ctlSet.ite h
theorem State.warmReset_canonical {source : Nat} : (s.warmReset source).Canonical := by
  unfold State.warmReset
  extract_lets m keep src t
  have ht : t.Canonical := State.reset_canonical
  exact ht.boardCap.ctlWr.devLog
theorem State.Canonical.askWarmReset {source : Nat} (h : s.Canonical) : (s.askWarmReset source).Canonical :=
    State.warmReset_canonical.ite h
theorem State.coldReset_canonical : s.coldReset.Canonical := by
  unfold State.coldReset
  extract_lets m keep src t
  have ht : t.Canonical := State.reset_canonical
  exact ht.boardCap.devLog

/-! #### Start-up and management -/

theorem State.Canonical.setPhase {p : Nat} (h : s.Canonical) : (s.setPhase p).Canonical := h.ctlSet
theorem State.Canonical.goTo {n : Nat} (h : s.Canonical) : (s.goTo n).Canonical := h
theorem State.Canonical.recovery {n : Nat} (h : s.Canonical) : (s.recovery n).Canonical :=
    h.setPhase.ctlSet.goTo.ctlWr.ctlWr.ctlSet.devLog
theorem State.Canonical.selectFirmware (h : s.Canonical) : s.selectFirmware.Canonical := by
  have hr (f : FwSlot) (b : Bool) :
      (((s.ctlSet .mgtStatus 32 16 f.svn).ctlSet .mgtStatus 8 1 (if b then 1 else 0)).goTo 3).Canonical := h.ctlSet.ctlSet.goTo
  exact .ite (hr _ _) (.ite (hr _ _) h.recovery)
theorem State.Canonical.installMap (h : s.Canonical) : s.installMap.Canonical := by
  unfold State.installMap
  exact .ite h.recovery (.goTo (h.foldl fun _ _ h => h.ctlWr))
theorem State.Canonical.trainMemory (h : s.Canonical) : s.trainMemory.Canonical := by
  unfold State.trainMemory
  have ht := h.takeWord
  generalize s.takeWord = p at ht ⊢
  exact .setMgmt (.ctlSet (.ctlSet ht))
theorem State.Canonical.trainLinks (h : s.Canonical) : s.trainLinks.Canonical := by
  unfold State.trainLinks
  extract_lets t ports
  have ht : t.Canonical := h.ctlSet.ite h
  exact (ht.foldl fun _ _ h => h.ctlSet).goTo
theorem State.Canonical.releasePorts (h : s.Canonical) : s.releasePorts.Canonical := by
  unfold State.releasePorts
  extract_lets m t svn u
  have ht : t.Canonical := h.ctlSet.ctlSet
  have hu : u.Canonical := ht
  exact hu.devLog.ite hu
theorem State.Canonical.bootStep (h : s.Canonical) : s.bootStep.Canonical := by
  unfold State.bootStep
  split
  · have ht : ((s.setPhase 1).goTo 2).Canonical := h.setPhase.goTo
    exact ht
  · exact h.setPhase.selectFirmware
  · exact h.setPhase.installMap
  · exact h.setPhase.trainMemory
  · exact h.setPhase.trainLinks
  · exact h.setPhase.releasePorts
  · exact h
theorem State.Canonical.startFails (h : s.Canonical) : s.startFails.Canonical := by
  unfold State.startFails
  extract_lets failed
  have hf (step : Nat) : (failed step).Canonical := h.setPhase.ctlSet.goTo
  split
  · exact hf 1
  · exact hf 4
  · exact h.setPhase.trainLinks.ctlSet
  · exact h
theorem State.Canonical.rollback (h : s.Canonical) : s.rollback.Canonical := by
  unfold State.rollback
  split
  · exact .ite h (.askWarmReset (.devLog h))
  · exact h
theorem State.Canonical.hostLinkUp {p a b c d e : Nat} (h : s.Canonical) : (s.hostLinkUp p a b c d e).Canonical := .ite h h.ctlWr
theorem State.Canonical.timeSync {b : Nat} (h : s.Canonical) : (s.timeSync b).Canonical := .ite h h.setBuf
theorem State.Canonical.lossRecord {b : Nat} (h : s.Canonical) : (s.lossRecord b).Canonical := .ite h h.setBuf
theorem State.Canonical.freezeArrival {b : Nat} (h : s.Canonical) : (s.freezeArrival b).Canonical := by
  unfold State.freezeArrival
  split
  · exact h
  · extract_lets +onlyGivenNames x g
    clear_value x
    split
    · exact .setBuf h
    · extract_lets t u
      have ht : t.Canonical := h
      have hu : u.Canonical := ht.setBuf
      exact hu
theorem State.Canonical.windowClose {b : Nat} (h : s.Canonical) : (s.windowClose b).Canonical := by
  unfold State.windowClose
  split
  · exact h
  · exact .ite h h.setBuf
theorem State.Canonical.pairFreeze {k : Nat} (h : s.Canonical) : (s.pairFreeze k).Canonical := .ite h h.raiseFreeze
theorem State.Canonical.resumeBufs (h : s.Canonical) : s.resumeBufs.Canonical := h.foldl fun _ _ h => .ite h h.setBuf
theorem State.Canonical.mailboxEnds {f a n : Nat} (h : s.Canonical) : (s.mailboxEnds f a n).Canonical := h
theorem State.Canonical.mboxPut {f off n v : Nat} (h : s.Canonical) : (s.mboxPut f off n v).Canonical := h.withMbox
    (wf_writeNat _ _ _ _ h.2.2.2.1)
theorem State.Canonical.capsuleStored (h : s.Canonical) : s.capsuleStored.Canonical := by
  unfold State.capsuleStored
  split
  · exact h
  next f rest _ =>
    refine .ite h ?_
    extract_lets +onlyGivenNames done
    have hd (t : State) (ht : t.Canonical) : (done t).Canonical := by
      dsimp -zeta only [done]
      extract_lets u v
      have hu : u.Canonical := ht
      have hv : v.Canonical := hu.resumeBufs.ite hu
      split
      · exact State.warmReset_canonical
      · exact hv
    clear_value done
    refine .ite (hd s h) ?_
    split
    · extract_lets +onlyGivenNames m t u
      have ht : t.Canonical := h
      have hu : u.Canonical := ht.devLog
      split
      · exact hd _ hu.takeWord.mailboxEnds
      · exact hd _ hu
    · extract_lets +onlyGivenNames c m t u
      have ht : t.Canonical := h
      have hu : u.Canonical := ht.devLog
      split
      · exact hd _ hu.mboxPut.mailboxEnds
      · exact hd _ hu
theorem State.Canonical.flashCopy (h : s.Canonical) : s.flashCopy.Canonical := by
  unfold State.flashCopy
  split
  · exact h
  · exact h
theorem State.Canonical.machineCheck {a b c : Nat} {d : BitVec 64} (h : s.Canonical) : (s.machineCheck a b c d).Canonical := by
  unfold State.machineCheck
  extract_lets t u v w
  have hv : v.Canonical := h.logDev.devLog.raiseFreeze
  have hw : w.Canonical := .ite hv hv
  exact hw.foldl fun _ _ h => h.terminate
theorem State.Canonical.machineCheckEvent {a b c : Nat} {d : BitVec 64} (h : s.Canonical) :
    (s.machineCheckEvent a b c d).Canonical := .ite h h.machineCheck
theorem State.Canonical.memoryError {g : Nat} {ue : Bool} (h : s.Canonical) : (s.memoryError g ue).Canonical := by
  unfold State.memoryError
  extract_lets pa t u
  have hu : u.Canonical := h.logDev.errCount
  exact .ite h (.ite (.devLog hu) hu)
theorem State.Canonical.scrubRead {g k : Nat} (h : s.Canonical) : (s.scrubRead g k).Canonical := .ite h h.memoryError
theorem State.Canonical.thermalTrip (h : s.Canonical) : s.thermalTrip.Canonical := h.machineCheck.devLog.ite h
theorem State.Canonical.governorStep {up : Bool} (h : s.Canonical) : (s.governorStep up).Canonical := by
  unfold State.governorStep
  extract_lets f g
  exact .ite h (.setMgmt h.ctlSet)
theorem State.Canonical.sensors {a b : Nat} (h : s.Canonical) : (s.sensors a b).Canonical := h.ctlSet.ctlSet
theorem State.Canonical.spdmAnswer {p a b c : Nat} (h : s.Canonical) : (s.spdmAnswer p a b c).Canonical := .ite h (.ite h h)
theorem State.Canonical.spdmRequest {p i : Nat} (h : s.Canonical) : (s.spdmRequest p i).Canonical := by
  unfold State.spdmRequest
  split
  · exact h.spdmAnswer
  · exact h
theorem State.Canonical.mboxBytes {f : Nat} {l : List (BitVec 8)} (h : s.Canonical) : (s.mboxBytes f l).Canonical := h.mboxPut
theorem State.Canonical.stageImage {f n : Nat} (h : s.Canonical) : (s.stageImage f n).Canonical := by
  unfold State.stageImage
  extract_lets n img
  have ht := h.takeWord
  exact .mailboxEnds ht
theorem State.Canonical.activateImage {f : Nat} (h : s.Canonical) : (s.activateImage f).Canonical := .ite h.mailboxEnds
    (.askWarmReset h)
theorem State.Canonical.poolConfig {f : Nat} (h : s.Canonical) : (s.poolConfig f).Canonical := .ite h.mailboxEnds (.mailboxEnds h)
theorem State.Canonical.capList {f : Nat} (h : s.Canonical) : (s.capList f).Canonical := h.mboxBytes.mailboxEnds
theorem State.Canonical.capRead {f : Nat} (h : s.Canonical) : (s.capRead f).Canonical := by
  unfold State.capRead
  extract_lets view off
  split
  · exact h.mailboxEnds
  · exact .ite h.mailboxEnds (.ite h.mailboxEnds (.ite h.mailboxEnds h.mboxBytes.mailboxEnds))
theorem State.Canonical.captureNow {f : Nat} (h : s.Canonical) : (s.captureNow f).Canonical := h.raiseFreeze
theorem State.Canonical.capClear {f : Nat} (h : s.Canonical) : (s.capClear f).Canonical := .ite h h.mailboxEnds
theorem State.Canonical.logRead {f : Nat} (h : s.Canonical) : (s.logRead f).Canonical := h.mboxBytes.mailboxEnds
theorem State.Canonical.mailboxRun {f : Nat} (h : s.Canonical) : (s.mailboxRun f).Canonical := by
  unfold State.mailboxRun
  extract_lets r t len denied
  have ht : t.Canonical := h.ctlSet
  have hd : denied.Canonical := ht.mailboxEnds
  clear_value t denied
  split
  · exact ht.stageImage.ite hd
  · exact ht.activateImage.ite hd
  · exact ht.askWarmReset.ite hd
  · exact ht.poolConfig.ite hd
  · exact ht.capList
  · exact ht.capRead
  · exact ht.captureNow.ite hd
  · exact ht.capClear.ite hd
  · exact ht.logRead.ite hd
  · exact ht.mailboxEnds
theorem State.Canonical.mailboxDone {f : Nat} (h : s.Canonical) : (s.mailboxDone f).Canonical := by
  unfold State.mailboxDone
  split
  · exact h
  · exact .sendMsix (.setMgmt h.ctlSet.ctlSet.ctlSet)

/-! #### Accesses that fail, the links and the peers -/

theorem State.Canonical.failElem {w : Wave} {a : Access} {how : Failing} {e : Elem} (h : s.Canonical) :
    (s.failElem w a how e).2.Canonical := by
  unfold State.failElem
  extract_lets +onlyGivenNames va t marked
  have hm : marked.Canonical := h.fillDest.logWave.ite h.fillDest
  clear_value marked
  split
  · exact hm
  · exact hm
  · exact h
theorem State.Canonical.failAccess {co k i : Nat} {how : Failing} {p : Elem → Bool} (h : s.Canonical) :
    (s.failAccess co k i how p).Canonical := by
  unfold State.failAccess
  split
  · exact h
  · split
    · exact h
    next w _ _ a _ =>
      extract_lets es
      refine .ite h ?_
      have hp : (es.foldl (fun (acc : Access × State) e => acc.2.failElem w acc.1 how e) (a, s)).2.Canonical :=
        State.Canonical.foldl2 h fun _ _ h => h.failElem
      generalize es.foldl (fun (acc : Access × State) e => acc.2.failElem w acc.1 how e) (a, s) = q at hp ⊢
      exact hp.modWave.completeAccess.ite hp.modWave
theorem State.Canonical.failAll {how : Failing} {p : Elem → Bool} (h : s.Canonical) : (s.failAll how p).Canonical := h.foldl fun _
    _ h => h.foldl fun _ _ h => h.failAccess
theorem State.Canonical.peerAnswer {co k i : Nat} {p : Bool} (h : s.Canonical) : (s.peerAnswer co k i p).Canonical := by
  unfold State.peerAnswer
  split
  · exact h
  · exact h.failAccess
theorem State.Canonical.portTrains {p peer : Nat} (h : s.Canonical) : (s.portTrains p peer).Canonical := .ite h
    h.ctlSet.ctlSet.ctlSet
theorem State.Canonical.portFails {p : Nat} (h : s.Canonical) : (s.portFails p).Canonical := by
  unfold State.portFails
  extract_lets r t u
  have ht : t.Canonical := h.failAll
  have hu : u.Canonical := ht
  exact .ite h hu.ctlSet.ctlSet.devLog
theorem State.Canonical.remoteRequest {dest hops : Nat} {r : Remote} (h : s.Canonical) : (s.remoteRequest dest hops r).Canonical
    := by
  unfold State.remoteRequest
  extract_lets refused
  have hr (t : State) (ht : t.Canonical) : (refused t).Canonical := ht
  refine .ite ?_ ?_
  · split
    next heq => exact hr _ (h.serveRemote.of_eq heq)
    next t heq =>
      have ht : t.Canonical := h.serveRemote.of_eq heq
      exact ht
  · split
    · exact hr _ h.logDev
    · exact .setOut h.keepRoute
theorem State.Canonical.pairFails (h : s.Canonical) : s.pairFails.Canonical := by
  unfold State.pairFails
  extract_lets t paired u v
  have hv : v.Canonical := h.failAll.ctlSet.devLog.machineCheck
  exact .ite h (hv.foldl fun _ _ h => .ite h h.terminate)
theorem State.Canonical.giveLine {l : Nat} {takes : Bool} {answer : Bool → BitVec 1024 → OutMsg} (h : s.Canonical) :
    (s.giveLine l takes answer).Canonical := by
  unfold State.giveLine
  extract_lets d dirty t
  have ht : t.Canonical := h
  exact .ite h (.ite (.setDir (ht.withMem (wf_clear _ _ _ ht.1))) ht.setDir)
theorem State.Canonical.pairRequest {kind addr : Nat} {data : BitVec 64} (h : s.Canonical) :
    (s.pairRequest kind addr data).Canonical := by
  unfold State.pairRequest
  extract_lets space off pa t
  exact .ite h (.ite h.giveLine (.ite h (.ite h.outsideWrite (.setOut h.outsideRead))))
theorem State.Canonical.hdmAccess {p : Nat} {w : Bool} {addr : Nat} {data : BitVec 64} (h : s.Canonical) :
    (s.hdmAccess p w addr data).Canonical := by
  unfold State.hdmAccess
  extract_lets +onlyGivenNames pa f
  refine .ite h (.ite (h.logDenied.ite (.setOut h.logDenied)) (.ite h.outsideWrite ?_))
  extract_lets t
  have ht : t.Canonical := h.outsideRead
  have hp : (if t.anyPoison pa 8 then t.takeBytes 8 else (t.mem.readNat pa 8, t)).2.Canonical := .ite2 ht.takeBytes ht
  generalize (if t.anyPoison pa 8 then t.takeBytes 8 else (t.mem.readNat pa 8, t)) = q at hp ⊢
  exact hp
theorem State.Canonical.snoop {p l k : Nat} (h : s.Canonical) : (s.snoop p l k).Canonical := .ite h h.giveLine

/-! #### The host's accesses -/

theorem State.Canonical.barPlace {f off n : Nat} {need : Need} (h : s.Canonical) : (s.barPlace f off n need).2.Canonical := by
  unfold State.barPlace
  extract_lets c va
  split
  next heq => exact h.enginePlace.of_eq heq
  next heq => exact h.enginePlace.of_eq heq
  next heq => exact h.enginePlace.of_eq heq
theorem State.Canonical.barRefused {f off k : Nat} (h : s.Canonical) : (s.barRefused f off k).Canonical := h.logDenied
theorem State.Canonical.barRead {f off n : Nat} (h : s.Canonical) : (s.barRead f off n).Canonical := by
  unfold State.barRead
  extract_lets +onlyGivenNames abort
  have ha (t : State) (ht : t.Canonical) : (abort t).Canonical := ht
  refine .ite h (.ite (ha s h) ?_)
  extract_lets c
  split
  next k t heq =>
    have ht : t.Canonical := h.barPlace.of_eq heq
    exact ha _ ht.barRefused
  next l t heq =>
    have ht : t.Canonical := h.barPlace.of_eq heq
    exact .ite (ha _ ht.barRefused) ht.engineRead
theorem State.Canonical.barWrite {f off n : Nat} {data : BitVec 64} (h : s.Canonical) : (s.barWrite f off n data).Canonical := by
  unfold State.barWrite
  extract_lets +onlyGivenNames c
  refine .ite h ?_
  split
  next k t heq =>
    have ht : t.Canonical := h.barPlace.of_eq heq
    exact ht.barRefused
  next l t heq =>
    have ht : t.Canonical := h.barPlace.of_eq heq
    exact ht.engineWrite
theorem State.Canonical.ctxCtlActs {fn c : Nat} {old w : BitVec 64} (h : s.Canonical) : (s.ctxCtlActs fn c old w).Canonical := by
  unfold State.ctxCtlActs
  extract_lets +onlyGivenNames t
  have ht : t.Canonical := h.modCtx.setPreState.ite h
  exact .ite h (.ite ht (.modCtx ht))
theorem State.Canonical.preActs {c : Nat} {w : BitVec 64} (h : s.Canonical) : (s.preActs c w).Canonical := by
  unfold State.preActs
  extract_lets t u
  have ht : t.Canonical := h.terminate.ite h
  have hu : u.Canonical := ht.resumeHost.ite ht
  exact hu.raiseReq.ite hu
theorem State.Canonical.dbgActs {c : Nat} {w : BitVec 64} (h : s.Canonical) : (s.dbgActs c w).Canonical := by
  unfold State.dbgActs
  extract_lets t
  have ht : t.Canonical := h.debugStop.ite h
  exact ht.debugStep.ite ht
theorem State.Canonical.regActs {fn off : Nat} {old v sel : BitVec 64} (h : s.Canonical) : (s.regActs fn off old v sel).Canonical
    := by
  unfold State.regActs
  extract_lets w
  split
  · exact h.ctxCtlActs
  · exact h.rehome
  · exact .ite h h.markPending
  · exact h.preActs
  · exact h.dbgActs
  · exact h.rootWritten
  · exact h.headMoved
  · exact h.headMoved
  · exact h.reply
  · exact .ite h h
  · exact h.portFails.ite h
  · exact h.devLog.ite h
  · exact h.mailboxRun.ite h
  · exact h
theorem State.Canonical.act {m : Option Move} (h : s.Canonical) : (s.act m).Canonical := by
  unfold State.act
  split
  · exact h.regActs
  · exact h
theorem State.Canonical.msixByte {f o : Nat} {b : BitVec 8} (h : s.Canonical) : (s.msixByte f o b).Canonical := h.withMsix
    (wf_write _ _ _ h.2.2.2.2)
theorem State.Canonical.msixWrite {f o n v : Nat} (h : s.Canonical) : (s.msixWrite f o n v).Canonical := by
  unfold State.msixWrite
  extract_lets t vec
  have ht : t.Canonical := h.foldl fun _ _ h => h.msixByte
  exact .ite ht ht
theorem State.Canonical.hostRead {f off n : Nat} (h : s.Canonical) : (s.hostRead f off n).Canonical := by
  unfold State.hostRead
  extract_lets +onlyGivenNames answer
  have ha (t : State) (v : Nat) (ht : t.Canonical) : (answer t v).Canonical := ht
  clear_value answer
  refine .ite h ?_
  split
  · exact ha _ _ h
  · exact .ite (ha _ _ h) (.ite (ha _ _ h) (ha _ _ h.regRead))
theorem State.Canonical.hostWrite {f off n v : Nat} (h : s.Canonical) : (s.hostWrite f off n v).Canonical := .ite h
    (.ite h.msixWrite (.ite h h.regPut.act))
theorem State.Canonical.barRegWrite {f off v : Nat} (h : s.Canonical) : (s.barRegWrite f off v).Canonical := by
  unfold State.barRegWrite
  split
  · exact h.hostWrite
  · exact h
theorem State.Canonical.hostReg {f : Nat} {r : CtlReg} {v : BitVec 64} (h : s.Canonical) : (s.hostReg f r v).Canonical :=
    h.hostWrite
theorem State.Canonical.hostLow {f : Nat} {r : CtlReg} {v : Nat} (h : s.Canonical) : (s.hostLow f r v).Canonical := h.hostWrite
theorem State.Canonical.hostCommand {f c : Nat} (h : s.Canonical) : (s.hostCommand f c).Canonical := h.hostReg

end Sys2Proof.Machine
end

section
/-! ### Lane and mask operations, system operations -/

namespace Sys2Proof.Machine

variable {s : State}

/-! #### Lanes and masks -/

theorem State.Canonical.laneMoves {w : Wave} {d regs : Nat} {used : List (Nat × Bool)} {vals : List (Nat × BitVec 64)}
    (h : s.Canonical) : (laneMoves s w d regs used vals).Canonical := Res.Canonical.ite h.vputAll h
theorem State.Canonical.shflOp {r : Row} {n : Norm} (h : s.Canonical) : (shflOp r n s).Canonical := by
  unfold Machine.shflOp
  split
  · exact h
  · exact h.laneMoves
theorem State.Canonical.rdlaneOp {r : Row} {n : Norm} (h : s.Canonical) : (rdlaneOp r n s).Canonical := by
  unfold Machine.rdlaneOp
  split
  · exact h
  · exact Res.Canonical.ite h (.ite h h.swr)
theorem State.Canonical.wrlaneOp {r : Row} {n : Norm} (h : s.Canonical) : (wrlaneOp r n s).Canonical := by
  unfold Machine.wrlaneOp
  split
  · exact h
  · exact Res.Canonical.ite h (.ite h (.ite h.vput h))
theorem State.Canonical.reduceOp {r : Row} {n : Norm} (h : s.Canonical) : (reduceOp r n s).Canonical := by
  unfold Machine.reduceOp
  split
  · exact h
  · exact Res.Canonical.ite h h.swr.orFlags
theorem State.Canonical.scanOp {r : Row} {n : Norm} (h : s.Canonical) : (scanOp r n s).Canonical := by
  unfold Machine.scanOp
  split
  · exact h
  · dsimp only
    split
    next t heq =>
      have ht : t.Canonical := h.laneMoves.of_eq heq
      exact ht.orFlags
    · exact h.laneMoves
theorem State.Canonical.ballotOp {r : Row} {n : Norm} (h : s.Canonical) : (ballotOp r n s).Canonical := by
  unfold Machine.ballotOp
  split
  · exact h
  · exact Res.Canonical.ite h h.kwr
theorem State.Canonical.matchOp {r : Row} {n : Norm} (h : s.Canonical) : (matchOp r n s).Canonical := by
  unfold Machine.matchOp
  split
  · exact h
  · exact Res.Canonical.ite h h.kwr
theorem State.Canonical.packOp {e : Bool} {r : Row} {n : Norm} (h : s.Canonical) : (packOp e r n s).Canonical := by
  unfold Machine.packOp
  split
  · exact h
  · exact h.laneMoves
theorem State.Canonical.maskOp {f : BitVec 64 → BitVec 64 → BitVec 64} {r : Row} {n : Norm} (h : s.Canonical) :
    (maskOp f r n s).Canonical := h.kwr
theorem State.Canonical.maskToScalar {f : BitVec 64 → BitVec 64} {r : Row} {n : Norm} (h : s.Canonical) :
    (maskToScalar f r n s).Canonical := h.swr
theorem State.Canonical.stokOp {r : Row} {n : Norm} (h : s.Canonical) : (stokOp r n s).Canonical := h.kwr

/-! #### Traps, special registers, timers and events -/

theorem State.Canonical.trapOp {r : Row} {n : Norm} (h : s.Canonical) : (trapOp r n s).Canonical := h
theorem State.Canonical.trapretOp {r : Row} {n : Norm} (h : s.Canonical) : (trapretOp r n s).Canonical := by
  unfold Machine.trapretOp
  split
  · exact Res.Canonical.ite (goReg_canonical h h.trapReturn.stopReturned) (.ite h h.handlerReturn)
  · exact goReg_canonical h h.trapReturn.stopReturned
theorem State.Canonical.utretOp {r : Row} {n : Norm} (h : s.Canonical) : (utretOp r n s).Canonical := by
  unfold Machine.utretOp
  split
  · exact goReg_canonical h h.modCurWave
  · exact h
theorem State.Canonical.specialWave {w : Wave} {k : Nat} (h : s.Canonical) : (s.specialWave w k).2.Canonical := by
  unfold State.specialWave
  extract_lets +onlyGivenNames m
  refine .ite2 h (.ite2 h (.ite2 h (.ite2 h ?_)))
  split
  case h_10 =>
    split
    · exact .ite2 h.takeWord h
    · exact h.takeWord
  all_goals exact h
theorem State.Canonical.specialSpindle {p : Spindle} {k : Nat} (h : s.Canonical) : (s.specialSpindle p k).2.Canonical := by
  unfold State.specialSpindle
  split
  case h_11 => exact h.setSpindle
  all_goals exact h
theorem State.Canonical.special {k : Nat} (h : s.Canonical) : (s.special k).2.Canonical := by
  unfold State.special
  split
  · exact h.specialWave
  · exact h.specialSpindle
  · exact h
theorem State.Canonical.rdsrOp {r : Row} {n : Norm} (h : s.Canonical) : (rdsrOp r n s).Canonical := Res.Canonical.ite h
    h.special.swr
theorem State.Canonical.wrsrOp {r : Row} {n : Norm} (h : s.Canonical) : (wrsrOp r n s).Canonical := Res.Canonical.ite h
    (.ite h (.ite h h.modCurWave.modCurSpindle))
theorem State.Canonical.tmrsetOp {r : Row} {n : Norm} (h : s.Canonical) : (tmrsetOp r n s).Canonical := h.modCurWave
theorem State.Canonical.tlbinvOp {r : Row} {n : Norm} (h : s.Canonical) : (tlbinvOp r n s).Canonical := Res.Canonical.ite h
    (.ite h (.ite h.tlbDrop h.tlbDrop))
theorem State.Canonical.hdlinvOp {r : Row} {n : Norm} (h : s.Canonical) : (hdlinvOp r n s).Canonical := h
theorem State.Canonical.putRecord4 {d : Nat} {v : BitVec 256} (h : s.Canonical) : (s.putRecord4 d v).Canonical := h.foldl fun _ _
    h => h.swr
theorem State.Canonical.sfpopOp {r : Row} {n : Norm} (h : s.Canonical) : (sfpopOp r n s).Canonical := by
  unfold Machine.sfpopOp
  split
  · exact h.modCurWave.putRecord4
  · exact h
theorem State.Canonical.stdrainOp {r : Row} {n : Norm} (h : s.Canonical) : (stdrainOp r n s).Canonical := by
  unfold Machine.stdrainOp
  split
  · exact Res.Canonical.ite h (.ite h h)
  · exact Res.Canonical.ite h.modCurSpindle h
  · exact h
theorem State.Canonical.evmarkOp {r : Row} {n : Norm} (h : s.Canonical) : (evmarkOp r n s).Canonical := by
  unfold Machine.evmarkOp
  extract_lets v d
  split
  · exact h.logWave
  · exact h.logSpindle
  · exact h
theorem State.Canonical.sampleOp {r : Row} {n : Norm} (h : s.Canonical) : (sampleOp r n s).Canonical := by
  unfold Machine.sampleOp
  split
  · exact h.modCurWave.putRecord4
  · exact h

end Sys2Proof.Machine
end

section
/-! ### What an instruction or an event does, and a step -/

namespace Sys2Proof.Machine

variable {s : State}

/-- Every instruction and every event keeps the memories canonical: the parts of the opcode table that share an operation go
together. -/
theorem State.Canonical.exec {i : Instr} (h : s.Canonical) : NextCanonical (exec i s) := by
  unfold Machine.exec
  cases i with
  | iadd | iaddX | isub | imul | imulX | imulhi | imulw | imad | imadX | imadhi | imadw | imin | iminX | imax | iabs | iabsX
  | ineg | and | andX | andn | or | orX | orn | xor | xorX | xnor | not | shl | shlX | rotl | shr | shrX | rotr | fshl | fshlX
  | fshr | bfx | bfxX | bfi | bfrev | popc | popcX | clz | ctz | cls | mov | movX | icvt | icvtX | prmt | prmtX | fabs | fabsX
  | fneg => exact h.runEnc fun _ _ => h.vecMap
  | iaddc | isubb => exact h.runEnc fun _ _ => h.carryMap
  | icmp | icmpX | fclass | fclassX => exact h.runEnc fun _ _ => h.vecTest
  | sel => exact h.runEnc fun _ _ => h.selMap
  | sadd | saddX | ssub | smul | smulX | smulhi | sand | sandX | sandn | sor | sorX | sxor | sxorX | snot | sshl | sshlX | srotl
  | sshr | sshrX | srotr | sbfx | sbfxX | sbfi | spopc | spopcX | sclz | sctz | smin | sminX | smax | smov | smovX | smovi
  | smoviX | scmp => exact h.runEnc fun _ _ => h.scalMap
  | ffma | ffmaX | ffms | fnma | fadd | faddX | fsub | fmul | fmulX | fmin | fminX | fmax | fminnum | fmaxnum | frnd | frndX
  | rcp | rcpX | rsqrt | sqrt | exp2 | log2 | sinpi | cospi | fcvt | fcvtX | fdot2 | fdot4 => exact h.runEnc fun _ _ => h.fvecMap
  | fcmp | fcmpX => exact h.runEnc fun _ _ => h.fvecTest
  | shfl | shflX | shflxor | shflup | shfldn => exact h.runEnc fun _ _ => h.shflOp
  | rdlane | rdlaneX => exact h.runEnc fun _ _ => h.rdlaneOp
  | wrlane => exact h.runEnc fun _ _ => h.wrlaneOp
  | redadd | redaddX | redmin | redmax | redand | redor | redxor => exact h.runEnc fun _ _ => h.reduceOp
  | scanadd | scanaddX | scanmin | scanmax | scanand | scanor | scanxor | xscanadd | xscanmin | xscanmax | xscanand | xscanor
  | xscanxor => exact h.runEnc fun _ _ => h.scanOp
  | kand | kandX | kor | kxor | kandn | knot | kmov => exact h.runEnc fun _ _ => h.maskOp
  | ktos | ktosX | kpopc | kpopcX | kffs | kfls => exact h.runEnc fun _ _ => h.maskToScalar
  | stok => exact h.runEnc fun _ _ => h.stokOp
  | ballot | ballotX => exact h.runEnc fun _ _ => h.ballotOp
  | vmatch | vmatchX => exact h.runEnc fun _ _ => h.matchOp
  | compact | expand => exact h.runEnc fun _ _ => h.packOp
  | ld | ldX => exact h.runEnc fun _ _ => h.ldOp
  | st | stX => exact h.runEnc fun _ _ => h.stOp
  | lds | ldsX => exact h.runEnc fun _ _ => h.ldsOp
  | sts | stsX => exact h.runEnc fun _ _ => h.stsOp
  | atom => exact h.runEnc fun _ _ => h.atomOp
  | acq => exact h.runEnc fun _ _ => h.acqOp
  | rel | relFresh | relAll => exact h.runEnc fun _ _ => h.relOp
  | fence => exact h.runEnc fun _ _ => h.fenceOp
  | fenceUn => exact h.runEnc fun _ _ => h.fenceUnOp
  | pref | prefX => exact h.runEnc fun _ _ => h.prefOp
  | evict => exact h.runEnc fun _ _ => h.evictOp
  | cwait | cwaitX => exact h.runEnc fun _ _ => h.cwaitOp
  | btrans => exact h.runEnc fun _ _ => h.btransOp
  | stmsk => exact h.runEnc fun _ _ => h.stmskOp
  | xld => exact h.runEnc fun _ _ => h.xldOp
  | xst => exact h.runEnc fun _ _ => h.xstOp
  | sigadd => exact h.runEnc fun _ _ => h.sigaddOp
  | ostore => exact h.runEnc fun _ _ => h.ostoreOp
  | br | brX | bany | banyX | ball | ballX | bnone | bnoneX | beq | bne | blt | ble | bgt | bge | bltu | bleu | bgtu | bgeu =>
    exact h.runEnc fun _ _ => h.branchOp
  | call | callX => exact h.runEnc fun _ _ => h.callOp
  | jmp | jmpX | ret | retX => exact h.runEnc fun _ _ => h.jmpOp
  | callind => exact h.runEnc fun _ _ => h.callindOp
  | loopnz => exact h.runEnc fun _ _ => h.loopOp
  | yield => exact h.runEnc fun _ _ => h.yieldOp
  | sleep | sleepX => exact h.runEnc fun _ _ => h.sleepOp
  | nop | nopX => exact h.runEnc fun _ _ => h.nopOp
  | trap | trapX => exact h.runEnc fun _ _ => h.trapOp
  | trapret | trapretX => exact h.runEnc fun _ _ => h.trapretOp
  | exit | exitX => exact h.runEnc fun _ _ => h.exitOp
  | bar | barX | bararr | barwait => exact h.runEnc fun _ _ => h.barOp
  | bbarr | bbwait => exact h.runEnc fun _ _ => h.bbOp
  | tlinc | tlset | tlwait => exact h.runEnc fun _ _ => h.timelineOp
  | cp | cpred => exact h.runEnc fun _ _ => h.cpOp
  | twait | twaitX => exact h.runEnc fun _ _ => h.twaitOp
  | spawn => exact h.runEnc fun _ _ => h.spawnOp
  | launch => exact h.runEnc fun _ _ => h.launchOp
  | spnrun => exact h.runEnc fun _ _ => h.spnrunOp
  | regsurrender | regsurrenderX => exact h.runEnc fun _ _ => h.regsurrenderOp
  | regclaim | regclaimX => exact h.runEnc fun _ _ => h.regclaimOp
  | remit => exact h.runEnc fun _ _ => h.remitOp
  | rcont => exact h.runEnc fun _ _ => h.rcontOp
  | rretire => exact h.runEnc fun _ _ => h.rretireOp
  | racc => exact h.runEnc fun _ _ => h.raccOp
  | epend => exact h.runEnc fun _ _ => h.ependOp
  | rcell | rdircls => exact h.runEnc fun _ _ => h.keyPartOp
  | rhit => exact h.runEnc fun _ _ => h.rhitOp
  | rinst | rxform => exact h.runEnc fun _ _ => h.instanceOp
  | oclaim => exact h.runEnc fun _ _ => h.oclaimOp
  | orel => exact h.runEnc fun _ _ => h.orelOp
  | owait => exact h.runEnc fun _ _ => h.owaitOp
  | mma | mmasp | mmag | mmagsp => exact h.runEnc fun _ _ => h.mmaOp
  | aclr => exact h.runEnc fun _ _ => h.aclrOp
  | ascale => exact h.runEnc fun _ _ => h.ascaleOp
  | adrain | adraing => exact h.runEnc fun _ _ => h.adrainOp
  | batcom => exact h.runEnc fun _ _ => h.batcomOp
  | batwait => exact h.runEnc fun _ _ => h.batwaitOp
  | rdsr | rdsrX => exact h.runEnc fun _ _ => h.rdsrOp
  | wrsr => exact h.runEnc fun _ _ => h.wrsrOp
  | tmrset => exact h.runEnc fun _ _ => h.tmrsetOp
  | tlbinv => exact h.runEnc fun _ _ => h.tlbinvOp
  | hdlinv => exact h.runEnc fun _ _ => h.hdlinvOp
  | stdrain => exact h.runEnc fun _ _ => h.stdrainOp
  | sfpop => exact h.runEnc fun _ _ => h.sfpopOp
  | evmark => exact h.runEnc fun _ _ => h.evmarkOp
  | sample => exact h.runEnc fun _ _ => h.sampleOp
  | utret => exact h.runEnc fun _ _ => h.utretOp
  | blockPlacement | taskDispatch | episodePlacement | blockResume => exact h.placeFor
  | waveExitComplete => exact h.finishWave.settleEnds
  | taskPriorityAging => exact h.ageTasks
  | regclaimGrant => exact h.grantClaim
  | userTimerTrap => exact h.userTimerTrap
  | rayLaunchActivation => exact h.rayActivation
  | remitResume | slotWriteRetry | faultTagAllocation => exact h.retryWave
  | stallAgeExpiry | stallOverdue => exact h.markStall
  | crierEmission => exact h.crierEmission
  | traversalBatchStart => exact h.batchStart
  | traceCompletion => exact h.traceCompletion
  | coldPoolReclaim => exact h.coldReclaim
  | spindleStart => exact h.spindleStart
  | matrixOpIssue | drainIssue => exact h.reissueSpindle
  | slotReadFinish => exact h.slotReadEnds
  | matrixOpComplete => exact h.matrixOpEnds
  | drainComplete => exact h.drainComplete
  | drainFault => exact h.drainFault
  | accessCompletion => exact h.accessCompletes
  | lineAgingWriteback => exact h.lineAges
  | copyStart => exact h.copyStart
  | copyEnd => exact h.copyEnd
  | copyFault => exact h.copyFault
  | sleepExpiry => exact h.sleepEnds
  | schWake | vmCtxRootWrite | vmCtxReply | vmCtxFqheadWrite | schCtxDbgStop | hifCtxmapWrite | ngxIdWrite | mgtPwrcapWrite =>
    exact h.hostReg
  | queueScan => exact h.queueScan
  | launchTake => exact h.launchTake
  | placementReservation => exact h.placementReservation
  | waveReadyAged => exact h.readyAged
  | waiterSlotGrant => exact h.grantWaiter
  | tlwaitRelease | waiterSlotPoll => exact h.pollWaiter
  | quantumExpiry => exact h.quantumExpiry
  | urgentPreemption => exact h.urgentPreemption
  | pageWalk => exact h.pageWalk
  | storeFaultTrap => exact h.storeFaultTrap
  | schCtxPreReq | schCtxPreResume | schCtxPreKill | schCtxDbgStep | evrCtlLock => exact h.hostLow
  | blockSave => exact h.blockSave
  | suspensionComplete => exact h.suspensionComplete
  | forcedSave => exact h.forcedSave
  | forcedSaveTimeout => exact h.forcedTimeout
  | powerOn => exact State.coldReset_canonical
  | watchdogExpiry => exact h.askWarmReset
  | firmwareRollback => exact h.rollback
  | portReset => exact h.portReset
  | hostLinkUp => exact h.hostLinkUp
  | functionLevelReset => exact h.flr
  | flrComplete => exact h.flrComplete
  | bar2Read => exact h.barRead
  | bar2Write => exact h.barWrite
  | hdmAccess => exact h.hdmAccess
  | pairLinkFailure => exact h.pairFails
  | remoteRequest => exact h.remoteRequest
  | ngxPortDown => exact h.portFails
  | machineCheck => exact h.machineCheckEvent
  | thermalTrip => exact h.thermalTrip
  | governorStep => exact h.governorStep
  | stage | activate | reset | poolcfg | caplist | capread | capture | capclear | logread => exact h.hostCommand
  | mailboxCompletion => exact h.mailboxDone
  | getVersion | getCapabilities | negotiateAlgorithms | getDigests | getCertificate | challenge | getMeasurements =>
    exact h.spdmRequest
  | timeSync => exact h.timeSync
  | lossRecord => exact h.lossRecord
  | freezeArrival => exact h.freezeArrival
  | freezeWindowClose => exact h.windowClose
  | pairFreezeMessage => exact h.pairFreeze
  | capsuleStored => exact h.capsuleStored
  | capsuleFlashCopy => exact h.flashCopy
  | patrolScrubRead => exact h.scrubRead
  | registerWrite => exact h.barRegWrite
  | illegalInstruction => exact holds_ite (P := NextCanonical) h.illegal trivial
  | ngxPortUp => exact h.portTrains
  | pairLinkRequest => exact h.pairRequest
  | cxlCacheSnoop => exact h.snoop

/-! #### The moves of a step -/

theorem State.Canonical.countWave {n : Nat} {w : Wave} (h : s.Canonical) : (s.countWave n w).Canonical := by
  unfold State.countWave
  split
  · exact h.bumpCtx
  · exact h
theorem State.Canonical.settleBlock (h : s.Canonical) {b : Block} : (match s.block? b.launch b.index with
    | some c => match c.phase with
      | .running => s
      | .saving _ => s.finishSave c
      | .restoring _ => s.restoreRelease c
    | none => s).Canonical := by
  split
  · split
    · exact h
    · exact h.finishSave
    · exact h.restoreRelease
  · exact h
theorem State.Canonical.sweep (h : s.Canonical) : s.sweep.Canonical :=
  (h.settleTerminations.settleEnds.foldl fun _ _ h => h.settleBlock).foldl fun _ _ h => h.resumeRays.ite h
theorem State.Canonical.advance {n : Nat} (h : s.Canonical) : (s.advance n).Canonical := by
  unfold State.advance
  extract_lets t
  have ht : t.Canonical := h.foldl fun _ _ h => h.countWave
  exact ht
theorem State.Canonical.after (h : s.Canonical) : s.after.Canonical := h.sweep.advance
theorem State.Canonical.runWords {ws : List W32} (h : s.Canonical) : NextCanonical (runWords s ws) := by
  unfold Machine.runWords
  split
  · exact h.exec
  · exact h.exec
theorem State.Canonical.runNext (h : s.Canonical) : NextCanonical (runNext s) := by
  obtain ⟨hf, ht⟩ := h.fetch
  unfold Machine.runNext
  generalize s.fetch = p at hf ht ⊢
  split
  · exact State.Canonical.runWords ht
  · exact State.Canonical.finish ht hf
theorem State.Canonical.waveTurn {w : Wave} (h : s.Canonical) : (s.waveTurn w).Canonical := h
theorem State.Canonical.spindleTurn {p : Spindle} (h : s.Canonical) : (s.spindleTurn p).Canonical := h
theorem State.Canonical.markIssue {w : Wave} (h : s.Canonical) : (s.markIssue w).Canonical := h
theorem NextCanonical.markOutcome {o : Host.Outcome State Fault Refusal} {w : Wave} (h : NextCanonical o) :
    NextCanonical (markOutcome w o) := by
  cases o with
  | next t => exact State.Canonical.markIssue h
  | fault f => trivial
  | refused r => trivial
theorem State.Canonical.issueWave {co k : Nat} (h : s.Canonical) : NextCanonical (s.issueWave co k) := by
  unfold State.issueWave
  split
  · exact h
  · extract_lets w
    split
    next t heq =>
      have ht : t.Canonical := h.boundary t heq
      exact ht
    · exact holds_ite (P := NextCanonical) h.waveTurn.runNext.markOutcome h
theorem State.Canonical.passedOver {w : Wave} (h : s.Canonical) : (s.passedOver w).Canonical := by
  unfold State.passedOver
  split
  · exact h.setWave
  · exact h
theorem State.Canonical.waveMove {co k : Nat} (h : s.Canonical) : NextCanonical (s.waveMove co k) := by
  unfold State.waveMove
  split
  · exact h
  · exact (h.ite h.passedOver).issueWave
theorem State.Canonical.issueSpindle {cl : Nat} (h : s.Canonical) : NextCanonical (s.issueSpindle cl) := by
  unfold State.issueSpindle
  split
  · exact h
  · exact holds_ite (P := NextCanonical) (h.setSpindle.ite h) (holds_ite (P := NextCanonical) h.spindleTurn.runNext h)
theorem State.Canonical.runEvent {i : Instr} (h : s.Canonical) : (s.runEvent i).Canonical := by
  have he : NextCanonical (Machine.exec i { s with cur := .none }) := State.Canonical.exec h
  unfold State.runEvent
  split
  next t heq =>
    rw [heq] at he
    exact he
  · exact h
theorem State.Canonical.evictAt (h : s.Canonical) {o : Option L1Line} : (match o with
    | some l => s.evictLine l
    | none => s).Canonical := by
  cases o with
  | some l => exact h.evictLine
  | none => exact h
theorem State.Canonical.runMove {m : Move} (h : s.Canonical) : NextCanonical (s.runMove m) := by
  cases m with
  | event => exact h.runEvent
  | wave => exact h.waveMove
  | slotWrite => exact h.issueWave
  | spindle => exact h.issueSpindle
  | tick => exact h.advance
  | evict => exact h.evictAt
  | dropTlb | dropTable | dropCode | dropDesc | dropTreelet | miss => exact h
  | group => exact h.tlbGroup
  | perform => exact h.performOne
  | peerAnswer => exact h.peerAnswer
  | copyStep => exact h.copyAdvance
  | drainStep => exact h.drainAdvance
  | reload => exact h.reload
  | eccError => exact h.memoryError
  | poolError => exact h.poolError
  | written => exact h.regActs
  | sensors => exact h.sensors
  | hostRead => exact h.hostRead
  | startFails => exact h.startFails
  | mctp => exact h.spdmRequest
theorem State.Canonical.nextEvent (h : s.Canonical) : AllCanonical id s.nextEvent := by
  intro t e
  obtain ⟨i, _, rfl⟩ := List.mem_map.1 (List.mem_of_find?_eq_some e)
  exact State.Canonical.runEvent h
theorem State.Canonical.ownMove (h : s.Canonical) : NextCanonical s.ownMove := by
  unfold State.ownMove
  extract_lets +onlyGivenNames t agent event
  have ht : t.Canonical := h
  have ha (o : Host.Outcome State Fault Refusal) (ho : NextCanonical o) : NextCanonical (agent o) := by
    dsimp -zeta only [agent]
    split
    · exact ht.runMove
    · exact ho
  have he (o : Host.Outcome State Fault Refusal) (ho : NextCanonical o) : NextCanonical (event o) := by
    dsimp -zeta only [event]
    split
    next u heq => exact ht.nextEvent u heq
    · exact ho
  clear_value agent event
  exact holds_ite (P := NextCanonical) ht.bootStep (holds_ite (P := NextCanonical) (ha _ (he _ ht)) (he _ (ha _ ht)))
theorem State.Canonical.move (h : s.Canonical) : NextCanonical s.move := by
  unfold State.move
  split
  · exact State.Canonical.runMove h
  · exact h.ownMove
theorem State.Canonical.step (h : s.Canonical) : NextCanonical (step s) := by
  have hm := h.move
  unfold Machine.step runStep
  split
  next t heq =>
    rw [heq] at hm
    exact State.Canonical.after hm
  · trivial
  · trivial

/-! #### The obligation -/

/-- Settles O55: each operation that a step is made of keeps the memories canonical. -/
theorem memoriesStayCanonical : Obligations.MemoriesStayCanonical := by
  intro s t h e
  have hn := State.Canonical.step h
  rwa [e] at hn

end Sys2Proof.Machine
end
